-- ==== Sys2Proof/Word.lean ====
section
/-! DEFINITION. The widths of the Rhaist 9840's words (R5, R9, R15, R17): register words, pairs, quads and bytes. -/

namespace Sys2Proof

/-- A register or an instruction word: 32 bits (R9, R15). -/
abbrev Word := BitVec 32

/-- A register pair, a code address or a group name: 64 bits (R17, R278, R354). -/
abbrev Dword := BitVec 64

/-- A register quad or the bits of a capability: 128 bits (R17, R86). -/
abbrev Quad := BitVec 128

/-- One byte of memory or of a hamper. -/
abbrev Byte := BitVec 8

/-- A 7-bit register field code (R15). -/
abbrev Code := BitVec 7

end Sys2Proof
end

