-- ==== Sys2Proof/Syntax.lean ====
section
/-! DEFINITION. The instructions of Jirex (R28, R30) and the events of the machine's other agents, one constructor
per row of the table of operations and events. An instruction carries its word's fields as R10 names them and its
header: the bits B and N and the prefix (R9, R12). An event carries what names its subject and what comes from outside. -/

namespace Sys2Proof

/-- The fields of a prefix word (R10 format X, R12, R13). -/
structure Pfx where
  ext : BitVec 16
  sc  : BitVec 4
  ord : BitVec 3
deriving DecidableEq, Repr

/-- What every instruction word carries beside its operands (R9): B ends the run, N suppresses write-back, and the
prefix word before it, if there is one. -/
structure Hdr where
  b   : Bool
  n   : Bool
  pfx : Option Pfx
deriving DecidableEq, Repr

/-- The trap causes of R352. -/
inductive Cause where
  | illegal | capBound | capPerm | capTag | capRevoked | indexBound | window | hamperDetached | misaligned
  | preempt | break_ | watch | fabric | poison | serviceError | extentError | gridStall
deriving DecidableEq, Repr

/-- The abort causes of R288. -/
inductive AbortCause where
  | conflict | validation | capacity | remote | explicit | illegal | fault | preempt | nest
deriving DecidableEq, Repr

/-- Who holds a thread: control core n, or the compute group the model numbers g. -/
inductive Who where
  | ctl (n : Nat)
  | grp (g : Nat)
deriving DecidableEq, Repr

/-- A message of a stream port as the transport delivers it (R381, R382). -/
structure PortMsg where
  conn    : Nat          -- the message's number, by which packets are joined
  parses  : Bool         -- it parses and uses a supported part of R381
  secure  : Option Nat   -- the secure domain it is sent under, when it carries security
  tagOk   : Bool         -- its GCM tag verifies under the key of that domain's slot
  ring    : Nat          -- its resource index
  len     : Nat          -- LEN
  mode    : Nat          -- 0 ROD, 1 RUD, 2 UUD
  payload : List Byte
  after   : Option Nat := none -- of ROD: the message before it in its connection's transport order
deriving DecidableEq, Repr

/-- One packet of a stream-port message (R381): its place among the packets of the message it belongs to. -/
structure PortPacket where
  index : Nat
  total : Nat
  msg   : PortMsg
deriving DecidableEq, Repr

/-- The units of R423. A channel's map-out while the package runs has an event of its own. -/
inductive Unit_ where
  | computeCore (n : Nat) (stateLost : Bool)
  | controlCore (n : Nat)
  | slice (n : Nat)
  | channel (n : Nat)
  | link (n : Nat)
deriving DecidableEq, Repr

/-- What the boot ROM reads of a firmware image (R424): its digest, signatures and versions, and what the image names. -/
structure FirmwareImage where
  digest      : List Byte
  keyEC       : List Byte              -- the public keys that the image is signed under, and its signatures (R421, R424)
  keyPQ       : List Byte
  sigEC       : List Byte
  sigPQ       : List Byte
  debugEC     : List Byte              -- the debug authority keys, which the image carries (R373, R421)
  debugPQ     : List Byte
  version     : Nat
  config      : List Byte
  serviceDesc : Nat                    -- physical address of the service descriptor (R134)
  serviceAsn  : BitVec 16
  serviceArgs : List (Quad × Bool)     -- the capability to each die's batch area, with its tag (R133)
  kernelEntry : Dword
  mapOut      : List Unit_             -- the map-out list that the firmware applies (R422, R424)
  partitions  : List (Nat × List Word) -- partition number and PCL0-PCL4 of the partitions it enables
  memory      : List (Nat × List Byte) -- what the firmware places in memory
  astBase     : Nat                    -- the address-space table that the firmware hands to the kernel
  astLen      : Nat
deriving DecidableEq, Repr

/-- What a numbered or unnumbered request asks of the target package (R396, R397). -/
inductive FabricOp where
  | translate
  | load (size : Nat)
  | loadCap
  | store (bytes : List Byte)
  | storeCap (bytes : List Byte) (tag : Bool)
  | atomic (code : Nat) (size : Nat) (operand : Nat) (compare : Nat)
  | copyWrite (bytes : List Byte) (poison : Bool)
  | loadTags (size : Nat)                                  -- bytes with the tag of every granule (R271, R286)
  | queueBegin                                             -- the header of an edge queue, whose line is held for a step on it (R284)
  | queueEnd (counts : List Byte)                          -- the step's end: the counts as it leaves them, or none when it changes nothing
  | watch (thread : Who)                                   -- LARM: the word, with the watch of that thread armed on its line (R299)
  | fired (thread : Who)                                   -- that watch has fired at the home slice
  | post (d n : Nat) (u : Bool) (vals : List (Nat × List Word)) (scope : Nat) (name : Dword) -- a postcard for a name homed there (R335)
  | amsg (handler : Nat) (words : List Word) (bits : Quad) (tag : Bool) (name target : Dword) -- an active message (R285)
  | resolve (name : Dword)                                 -- the target of a give, by its home core (R106, R335)
deriving DecidableEq, Repr

/-- A request that reaches this package from the package `src` (R394, R397). -/
structure FabricReq where
  src  : Nat
  num  : Option Nat
  asn  : BitVec 16
  obj  : Nat
  off  : Nat
  op   : FabricOp
  cseq : Nat                 -- CSEQ of the die that it left (R412)
deriving DecidableEq, Repr

/-- The answers a remote request can have (R394, R397, R398). -/
inductive FabricAnswer where
  | data (bytes : List Byte) (tag : Bool)
  | granules (bytes : List Byte) (tags : List Bool)
  | done
  | notResident
  | unmonitored   -- not resident, with no park monitor free: the lanes replay 4,096 clocks later (R364)
  | extentError
  | poisoned
  | unreachable
  | replayLost
  | noAsn
  | status (code : Nat)   -- of a postcard, an active message or a give (R280, R285, R335)
deriving DecidableEq, Repr

/-- A reply of another package: what it answers, and the CSEQ that it carries (R412). -/
structure Reply where
  answer : FabricAnswer
  cseq   : Nat
deriving DecidableEq, Repr

/-- What another package asks its taker to drop (R395): one page, an object or an address space (modes 0 to 2), or the revocation
lines of an address space (mode 3). -/
structure Revocation where
  mode : Nat
  asn  : BitVec 16
  obj  : Nat
  page : Nat
deriving DecidableEq, Repr

/-- An inbound PCIe memory request (R400). -/
structure PcieReq where
  port : Nat
  rid  : BitVec 16
  addr : Dword
  data : Option (List Byte)  -- the bytes of a posted write; none for a read
  size : Nat
deriving DecidableEq, Repr

/-- A thread by the triple of R154. -/
structure ThreadName where
  launch : Nat
  team   : Nat
  thread : Nat
deriving DecidableEq, Repr

/-- What RDREG and WRREG can name (R416). -/
inductive DebugReg where
  | code (c : Code)
  | pred (n : BitVec 3)
  | index (n : BitVec 2)
  | cap (n : BitVec 4)
  | csr (n : BitVec 12)
deriving DecidableEq, Repr

/-- What an eviction can drop (R231, R266, R318, R365). -/
inductive Evictee where
  | nearLine (core : Nat) (line : Nat)
  | controlLine (ctl : Nat) (line : Nat) (fromL2 : Bool)
  | extentEntry (asn : BitVec 16) (obj : Nat) (page : Nat)
  | remoteEntry (pkg : Nat) (asn : BitVec 16) (obj : Nat) (page : Nat)
deriving DecidableEq, Repr

/-- The instructions and events: one constructor per row of the table. The events that only the outside brings stand
last. -/
inductive Instr where
  | nop (h : Hdr)
  | bra (h : Hdr) (cond : BitVec 4) (ofs : BitVec 19)
  | brx (h : Hdr) (d : BitVec 7) (a : BitVec 7) (call : Bool)
  | call (h : Hdr) (cond : BitVec 4) (ofs : BitVec 19)
  | ret (h : Hdr) (a : BitVec 7)
  | loop (h : Hdr) (cond : BitVec 4) (ofs : BitVec 19)
  | bsync (h : Hdr) (ofs : BitVec 19)
  | yieldRun (h : Hdr)
  | exit (h : Hdr)
  | wbase (h : Hdr) (a : BitVec 7) (imm : BitVec 9)
  | setx (h : Hdr) (x : BitVec 2) (a : BitVec 7) (imm : BitVec 9)
  | movx (h : Hdr) (d : BitVec 7) (x : BitVec 2) (imm : BitVec 9)
  | movxw (h : Hdr) (x : BitVec 2) (a : BitVec 7) (imm : BitVec 9)
  | iadd (h : Hdr) (d : BitVec 7) (a : BitVec 7) (b : BitVec 7) (m : BitVec 2)
  | iaddc (h : Hdr) (d : BitVec 7) (a : BitVec 7) (b : BitVec 7) (m : BitVec 2)
  | isub (h : Hdr) (d : BitVec 7) (a : BitVec 7) (b : BitVec 7) (m : BitVec 2)
  | isubb (h : Hdr) (d : BitVec 7) (a : BitVec 7) (b : BitVec 7) (m : BitVec 2)
  | imul (h : Hdr) (d : BitVec 7) (a : BitVec 7) (b : BitVec 7) (m : BitVec 2)
  | imulh (h : Hdr) (d : BitVec 7) (a : BitVec 7) (b : BitVec 7) (m : BitVec 2)
  | imad (h : Hdr) (d : BitVec 7) (a : BitVec 7) (b : BitVec 7) (m : BitVec 2)
  | idiv (h : Hdr) (d : BitVec 7) (a : BitVec 7) (b : BitVec 7) (m : BitVec 2)
  | irem (h : Hdr) (d : BitVec 7) (a : BitVec 7) (b : BitVec 7) (m : BitVec 2)
  | imin (h : Hdr) (d : BitVec 7) (a : BitVec 7) (b : BitVec 7) (m : BitVec 2)
  | imax (h : Hdr) (d : BitVec 7) (a : BitVec 7) (b : BitVec 7) (m : BitVec 2)
  | iabs (h : Hdr) (d : BitVec 7) (a : BitVec 7) (m : BitVec 2)
  | ineg (h : Hdr) (d : BitVec 7) (a : BitVec 7) (m : BitVec 2)
  | and (h : Hdr) (d : BitVec 7) (a : BitVec 7) (b : BitVec 7) (wide : Bool)
  | or (h : Hdr) (d : BitVec 7) (a : BitVec 7) (b : BitVec 7) (wide : Bool)
  | xor (h : Hdr) (d : BitVec 7) (a : BitVec 7) (b : BitVec 7) (wide : Bool)
  | andn (h : Hdr) (d : BitVec 7) (a : BitVec 7) (b : BitVec 7) (wide : Bool)
  | shl (h : Hdr) (d : BitVec 7) (a : BitVec 7) (b : BitVec 7) (wide : Bool)
  | shr (h : Hdr) (d : BitVec 7) (a : BitVec 7) (b : BitVec 7) (wide : Bool)
  | sar (h : Hdr) (d : BitVec 7) (a : BitVec 7) (b : BitVec 7) (wide : Bool)
  | rol (h : Hdr) (d : BitVec 7) (a : BitVec 7) (b : BitVec 7) (wide : Bool)
  | popc (h : Hdr) (d : BitVec 7) (a : BitVec 7) (wide : Bool)
  | clz (h : Hdr) (d : BitVec 7) (a : BitVec 7) (wide : Bool)
  | brev (h : Hdr) (d : BitVec 7) (a : BitVec 7) (wide : Bool)
  | bfx (h : Hdr) (d : BitVec 7) (a : BitVec 7) (b : BitVec 7) (m : BitVec 2)
  | bfi (h : Hdr) (d : BitVec 7) (a : BitVec 7) (b : BitVec 7) (wide : Bool)
  | iaddImm (h : Hdr) (d : BitVec 7) (a : BitVec 7) (imm : BitVec 9)
  | andImm (h : Hdr) (d : BitVec 7) (a : BitVec 7) (imm : BitVec 9)
  | orImm (h : Hdr) (d : BitVec 7) (a : BitVec 7) (imm : BitVec 9)
  | xorImm (h : Hdr) (d : BitVec 7) (a : BitVec 7) (imm : BitVec 9)
  | shlRolImm (h : Hdr) (d : BitVec 7) (a : BitVec 7) (wide : Bool) (rot : Bool) (amt : BitVec 6)
  | shrSarImm (h : Hdr) (d : BitVec 7) (a : BitVec 7) (wide : Bool) (arith : Bool) (amt : BitVec 6)
  | mov (h : Hdr) (d : BitVec 7) (a : BitVec 7) (m : BitVec 2)
  | movi (h : Hdr) (d : BitVec 7) (imm : BitVec 16)
  | movh (h : Hdr) (d : BitVec 7) (imm : BitVec 16)
  | sel (h : Hdr) (d : BitVec 7) (a : BitVec 7) (b : BitVec 7) (p : BitVec 2)
  | iset (h : Hdr) (d : BitVec 7) (a : BitVec 7) (b : BitVec 7) (c : BitVec 2)
  | pset (h : Hdr) (p : BitVec 3) (a : BitVec 7) (b : BitVec 7) (c : BitVec 2)
  | pmov (h : Hdr) (d : BitVec 7) (a : BitVec 7) (b : BitVec 7) (m : BitVec 2)
  | shfl (h : Hdr) (d : BitVec 7) (a : BitVec 7) (b : BitVec 7) (m : BitVec 2)
  | vote (h : Hdr) (d : BitVec 7) (a : BitVec 7) (b : BitVec 7) (m : BitVec 2)
  | reduce (h : Hdr) (d : BitVec 7) (a : BitVec 7) (op : BitVec 3) (t : BitVec 3) (p : BitVec 2)
  | scan (h : Hdr) (d : BitVec 7) (a : BitVec 7) (op : BitVec 3) (t : BitVec 3) (excl : Bool) (p : BitVec 2)
  | matchv (h : Hdr) (d : BitVec 7) (a : BitVec 7) (wide : Bool) (all : Bool)
  | mapget (h : Hdr) (d : BitVec 7) (a : BitVec 7) (seat : Bool)
  | fadd (h : Hdr) (d : BitVec 7) (a : BitVec 7) (b : BitVec 7) (m : BitVec 2)
  | fsub (h : Hdr) (d : BitVec 7) (a : BitVec 7) (b : BitVec 7) (m : BitVec 2)
  | fmul (h : Hdr) (d : BitVec 7) (a : BitVec 7) (b : BitVec 7) (m : BitVec 2)
  | ffma (h : Hdr) (d : BitVec 7) (a : BitVec 7) (b : BitVec 7) (m : BitVec 2)
  | fmin (h : Hdr) (d : BitVec 7) (a : BitVec 7) (b : BitVec 7) (m : BitVec 2)
  | fmax (h : Hdr) (d : BitVec 7) (a : BitVec 7) (b : BitVec 7) (m : BitVec 2)
  | fdiv (h : Hdr) (d : BitVec 7) (a : BitVec 7) (b : BitVec 7) (m : BitVec 2)
  | fsqrt (h : Hdr) (d : BitVec 7) (a : BitVec 7) (m : BitVec 2)
  | frcp (h : Hdr) (d : BitVec 7) (a : BitVec 7) (m : BitVec 2)
  | frsq (h : Hdr) (d : BitVec 7) (a : BitVec 7) (m : BitVec 2)
  | fexp2 (h : Hdr) (d : BitVec 7) (a : BitVec 7) (m : BitVec 2)
  | flog2 (h : Hdr) (d : BitVec 7) (a : BitVec 7) (m : BitVec 2)
  | fsin (h : Hdr) (d : BitVec 7) (a : BitVec 7) (m : BitVec 2)
  | fcos (h : Hdr) (d : BitVec 7) (a : BitVec 7) (m : BitVec 2)
  | fset (h : Hdr) (d : BitVec 7) (a : BitVec 7) (b : BitVec 7) (m : BitVec 2)
  | fclass (h : Hdr) (d : BitVec 7) (a : BitVec 7) (m : BitVec 2)
  | fcvt (h : Hdr) (d : BitVec 7) (a : BitVec 7) (kd : BitVec 3) (ks : BitVec 3)
  | icvt (h : Hdr) (d : BitVec 7) (a : BitVec 7) (fk : BitVec 3) (it : BitVec 3) (toFloat : Bool)
  | pack (h : Hdr) (d : BitVec 7) (a : BitVec 7) (hi : Bool) (f : BitVec 3) (m : BitVec 2)
  | unpack (h : Hdr) (d : BitVec 7) (a : BitVec 7) (hi : Bool) (f : BitVec 3) (m : BitVec 2)
  | flclr (h : Hdr) (a : BitVec 7)
  | fmtw (h : Hdr) (f : BitVec 3) (a : BitVec 7)
  | fmtr (h : Hdr) (d : BitVec 7) (f : BitVec 3)
  | scacc (h : Hdr) (t : BitVec 3) (a : BitVec 7) (b : BitVec 7) (m : BitVec 2)
  | ldw (h : Hdr) (hm : BitVec 4) (a : BitVec 7) (f : BitVec 3) (m : BitVec 2)
  | swapw (h : Hdr)
  | mma (h : Hdr) (t : BitVec 3) (hm : BitVec 4) (b : BitVec 7) (m : BitVec 2)
  | mmq (h : Hdr) (t : BitVec 3) (hm : BitVec 4) (b : BitVec 7) (m : BitVec 2)
  | tzero (h : Hdr) (t : BitVec 3)
  | trd (h : Hdr) (t : BitVec 3) (col : Bool) (i : BitVec 4) (v : BitVec 7) (u : BitVec 8)
  | twr (h : Hdr) (t : BitVec 3) (col : Bool) (i : BitVec 4) (v : BitVec 7) (u : BitVec 8)
  | tld (h : Hdr) (t : BitVec 3) (col : Bool) (i : BitVec 4) (hm : BitVec 4) (u : BitVec 8)
  | tst (h : Hdr) (t : BitVec 3) (col : Bool) (i : BitVec 4) (hm : BitVec 4) (u : BitVec 8)
  | tscl (h : Hdr) (t : BitVec 3) (col : Bool) (i : BitVec 4) (v : BitVec 7) (u : BitVec 6)
  | ld (h : Hdr) (d : BitVec 7) (cap : BitVec 4) (off : BitVec 7) (imm : BitVec 5)
  | st (h : Hdr) (d : BitVec 7) (cap : BitVec 4) (off : BitVec 7) (imm : BitVec 5)
  | ldu (h : Hdr) (d : BitVec 7) (cap : BitVec 4) (off : BitVec 7) (imm : BitVec 5)
  | ldc (h : Hdr) (d : BitVec 7) (cap : BitVec 4) (off : BitVec 7) (imm : BitVec 5)
  | stc (h : Hdr) (d : BitVec 7) (cap : BitVec 4) (off : BitVec 7) (imm : BitVec 5)
  | atom (h : Hdr) (d : BitVec 7) (cap : BitVec 4) (off : BitVec 7) (imm : BitVec 5)
  | atomr (h : Hdr) (d : BitVec 7) (cap : BitVec 4) (off : BitVec 7) (imm : BitVec 5)
  | capset (h : Hdr) (p : BitVec 4) (q : BitVec 4) (k : BitVec 4) (g : BitVec 7)
  | capperm (h : Hdr) (p : BitVec 4) (q : BitVec 4) (k : BitVec 2) (g : BitVec 7)
  | capadd (h : Hdr) (p : BitVec 4) (q : BitVec 4) (k : BitVec 4) (g : BitVec 7)
  | capget (h : Hdr) (p : BitVec 4) (q : BitVec 4) (quad : Bool) (g : BitVec 7)
  | capchk (h : Hdr) (q : BitVec 4) (quad : Bool) (g : BitVec 7)
  | fence (h : Hdr)
  | pfetch (h : Hdr) (q : BitVec 4) (quad : Bool) (slice : Bool) (g : BitVec 7)
  | cwb (h : Hdr) (q : BitVec 4) (quad : Bool) (mem : Bool) (g : BitVec 7)
  | cinv (h : Hdr) (q : BitVec 4) (quad : Bool) (g : BitVec 7)
  | hget (h : Hdr) (d : BitVec 7) (hm : BitVec 4) (off : BitVec 7) (imm : BitVec 5)
  | hput (h : Hdr) (d : BitVec 7) (hm : BitVec 4) (off : BitVec 7) (imm : BitVec 5)
  | copy (h : Hdr) (p : BitVec 4) (q : BitVec 4) (k : BitVec 4) (g : BitVec 7)
  | copy2 (h : Hdr) (p : BitVec 4) (q : BitVec 4) (k : BitVec 4) (g : BitVec 7)
  | copyc (h : Hdr) (test : Bool) (k : BitVec 4) (g : BitVec 7)
  | hgive (h : Hdr) (p : BitVec 4) (q : BitVec 4) (k : BitVec 4) (g : BitVec 7)
  | hmapr (h : Hdr) (p : BitVec 4) (q : BitVec 4) (cap : Bool) (g : BitVec 7)
  | kinit (h : Hdr) (p : BitVec 4) (k : BitVec 4) (g : BitVec 7)
  | kadd (h : Hdr) (p : BitVec 4) (k : BitVec 4) (g : BitVec 7)
  | kwait (h : Hdr) (p : BitVec 4) (k : BitVec 4) (g : BitVec 7)
  | spawn (h : Hdr) (p : BitVec 4) (k : BitVec 4)
  | join (h : Hdr) (p : BitVec 4) (g : BitVec 7)
  | bar (h : Hdr) (arr : Bool) (g : BitVec 7)
  | barcfg (h : Hdr) (k : BitVec 4) (g : BitVec 7)
  | regroup (h : Hdr) (g : BitVec 7)
  | post (h : Hdr) (p : BitVec 4) (q : BitVec 4) (k : BitVec 4) (g : BitVec 7)
  | hold (h : Hdr) (clr : Bool) (g : BitVec 7)
  | name (h : Hdr) (grp : Bool) (k : BitVec 4) (g : BitVec 7)
  | eqpush (h : Hdr) (p : BitVec 4) (g : BitVec 7)
  | eqpop (h : Hdr) (p : BitVec 4) (noWait : Bool) (g : BitVec 7)
  | amsg (h : Hdr) (p : BitVec 4) (q : BitVec 4) (k : BitVec 4) (g : BitVec 7)
  | svc (h : Hdr) (n : BitVec 8) (k : BitVec 4) (g : BitVec 7)
  | tbegin (h : Hdr) (g : BitVec 7)
  | tend (h : Hdr)
  | tabort (h : Hdr) (c : BitVec 8)
  | tstat (h : Hdr) (g : BitVec 7)
  | trap (h : Hdr) (c : BitVec 8)
  | tret (h : Hdr) (next : Bool)
  | pdone (h : Hdr)
  | csrr (h : Hdr) (csr : BitVec 12) (g : BitVec 7)
  | csrw (h : Hdr) (csr : BitVec 12) (g : BitVec 7)
  | larm (h : Hdr) (p : BitVec 4) (k : BitVec 4) (g : BitVec 7)
  | lwait (h : Hdr) (k : BitVec 4) (g : BitVec 7)
  | eret (h : Hdr)
  | wfi (h : Hdr)
  | extinv (h : Hdr) (p : BitVec 4) (g : BitVec 7)
  | ifence (h : Hdr)
  | dbrk (h : Hdr) (c : BitVec 8)
  | cyc (h : Hdr) (g : BitVec 7)
  | runLimit (g : Who)
  | steepExpiry (g : Nat)
  | steepWrite (g : Nat) (v : Word)
  | barrierPhase (team : Nat) (n : Nat)
  | regroupMeeting (team : Nat)
  | kettleStep (cluster : Nat) (hamper : Nat) (off : Nat)
  | copyWrite (core : Nat) (slot : Nat) (off : Nat) (len : Nat)
  | copyComplete (core : Nat) (slot : Nat)
  | hgiveComplete (g : Nat)
  | matrixPerform (core : Nat)
  | shArrival (core : Nat)
  | sliceRead (req : Nat)
  | sliceWrite (req : Nat)
  | atomicPerform (req : Nat)
  | invalidation (agent : Nat) (line : Nat)
  | invalidationAck (agent : Nat) (line : Nat)
  | recall (agent : Nat) (line : Nat)
  | evictionNotice (agent : Nat) (line : Nat)
  | writeBack (agent : Nat) (line : Nat)
  | nodeCopyInvalidate (line : Nat)
  | memoryReply (req : Nat)
  | rehomeAnswer (req : Nat)
  | sliceMapChange (slice : Nat)
  | injectorAck (injector : Nat)
  | stubRetire
  | extentWalk (asn : BitVec 16) (obj : Nat) (page : Nat) (src : Nat)
  | parkRetry (g : Who)
  | counterThreshold (asn : BitVec 16) (obj : Nat) (page : Nat)
  | noticeWrite
  | lwaitTimeout (g : Who)
  | joinRecheck (g : Who)
  | eqRecheck (g : Who)
  | spawnQueueRoom (g : Who)
  | streamPrefetch (core : Nat) (line : Nat)
  | teamRetire (team : Nat)
  | schedule (part : Nat)
  | holdoffExpiry (part : Nat)
  | preemptTeam (part : Nat)
  | preemptGrid (part : Nat)
  | holdGrid (part : Nat)
  | releaseGrid (part : Nat)
  | preemptTrap (g : Nat)
  | preemptDeadline (part : Nat)
  | teamSave (team : Nat)
  | partitionSwap (part : Nat)
  | swapExchange (part : Nat)
  | stallWatch (grid : Nat)
  | partitionClustersWrite (w : Nat) (v : Word)
  | partenWrite (v : Word)
  | interruptTake (n : Nat)
  | ivclaim (n : Nat)
  | caddyTicket
  | revalidationTimer (g : Nat) (seat : Nat)
  | cosyLockGrant
  | postcardRoute (msg : Nat)
  | postcardDeliver (msg : Nat)
  | statusLand (msg : Nat)
  | amsgArrival (msg : Nat)
  | svcBatch (batch : Nat)
  | svcReply (batch : Nat) (replies : List Quad)
  | alloc (batch : Nat) (lane : Nat)
  | free (batch : Nat) (lane : Nat)
  | sread (batch : Nat) (lane : Nat) (blocks : List Byte) (ok : Bool)
  | swrite (batch : Nat) (lane : Nat) (ok : Bool)
  | sflush (batch : Nat) (lane : Nat) (ok : Bool)
  | extinvComplete
  | takerInvalidate (pkg : Nat) (what : Revocation)
  | xdrain
  | xdrainDone
  | rvsync (asn : BitVec 16)
  | rvsyncDone
  | messageArrival (port : Nat) (msg : PortMsg)
  | frameFcsDiscard (port : Nat)
  | uudTimeout (port : Nat) (conn : Nat)
  | txEntryServe (ring : Nat)
  | txRingRecheck (ring : Nat)
  | penWrite (v : Word)
  | nodecfgWrite (v : Word)
  | remoteReply (req : Nat) (answer : Reply)
  | fabricResend (req : Nat)
  | pcieHoldTimeout (req : Nat)
  | msixMessage (data : Word)
  | requesterEntryWrite (v : Word)
  | pcieMemRead (port : Nat)
  | pcieMemWrite (port : Nat)
  | pcieCfgRead (port : Nat)
  | pcieOutboundComplete (res : BitVec 3) (data : Word)
  | challenge
  | unlock
  | attest
  | keymem
  | keyport
  | keyzero
  | measure
  | illegalEncoding
  | instructionFetchFault (cause : Cause) (value : Dword)
  | getVersion
  | getCapabilities
  | negotiateAlgorithms
  | getDigests
  | getCertificate
  | spdmChallenge
  | getMeasurements (block : Nat)
  | keyExchange
  | finish (session : Nat)
  | endSession (session : Nat)
  | arm (part : Nat) (addr : Dword) (launch : Nat) (team : Option Nat) (thread : Option Nat)
  | disarm (part : Nat) (addr : Dword) (launch : Nat) (team : Option Nat) (thread : Option Nat)
  | halt (t : ThreadName)
  | rdreg (t : ThreadName) (r : DebugReg)
  | wrreg (t : ThreadName) (r : DebugReg) (v : Quad)
  | rdmem (addr : Nat)
  | resume (t : ThreadName)
  | mapOut (u : Unit_)
  | channelMapOut (ch : Nat)
  | thermalThrottle
  | criticalTemperature
  | packageReset (image : FirmwareImage)
  | lifecycleMove (target : BitVec 2) (token : List Byte)
  | cacheEviction (what : Evictee)
  | watchFireNoWrite (g : Who)
  | streamPacketArrival (port : Nat) (pkt : PortPacket)
  | txDeliveryOutcome (ring : Nat) (entry : Nat) (delivered : Bool)
  | groupMigration (g : Nat) (core : Nat) (slot : Nat) (seat : Nat)
  | partitionReset (part : Nat)
  | imageRecovery (image : FirmwareImage)
  | throttleEnd
  | powerLimitSet (cap : Nat) (limit : Nat)
  | pcieCfgWrite (port : Nat) (addr : Dword) (data : Word)
  | linkFlitResend (link : Nat)
  | remoteRequest (req : FabricReq)
  | pcieInbound (req : PcieReq)
deriving DecidableEq, Repr

end Sys2Proof
end

