-- ==== Sys2Proof/WellFormed.lean ====
section
/-! DEFINITION. The checks of R32 that a word's own bits decide: operand codes and their widths (R15-R18, R24), prefix
fields (R12-R14), scope, ordering, rounding and size codes (R14, R25-R27) and the limits of each encoding table (R47,
R83, R84, R176, R194, R203, R267). What depends on the machine's state (the solo profile, privilege, CSR access, the
windows) is checked by the meanings. -/

namespace Sys2Proof

/-- Why R32 turns an instruction away. -/
inductive IllFormed where
  | dest        -- a destination code barred by R16, R17, R24 or the entry
  | source      -- a source code that R17 or the entry bars at its width
  | modifier    -- an M value or selector the entry does not define
  | pfxField    -- a prefix field that R13 or R14 leaves undefined for the word
  | size        -- a size code or atomic operation that R14 or R98 rejects
  | order       -- an ordering or scope code that R25 or R26 rejects
  | rounding    -- a rounding code that R27 rejects
  | reserved    -- a field the entry leaves unused is not zero
  | condition   -- COND 15
  | amount      -- a shift amount beyond the width
  | offset      -- a LOOP with a positive offset
  | noResult    -- N on an instruction without a register result
deriving DecidableEq, Repr

namespace Hdr

def ext (h : Hdr) : Nat := match h.pfx with | none => 0 | some p => p.ext.toNat
def sc (h : Hdr) : Nat := match h.pfx with | none => 0 | some p => p.sc.toNat
def ord (h : Hdr) : Nat := match h.pfx with | none => 0 | some p => p.ord.toNat
/-- The size code of a MEM word (R14). -/
def size (h : Hdr) : Nat := h.ext / 8192
/-- L of a MEM word: the capability is a lane quad (R14). -/
def laneCap (h : Hdr) : Bool := h.ext / 4096 % 2 == 1
/-- The atomic operation of ATOM and ATOMR (R14). -/
def aop (h : Hdr) : Nat := h.ext / 256 % 16
/-- Bits [13:7] of the prefix: the third source code (R13). -/
def third (h : Hdr) : Nat := h.ext % 128
/-- The third source's code: D without SC, the prefix's code with SC = 1 (R46). -/
def thirdCode (h : Hdr) (d : Code) : Code := if h.sc = 1 then BitVec.ofNat 7 h.third else d

/-- Bytes of the instruction (R12). -/
def len (h : Hdr) : Nat := if h.pfx.isSome then 8 else 4

end Hdr

/-- The operand widths of R17. -/
inductive Width where
  | w32 | w64 | w128
deriving DecidableEq, Repr

def wide (b : Bool) : Width := if b then .w64 else .w32

/-- Bytes of a size code of R14; code 0 is the opcode's default. -/
def sizeBytes (dflt code : Nat) : Nat :=
  match code with
  | 0 => dflt | 1 => 1 | 2 => 2 | 3 => 4 | 4 => 8 | 5 => 16 | 6 => 1 | _ => 2

def widthOfBytes (n : Nat) : Width := if n ≤ 4 then .w32 else if n = 8 then .w64 else .w128

/-- A code that R16 and R17 admit as a destination at a width. -/
def okDst (c : Code) (w : Width) : Bool :=
  c.toNat == 112 || (c.toNat < 112 &&
    match w with | .w32 => true | .w64 => c.toNat % 2 == 0 | .w128 => c.toNat % 4 == 0)

/-- A code that R17 admits as a source at a width. -/
def okSrc (c : Code) (w : Width) : Bool :=
  match w with
  | .w32 => true
  | .w64 => c.toNat == 112 || c.toNat == 119 || c.toNat ≥ 120 || (c.toNat < 112 && c.toNat % 2 == 0)
  | .w128 => c.toNat == 112 || c.toNat == 119 || (c.toNat < 112 && c.toNat % 4 == 0)

/-- The codes R15 marks uniform. -/
def uniform (c : Code) : Bool :=
  (96 ≤ c.toNat && c.toNat ≤ 112) || c.toNat == 115 || c.toNat == 116 || c.toNat == 118 || c.toNat == 119

/-- s0 to s15. -/
def isS (c : Code) : Bool := 96 ≤ c.toNat && c.toNat < 112
/-- An even code of s0 to s15: a uniform pair. -/
def isSPair (c : Code) : Bool := isS c && c.toNat % 2 == 0
/-- v0 to v95. -/
def isV (c : Code) : Bool := c.toNat < 96
/-- A destination of a load: v0 to v95 or zero (R83). -/
def loadDst (c : Code) (w : Width) : Bool := okDst c w && (isV c || c.toNat == 112)

/-- An all-zero prefix or none (R12). -/
def zeroPfx (h : Hdr) : Bool := h.ext == 0 && h.sc == 0 && h.ord == 0
/-- SC and ORD are zero: BR, MOVI, TILE and the RI words that R13 extends. -/
def extOnly (h : Hdr) : Bool := h.sc == 0 && h.ord == 0
/-- The EXT16 and SC of an RRR word without a third source (R13). -/
def noThird (h : Hdr) : Bool := h.ext == 0 && h.sc == 0
/-- The EXT16 and SC of an RRR word with a third source (R13, R46). -/
def okThird (h : Hdr) : Bool := h.ext < 128 && (h.sc == 1 || (h.sc == 0 && h.ext == 0))
/-- R27's codes. -/
def okRound (h : Hdr) : Bool := h.ord ≤ 5
/-- A scope code of R25 beside an ordering code: weak takes scope 0. -/
def okScope (h : Hdr) : Bool := h.sc ≤ 9 && (h.ord != 0 || h.sc == 0)

abbrev Check := IllFormed × Bool

/-- N needs a register result (R21). -/
def noN (h : Hdr) : Check := (.noResult, !h.n)

/-- The integer RRR skeleton: D, A and B at the type's width (R44, R47). -/
def int3 (h : Hdr) (d a b : Code) (m : BitVec 2) (sat : Bool) : List Check :=
  let w := wide (m.getLsbD 1)
  [(.dest, okDst d w), (.source, okSrc a w && okSrc b w), (.pfxField, noThird h && h.ord ≤ (if sat then 1 else 0))]

def int2 (h : Hdr) (d a : Code) (m : BitVec 2) : List Check :=
  let w := wide (m.getLsbD 1)
  [(.dest, okDst d w), (.source, okSrc a w), (.pfxField, noThird h && h.ord ≤ 1)]

def logic3 (h : Hdr) (d a b : Code) (w : Bool) : List Check :=
  [(.dest, okDst d (wide w)), (.source, okSrc a (wide w) && okSrc b (wide w)), (.pfxField, zeroPfx h)]

/-- Shifts read B as 32 bits (R44). -/
def shift3 (h : Hdr) (d a : Code) (w : Bool) : List Check :=
  [(.dest, okDst d (wide w)), (.source, okSrc a (wide w)), (.pfxField, zeroPfx h)]

/-- A word of 32-bit codes with no prefix field: D is the only operand that can be barred. -/
def plain (h : Hdr) (d : Code) : List Check := [(.dest, okDst d .w32), (.pfxField, zeroPfx h)]

/-- The width of a floating-point type code (R175). -/
def fpWidth (m : BitVec 2) : Width := wide (m == 1#2)

def fp3 (h : Hdr) (d a b : Code) (m : BitVec 2) : List Check :=
  [(.dest, okDst d (fpWidth m)), (.source, okSrc a (fpWidth m) && okSrc b (fpWidth m)), (.pfxField, noThird h)]

def fp2 (h : Hdr) (d a : Code) (m : BitVec 2) : List Check :=
  [(.dest, okDst d (fpWidth m)), (.source, okSrc a (fpWidth m)), (.pfxField, noThird h)]

/-- R179's approximations take no .f64 and no rounding code. -/
def approx2 (h : Hdr) (d a : Code) (m : BitVec 2) : List Check :=
  fp2 h d a m ++ [(.modifier, m != 1#2), (.rounding, h.ord == 0)]

/-- The width of a float kind of R183. -/
def kindWidth (k : BitVec 3) : Width := wide (k == 1#3 || k == 4#3)
/-- The width of an integer type of R184. -/
def intTypeWidth (t : BitVec 3) : Width := wide (t == 2#3 || t == 3#3)
/-- The legal pairings of R75. -/
def okReduce (op t : BitVec 3) : Bool := (op.toNat ≤ 2 && t.toNat ≤ 5) || (3 ≤ op.toNat && op.toNat ≤ 5 && 6 ≤ t.toNat)
/-- The width of a type of R75. -/
def reduceWidth (t : BitVec 3) : Width := wide (t == 2#3 || t == 3#3 || t == 5#3 || t == 7#3)

def orderOneOf (h : Hdr) (l : List Nat) : Check := (.order, l.contains h.ord && okScope h)

/-- A vector code of a tile share (R204). -/
def okShare (v : Code) (e : Nat) : Bool :=
  match e with
  | 0 => v.toNat % 4 == 0 && v.toNat ≤ 92
  | 1 => v.toNat % 2 == 0 && v.toNat ≤ 94
  | _ => v.toNat % 8 == 0 && v.toNat ≤ 88

/-- The prefix of a MEM word that is no atomic needs nothing more of EXT16 than its size code and L (R14). -/
def memSize (h : Hdr) (l : List Nat) : Check := (.size, l.contains h.size)

/-- A SYS word's prefix carries nothing unless the entry assigns it (R84, R267). -/
def sysZero (h : Hdr) : Check := (.pfxField, zeroPfx h)

def sysPlain (h : Hdr) : List Check := [noN h, sysZero h]

/-- BRA, CALL and LOOP: COND 15 is illegal (R29). -/
def branch (h : Hdr) (cond : BitVec 4) : List Check := [(.condition, cond != 15#4), (.pfxField, extOnly h)]

/-- The signed word offset of a BR word (R11, R13). -/
def brOffset (h : Hdr) (ofs : BitVec 19) : Int :=
  match h.pfx with
  | none => ofs.toInt
  | some p => (p.ext ++ ofs).toInt

/-- The immediate of an RI word (R11, R13). -/
def riImm (h : Hdr) (imm : BitVec 9) : Int :=
  match h.pfx with
  | none => imm.toInt
  | some p => (p.ext ++ imm).toInt

/-- The first source and the number of sources of POST lie in one register file and the target fits (R280). -/
def okPost (q : BitVec 4) (g : Code) (d : Nat) : Bool :=
  let n := q.toNat % 4 + 1
  let u := 8 ≤ q.toNat
  (g.toNat + n ≤ 96 || (96 ≤ g.toNat && g.toNat + n ≤ 112)) &&
  (if u then 96 ≤ g.toNat && d + n ≤ 16 else d + n ≤ 1024)

/-- Every static check of an instruction, each with the name it is refused by. Events have no encoding. -/
def checks : Instr → List Check
  | .nop h => [noN h, (.pfxField, zeroPfx h)]
  | .bra h c _ => noN h :: branch h c
  | .brx h d a call =>
    [(.dest, if call then isV d && d.toNat % 2 == 0 else d == 0#7), (.source, okSrc a .w64), (.pfxField, zeroPfx h),
     (.noResult, call || !h.n)]
  | .call h c _ => branch h c
  | .ret h a => [noN h, (.source, okSrc a .w64), (.pfxField, zeroPfx h)]
  | .loop h c o => noN h :: (.offset, brOffset h o ≤ 0) :: branch h c
  | .bsync h _ => [noN h, (.pfxField, extOnly h)]
  | .yieldRun h => [noN h, (.pfxField, zeroPfx h)]
  | .exit h => [noN h, (.pfxField, zeroPfx h)]
  | .wbase h a _ => [noN h, (.source, 96 ≤ a.toNat && a.toNat ≤ 112), (.pfxField, extOnly h)]
  | .setx h _ _ _ => [noN h, (.pfxField, extOnly h)]
  | .movx h d _ _ => [(.dest, okDst d .w32), (.pfxField, extOnly h)]
  | .movxw h _ _ _ => [(.pfxField, extOnly h)]
  | .iadd h d a b m => int3 h d a b m true
  | .iaddc h d a b m => int3 h d a b m false
  | .isub h d a b m => int3 h d a b m true
  | .isubb h d a b m => int3 h d a b m false
  | .imul h d a b m => int3 h d a b m true
  | .imulh h d a b m => int3 h d a b m false
  | .imad h d a b m =>
    let w := wide (m.getLsbD 1)
    [(.dest, okDst d w), (.source, okSrc a w && okSrc b w && okSrc (h.thirdCode d) w), (.pfxField, okThird h && h.ord ≤ 1)]
  | .idiv h d a b m => int3 h d a b m false
  | .irem h d a b m => int3 h d a b m false
  | .imin h d a b m => int3 h d a b m false
  | .imax h d a b m => int3 h d a b m false
  | .iabs h d a m => int2 h d a m
  | .ineg h d a m => int2 h d a m
  | .and h d a b w => logic3 h d a b w
  | .or h d a b w => logic3 h d a b w
  | .xor h d a b w => logic3 h d a b w
  | .andn h d a b w => logic3 h d a b w
  | .shl h d a _ w => shift3 h d a w
  | .shr h d a _ w => shift3 h d a w
  | .sar h d a _ w => shift3 h d a w
  | .rol h d a _ w => shift3 h d a w
  | .popc h d a w => [(.dest, okDst d .w32), (.source, okSrc a (wide w)), (.pfxField, zeroPfx h)]
  | .clz h d a w => [(.dest, okDst d .w32), (.source, okSrc a (wide w)), (.pfxField, zeroPfx h)]
  | .brev h d a w => shift3 h d a w
  | .bfx h d a _ m => shift3 h d a (m.getLsbD 1)
  | .bfi h d a _ w =>
    [(.dest, okDst d (wide w)), (.source, okSrc a (wide w) && okSrc (h.thirdCode d) (wide w)),
     (.pfxField, okThird h && h.ord == 0)]
  | .iaddImm h d _ _ => [(.dest, okDst d .w32), (.pfxField, h.sc == 0 && h.ord ≤ 1)]
  | .andImm h d _ _ => [(.dest, okDst d .w32), (.pfxField, extOnly h)]
  | .orImm h d _ _ => [(.dest, okDst d .w32), (.pfxField, extOnly h)]
  | .xorImm h d _ _ => [(.dest, okDst d .w32), (.pfxField, extOnly h)]
  | .shlRolImm h d a w _ amt => (.amount, w || amt.toNat < 32) :: shift3 h d a w
  | .shrSarImm h d a w _ amt => (.amount, w || amt.toNat < 32) :: shift3 h d a w
  | .mov h d a m =>
    let w := if m == 3#2 then .w128 else wide (m == 2#2)
    [(.modifier, m != 1#2), (.dest, okDst d w), (.source, okSrc a w), (.pfxField, zeroPfx h)]
  | .movi h d _ => [(.dest, okDst d .w32), (.pfxField, extOnly h)]
  | .movh h d _ => plain h d
  | .sel h d _ _ _ => plain h d
  | .iset h d _ _ _ => plain h d
  | .pset h p _ _ _ => [noN h, (.dest, p != 7#3), (.pfxField, zeroPfx h)]
  | .pmov h d a b m =>
    match m.toNat with
    | 0 => [(.dest, okDst d .w32), (.reserved, a == 0#7 && b == 0#7), (.pfxField, zeroPfx h)]
    | 1 => [noN h, (.reserved, d == 0#7 && b == 0#7), (.pfxField, zeroPfx h)]
    | _ => [noN h, (.dest, d.toNat ≤ 6), (.source, a.toNat ≤ 7 && b.toNat ≤ 7), (.pfxField, zeroPfx h)]
  | .shfl h d _ _ _ => plain h d
  | .vote h d _ _ _ => plain h d
  | .reduce h d a op t _ =>
    [(.modifier, okReduce op t), (.dest, okDst d (reduceWidth t)), (.source, okSrc a (reduceWidth t)), (.pfxField, zeroPfx h)]
  | .scan h d a op t _ _ =>
    [(.modifier, okReduce op t), (.dest, okDst d (reduceWidth t)), (.source, okSrc a (reduceWidth t)), (.pfxField, zeroPfx h)]
  | .matchv h d a w _ => [(.dest, okDst d .w32), (.source, okSrc a (wide w)), (.pfxField, zeroPfx h)]
  | .mapget h d _ _ => plain h d
  | .fadd h d a b m => (.rounding, okRound h) :: fp3 h d a b m
  | .fsub h d a b m => (.rounding, okRound h) :: fp3 h d a b m
  | .fmul h d a b m => (.rounding, okRound h) :: fp3 h d a b m
  | .ffma h d a b m =>
    let w := fpWidth m
    [(.rounding, okRound h), (.dest, okDst d w), (.source, okSrc a w && okSrc b w && okSrc (h.thirdCode d) w),
     (.pfxField, okThird h)]
  | .fmin h d a b m => (.rounding, h.ord == 0) :: fp3 h d a b m
  | .fmax h d a b m => (.rounding, h.ord == 0) :: fp3 h d a b m
  | .fdiv h d a b m => (.rounding, okRound h) :: fp3 h d a b m
  | .fsqrt h d a m => (.rounding, okRound h) :: fp2 h d a m
  | .frcp h d a m => approx2 h d a m
  | .frsq h d a m => approx2 h d a m
  | .fexp2 h d a m => approx2 h d a m
  | .flog2 h d a m => approx2 h d a m
  | .fsin h d a m => approx2 h d a m
  | .fcos h d a m => approx2 h d a m
  | .fset h d a b m =>
    [(.rounding, h.ord == 0), (.dest, okDst d .w32), (.source, okSrc a (fpWidth m) && okSrc b (fpWidth m)), (.pfxField, noThird h)]
  | .fclass h d a m => [(.rounding, h.ord == 0), (.dest, okDst d .w32), (.source, okSrc a (fpWidth m)), (.pfxField, noThird h)]
  | .fcvt h d a kd ks =>
    [(.modifier, kd.toNat ≤ 5 && ks.toNat ≤ 5 && kd != ks), (.rounding, okRound h), (.dest, okDst d (kindWidth kd)),
     (.source, okSrc a (kindWidth ks)), (.pfxField, noThird h)]
  | .icvt h d a fk it toF =>
    let wf := kindWidth fk; let wi := intTypeWidth it
    [(.modifier, fk.toNat ≤ 3), (.rounding, okRound h), (.dest, okDst d (if toF then wf else wi)),
     (.source, okSrc a (if toF then wi else wf)), (.pfxField, noThird h)]
  | .pack h d a hi f m =>
    [(.modifier, m != 3#2), (.reserved, (m == 1#2 || !hi) && (m != 2#2 || f == 0#3)), (.rounding, okRound h),
     (.dest, okDst d .w32), (.source, okSrc a .w128), (.pfxField, noThird h)]
  | .unpack h d _ hi f m =>
    [(.modifier, m != 3#2), (.reserved, (m == 1#2 || !hi) && (m != 2#2 || f == 0#3)), (.rounding, okRound h),
     (.dest, okDst d .w128), (.pfxField, noThird h)]
  | .flclr h _ => [noN h, (.rounding, h.ord == 0), (.pfxField, noThird h)]
  | .fmtw h _ _ => [noN h, (.rounding, h.ord == 0), (.pfxField, noThird h)]
  | .fmtr h d _ => [(.rounding, h.ord == 0), (.dest, okDst d .w32), (.pfxField, noThird h)]
  | .scacc h _ a b m =>
    [noN h, (.rounding, okRound h), (.pfxField, noThird h),
     (.source, m != 0#2 || okSrc a .w128),
     (.reserved, if m == 0#2 || m == 2#2 then b == 0#7 else b.toNat < 16)]
  | .ldw h _ _ f m => [noN h, (.reserved, m.toNat < 2 || f == 0#3), (.pfxField, zeroPfx h)]
  | .swapw h => [noN h, (.pfxField, noThird h && h.ord ≤ 1)]
  | .mma h _ _ b _ => [noN h, (.source, isSPair b), (.pfxField, noThird h && h.ord ≤ 3)]
  | .mmq h _ _ b _ =>
    [noN h, (.source, isSPair b && h.third % 4 == 0 && h.third ≤ 92), (.pfxField, h.ext < 128 && h.sc == 1 && h.ord ≤ 3)]
  | .tzero h _ => [noN h, (.pfxField, zeroPfx h)]
  | .trd h _ _ _ v u => [(.dest, okShare v (u.toNat / 64)), (.pfxField, zeroPfx h)]
  | .twr h _ _ _ v u => [noN h, (.source, okShare v (u.toNat / 64)), (.pfxField, zeroPfx h)]
  | .tld h _ _ i _ _ => [noN h, (.source, i.toNat % 2 == 0), (.pfxField, extOnly h)]
  | .tst h _ _ i _ _ => [noN h, (.source, i.toNat % 2 == 0), (.pfxField, extOnly h)]
  | .tscl h _ _ _ v _ => [noN h, (.source, okShare v 0), (.pfxField, zeroPfx h)]
  | .ld h d _ _ _ => [(.dest, loadDst d (widthOfBytes (sizeBytes 4 h.size))), orderOneOf h [0, 1, 2]]
  | .st h d _ _ _ =>
    [noN h, memSize h [0, 1, 2, 3, 4, 5], (.source, okSrc d (widthOfBytes (sizeBytes 4 h.size))), orderOneOf h [0, 1, 3]]
  | .ldu h d _ off _ =>
    [(.dest, okDst d (widthOfBytes (sizeBytes 4 h.size))), (.source, uniform off), (.pfxField, !h.laneCap),
     orderOneOf h [0, 1, 2]]
  | .ldc h d _ _ _ =>
    [memSize h [0, 5], (.dest, okDst d .w128 && (d.toNat ≤ 60 || d.toNat == 112)), orderOneOf h [0, 1, 2]]
  | .stc h d _ _ _ => [noN h, memSize h [0, 5], (.source, d.toNat % 4 == 0 && d.toNat ≤ 60), orderOneOf h [0, 1, 3]]
  | .atom h d _ _ _ =>
    let s := sizeBytes 4 h.size * (if h.aop = 9 then 2 else 1)
    [noN h, (.size, [0, 3, 4].contains h.size && h.aop ≤ 10), (.source, okSrc d (widthOfBytes s)), orderOneOf h [1, 2, 3, 4]]
  | .atomr h d _ _ _ =>
    let s := sizeBytes 4 h.size * (if h.aop = 9 then 2 else 1)
    [(.size, [0, 3, 4].contains h.size && h.aop ≤ 10), (.dest, isV d && okDst d (widthOfBytes s)), orderOneOf h [1, 2, 3, 4]]
  | .capset h _ _ k g =>
    [noN h, sysZero h, if k.toNat % 4 == 1 || k.toNat % 4 == 2 then (.source, okSrc g .w64) else (.reserved, g == 0#7)]
  | .capperm h _ _ _ _ => sysPlain h
  | .capadd h _ _ k g => [noN h, sysZero h, (.modifier, k.toNat % 4 < 2), (.source, okSrc g .w64)]
  | .capget h p _ _ g => [sysZero h, (.modifier, p.toNat ≤ 8), (.dest, okDst g (wide (p.toNat < 4)))]
  | .capchk h _ _ _ => sysPlain h
  | .fence h => [noN h, (.pfxField, h.ext == 0), orderOneOf h [2, 3, 4, 5]]
  | .pfetch h _ _ _ _ => sysPlain h
  | .cwb h _ _ _ _ => sysPlain h
  | .cinv h _ _ _ => sysPlain h
  | .hget h d _ _ _ =>
    [(.dest, loadDst d (widthOfBytes (sizeBytes 4 h.size))), (.pfxField, !h.laneCap), (.order, extOnly h)]
  | .hput h d _ _ _ =>
    [noN h, memSize h [0, 1, 2, 3, 4, 5], (.source, okSrc d (widthOfBytes (sizeBytes 4 h.size))), (.pfxField, !h.laneCap),
     (.order, extOnly h)]
  | .copy h p _ _ g =>
    [(.pfxField, h.ext % 256 == 0), (.order, [0, 3].contains h.ord && okScope h), (.source, isS g),
     (.dest, p.toNat + h.ext / 256 % 8 ≤ 15)]
  | .copy2 h p _ _ g =>
    [(.pfxField, h.ext % 256 == 0), (.order, [0, 3].contains h.ord && okScope h), (.source, isS g && g.toNat % 4 == 0),
     (.dest, p.toNat + h.ext / 256 % 8 ≤ 15)]
  | .copyc h _ _ g => [sysZero h, (.source, isS g)]
  | .hgive h _ _ _ g => [sysZero h, (.source, isSPair g)]
  | .hmapr h p _ cap g =>
    if cap then [noN h, sysZero h, (.reserved, g == 0#7)] else [sysZero h, (.reserved, p == 0#4), (.dest, okDst g .w32)]
  | .kinit h _ _ g => [noN h, sysZero h, (.source, uniform g)]
  | .kadd h _ _ g => [noN h, sysZero h, (.source, uniform g)]
  | .kwait h _ _ g => [noN h, (.pfxField, h.ext == 0), orderOneOf h [0, 2], (.source, uniform g)]
  | .spawn h _ k => [sysZero h, (.dest, k.toNat % 2 == 0)]
  | .join h _ g => [noN h, sysZero h, (.source, isSPair g)]
  | .bar h _ _ => sysPlain h
  | .barcfg h _ _ => sysPlain h
  | .regroup h g => [noN h, sysZero h, (.source, g.toNat < 112 && g.toNat % 2 == 0)]
  | .post h p q _ g =>
    [noN h, (.source, p.toNat % 2 == 0 && okPost q g (h.ext % 1024)), (.pfxField, h.ext < 1024),
     (.order, h.ord == 3 && 1 ≤ h.sc && h.sc ≤ 9)]
  | .hold h _ g => [noN h, sysZero h, (.source, g.toNat < 112)]
  | .name h grp k g => [sysZero h, (.dest, k.toNat % 2 == 0), if grp then (.source, uniform g) else (.reserved, g == 0#7)]
  | .eqpush h _ g => [noN h, sysZero h, (.source, isV g && g.toNat % 4 == 0)]
  | .eqpop h _ _ g => [sysZero h, (.dest, isV g && g.toNat % 4 == 0)]
  | .amsg h p q _ g =>
    [noN h, (.pfxField, h.ext < 512 && h.sc == 0 && h.ord == 0), (.source, p.toNat % 2 == 0 && (g == 96#7 || g == 104#7)),
     (.reserved, h.ext / 256 == 1 || q == 0#4)]
  | .svc h _ _ g => [sysZero h, (.source, isV g && g.toNat % 4 == 0)]
  | .tbegin h g => [sysZero h, (.dest, isV g)]
  | .tend h => sysPlain h
  | .tabort h _ => sysPlain h
  | .tstat h g => [sysZero h, (.dest, okDst g .w32)]
  | .trap h _ => sysPlain h
  | .tret h _ => sysPlain h
  | .pdone h => sysPlain h
  | .csrr h _ g => [sysZero h, (.dest, okDst g .w32)]
  | .csrw h _ g => [noN h, sysZero h, (.source, g.toNat < 120)]
  | .larm h _ _ g => [sysZero h, (.source, uniform g)]
  | .lwait h _ g => [sysZero h, (.source, uniform g)]
  | .eret h => sysPlain h
  | .wfi h => sysPlain h
  | .extinv h p g => [noN h, sysZero h, (.modifier, p.toNat ≤ 2), (.source, isSPair g)]
  | .ifence h => sysPlain h
  | .dbrk h _ => sysPlain h
  | .cyc h g => [sysZero h, (.dest, g.toNat < 112 && g.toNat % 2 == 0)]
  | _ => []

/-- An instruction with no failing check: what R32 lets execute as far as its own bits tell. -/
def wellFormed (i : Instr) : Bool := (checks i).all (·.2)

/-- The names of the checks an instruction fails, in the order of its list. -/
def illFormedBy (i : Instr) : List IllFormed := ((checks i).filter (fun c => !c.2)).map (·.1)

end Sys2Proof
end

