-- ==== Sys2Proof/Decode.lean ====
section
/-! DEFINITION. From bytes to instructions and back (R9-R14, R28-R30 and the encoding tables of the chapters). The
decoder is total: what is no instruction it rejects by name. It reads fields; wellFormed judges the operands. -/

namespace Sys2Proof

/-- Why bytes are no instruction. -/
inductive Reject where
  | short       -- fewer bytes than the instruction has
  | encoding    -- an opcode or SUB marked as unassigned, or a reserved bit that is not zero (R28, R30, R7)
  | doublePfx   -- a prefix followed by a prefix (R32)
  | pfxBits     -- a prefix with B or N set (R9, R32)
deriving DecidableEq, Repr

/-- Bits(x, hi, lo) of R33, on numbers. -/
def fld (w hi lo : Nat) : Nat := w / 2 ^ lo % 2 ^ (hi + 1 - lo)

/-- The same as a bit vector. -/
def bv (n w hi lo : Nat) : BitVec n := BitVec.ofNat n (fld w hi lo)

/-- The little-endian value of bytes. -/
def leNat : List Byte → Nat
  | [] => 0
  | b :: bs => b.toNat + 256 * leNat bs

/-- The first word of the bytes. -/
def word32 : List Byte → Option (Nat × List Byte)
  | a :: b :: c :: d :: rest => some (leNat [a, b, c, d], rest)
  | _ => none

/-- The instruction a word holds under a header, by its opcode (R28), SUB (R30) and fixed bits. -/
def decodeWord (h : Hdr) (w : Nat) : Option Instr :=
  match fld w 29 23 with
  | 0x01 => if fld w 22 0 == 0 then some (.nop h) else none
  | 0x02 => some (.bra h (bv 4 w 22 19) (bv 19 w 18 0))
  | 0x03 => if fld w 8 1 == 0 then some (.brx h (bv 7 w 22 16) (bv 7 w 15 9) (fld w 0 0 == 1)) else none
  | 0x04 => some (.call h (bv 4 w 22 19) (bv 19 w 18 0))
  | 0x05 => if fld w 8 0 == 0 && fld w 22 16 == 0 then some (.ret h (bv 7 w 15 9)) else none
  | 0x06 => some (.loop h (bv 4 w 22 19) (bv 19 w 18 0))
  | 0x07 => if fld w 22 19 == 7 then some (.bsync h (bv 19 w 18 0)) else none
  | 0x08 => if fld w 22 0 == 0 then some (.yieldRun h) else none
  | 0x09 => if fld w 22 0 == 0 then some (.exit h) else none
  | 0x0A => if fld w 22 16 == 0 then some (.wbase h (bv 7 w 15 9) (bv 9 w 8 0)) else none
  | 0x0B => if fld w 22 18 == 0 then some (.setx h (bv 2 w 17 16) (bv 7 w 15 9) (bv 9 w 8 0)) else none
  | 0x0C => if fld w 15 11 == 0 then some (.movx h (bv 7 w 22 16) (bv 2 w 10 9) (bv 9 w 8 0)) else none
  | 0x0D => if fld w 22 18 == 0 then some (.movxw h (bv 2 w 17 16) (bv 7 w 15 9) (bv 9 w 8 0)) else none
  | 0x10 => some (.iadd h (bv 7 w 22 16) (bv 7 w 15 9) (bv 7 w 8 2) (bv 2 w 1 0))
  | 0x11 => some (.iaddc h (bv 7 w 22 16) (bv 7 w 15 9) (bv 7 w 8 2) (bv 2 w 1 0))
  | 0x12 => some (.isub h (bv 7 w 22 16) (bv 7 w 15 9) (bv 7 w 8 2) (bv 2 w 1 0))
  | 0x13 => some (.isubb h (bv 7 w 22 16) (bv 7 w 15 9) (bv 7 w 8 2) (bv 2 w 1 0))
  | 0x14 => some (.imul h (bv 7 w 22 16) (bv 7 w 15 9) (bv 7 w 8 2) (bv 2 w 1 0))
  | 0x15 => some (.imulh h (bv 7 w 22 16) (bv 7 w 15 9) (bv 7 w 8 2) (bv 2 w 1 0))
  | 0x16 => some (.imad h (bv 7 w 22 16) (bv 7 w 15 9) (bv 7 w 8 2) (bv 2 w 1 0))
  | 0x17 => some (.idiv h (bv 7 w 22 16) (bv 7 w 15 9) (bv 7 w 8 2) (bv 2 w 1 0))
  | 0x18 => some (.irem h (bv 7 w 22 16) (bv 7 w 15 9) (bv 7 w 8 2) (bv 2 w 1 0))
  | 0x19 => some (.imin h (bv 7 w 22 16) (bv 7 w 15 9) (bv 7 w 8 2) (bv 2 w 1 0))
  | 0x1A => some (.imax h (bv 7 w 22 16) (bv 7 w 15 9) (bv 7 w 8 2) (bv 2 w 1 0))
  | 0x1B => if fld w 8 2 == 0 then some (.iabs h (bv 7 w 22 16) (bv 7 w 15 9) (bv 2 w 1 0)) else none
  | 0x1C => if fld w 8 2 == 0 then some (.ineg h (bv 7 w 22 16) (bv 7 w 15 9) (bv 2 w 1 0)) else none
  | 0x1D => if fld w 0 0 == 0 then some (.and h (bv 7 w 22 16) (bv 7 w 15 9) (bv 7 w 8 2) (fld w 1 1 == 1)) else none
  | 0x1E => if fld w 0 0 == 0 then some (.or h (bv 7 w 22 16) (bv 7 w 15 9) (bv 7 w 8 2) (fld w 1 1 == 1)) else none
  | 0x1F => if fld w 0 0 == 0 then some (.xor h (bv 7 w 22 16) (bv 7 w 15 9) (bv 7 w 8 2) (fld w 1 1 == 1)) else none
  | 0x20 => if fld w 0 0 == 0 then some (.andn h (bv 7 w 22 16) (bv 7 w 15 9) (bv 7 w 8 2) (fld w 1 1 == 1)) else none
  | 0x21 => if fld w 0 0 == 0 then some (.shl h (bv 7 w 22 16) (bv 7 w 15 9) (bv 7 w 8 2) (fld w 1 1 == 1)) else none
  | 0x22 => if fld w 0 0 == 0 then some (.shr h (bv 7 w 22 16) (bv 7 w 15 9) (bv 7 w 8 2) (fld w 1 1 == 1)) else none
  | 0x23 => if fld w 0 0 == 0 then some (.sar h (bv 7 w 22 16) (bv 7 w 15 9) (bv 7 w 8 2) (fld w 1 1 == 1)) else none
  | 0x24 => if fld w 0 0 == 0 then some (.rol h (bv 7 w 22 16) (bv 7 w 15 9) (bv 7 w 8 2) (fld w 1 1 == 1)) else none
  | 0x25 => if fld w 0 0 == 0 && fld w 8 2 == 0 then some (.popc h (bv 7 w 22 16) (bv 7 w 15 9) (fld w 1 1 == 1)) else none
  | 0x26 => if fld w 0 0 == 0 && fld w 8 2 == 0 then some (.clz h (bv 7 w 22 16) (bv 7 w 15 9) (fld w 1 1 == 1)) else none
  | 0x27 => if fld w 0 0 == 0 && fld w 8 2 == 0 then some (.brev h (bv 7 w 22 16) (bv 7 w 15 9) (fld w 1 1 == 1)) else none
  | 0x28 => some (.bfx h (bv 7 w 22 16) (bv 7 w 15 9) (bv 7 w 8 2) (bv 2 w 1 0))
  | 0x29 => if fld w 0 0 == 0 then some (.bfi h (bv 7 w 22 16) (bv 7 w 15 9) (bv 7 w 8 2) (fld w 1 1 == 1)) else none
  | 0x2A => some (.iaddImm h (bv 7 w 22 16) (bv 7 w 15 9) (bv 9 w 8 0))
  | 0x2B => some (.andImm h (bv 7 w 22 16) (bv 7 w 15 9) (bv 9 w 8 0))
  | 0x2C => some (.orImm h (bv 7 w 22 16) (bv 7 w 15 9) (bv 9 w 8 0))
  | 0x2D => some (.xorImm h (bv 7 w 22 16) (bv 7 w 15 9) (bv 9 w 8 0))
  | 0x2E => if fld w 6 6 == 0 then some (.shlRolImm h (bv 7 w 22 16) (bv 7 w 15 9) (fld w 8 8 == 1) (fld w 7 7 == 1) (bv 6 w 5 0)) else none
  | 0x2F => if fld w 7 7 == 0 then some (.shrSarImm h (bv 7 w 22 16) (bv 7 w 15 9) (fld w 8 8 == 1) (fld w 6 6 == 1) (bv 6 w 5 0)) else none
  | 0x30 => if fld w 8 2 == 0 then some (.mov h (bv 7 w 22 16) (bv 7 w 15 9) (bv 2 w 1 0)) else none
  | 0x31 => some (.movi h (bv 7 w 22 16) (bv 16 w 15 0))
  | 0x32 => some (.movh h (bv 7 w 22 16) (bv 16 w 15 0))
  | 0x33 => some (.sel h (bv 7 w 22 16) (bv 7 w 15 9) (bv 7 w 8 2) (bv 2 w 1 0))
  | 0x34 => some (.iset h (bv 7 w 22 16) (bv 7 w 15 9) (bv 7 w 8 2) (bv 2 w 1 0))
  | 0x35 => if fld w 22 19 == 0 then some (.pset h (bv 3 w 18 16) (bv 7 w 15 9) (bv 7 w 8 2) (bv 2 w 1 0)) else none
  | 0x36 => some (.pmov h (bv 7 w 22 16) (bv 7 w 15 9) (bv 7 w 8 2) (bv 2 w 1 0))
  | 0x37 => some (.shfl h (bv 7 w 22 16) (bv 7 w 15 9) (bv 7 w 8 2) (bv 2 w 1 0))
  | 0x38 => some (.vote h (bv 7 w 22 16) (bv 7 w 15 9) (bv 7 w 8 2) (bv 2 w 1 0))
  | 0x39 => if fld w 2 2 == 0 then some (.reduce h (bv 7 w 22 16) (bv 7 w 15 9) (bv 3 w 8 6) (bv 3 w 5 3) (bv 2 w 1 0)) else none
  | 0x3A => some (.scan h (bv 7 w 22 16) (bv 7 w 15 9) (bv 3 w 8 6) (bv 3 w 5 3) (fld w 2 2 == 1) (bv 2 w 1 0))
  | 0x3B => if fld w 8 2 == 0 then some (.matchv h (bv 7 w 22 16) (bv 7 w 15 9) (fld w 1 1 == 1) (fld w 0 0 == 1)) else none
  | 0x3C => if fld w 8 1 == 0 then some (.mapget h (bv 7 w 22 16) (bv 7 w 15 9) (fld w 0 0 == 1)) else none
  | 0x40 => some (.fadd h (bv 7 w 22 16) (bv 7 w 15 9) (bv 7 w 8 2) (bv 2 w 1 0))
  | 0x41 => some (.fsub h (bv 7 w 22 16) (bv 7 w 15 9) (bv 7 w 8 2) (bv 2 w 1 0))
  | 0x42 => some (.fmul h (bv 7 w 22 16) (bv 7 w 15 9) (bv 7 w 8 2) (bv 2 w 1 0))
  | 0x43 => some (.ffma h (bv 7 w 22 16) (bv 7 w 15 9) (bv 7 w 8 2) (bv 2 w 1 0))
  | 0x44 => some (.fmin h (bv 7 w 22 16) (bv 7 w 15 9) (bv 7 w 8 2) (bv 2 w 1 0))
  | 0x45 => some (.fmax h (bv 7 w 22 16) (bv 7 w 15 9) (bv 7 w 8 2) (bv 2 w 1 0))
  | 0x46 => some (.fdiv h (bv 7 w 22 16) (bv 7 w 15 9) (bv 7 w 8 2) (bv 2 w 1 0))
  | 0x47 => if fld w 8 2 == 0 then some (.fsqrt h (bv 7 w 22 16) (bv 7 w 15 9) (bv 2 w 1 0)) else none
  | 0x48 => if fld w 8 2 == 0 then some (.frcp h (bv 7 w 22 16) (bv 7 w 15 9) (bv 2 w 1 0)) else none
  | 0x49 => if fld w 8 2 == 0 then some (.frsq h (bv 7 w 22 16) (bv 7 w 15 9) (bv 2 w 1 0)) else none
  | 0x4A => if fld w 8 2 == 0 then some (.fexp2 h (bv 7 w 22 16) (bv 7 w 15 9) (bv 2 w 1 0)) else none
  | 0x4B => if fld w 8 2 == 0 then some (.flog2 h (bv 7 w 22 16) (bv 7 w 15 9) (bv 2 w 1 0)) else none
  | 0x4C => if fld w 8 2 == 0 then some (.fsin h (bv 7 w 22 16) (bv 7 w 15 9) (bv 2 w 1 0)) else none
  | 0x4D => if fld w 8 2 == 0 then some (.fcos h (bv 7 w 22 16) (bv 7 w 15 9) (bv 2 w 1 0)) else none
  | 0x4E => some (.fset h (bv 7 w 22 16) (bv 7 w 15 9) (bv 7 w 8 2) (bv 2 w 1 0))
  | 0x4F => if fld w 8 2 == 0 then some (.fclass h (bv 7 w 22 16) (bv 7 w 15 9) (bv 2 w 1 0)) else none
  | 0x50 => if fld w 1 0 == 0 && fld w 5 5 == 0 then some (.fcvt h (bv 7 w 22 16) (bv 7 w 15 9) (bv 3 w 8 6) (bv 3 w 4 2)) else none
  | 0x51 => if fld w 1 0 == 0 then some (.icvt h (bv 7 w 22 16) (bv 7 w 15 9) (bv 3 w 8 6) (bv 3 w 5 3) (fld w 2 2 == 1)) else none
  | 0x52 => if fld w 8 6 == 0 then some (.pack h (bv 7 w 22 16) (bv 7 w 15 9) (fld w 5 5 == 1) (bv 3 w 4 2) (bv 2 w 1 0)) else none
  | 0x53 => if fld w 8 6 == 0 then some (.unpack h (bv 7 w 22 16) (bv 7 w 15 9) (fld w 5 5 == 1) (bv 3 w 4 2) (bv 2 w 1 0)) else none
  | 0x54 => if fld w 8 0 == 0 && fld w 22 16 == 0 then some (.flclr h (bv 7 w 15 9)) else none
  | 0x55 => if fld w 8 0 == 0 && fld w 22 19 == 0 then some (.fmtw h (bv 3 w 18 16) (bv 7 w 15 9)) else none
  | 0x56 => if fld w 8 0 == 0 && fld w 15 12 == 0 then some (.fmtr h (bv 7 w 22 16) (bv 3 w 11 9)) else none
  | 0x57 => if fld w 22 19 == 0 then some (.scacc h (bv 3 w 18 16) (bv 7 w 15 9) (bv 7 w 8 2) (bv 2 w 1 0)) else none
  | 0x60 => if fld w 8 5 == 0 && fld w 22 20 == 0 then some (.ldw h (bv 4 w 19 16) (bv 7 w 15 9) (bv 3 w 4 2) (bv 2 w 1 0)) else none
  | 0x61 => if fld w 22 0 == 0 then some (.swapw h) else none
  | 0x62 => if fld w 15 13 == 0 && fld w 22 19 == 0 then some (.mma h (bv 3 w 18 16) (bv 4 w 12 9) (bv 7 w 8 2) (bv 2 w 1 0)) else none
  | 0x63 => if fld w 15 13 == 0 && fld w 22 19 == 0 then some (.mmq h (bv 3 w 18 16) (bv 4 w 12 9) (bv 7 w 8 2) (bv 2 w 1 0)) else none
  | 0x64 => if fld w 19 0 == 0 then some (.tzero h (bv 3 w 22 20)) else none
  | 0x65 => some (.trd h (bv 3 w 22 20) (fld w 19 19 == 1) (bv 4 w 18 15) (bv 7 w 14 8) (bv 8 w 7 0))
  | 0x66 => some (.twr h (bv 3 w 22 20) (fld w 19 19 == 1) (bv 4 w 18 15) (bv 7 w 14 8) (bv 8 w 7 0))
  | 0x67 => if fld w 14 12 == 0 then some (.tld h (bv 3 w 22 20) (fld w 19 19 == 1) (bv 4 w 18 15) (bv 4 w 11 8) (bv 8 w 7 0)) else none
  | 0x68 => if fld w 14 12 == 0 then some (.tst h (bv 3 w 22 20) (fld w 19 19 == 1) (bv 4 w 18 15) (bv 4 w 11 8) (bv 8 w 7 0)) else none
  | 0x69 => if fld w 7 6 == 0 then some (.tscl h (bv 3 w 22 20) (fld w 19 19 == 1) (bv 4 w 18 15) (bv 7 w 14 8) (bv 6 w 5 0)) else none
  | 0x70 => some (.ld h (bv 7 w 22 16) (bv 4 w 15 12) (bv 7 w 11 5) (bv 5 w 4 0))
  | 0x71 => some (.st h (bv 7 w 22 16) (bv 4 w 15 12) (bv 7 w 11 5) (bv 5 w 4 0))
  | 0x72 => some (.ldu h (bv 7 w 22 16) (bv 4 w 15 12) (bv 7 w 11 5) (bv 5 w 4 0))
  | 0x73 => some (.ldc h (bv 7 w 22 16) (bv 4 w 15 12) (bv 7 w 11 5) (bv 5 w 4 0))
  | 0x74 => some (.stc h (bv 7 w 22 16) (bv 4 w 15 12) (bv 7 w 11 5) (bv 5 w 4 0))
  | 0x75 => some (.atom h (bv 7 w 22 16) (bv 4 w 15 12) (bv 7 w 11 5) (bv 5 w 4 0))
  | 0x76 => some (.atomr h (bv 7 w 22 16) (bv 4 w 15 12) (bv 7 w 11 5) (bv 5 w 4 0))
  | 0x77 => match fld w 3 0 with
    | 0 => some (.capset h (bv 4 w 22 19) (bv 4 w 18 15) (bv 4 w 14 11) (bv 7 w 10 4))
    | 1 => if fld w 12 11 == 0 then some (.capperm h (bv 4 w 22 19) (bv 4 w 18 15) (bv 2 w 14 13) (bv 7 w 10 4)) else none
    | 2 => some (.capadd h (bv 4 w 22 19) (bv 4 w 18 15) (bv 4 w 14 11) (bv 7 w 10 4))
    | 3 => if fld w 12 11 == 0 && fld w 14 14 == 0 then some (.capget h (bv 4 w 22 19) (bv 4 w 18 15) (fld w 13 13 == 1) (bv 7 w 10 4)) else none
    | 4 => if fld w 12 11 == 0 && fld w 14 14 == 0 && fld w 22 19 == 0 then some (.capchk h (bv 4 w 18 15) (fld w 13 13 == 1) (bv 7 w 10 4)) else none
    | 5 => if fld w 22 4 == 0 then some (.fence h) else none
    | 6 => if fld w 12 12 == 0 && fld w 14 14 == 0 && fld w 22 19 == 0 then some (.pfetch h (bv 4 w 18 15) (fld w 13 13 == 1) (fld w 11 11 == 1) (bv 7 w 10 4)) else none
    | 7 => if fld w 12 12 == 0 && fld w 14 14 == 0 && fld w 22 19 == 0 then some (.cwb h (bv 4 w 18 15) (fld w 13 13 == 1) (fld w 11 11 == 1) (bv 7 w 10 4)) else none
    | 8 => if fld w 12 11 == 0 && fld w 14 14 == 0 && fld w 22 19 == 0 then some (.cinv h (bv 4 w 18 15) (fld w 13 13 == 1) (bv 7 w 10 4)) else none
    | _ => none
  | 0x78 => some (.hget h (bv 7 w 22 16) (bv 4 w 15 12) (bv 7 w 11 5) (bv 5 w 4 0))
  | 0x79 => some (.hput h (bv 7 w 22 16) (bv 4 w 15 12) (bv 7 w 11 5) (bv 5 w 4 0))
  | 0x7A => match fld w 3 0 with
    | 0 => some (.copy h (bv 4 w 22 19) (bv 4 w 18 15) (bv 4 w 14 11) (bv 7 w 10 4))
    | 1 => some (.copy2 h (bv 4 w 22 19) (bv 4 w 18 15) (bv 4 w 14 11) (bv 7 w 10 4))
    | 2 => if fld w 18 15 == 0 && fld w 22 20 == 0 then some (.copyc h (fld w 19 19 == 1) (bv 4 w 14 11) (bv 7 w 10 4)) else none
    | _ => none
  | 0x7B => match fld w 3 0 with
    | 0 => some (.hgive h (bv 4 w 22 19) (bv 4 w 18 15) (bv 4 w 14 11) (bv 7 w 10 4))
    | 1 => if fld w 14 12 == 0 then some (.hmapr h (bv 4 w 22 19) (bv 4 w 18 15) (fld w 11 11 == 1) (bv 7 w 10 4)) else none
    | 2 => if fld w 18 15 == 0 then some (.kinit h (bv 4 w 22 19) (bv 4 w 14 11) (bv 7 w 10 4)) else none
    | 3 => if fld w 18 15 == 0 then some (.kadd h (bv 4 w 22 19) (bv 4 w 14 11) (bv 7 w 10 4)) else none
    | 4 => if fld w 18 15 == 0 then some (.kwait h (bv 4 w 22 19) (bv 4 w 14 11) (bv 7 w 10 4)) else none
    | _ => none
  | 0x7C => match fld w 3 0 with
    | 0 => if fld w 10 4 == 0 && fld w 18 15 == 0 then some (.spawn h (bv 4 w 22 19) (bv 4 w 14 11)) else none
    | 1 => if fld w 18 11 == 0 then some (.join h (bv 4 w 22 19) (bv 7 w 10 4)) else none
    | 2 => if fld w 18 11 == 0 && fld w 22 20 == 0 then some (.bar h (fld w 19 19 == 1) (bv 7 w 10 4)) else none
    | 3 => if fld w 22 15 == 0 then some (.barcfg h (bv 4 w 14 11) (bv 7 w 10 4)) else none
    | 4 => if fld w 22 11 == 0 then some (.regroup h (bv 7 w 10 4)) else none
    | 5 => some (.post h (bv 4 w 22 19) (bv 4 w 18 15) (bv 4 w 14 11) (bv 7 w 10 4))
    | 6 => if fld w 18 11 == 0 && fld w 22 20 == 0 then some (.hold h (fld w 19 19 == 1) (bv 7 w 10 4)) else none
    | 7 => if fld w 18 15 == 0 && fld w 22 20 == 0 then some (.name h (fld w 19 19 == 1) (bv 4 w 14 11) (bv 7 w 10 4)) else none
    | 8 => if fld w 18 11 == 0 then some (.eqpush h (bv 4 w 22 19) (bv 7 w 10 4)) else none
    | 9 => if fld w 18 12 == 0 then some (.eqpop h (bv 4 w 22 19) (fld w 11 11 == 1) (bv 7 w 10 4)) else none
    | 10 => some (.amsg h (bv 4 w 22 19) (bv 4 w 18 15) (bv 4 w 14 11) (bv 7 w 10 4))
    | 11 => some (.svc h (bv 8 w 22 15) (bv 4 w 14 11) (bv 7 w 10 4))
    | _ => none
  | 0x7D => match fld w 3 0 with
    | 0 => if fld w 22 11 == 0 then some (.tbegin h (bv 7 w 10 4)) else none
    | 1 => if fld w 22 4 == 0 then some (.tend h) else none
    | 2 => if fld w 14 4 == 0 then some (.tabort h (bv 8 w 22 15)) else none
    | 3 => if fld w 22 11 == 0 then some (.tstat h (bv 7 w 10 4)) else none
    | 4 => if fld w 14 4 == 0 then some (.trap h (bv 8 w 22 15)) else none
    | 5 => if fld w 18 4 == 0 && fld w 22 20 == 0 then some (.tret h (fld w 19 19 == 1)) else none
    | 6 => if fld w 22 4 == 0 then some (.pdone h) else none
    | _ => none
  | 0x7E => match fld w 3 0 with
    | 0 => some (.csrr h (bv 12 w 22 11) (bv 7 w 10 4))
    | 1 => some (.csrw h (bv 12 w 22 11) (bv 7 w 10 4))
    | 2 => if fld w 18 15 == 0 then some (.larm h (bv 4 w 22 19) (bv 4 w 14 11) (bv 7 w 10 4)) else none
    | 3 => if fld w 22 15 == 0 then some (.lwait h (bv 4 w 14 11) (bv 7 w 10 4)) else none
    | 4 => if fld w 22 4 == 0 then some (.eret h) else none
    | 5 => if fld w 22 4 == 0 then some (.wfi h) else none
    | 6 => if fld w 18 11 == 0 then some (.extinv h (bv 4 w 22 19) (bv 7 w 10 4)) else none
    | 7 => if fld w 22 4 == 0 then some (.ifence h) else none
    | 8 => if fld w 14 4 == 0 then some (.dbrk h (bv 8 w 22 15)) else none
    | 9 => if fld w 22 11 == 0 then some (.cyc h (bv 7 w 10 4)) else none
    | _ => none
  | _ => none

/-- The bits B and N of a word beside its prefix. -/
def hdrOf (w : Nat) (p : Option Pfx) : Hdr := ⟨fld w 31 31 == 1, fld w 30 30 == 1, p⟩

/-- The fields of a prefix word (R10 format X). -/
def pfxOf (w : Nat) : Pfx := ⟨bv 16 w 22 7, bv 4 w 6 3, bv 3 w 2 0⟩

def isPfxWord (w : Nat) : Bool := fld w 29 23 == 0x7F

/-- The instruction at the start of the bytes and its length in bytes. -/
def decode (bs : List Byte) : Except Reject (Instr × Nat) :=
  match word32 bs with
  | none => .error .short
  | some (w, rest) =>
    if isPfxWord w then
      if fld w 31 30 != 0 then .error .pfxBits
      else match word32 rest with
        | none => .error .short
        | some (w', _) =>
          if isPfxWord w' then .error .doublePfx
          else match decodeWord (hdrOf w' (some (pfxOf w))) w' with
            | none => .error .encoding
            | some i => .ok (i, 8)
    else match decodeWord (hdrOf w none) w with
      | none => .error .encoding
      | some i => .ok (i, 4)

/-- The four bytes of a word, least significant first. -/
def wordBytes (w : Nat) : List Byte :=
  [BitVec.ofNat 8 w, BitVec.ofNat 8 (w / 256), BitVec.ofNat 8 (w / 65536), BitVec.ofNat 8 (w / 16777216)]

/-- The n bytes of a number, least significant first. -/
def leBytes : Nat → Nat → List Byte
  | 0, _ => []
  | n + 1, v => BitVec.ofNat 8 v :: leBytes n (v / 256)

/-- The instruction the decoder reads from bits numbered as the opcode table numbers them; every bit above is zero. -/
def decodeTableWord (nbits w : Nat) : Option Instr :=
  match decode (leBytes 8 (w % 2 ^ nbits)) with
  | .ok (i, _) => some i
  | .error _ => none

/-- The header and bits [29:0] of an instruction's word; events have no word. -/
def encodeWord : Instr → Option (Hdr × Nat)
  | .nop h => some (h, 0x00800000)
  | .bra h cond ofs => some (h, 0x01000000 + cond.toNat * 524288 + ofs.toNat)
  | .brx h d a call => some (h, 0x01800000 + d.toNat * 65536 + a.toNat * 512 + call.toNat)
  | .call h cond ofs => some (h, 0x02000000 + cond.toNat * 524288 + ofs.toNat)
  | .ret h a => some (h, 0x02800000 + a.toNat * 512)
  | .loop h cond ofs => some (h, 0x03000000 + cond.toNat * 524288 + ofs.toNat)
  | .bsync h ofs => some (h, 0x03B80000 + ofs.toNat)
  | .yieldRun h => some (h, 0x04000000)
  | .exit h => some (h, 0x04800000)
  | .wbase h a imm => some (h, 0x05000000 + a.toNat * 512 + imm.toNat)
  | .setx h x a imm => some (h, 0x05800000 + x.toNat * 65536 + a.toNat * 512 + imm.toNat)
  | .movx h d x imm => some (h, 0x06000000 + d.toNat * 65536 + x.toNat * 512 + imm.toNat)
  | .movxw h x a imm => some (h, 0x06800000 + x.toNat * 65536 + a.toNat * 512 + imm.toNat)
  | .iadd h d a b m => some (h, 0x08000000 + d.toNat * 65536 + a.toNat * 512 + b.toNat * 4 + m.toNat)
  | .iaddc h d a b m => some (h, 0x08800000 + d.toNat * 65536 + a.toNat * 512 + b.toNat * 4 + m.toNat)
  | .isub h d a b m => some (h, 0x09000000 + d.toNat * 65536 + a.toNat * 512 + b.toNat * 4 + m.toNat)
  | .isubb h d a b m => some (h, 0x09800000 + d.toNat * 65536 + a.toNat * 512 + b.toNat * 4 + m.toNat)
  | .imul h d a b m => some (h, 0x0A000000 + d.toNat * 65536 + a.toNat * 512 + b.toNat * 4 + m.toNat)
  | .imulh h d a b m => some (h, 0x0A800000 + d.toNat * 65536 + a.toNat * 512 + b.toNat * 4 + m.toNat)
  | .imad h d a b m => some (h, 0x0B000000 + d.toNat * 65536 + a.toNat * 512 + b.toNat * 4 + m.toNat)
  | .idiv h d a b m => some (h, 0x0B800000 + d.toNat * 65536 + a.toNat * 512 + b.toNat * 4 + m.toNat)
  | .irem h d a b m => some (h, 0x0C000000 + d.toNat * 65536 + a.toNat * 512 + b.toNat * 4 + m.toNat)
  | .imin h d a b m => some (h, 0x0C800000 + d.toNat * 65536 + a.toNat * 512 + b.toNat * 4 + m.toNat)
  | .imax h d a b m => some (h, 0x0D000000 + d.toNat * 65536 + a.toNat * 512 + b.toNat * 4 + m.toNat)
  | .iabs h d a m => some (h, 0x0D800000 + d.toNat * 65536 + a.toNat * 512 + m.toNat)
  | .ineg h d a m => some (h, 0x0E000000 + d.toNat * 65536 + a.toNat * 512 + m.toNat)
  | .and h d a b wide => some (h, 0x0E800000 + d.toNat * 65536 + a.toNat * 512 + b.toNat * 4 + wide.toNat * 2)
  | .or h d a b wide => some (h, 0x0F000000 + d.toNat * 65536 + a.toNat * 512 + b.toNat * 4 + wide.toNat * 2)
  | .xor h d a b wide => some (h, 0x0F800000 + d.toNat * 65536 + a.toNat * 512 + b.toNat * 4 + wide.toNat * 2)
  | .andn h d a b wide => some (h, 0x10000000 + d.toNat * 65536 + a.toNat * 512 + b.toNat * 4 + wide.toNat * 2)
  | .shl h d a b wide => some (h, 0x10800000 + d.toNat * 65536 + a.toNat * 512 + b.toNat * 4 + wide.toNat * 2)
  | .shr h d a b wide => some (h, 0x11000000 + d.toNat * 65536 + a.toNat * 512 + b.toNat * 4 + wide.toNat * 2)
  | .sar h d a b wide => some (h, 0x11800000 + d.toNat * 65536 + a.toNat * 512 + b.toNat * 4 + wide.toNat * 2)
  | .rol h d a b wide => some (h, 0x12000000 + d.toNat * 65536 + a.toNat * 512 + b.toNat * 4 + wide.toNat * 2)
  | .popc h d a wide => some (h, 0x12800000 + d.toNat * 65536 + a.toNat * 512 + wide.toNat * 2)
  | .clz h d a wide => some (h, 0x13000000 + d.toNat * 65536 + a.toNat * 512 + wide.toNat * 2)
  | .brev h d a wide => some (h, 0x13800000 + d.toNat * 65536 + a.toNat * 512 + wide.toNat * 2)
  | .bfx h d a b m => some (h, 0x14000000 + d.toNat * 65536 + a.toNat * 512 + b.toNat * 4 + m.toNat)
  | .bfi h d a b wide => some (h, 0x14800000 + d.toNat * 65536 + a.toNat * 512 + b.toNat * 4 + wide.toNat * 2)
  | .iaddImm h d a imm => some (h, 0x15000000 + d.toNat * 65536 + a.toNat * 512 + imm.toNat)
  | .andImm h d a imm => some (h, 0x15800000 + d.toNat * 65536 + a.toNat * 512 + imm.toNat)
  | .orImm h d a imm => some (h, 0x16000000 + d.toNat * 65536 + a.toNat * 512 + imm.toNat)
  | .xorImm h d a imm => some (h, 0x16800000 + d.toNat * 65536 + a.toNat * 512 + imm.toNat)
  | .shlRolImm h d a wide rot amt => some (h, 0x17000000 + d.toNat * 65536 + a.toNat * 512 + wide.toNat * 256 + rot.toNat * 128 + amt.toNat)
  | .shrSarImm h d a wide arith amt => some (h, 0x17800000 + d.toNat * 65536 + a.toNat * 512 + wide.toNat * 256 + arith.toNat * 64 + amt.toNat)
  | .mov h d a m => some (h, 0x18000000 + d.toNat * 65536 + a.toNat * 512 + m.toNat)
  | .movi h d imm => some (h, 0x18800000 + d.toNat * 65536 + imm.toNat)
  | .movh h d imm => some (h, 0x19000000 + d.toNat * 65536 + imm.toNat)
  | .sel h d a b p => some (h, 0x19800000 + d.toNat * 65536 + a.toNat * 512 + b.toNat * 4 + p.toNat)
  | .iset h d a b c => some (h, 0x1A000000 + d.toNat * 65536 + a.toNat * 512 + b.toNat * 4 + c.toNat)
  | .pset h p a b c => some (h, 0x1A800000 + p.toNat * 65536 + a.toNat * 512 + b.toNat * 4 + c.toNat)
  | .pmov h d a b m => some (h, 0x1B000000 + d.toNat * 65536 + a.toNat * 512 + b.toNat * 4 + m.toNat)
  | .shfl h d a b m => some (h, 0x1B800000 + d.toNat * 65536 + a.toNat * 512 + b.toNat * 4 + m.toNat)
  | .vote h d a b m => some (h, 0x1C000000 + d.toNat * 65536 + a.toNat * 512 + b.toNat * 4 + m.toNat)
  | .reduce h d a op t p => some (h, 0x1C800000 + d.toNat * 65536 + a.toNat * 512 + op.toNat * 64 + t.toNat * 8 + p.toNat)
  | .scan h d a op t excl p => some (h, 0x1D000000 + d.toNat * 65536 + a.toNat * 512 + op.toNat * 64 + t.toNat * 8 + excl.toNat * 4 + p.toNat)
  | .matchv h d a wide all => some (h, 0x1D800000 + d.toNat * 65536 + a.toNat * 512 + wide.toNat * 2 + all.toNat)
  | .mapget h d a seat => some (h, 0x1E000000 + d.toNat * 65536 + a.toNat * 512 + seat.toNat)
  | .fadd h d a b m => some (h, 0x20000000 + d.toNat * 65536 + a.toNat * 512 + b.toNat * 4 + m.toNat)
  | .fsub h d a b m => some (h, 0x20800000 + d.toNat * 65536 + a.toNat * 512 + b.toNat * 4 + m.toNat)
  | .fmul h d a b m => some (h, 0x21000000 + d.toNat * 65536 + a.toNat * 512 + b.toNat * 4 + m.toNat)
  | .ffma h d a b m => some (h, 0x21800000 + d.toNat * 65536 + a.toNat * 512 + b.toNat * 4 + m.toNat)
  | .fmin h d a b m => some (h, 0x22000000 + d.toNat * 65536 + a.toNat * 512 + b.toNat * 4 + m.toNat)
  | .fmax h d a b m => some (h, 0x22800000 + d.toNat * 65536 + a.toNat * 512 + b.toNat * 4 + m.toNat)
  | .fdiv h d a b m => some (h, 0x23000000 + d.toNat * 65536 + a.toNat * 512 + b.toNat * 4 + m.toNat)
  | .fsqrt h d a m => some (h, 0x23800000 + d.toNat * 65536 + a.toNat * 512 + m.toNat)
  | .frcp h d a m => some (h, 0x24000000 + d.toNat * 65536 + a.toNat * 512 + m.toNat)
  | .frsq h d a m => some (h, 0x24800000 + d.toNat * 65536 + a.toNat * 512 + m.toNat)
  | .fexp2 h d a m => some (h, 0x25000000 + d.toNat * 65536 + a.toNat * 512 + m.toNat)
  | .flog2 h d a m => some (h, 0x25800000 + d.toNat * 65536 + a.toNat * 512 + m.toNat)
  | .fsin h d a m => some (h, 0x26000000 + d.toNat * 65536 + a.toNat * 512 + m.toNat)
  | .fcos h d a m => some (h, 0x26800000 + d.toNat * 65536 + a.toNat * 512 + m.toNat)
  | .fset h d a b m => some (h, 0x27000000 + d.toNat * 65536 + a.toNat * 512 + b.toNat * 4 + m.toNat)
  | .fclass h d a m => some (h, 0x27800000 + d.toNat * 65536 + a.toNat * 512 + m.toNat)
  | .fcvt h d a kd ks => some (h, 0x28000000 + d.toNat * 65536 + a.toNat * 512 + kd.toNat * 64 + ks.toNat * 4)
  | .icvt h d a fk it toFloat => some (h, 0x28800000 + d.toNat * 65536 + a.toNat * 512 + fk.toNat * 64 + it.toNat * 8 + toFloat.toNat * 4)
  | .pack h d a hi f m => some (h, 0x29000000 + d.toNat * 65536 + a.toNat * 512 + hi.toNat * 32 + f.toNat * 4 + m.toNat)
  | .unpack h d a hi f m => some (h, 0x29800000 + d.toNat * 65536 + a.toNat * 512 + hi.toNat * 32 + f.toNat * 4 + m.toNat)
  | .flclr h a => some (h, 0x2A000000 + a.toNat * 512)
  | .fmtw h f a => some (h, 0x2A800000 + f.toNat * 65536 + a.toNat * 512)
  | .fmtr h d f => some (h, 0x2B000000 + d.toNat * 65536 + f.toNat * 512)
  | .scacc h t a b m => some (h, 0x2B800000 + t.toNat * 65536 + a.toNat * 512 + b.toNat * 4 + m.toNat)
  | .ldw h hm a f m => some (h, 0x30000000 + hm.toNat * 65536 + a.toNat * 512 + f.toNat * 4 + m.toNat)
  | .swapw h => some (h, 0x30800000)
  | .mma h t hm b m => some (h, 0x31000000 + t.toNat * 65536 + hm.toNat * 512 + b.toNat * 4 + m.toNat)
  | .mmq h t hm b m => some (h, 0x31800000 + t.toNat * 65536 + hm.toNat * 512 + b.toNat * 4 + m.toNat)
  | .tzero h t => some (h, 0x32000000 + t.toNat * 1048576)
  | .trd h t col i v u => some (h, 0x32800000 + t.toNat * 1048576 + col.toNat * 524288 + i.toNat * 32768 + v.toNat * 256 + u.toNat)
  | .twr h t col i v u => some (h, 0x33000000 + t.toNat * 1048576 + col.toNat * 524288 + i.toNat * 32768 + v.toNat * 256 + u.toNat)
  | .tld h t col i hm u => some (h, 0x33800000 + t.toNat * 1048576 + col.toNat * 524288 + i.toNat * 32768 + hm.toNat * 256 + u.toNat)
  | .tst h t col i hm u => some (h, 0x34000000 + t.toNat * 1048576 + col.toNat * 524288 + i.toNat * 32768 + hm.toNat * 256 + u.toNat)
  | .tscl h t col i v u => some (h, 0x34800000 + t.toNat * 1048576 + col.toNat * 524288 + i.toNat * 32768 + v.toNat * 256 + u.toNat)
  | .ld h d cap off imm => some (h, 0x38000000 + d.toNat * 65536 + cap.toNat * 4096 + off.toNat * 32 + imm.toNat)
  | .st h d cap off imm => some (h, 0x38800000 + d.toNat * 65536 + cap.toNat * 4096 + off.toNat * 32 + imm.toNat)
  | .ldu h d cap off imm => some (h, 0x39000000 + d.toNat * 65536 + cap.toNat * 4096 + off.toNat * 32 + imm.toNat)
  | .ldc h d cap off imm => some (h, 0x39800000 + d.toNat * 65536 + cap.toNat * 4096 + off.toNat * 32 + imm.toNat)
  | .stc h d cap off imm => some (h, 0x3A000000 + d.toNat * 65536 + cap.toNat * 4096 + off.toNat * 32 + imm.toNat)
  | .atom h d cap off imm => some (h, 0x3A800000 + d.toNat * 65536 + cap.toNat * 4096 + off.toNat * 32 + imm.toNat)
  | .atomr h d cap off imm => some (h, 0x3B000000 + d.toNat * 65536 + cap.toNat * 4096 + off.toNat * 32 + imm.toNat)
  | .capset h p q k g => some (h, 0x3B800000 + p.toNat * 524288 + q.toNat * 32768 + k.toNat * 2048 + g.toNat * 16)
  | .capperm h p q k g => some (h, 0x3B800001 + p.toNat * 524288 + q.toNat * 32768 + k.toNat * 8192 + g.toNat * 16)
  | .capadd h p q k g => some (h, 0x3B800002 + p.toNat * 524288 + q.toNat * 32768 + k.toNat * 2048 + g.toNat * 16)
  | .capget h p q quad g => some (h, 0x3B800003 + p.toNat * 524288 + q.toNat * 32768 + quad.toNat * 8192 + g.toNat * 16)
  | .capchk h q quad g => some (h, 0x3B800004 + q.toNat * 32768 + quad.toNat * 8192 + g.toNat * 16)
  | .fence h => some (h, 0x3B800005)
  | .pfetch h q quad slice g => some (h, 0x3B800006 + q.toNat * 32768 + quad.toNat * 8192 + slice.toNat * 2048 + g.toNat * 16)
  | .cwb h q quad mem g => some (h, 0x3B800007 + q.toNat * 32768 + quad.toNat * 8192 + mem.toNat * 2048 + g.toNat * 16)
  | .cinv h q quad g => some (h, 0x3B800008 + q.toNat * 32768 + quad.toNat * 8192 + g.toNat * 16)
  | .hget h d hm off imm => some (h, 0x3C000000 + d.toNat * 65536 + hm.toNat * 4096 + off.toNat * 32 + imm.toNat)
  | .hput h d hm off imm => some (h, 0x3C800000 + d.toNat * 65536 + hm.toNat * 4096 + off.toNat * 32 + imm.toNat)
  | .copy h p q k g => some (h, 0x3D000000 + p.toNat * 524288 + q.toNat * 32768 + k.toNat * 2048 + g.toNat * 16)
  | .copy2 h p q k g => some (h, 0x3D000001 + p.toNat * 524288 + q.toNat * 32768 + k.toNat * 2048 + g.toNat * 16)
  | .copyc h test k g => some (h, 0x3D000002 + test.toNat * 524288 + k.toNat * 2048 + g.toNat * 16)
  | .hgive h p q k g => some (h, 0x3D800000 + p.toNat * 524288 + q.toNat * 32768 + k.toNat * 2048 + g.toNat * 16)
  | .hmapr h p q cap g => some (h, 0x3D800001 + p.toNat * 524288 + q.toNat * 32768 + cap.toNat * 2048 + g.toNat * 16)
  | .kinit h p k g => some (h, 0x3D800002 + p.toNat * 524288 + k.toNat * 2048 + g.toNat * 16)
  | .kadd h p k g => some (h, 0x3D800003 + p.toNat * 524288 + k.toNat * 2048 + g.toNat * 16)
  | .kwait h p k g => some (h, 0x3D800004 + p.toNat * 524288 + k.toNat * 2048 + g.toNat * 16)
  | .spawn h p k => some (h, 0x3E000000 + p.toNat * 524288 + k.toNat * 2048)
  | .join h p g => some (h, 0x3E000001 + p.toNat * 524288 + g.toNat * 16)
  | .bar h arr g => some (h, 0x3E000002 + arr.toNat * 524288 + g.toNat * 16)
  | .barcfg h k g => some (h, 0x3E000003 + k.toNat * 2048 + g.toNat * 16)
  | .regroup h g => some (h, 0x3E000004 + g.toNat * 16)
  | .post h p q k g => some (h, 0x3E000005 + p.toNat * 524288 + q.toNat * 32768 + k.toNat * 2048 + g.toNat * 16)
  | .hold h clr g => some (h, 0x3E000006 + clr.toNat * 524288 + g.toNat * 16)
  | .name h grp k g => some (h, 0x3E000007 + grp.toNat * 524288 + k.toNat * 2048 + g.toNat * 16)
  | .eqpush h p g => some (h, 0x3E000008 + p.toNat * 524288 + g.toNat * 16)
  | .eqpop h p noWait g => some (h, 0x3E000009 + p.toNat * 524288 + noWait.toNat * 2048 + g.toNat * 16)
  | .amsg h p q k g => some (h, 0x3E00000A + p.toNat * 524288 + q.toNat * 32768 + k.toNat * 2048 + g.toNat * 16)
  | .svc h n k g => some (h, 0x3E00000B + n.toNat * 32768 + k.toNat * 2048 + g.toNat * 16)
  | .tbegin h g => some (h, 0x3E800000 + g.toNat * 16)
  | .tend h => some (h, 0x3E800001)
  | .tabort h c => some (h, 0x3E800002 + c.toNat * 32768)
  | .tstat h g => some (h, 0x3E800003 + g.toNat * 16)
  | .trap h c => some (h, 0x3E800004 + c.toNat * 32768)
  | .tret h next => some (h, 0x3E800005 + next.toNat * 524288)
  | .pdone h => some (h, 0x3E800006)
  | .csrr h csr g => some (h, 0x3F000000 + csr.toNat * 2048 + g.toNat * 16)
  | .csrw h csr g => some (h, 0x3F000001 + csr.toNat * 2048 + g.toNat * 16)
  | .larm h p k g => some (h, 0x3F000002 + p.toNat * 524288 + k.toNat * 2048 + g.toNat * 16)
  | .lwait h k g => some (h, 0x3F000003 + k.toNat * 2048 + g.toNat * 16)
  | .eret h => some (h, 0x3F000004)
  | .wfi h => some (h, 0x3F000005)
  | .extinv h p g => some (h, 0x3F000006 + p.toNat * 524288 + g.toNat * 16)
  | .ifence h => some (h, 0x3F000007)
  | .dbrk h c => some (h, 0x3F000008 + c.toNat * 32768)
  | .cyc h g => some (h, 0x3F000009 + g.toNat * 16)
  | _ => none

/-- A prefix word. -/
def encodePfx (p : Pfx) : Nat := 0x3F800000 + p.ext.toNat * 128 + p.sc.toNat * 8 + p.ord.toNat

/-- The words of an instruction: the prefix, if it has one, and the word with B and N. -/
def encode (i : Instr) : Option (List Nat) :=
  match encodeWord i with
  | none => none
  | some (h, w) =>
    let w' := w + h.b.toNat * 2147483648 + h.n.toNat * 1073741824
    match h.pfx with
    | none => some [w']
    | some p => some [encodePfx p, w']

/-- The bytes of an instruction as memory holds them (R9). -/
def encodeBytes (i : Instr) : Option (List Byte) := (encode i).map fun ws => (ws.map wordBytes).flatten

end Sys2Proof
end

