-- ==== Sys2Proof/Config.lean ====
section
/-! DEFINITION. The free values: what the spec leaves to a device and gives no value for. None has a body, so no
proof can see one; notes/assumptions/8.md, 9.md, 12.md and 85.md say where each is applied. -/

namespace Sys2Proof.Config

open Sys2Proof

/-- The functions that R179 only bounds. -/
inductive ApproxFn where
  | rcp | rsq | exp2 | log2 | sin | cos
deriving DecidableEq, Repr

/-- The binary32 code a device returns for an approximation, by function and operand code: "A result may be any code
within the bound. A device returns the same code for the same operand on every core, run and path" (R179). -/
opaque approxCode : ApproxFn → Word → Word

/-- The nonce of the k-th draw of the trust core's random generator (R372). -/
opaque nonce : Nat → BitVec 256

/-- Whether an ECDSA P-384 signature with SHA-384 over a message verifies under a public key (R373, R424): a standard the spec
names and does not give. -/
opaque ecdsaVerifies : (key : List Byte) → (message : List Byte) → (sig : List Byte) → Bool

/-- Whether an ML-DSA-87 signature over a message verifies under a public key (R373, R424). -/
opaque mldsaVerifies : (key : List Byte) → (message : List Byte) → (sig : List Byte) → Bool

/-- The key that a wrapped key holds, when its AES-256-GCM tag verifies under the data key of an SPDM session (R419, R421): by
the number of the key exchange that made the session. -/
opaque unwrapKey : (exchange : Nat) → (nonce : List Byte) → (sealedKey : List Byte) → (tag : List Byte) → Option (BitVec 256)

/-- A key of memory encryption (R418): key id 0 as the trust core drew it at a reset, or a key that was installed. -/
inductive MemKey where
  | package (draw : Nat)
  | installed (key : BitVec 256)
deriving DecidableEq, Repr

/-- Bits a sector decrypts to when read under a key other than the one it was written with (R418): "unrelated bits". -/
opaque unrelatedByte : (readKey : MemKey) → (writtenKey : MemKey) → (address : Nat) → Byte → Byte

/-- How many errors corrected within one second take a unit out of service: a threshold that management sets (R423). -/
opaque ceThreshold : Nat

/-- The bytes of an SPDM 1.3 response body (R421), by request code and sequence number: the spec names the standard. -/
opaque spdmBody : (request : Nat) → (sequence : Nat) → List Byte

/-- The HBM channel a line lies on: "spread over the 24 stacks by a fixed hash of the line number" (R240), a hash the
spec does not give. -/
opaque channelOf : (line : Nat) → Nat

end Sys2Proof.Config
end

