-- ==== Sys2Proof/Machine/State.lean ====
section
/-! DEFINITION. The state of a Rhaist 9840 package as plain data: lanes, groups, teams, grids and roles (R23, R126),
cores, clusters, partitions, the control cores, memory with its tags, poison and directory, and the units of the port
dies. INVENTORY.md lists every piece with the rule that names it. Tables that the machine holds for many units are
sparse: a unit that is not listed is at its reset value. -/

namespace Sys2Proof.Machine

open Sys2Proof

/-- A table by number: keys strictly rising; an absent key stands for the table's default. -/
abbrev FMap (α : Type) := List (Nat × α)

namespace FMap

/-- The entry of a key. -/
def get? {α : Type} : FMap α → Nat → Option α
  | [], _ => none
  | (j, v) :: m, k => if j = k then some v else get? m k

def getD {α : Type} (m : FMap α) (k : Nat) (d : α) : α := (get? m k).getD d

/-- Puts an entry at its place. -/
def set {α : Type} : FMap α → Nat → α → FMap α
  | [], k, v => [(k, v)]
  | (j, w) :: m, k, v => if k < j then (k, v) :: (j, w) :: m else if k = j then (k, v) :: m else (j, w) :: set m k v

/-- Removes an entry. -/
def erase {α : Type} (m : FMap α) (k : Nat) : FMap α := m.filter fun e => e.1 != k

/-- Changes an entry that is there. -/
def modify {α : Type} (m : FMap α) (k : Nat) (f : α → α) : FMap α :=
  match get? m k with
  | some v => set m k (f v)
  | none => m

/-- The lowest number that no entry has. -/
def fresh {α : Type} (m : FMap α) : Nat := m.foldl (fun n e => max n (e.1 + 1)) 0

end FMap

/-! ### Lanes -/

/-- A register of the register space with its tag (R23). -/
structure Reg where
  val : Word
  tag : Bool
  bad : Bool                 -- the bank's ECC fails for it (R242); a write mends it
deriving DecidableEq, Repr

def Reg.zero : Reg := ⟨0, false, false⟩

/-- An index register (R23, R57): a signed value, a base and an exclusive limit. -/
structure IndexReg where
  value : Word
  base  : Nat
  limit : Nat
deriving DecidableEq, Repr

/-- A capability register: 128 bits and a tag (R86). -/
structure Cap where
  bits : Quad
  tag  : Bool
deriving DecidableEq, Repr

/-- The key a request is translated under (R361) and the package that does it. -/
structure PageKey where
  pkg  : Nat
  asn  : Nat
  obj  : Nat
  page : Nat
deriving DecidableEq, Repr

/-- What a lane is doing. -/
inductive LaneMode where
  | running
  | stopped                          -- at a reconvergence point (R52)
  | parked (key : PageKey) (replay : Option Nat) -- on a page that is not resident (R363); with no monitor, when it replays (R364)
  | exited                           -- R54; also a seat that holds no thread
  | atBarrier (n : Nat) (phase : Nat) -- waiting in BAR for that phase (R275)
  | barrierNext (n : Nat) (phase : Nat) -- held until that phase completes, to arrive in the next (R275)
  | atMeeting (target : Dword)       -- at the REGROUP meeting (R151)
  | cosyWait                         -- at a TBEGIN waiting for the cosy lock (R321)
deriving DecidableEq, Repr

/-- One entry of a read log (R311): a granule, the bytes read with their values, and the tag when it was read. -/
structure LogEntry where
  granule : Nat
  bytes   : List (Option Byte)
  tag     : Option Bool
deriving DecidableEq, Repr

/-- What kind of store wrote a word: the max rule of ring words lets only ST.b64 change one (R387). -/
inductive Stored where
  | dword | cap | other
deriving DecidableEq, Repr

/-- One entry of a write buffer (R312). -/
structure BufEntry where
  granule : Nat
  bytes   : List (Option Byte)
  tag     : Bool
  how     : Stored × Stored  -- what stored each of its two words last (R387)
deriving DecidableEq, Repr

/-- An open transaction (R288, R289, R308). Granules and lines are numbered by physical address. -/
structure Tx where
  depth    : Nat
  retryPc  : Dword          -- the instruction after the outermost TBEGIN
  reg      : Nat            -- the absolute register the outermost TBEGIN recorded
  cosy     : Bool
  log      : List LogEntry
  buf      : List BufEntry
  rset     : List Nat       -- lines read, on a control core (R318)
  wset     : List Nat       -- lines written, on a control core
  since    : Nat            -- the clock of the last revalidation
  born     : Nat            -- tick at which it opened, by which R367 tells it from a later one
  valp     : Nat            -- the revalidation period it opened with (R320)
  ticket   : Option Nat     -- the ticket its TEND took (R315)
deriving DecidableEq, Repr

/-- A body held by a loop buffer (R146): its first address and its words. -/
structure LoopBody where
  first : Dword
  words : List Word
deriving DecidableEq, Repr

/-- A lane, or the one lane of a control-core thread (R126, R127). -/
structure Lane where
  thread   : Option Nat     -- the logical thread the seat holds (R153)
  pc       : Dword
  mode     : LaneMode
  held     : Bool           -- outside the handler's lanes while a trap is handled (R355)
  regs     : List Reg
  preds    : BitVec 8
  idx      : List IndexReg
  fl       : BitVec 5
  latches  : List Dword
  pushes   : Nat            -- results pushed, counted on at every clearing: the place of a load's latch (R21, R137)
  badLatch : List Nat       -- latches whose ECC fails (R242), by the count of their push; a new push mends one
  count    : Nat
  replays  : Bool           -- woken, and its instruction not replayed yet: latches and count are kept for it (R142)
  woke     : Bool           -- woken from parking, for an instruction that it has not executed yet (R413)
  loopBuf  : Option LoopBody
  tries    : Nat
  tx       : Option Tx
  lastExec : Nat
  meetFault : Option Cause  -- its REGROUP traps when it issues again (R151, R277)
deriving DecidableEq, Repr

/-- The predicates at launch and reset: p7 true, the rest false (R23, R127). -/
def predsReset : BitVec 8 := 0x80#8

/-- A fresh register space. -/
def regsReset (n : Nat) : List Reg := List.replicate n Reg.zero

/-- A lane at launch (R23). -/
def Lane.fresh (thread : Option Nat) (alloc : Nat) (pc : Dword) : Lane :=
  { thread, pc, mode := if thread.isSome then .running else .exited, held := false,
    regs := if thread.isSome then regsReset alloc else [], preds := predsReset,
    idx := List.replicate 4 ⟨0, 0, 0⟩, fl := 0, latches := List.replicate 8 0, pushes := 0, badLatch := [], count := 0, replays := false, woke := false, loopBuf := none, tries := 0,
    tx := none, lastExec := 0, meetFault := none }

/-! ### Groups and control-core threads -/

/-- An entry of the reconvergence stack (R52). -/
structure RPoint where
  addr    : Dword
  members : List Nat
deriving DecidableEq, Repr

/-- The trap CSRs of a group (R353). -/
structure TrapRegs where
  inHandler : Bool
  deferred  : Bool
  cause     : BitVec 8
  mask      : Word
  tpc       : Dword
  tfpc      : Dword
  tval      : Dword
  tword     : Word
  tword2    : Word
deriving DecidableEq, Repr

/-- What a trap saves of one seat (R141, R355). -/
structure SeatSave where
  pc      : Dword
  mode    : LaneMode
  latches : List Dword
  pushes  : Nat
  count   : Nat
  replays : Bool
  woke    : Bool
  inH     : Bool     -- the seat runs the handler
  onPath  : Bool     -- the seat was on the trapping path
deriving DecidableEq, Repr

/-- The uniform registers, the window base and the group CSRs that an instruction can write, as the sources of one issue read
them (R20, R139). -/
structure Uniforms where
  wb      : Nat
  sregs   : List Word
  acaps   : List Cap
  period  : Nat
  expired : Bool
  gstat   : Bool
  fpRM    : Nat
  fpARM   : Nat
  txRetry : Nat
  txValp  : Nat
  svpart  : Nat
  trap    : TrapRegs
  stc     : List Word
deriving DecidableEq, Repr

/-- An active set of an issue (R143): its address, its seats, and the words its lanes' loop buffers give it, when the
broadcast does not serve it (R121, R146). -/
structure IssueSet where
  addr  : Dword
  seats : List Nat
  words : Option (Word × Word)
deriving DecidableEq, Repr

/-- The line watch of a group or thread (R299): the line, by home package and physical line, and whether it fired. -/
structure Watch where
  pkg   : Nat
  line  : Nat
  fired : Bool
deriving DecidableEq, Repr

/-- A give in progress (R106). -/
structure Give where
  core   : Nat
  entry  : Nat
  hamper : Nat
  target : Nat      -- entry Q on the target's core
  name   : Dword
  sreg   : Nat
deriving DecidableEq, Repr

/-- A launch descriptor (R40). -/
structure Desc where
  entry    : Dword
  traph    : Dword
  gridX    : Nat
  gridY    : Nat
  gridZ    : Nat
  teamX    : Nat
  teamY    : Nat
  teamZ    : Nat
  span     : Nat
  roles    : Nat
  regs     : Nat
  hampers  : Nat
  barriers : Nat
  progress : Nat
  priority : Nat
  residency : Nat
  argcap   : Cap
  joincap  : Cap
  roleTab  : List Word
  fmtTab   : List Word
  reserved : Bool       -- every reserved byte is zero
deriving DecidableEq, Repr

/-- A trap that an access has still to raise: it failed in another package after its instruction had completed (R398). -/
structure Deferred where
  cause : Cause
  pc    : Dword
  value : Dword
  mask  : Word
deriving DecidableEq, Repr

/-- What makes a group leave arbitration (R268, R343). Waits other than lwait, hgive, svc and svcDone issue their
instruction again. -/
inductive Wait where
  | kwait (cluster hamper off : Nat)
  | join (line : Nat)
  | lwait (since limit sreg : Nat)
  | hgive (g : Give)
  | eqpush (line : Nat)
  | eqpop (line : Nat)
  | svc (batch : Nat)
  | postLimit
  | bar                              -- in BAR, on its earlier matrix instructions (R210)
  | claim
  | copySlot
  | spawnRoom (d : Desc) (args : List Word)
  | joinFar                          -- on a counter, or a header, in another package, which is looked at again (log 88)
  | eqFar (pop : Bool)
  | wfi
  | extinv
deriving DecidableEq, Repr

/-- What a trap saves of the group (R355), with the run that it interrupts (R141). -/
structure TrapSave where
  seats : List SeatSave
  stack : List RPoint
  tpc   : Dword      -- TPC as the trap set it, and the address after its instruction: a return to another ends the saved run (R141)
  next  : Dword
  queue : List IssueSet -- what of the trapping issue has not executed, the trapping set first
  boundary : Bool    -- PREEMPT or DEF: taken at a run boundary
  bcast  : Option Dword
  holder : List Nat
  served : List Nat
  endPending : Bool
  failed   : List Deferred -- failures of the interrupted code that have not been taken (log 103)
  wait     : Option Wait   -- an HGIVE, SVC or SPAWN that still waits while the handler runs
  waitDone : Option Nat
deriving DecidableEq, Repr

/-- A postcard as it is sent (R280): absolute register or s-register d, the words of each listed seat. -/
structure Postcard where
  d     : Nat
  n     : Nat
  u     : Bool
  vals  : List (Nat × List Word)
  scope : Nat
deriving DecidableEq, Repr

/-- Where a resident group sits (R135). -/
structure Place where
  core : Nat
  slot : Nat
  seat : Nat
deriving DecidableEq, Repr

/-- A charge that has not yet reached an STC register (R408): its owner settles it. -/
structure Charge where
  counter : Nat
  amount  : Nat
deriving DecidableEq, Repr

/-- A compute group, or the one-lane group of a control-core thread (R126, R127). -/
structure Group where
  lanes      : List Lane
  sregs      : List Word
  acaps      : List Cap
  wb         : Nat
  rstack     : List RPoint             -- innermost entry first
  bcast      : Option Dword            -- the path that holds the broadcast for one run (R144)
  holder     : List Nat                -- the seats of the path that the broadcast served last (R144)
  crossing   : List Nat                -- seats of paths that the broadcast has left: what they issued .strong is performed first (R122)
  snap       : Option Uniforms         -- what the sources of an issue of several active sets read (R139)
  issueQ     : List IssueSet           -- the active sets of the issue in progress that have not executed (R143)
  stalled    : Bool                    -- the first of them stalls (R137)
  endPending : Bool                    -- the run ends after the issue in progress (R22)
  runOpen    : Bool
  served     : List Nat                -- seats the run has served (R22)
  period     : Nat                     -- STEEP (R148)
  expired    : Bool
  steep      : Nat                     -- clocks that the steep timer has counted, up to steepAt while it runs (R149)
  steepAt    : Option Nat              -- since when it runs
  steepDue   : Bool
  yieldDue   : Bool                    -- a YIELD moves the broadcast at the run's end (R53)
  laneProg   : Bool                    -- PROGRESS of the grid (R42)
  gstat      : Bool                    -- GSTAT.EMPTY (R78)
  role       : Nat
  alloc      : Nat
  tcore      : Nat
  team       : Nat
  gix        : Nat
  launch     : Word
  asn        : BitVec 16
  svpart     : Nat
  fpRM       : Nat                     -- FPCTL (R172)
  fpARM      : Nat
  txRetry    : Nat                     -- TXCTL (R320)
  txValp     : Nat
  trap       : TrapRegs
  trapSave   : Option TrapSave
  stc        : List Word               -- STC0-STC7 (R408)
  charges    : List Charge
  paid       : Nat                     -- the clock up to which its clocks are charged, and the class of those after it (R408)
  cls        : Nat
  beats      : List Nat                -- the beats of the issue in progress: b, and 4 + b where it takes two clocks (R139)
  watch      : Option Watch
  holds      : List (Nat × Nat)        -- (register, seat); 0x1_0000 + n stands for sn (R282)
  status     : List (Nat × Nat)        -- status holds: (s-register, message) (R280)
  wait       : Option Wait
  waitDone   : Option Nat              -- the wait has ended: the reason or status its instruction takes when it issues again
  name       : Dword
  place      : Option Place
  marked     : Bool                    -- pre-emption (R343)
  trapDue    : Bool
  pdone      : Bool
  inPreempt  : Bool                    -- its handler was entered by PREEMPT (R293)
  postBox    : List Postcard
  readySince : Nat
  lastIssue  : Nat
  dbgStop    : Bool                    -- stopped by the debug port (R416)
  haltDue    : List Nat                -- logical threads whose HALT waits for the run boundary (R416)
  stopCause  : Nat                     -- the cause of the stop, as its record has it, and the seats of the instruction that it stopped
  stopSeats  : List Nat
  stopFor    : List Nat                -- the logical threads that HALT stopped it for (R154)
  skipStop   : List (Nat × Nat)        -- causes that do not stop a seat's resumed instruction again (R416)
  badSregs   : List Nat                -- s-registers whose bank ECC fails (R242); a write mends one
  fmts       : List Word               -- f0-f7 of a control-core thread (R187)
  failed     : List Deferred           -- the first of them is taken at the next release, fence or run boundary (R398)
  cut        : Bool                    -- the hardware saves or halts it at its next run boundary (R344, R347)
  moveDue    : Option Place            -- a migration waits for the run boundary (R138)
  saved      : Bool                    -- saved by pre-emption (R345)
  halted     : Bool                    -- halted by a partition swap (R347)
  ended      : Bool                    -- retired (R54)
deriving DecidableEq, Repr

def TrapRegs.reset : TrapRegs := ⟨false, false, 0, 0, 0, 0, 0, 0, 0⟩

def Cap.null : Cap := ⟨0, false⟩

/-- The state of R23 for the lanes given. -/
def Group.fresh (lanes : List Lane) (alloc : Nat) : Group :=
  { lanes, sregs := List.replicate 16 0, acaps := List.replicate 16 Cap.null, wb := 0, rstack := [], bcast := none,
    holder := [], crossing := [], snap := none, issueQ := [], stalled := false, endPending := false, runOpen := false, served := [],
    period := 2048, expired := false, steep := 0, steepAt := none,
    steepDue := false, yieldDue := false, laneProg := true, gstat := false, role := 0, alloc, tcore := 0, team := 0, gix := 0, launch := 0,
    asn := 0, svpart := 0, fpRM := 1, fpARM := 1, txRetry := 8, txValp := 6, trap := TrapRegs.reset, trapSave := none,
    stc := List.replicate 8 0, charges := [], paid := 0, cls := 6, beats := [], watch := none, holds := [], status := [], wait := none, waitDone := none,
    name := 0, place := none, marked := false, trapDue := false, pdone := false, inPreempt := false, postBox := [],
    readySince := 0, lastIssue := 0, dbgStop := false, haltDue := [], stopCause := 0, stopSeats := [], stopFor := [], skipStop := [], badSregs := [], fmts := List.replicate 8 0, failed := [], cut := false, moveDue := none, saved := false,
    halted := false,
    ended := false }

/-- A line of an instruction cache: its bytes, and which of its sectors are poisoned (R231, R242). -/
structure CodeLine where
  bytes  : List Byte
  poison : List Nat
deriving DecidableEq, Repr

/-- A control core with its thread (R127, R295, R302, R318, R331). -/
structure Ctl where
  thread    : Group
  kernel    : Bool
  ecause    : BitVec 8
  pie       : Bool
  pprv      : Bool
  ie        : Bool
  epc       : Dword
  evec      : Dword
  eval      : Word
  pasn      : BitVec 16
  ppart     : Nat
  icache    : FMap CodeLine      -- instruction-cache lines by physical line (R302)
  signature : List Nat           -- lines of the read set that left the L2 (R318)
  started   : Bool               -- R424: bring-up starts a core; the spec gives no way to start another (log 16)
  revoked   : FMap Word          -- revocation-cache lines (R241)
  mappedOut : Bool
deriving DecidableEq, Repr

/-- A control core at its reset (R127, R295): the pc is where the boot ROM starts it, which the image names (R424). -/
def Ctl.reset : Ctl :=
  { thread := Group.fresh [Lane.fresh (some 0) 128 0] 128, kernel := true, ecause := 0, pie := false, pprv := false,
    ie := false, epc := 0, evec := 0, eval := 0, pasn := 0, ppart := 0, icache := [], signature := [], started := false,
    revoked := [], mappedOut := false }

/-! ### Teams and grids -/

/-- Where a grid comes from (R133). -/
inductive Source where
  | spawn
  | edge (pkg : Nat) (asn : BitVec 16) (header : Cap)   -- FREE of that queue rises when the team retires (R284)
  | amsg (handler die : Nat)  -- placed on the target core's die (R285)
  | fault
  | service (die : Nat)
deriving DecidableEq, Repr

/-- A grid in its partition (R131, R338, R341, R351). -/
structure Grid where
  launch   : Word
  part     : Option Nat
  desc     : Desc
  asn      : BitVec 16
  args     : List Word   -- s0-s15 of its teams
  a0       : Cap
  source   : Source
  teams    : Nat         -- teams the grid holds in all
  next     : Nat         -- linear index of the next team to dispatch
  held     : Bool
  reported : Bool        -- its GRID_STALL has been reported (R351)
  ended    : Bool        -- ended by R356
  order    : Nat         -- order of entry into its queue
deriving DecidableEq, Repr

/-- A named barrier (R274). -/
structure Barrier where
  cnt     : Nat
  arr     : Nat
  phase   : Nat
  arrived : List Nat   -- threads that arrived in the phase
  again   : List Nat   -- threads whose second arrival counts in the next phase (R275)
deriving DecidableEq, Repr

/-- The kinds of an operand row (R193). -/
inductive RowKind where
  | q8 | q4 | bf16 | f16
deriving DecidableEq, Repr

/-- A weight plane (R188): its rows as read, with their kind and format, or the zero plane. -/
structure Plane where
  kind   : RowKind
  fmt    : Word
  rows   : List (List Byte)
  poison : List Nat          -- rows that hold poisoned data
deriving DecidableEq, Repr

def Plane.zero : Plane := ⟨.q8, 0, [], []⟩

/-- An AF40 element of the accumulator plane, by its 40 bits, with its poison (R158, R242). -/
structure AccElem where
  code   : BitVec 40
  poison : Bool
deriving DecidableEq, Repr

/-- A matrix instruction accepted by the array (R191): its group, its active logical lanes with the threads they hold,
and the operands read at issue. -/
structure MatrixOp where
  instr  : Instr
  group  : Nat
  owners : List (Nat × Nat)       -- active seats and their threads
  o0     : Nat                    -- uniform operands
  o1     : Nat
  vals   : List (Nat × List Word) -- per seat: registers read
  fmt    : Word
  hamper : Option (Nat × Nat)     -- cluster and hamper of the entry named
  rm     : Nat
  arm    : Nat
  sh     : Option Nat             -- the number of the .sh operation this is a copy of (R201)
  rows   : Option (List (List Byte) × List Nat) -- rows read for every core of a .sh operation, with the poisoned ones
  home   : Bool                   -- on the issuing core
  slot   : Nat                    -- the slot whose issue was accepted, and the clock; 4 for a .sh operation that arrived
  time   : Nat
  raised : List (Nat × Nat)       -- flags that other cores have raised for a .sh operation, by seat (R216)
deriving DecidableEq, Repr

/-- The matrix state of a core (R188-R191). -/
structure Matrix where
  claim  : Option Nat        -- the claiming team
  active : Plane
  shadow : Plane
  acc    : FMap AccElem      -- by 128 * row + column; an absent element is +0
  queue  : List MatrixOp
  incoming : List MatrixOp   -- .sh operations that have not reached this core (R201)
deriving DecidableEq, Repr

def Matrix.reset : Matrix := ⟨none, Plane.zero, Plane.zero, [], [], []⟩

/-- What a team is doing. -/
inductive TeamPhase where
  | resident
  | saved
  | retiring (step : Nat)   -- the step of R230 it is at
  | retired
deriving DecidableEq, Repr

/-- One hamper map entry of a team (R103, R324): the entry's number and what is attached. -/
structure MapEntry where
  index  : Nat
  hamper : Option Nat
  gv     : Bool
deriving DecidableEq, Repr

/-- A team that has been dispatched (R126). -/
structure Team where
  grid     : Nat
  index    : Nat
  launch   : Word
  part     : Option Nat
  phase    : TeamPhase
  cluster  : Nat            -- 20 * die + cluster
  base     : Nat            -- its first core
  span     : Nat
  threads  : Nat
  groups   : List Nat       -- the model's group numbers, by group index
  fmts     : List Word
  barriers : List Barrier
  maps     : List (List MapEntry)  -- per team core: the entries it owns (R324)
  matrix   : List (Option Matrix)  -- per team core: state saved with the team (R189, R345)
  copies   : List (Nat × Nat)      -- copies in flight (core, slot)
  evicted  : Bool           -- kept out until its grid's head team has been placed (R350)
  savedAt  : Nat
  swapped  : Bool           -- its context lies in shadow storage (R346)
  seated   : Bool           -- it holds seats, map entries and barriers
  advances : Nat            -- join-counter advances it stands for: one, or those of the teams that never ran (R356)
deriving DecidableEq, Repr

/-! ### Cores and clusters -/

/-- The state of a copy slot (R110-R114). -/
inductive CopyState where
  | never | running | complete | cancelled | failed
deriving DecidableEq, Repr

/-- One end of a copy: an offset in an object, with its home package, of an address space, or a hamper offset. -/
inductive CopyEnd where
  | mem (pkg : Nat) (asn : Nat) (obj : Nat) (off : Nat)
  | hamper (cluster : Nat) (h : Nat) (off : Nat)
deriving DecidableEq, Repr

/-- A copy slot (R110-R113). Bytes are numbered row by row from 0. -/
structure CopySlot where
  state  : CopyState
  seq    : Nat
  team   : Nat
  group  : Nat
  rowLen : Nat
  rows   : Nat
  srcPitch : Nat
  dstPitch : Nat
  src    : Option CopyEnd
  dsts   : List CopyEnd
  taken  : List (Nat × Nat)         -- ranges [first, last) of bytes that the engine has read, or need not read (R257)
  done   : List (List (Nat × Nat))  -- per destination: ranges of bytes written there
  want   : List Nat                 -- lines whose ownership it has asked for and not got (R256)
  absent : List PageKey             -- destination pages that had no translation when it issued
  stop   : Option CopyState         -- how it ends once what it has sent to other packages is answered (R113, R114)
  kettle : Option (Nat × Nat × Nat) -- cluster, hamper, offset
  left   : Nat                      -- bytes not written when it ended
deriving DecidableEq, Repr

/-- A 32-byte sector that a near cache holds (R231). -/
structure NearSector where
  bytes  : List Byte
  tags   : List Bool
  poison : Bool
deriving DecidableEq, Repr

/-- A stream that the prefetcher of a core follows (R233): the group and capability that started it, the last line it
touched, and its stride once two lines in a row have given one. -/
structure Stream where
  group  : Nat
  key    : PageKey           -- the object and the page of the last line
  base   : Nat
  limit  : Nat
  line   : Nat               -- by offset in the object
  stride : Int
deriving DecidableEq, Repr

/-- One entry of a name table (R333): its generation, the group that holds it, and that group's allocation (R336). -/
structure NameEntry where
  gen       : Nat
  group     : Option Nat
  alloc     : Nat
  withdrawn : Bool
deriving DecidableEq, Repr

/-- A compute core (R135). -/
structure Core where
  slots    : List (Option Nat)  -- the group whose run each slot issues (R137)
  busy     : List Nat           -- until when the beats of each slot's last issue take (R139)
  copies   : FMap CopySlot
  seq      : Nat
  cpErr    : Bool
  cpDrop   : Nat
  near     : FMap NearSector    -- by physical sector
  streams  : List Stream
  icache   : FMap CodeLine
  matrix   : Matrix
  lastTrd  : Nat × Nat          -- the clock and the slot of its last TRD (R191)
  names    : FMap NameEntry
  revoked  : FMap Word          -- revocation-cache lines: (asn, object block) to bits (R241)
  mappedOut : Bool
deriving DecidableEq, Repr

def Core.reset : Core :=
  ⟨List.replicate 4 none, List.replicate 4 0, [], 0, false, 0, [], [], [], Matrix.reset, (0, 0), [], [], false⟩

/-- A hamper (R227, R228): its bytes by stored place, poisoned granules by stored place, and SWZ. -/
structure Hamper where
  bytes  : FMap Byte
  poison : List Nat
  swz    : Nat
  team   : Option Nat  -- the team that holds it; none in the pool
  giving : Bool        -- a give of it has set GV
deriving DecidableEq, Repr

def Hamper.reset : Hamper := ⟨[], [], 0, none, false⟩

/-- A cluster: its hampers and the context its shadow storage holds (R227, R274, R346). -/
structure Cluster where
  hampers  : FMap Hamper
  shadow   : Option Nat        -- the partition whose context shadow storage holds
  shadowHampers : FMap Hamper
deriving DecidableEq, Repr

def Cluster.reset : Cluster := ⟨[], none, []⟩

/-! ### Partitions -/

/-- A record ring in memory (R357, R410). -/
structure RecRing where
  base : Nat
  log2 : Nat
  head : Word
  tail : Word
  lost : Word
deriving DecidableEq, Repr

def RecRing.reset : RecRing := ⟨0, 0, 0, 0, 0⟩

/-- A breakpoint of a partition (R416). -/
structure Break where
  addr   : Dword
  launch : Nat
  team   : Option Nat
  thread : Option Nat
deriving DecidableEq, Repr

/-- A pre-emption command in progress (R341): the teams it names, and when it was given. -/
structure Preemption where
  teams : List Nat
  since : Nat
  eased : Bool               -- of an eviction: the head team that it makes room for has been placed meanwhile (R350)
deriving DecidableEq, Repr

/-- A head team that waits for room (R340): its priority, grid and index, since when, and whether it has waited HOLDOFF. -/
structure HeadWait where
  prio  : Nat
  grid  : Nat
  index : Nat
  since : Nat
  held  : Bool
deriving DecidableEq, Repr

/-- A partition (R330, R341, R357, R358, R407, R410, R415). -/
structure Part where
  enabled   : Bool
  clusters  : BitVec 160
  nextId    : Word
  pfDist    : Nat
  pfMode    : Nat
  stallw    : Nat
  holdoff   : Nat
  deadline  : Nat
  prqid     : Word
  prqteam   : Word
  prqRes    : Nat
  preempt   : Option Preemption
  evicting  : Option Preemption      -- an eviction by the stall watch (R350)
  swap      : Option Nat             -- the step of R347 a swap is at
  gstall    : Bool
  gstallId  : Word
  tq        : RecRing
  fkd       : Nat
  fkEn      : Bool
  fkAsn     : BitVec 16
  fkLost    : Word
  amBase    : Nat
  oq        : RecRing
  oqRetire  : Bool
  oqTrail   : Bool
  oqRate    : Nat
  watchCfg  : Word
  watchOff  : Nat
  watchLen  : Word
  breaks    : List Break
  heads     : List HeadWait          -- head teams that do not fit (R340)
  stalls    : FMap Nat               -- per stalled grid: since when (R349)
deriving DecidableEq, Repr

/-- A partition at package reset (R330, R232, R341, R346, R410). -/
def Part.reset : Part :=
  { enabled := false, clusters := 0, nextId := 1, pfDist := 4, pfMode := 1, stallw := 100, holdoff := 100, deadline := 50,
    prqid := 0, prqteam := 0, prqRes := 0, preempt := none, evicting := none, swap := none, gstall := false, gstallId := 0,
    tq := RecRing.reset, fkd := 0, fkEn := false, fkAsn := 0, fkLost := 0, amBase := 0, oq := RecRing.reset,
    oqRetire := false, oqTrail := false, oqRate := 16, watchCfg := 0, watchOff := 0, watchLen := 0, breaks := [],
    heads := [], stalls := [] }

/-- What partition CSRs a swapped-out context keeps beside it (R347 step 4). -/
structure Shadow where
  part   : Part
  empty  : Bool
deriving DecidableEq, Repr

/-! ### Memory requests in flight, the directory and translation -/

/-- What a request asks of its home slice. -/
inductive ReqKind where
  | translate                              -- a remote page's translation (R394)
  | load (size code : Nat)                 -- size in bytes and size code of R14
  | loadCap (lc : Bool)
  | loadTags (size : Nat)                  -- a descriptor or a queue header in another package, with its tags (R271, R284, R286)
  | queueBegin                             -- a step on an edge queue's header in another package begins, and ends (R284)
  | queueEnd (counts : List Byte)
  | slot (bytes : List Byte)               -- a store of EQPUSH to a slot in another package, which its step awaits
  | watch (thread : Who)                   -- LARM on a line of another package (R299)
  | handler (msg : Nat)                    -- a handler's descriptor in another package (R286)
  | store (bytes : List Byte)
  | storeCap (bytes : List Byte) (tag : Bool)
  | atomic (op size : Nat) (v cmp : Nat) (returns : Bool)
  | copyWrite (core slot : Nat) (dst first : Nat) (bytes : List Byte) (poison : Bool) -- of a copy with a destination in
                                           -- another package: the destination, and the bytes of the copy from first on
  | copyRead (core slot first len : Nat)              -- of a copy whose source lies in another package
  | parked                                 -- the target's park monitor will send a wake (R394)
  | portRead (ring : Nat) (len : Nat)      -- a transmit buffer in another package (R391)
  | message (sreg : Nat) (op : FabricOp)   -- a postcard or an active message: its answer is its status (R335)
  | give (name : Dword)                    -- a give to a name of another package (R106, R335)
  | invalidate (mode : Nat)  -- to a taker: translations of a page, an object or a space, or (3) its revocation lines (R395)
deriving DecidableEq, Repr

/-- A trail sample under way: what its record says of the request that it follows (R413). -/
structure Trail where
  thread : Nat
  op     : Nat
  size   : Nat
  asn    : Nat
  obj    : Nat
  off    : Nat
  slice  : Nat               -- translation slice and home slice
  home   : Nat
  parked : Bool
  missed : Bool
deriving DecidableEq, Repr

/-- A thread's access that has been translated and not completed (R234, R362): it is performed at its home slice, and
a load's reply then reaches the lane. A remote access has a target package and, but for loads, a number (R397). -/
structure Req where
  who    : Who
  seat   : Nat
  kind   : ReqKind
  strong : Bool              -- of .strong or stronger ordering (R122)
  addr   : Nat               -- physical address; in the target's object for a remote access
  key    : PageKey
  asn    : Nat               -- the address space whose revocation check it passed (R367)
  dest   : Option Nat        -- absolute register of a load's or ATOMR's result
  latch  : List (Nat × Nat)  -- the latches that take its value: seats, each with the count of its push (R21)
  done   : Bool              -- performed at the home slice
  answer : Option FabricAnswer -- what a remote package answered
  value  : List Byte         -- what a load or atomic read
  tag    : Bool
  gen    : Nat               -- the slice-map generation it was hashed under (R236)
  rehome : Bool              -- answered with RE-HOME (R239)
  bounced : Bool             -- it has been answered so before
  remote : Option Nat        -- the target package
  num    : Option Nat
  sends  : Nat
  sentAt : Nat
  pc     : Dword             -- the issuing instruction
  cseq   : Nat := 0          -- CSEQ that it carries, or once it is performed its reply (R412)
  fence  : Option Nat := none -- of an ATOM.acq in another package: the thread's later accesses come after it, at this scope (R96)
  trail  : Option Trail := none -- the trail sample that follows it (R413)
deriving DecidableEq, Repr

/-- Directory states of R263. -/
inductive DirState where
  | I | P | C | O
deriving DecidableEq, Repr

/-- A directory entry (R263). -/
structure DirEntry where
  st     : DirState
  busy   : Bool
  acks   : Nat
  ptrs   : List Nat          -- sharers of P, the owner of O
  coarse : BitVec 17
  wait   : Option Nat        -- the request that goes on when the last acknowledgement has come
  recalls : Bool             -- the outstanding message is a recall
  reads  : Bool              -- the access that goes on then is a read
  owed   : List Nat          -- agents that an invalidation or a recall is on its way to
  acked  : List (Nat × Nat)  -- agents whose acknowledgement is on its way back, with the CSEQ that it carries (R412)
  cseq   : Nat               -- CSEQ that the invalidations or the recall carry
deriving DecidableEq, Repr

def DirEntry.reset : DirEntry := ⟨.I, false, 0, [], 0, none, false, false, [], [], 0⟩

/-- An eviction notice, or a write-back, on its way to the home slice (R266). -/
structure DropNote where
  agent : Nat
  line  : Nat
  data  : Bool
deriving DecidableEq, Repr

/-- An extent-cache entry (R361, R365): the extent entry, with its count as the cache holds it, and as the walker read it. -/
structure Extent where
  key   : PageKey
  entry : Dword
  read  : Dword
  phys  : Nat                -- where the entry lies in memory
deriving DecidableEq, Repr

/-- A park monitor (R364). -/
structure Monitor where
  slice : Nat
  line  : Nat
  pages : List PageKey       -- pages whose first requester has had its notice
  who   : List (Who × PageKey)
deriving DecidableEq, Repr

/-- A notice waiting for room in the ring (R366). -/
structure Notice where
  kind  : Nat
  src   : Nat
  key   : PageKey
  entry : Dword
deriving DecidableEq, Repr

/-- A line marked for a ticket (R316). -/
structure Mark where
  line   : Nat
  ticket : Nat
  writes : Bool
deriving DecidableEq, Repr

/-- A ticket of the caddy (R315). -/
structure Ticket where
  num  : Nat
  tend : Nat                 -- the first ticket of the TEND that took it (R306)
  who  : Nat                 -- the compute group
  seat : Nat
deriving DecidableEq, Repr

/-- The line of an edge queue's header, held from the beginning of a step to its end (R284): by the instruction of a thread of this
package, or by another package. -/
structure QueueHold where
  line : Nat
  who  : Option Who
  pc   : Dword
  pkg  : Nat
deriving DecidableEq, Repr

/-- A lane that waits at a TBEGIN for the cosy lock (R321): where its status goes and where it goes on. -/
structure CosyWait where
  who  : Who
  seat : Nat
  reg  : Nat
  next : Dword
  n    : Bool              -- N: the status word is not written (R21)
deriving DecidableEq, Repr

/-- An EXTINV in progress (R301): its key, and what it still waits for. -/
structure ExtInv where
  who   : Who
  mode  : Nat
  asn   : Nat
  obj   : Nat
  page  : Nat
  pend  : List Nat           -- requests to takers that have not answered
deriving DecidableEq, Repr

/-- What a drain or a sync waits for (R367): requests, transactions that have buffered writes, and copies. -/
structure OpenWork where
  reqs   : List Nat
  txs    : List (Who × Nat × Nat)   -- thread, seat, and the tick at which it opened
  copies : List (Nat × Nat × Nat)   -- core, slot and sequence number
deriving DecidableEq, Repr

/-- A revocation sync in progress (R367): what passed a check before it, and the requests to takers. -/
structure RvSync where
  asn  : Nat
  work : OpenWork
deriving DecidableEq, Repr

/-- An invalidation of another package that this one, as a taker, has still to acknowledge (R395): what it waits for. -/
structure TakerAck where
  pkg  : Nat
  asn  : BitVec 16
  work : OpenWork
deriving DecidableEq, Repr

/-- A slice-map change in progress (R238). -/
structure MapChange where
  slice : Nat
  step  : Nat                -- 1: the leaving slice holds requests; 5: it is a stub
  moved : List Nat           -- entries of the slice map that moved
  acks  : List Nat           -- injectors that have not acknowledged
deriving DecidableEq, Repr

/-! ### Messages -/

/-- Where a message comes from and its status goes (R280, R335): a thread's s-register, or another package; with the CSEQ that the
message carries (R412). -/
inductive Sender where
  | here (w : Who) (sreg cseq : Nat)
  | far (pkg cseq : Nat)
deriving DecidableEq, Repr

/-- A message between groups, or to a group, that has not taken effect (R280, R285, R335). -/
inductive Msg where
  | post (sender : Sender) (name : Dword) (card : Postcard)
  | status (to_ : Who) (sreg : Nat) (code : Word) (die cseq : Nat)   -- from a die, with what it carries
  | amsg (sender : Sender) (target : Dword) (handler : Nat) (words : List Word) (cap : Cap) (name : Dword)
  | forwarded (group : Nat) (sender : Sender) (card : Postcard) (die cseq : Nat)
  | resolve (k : PageKey) (who : Who)       -- a park monitor's wake crossing the fabric (R394)
deriving DecidableEq, Repr

/-- A service batch (R287, R404). -/
structure Batch where
  group  : Nat
  part   : Nat
  die    : Nat
  name   : Dword
  launch : Word
  team   : Nat               -- the team's linear index and the lanes' logical threads (R154)
  threads : List Nat
  n      : Nat
  keep   : Bool              -- N: sK is not written (R21)
  a0     : Cap
  asn    : BitVec 16
  seats  : List Nat
  quads  : List Quad
  dest   : Nat               -- absolute register of the request quad
  sreg   : Nat
  taken  : Bool              -- the service team has it
  replies : FMap Quad        -- replies formed, by lane
  freeing : FMap (Nat × OpenWork) -- per lane of a FREE whose revocation bit is set: the object, and what its sync waits for (R369, R405)
  issued : Nat               -- the tick at which it was issued
  asked  : List Nat          -- lanes whose request has gone to the drive (R406)
  answers : FMap (Bool × List Byte) -- per lane: the drive's answer, and the blocks of an SREAD
deriving DecidableEq, Repr

/-! ### Ports, fabric, PCIe, trust, observation -/

/-- A message whose packets are arriving (R381). -/
structure Partial where
  port  : Nat
  conn  : Nat
  got   : List Nat
  total : Nat
  since : Nat
  msg   : PortMsg
deriving DecidableEq, Repr

/-- A receive ring as its port reads it for a message (R384). -/
structure RxRing where
  desc : Nat
  dold : Bool
  enc  : Bool
  lsz  : Nat
  lnum : Nat
  sd   : Nat
  base : Nat
deriving DecidableEq, Repr

/-- A message whose fate is being carried out (R382, R385): the step of its placement that comes next; 0 before its fate. The ring
as it was read for the message, and the message's number n, are those of its fate. -/
structure Placing where
  port : Nat
  msg  : PortMsg
  step : Nat
  ring : Option (RxRing × Nat)
deriving DecidableEq, Repr

/-- A transmit ring as its port reads it (R390). -/
structure TxRing where
  desc : Nat
  enc  : Bool
  port : Nat
  lnum : Nat
  mode : Nat
  sd   : Nat
  asn  : Nat
  base : Nat
deriving DecidableEq, Repr

/-- A transmit entry that a port has consumed (R391): the ring and the entry as it read them, whether it has been sent, and what the
transport has said of it. -/
structure TxBusy where
  entry : Nat
  ring  : TxRing
  dest  : List Byte
  addr  : Nat                -- physical address of the entry
  len   : Nat
  ringx : Nat
  buf   : Cap
  sent  : Bool
  outcome : Option Bool      -- delivered, or not
deriving DecidableEq, Repr

/-- A write of the hardware's own that has still to be made: it waits for its line, and behind earlier ones to its place (R256, R265,
R316). -/
inductive HwWrite where
  | observation (part : Nat) (bytes : List Byte)                                  -- a record of R410
  | record (part kind cause : Nat) (launch : Word) (bytes : List Byte)            -- a record of R357
  | count (e : Extent)                                                            -- CNT and Q of an extent entry (R365)
  | portCount (port off : Nat) (bytes : Option Nat)                               -- counters of a status block (R388)
deriving DecidableEq, Repr

/-- Execution window of a source package at this target (R397). -/
structure Window where
  high    : Nat
  done    : List Nat
  replies : FMap FabricAnswer
deriving DecidableEq, Repr

/-- A PCIe request held for a page that is not resident (R400). -/
structure HeldPcie where
  req   : PcieReq
  asn   : Nat                -- of the requester's entry when the port received it (R401)
  since : Option Nat         -- when its page was first found absent
deriving DecidableEq, Repr

/-- What the package has handed to the outside. -/
inductive Outbound where
  | portAck (port conn : Nat) (fate : Nat)
  | portSend (ring port mode : Nat) (secure : Option Nat) (dest : List Byte) (ringx : Nat) (bytes : List Byte)
  | drive (service batch lane handle lba : Nat) (data : List Byte) -- a request of R406 to a storage drive
  -- over the fabric, with the CSEQ of the die that it leaves (R412)
  | fabricReply (pkg : Nat) (num : Option Nat) (answer : FabricAnswer) (cseq : Nat)
  | fabricRequest (pkg : Nat) (num : Option Nat) (asn obj off : Nat) (op : FabricOp) (cseq : Nat)
  | fabricMessage (pkg : Nat) (m : Msg) (cseq : Nat)
  | invalidate (pkg mode asn obj page cseq : Nat)
  | invalidateAck (pkg : Nat) (asn : BitVec 16) (cseq : Nat)
  | nodeAck (line cseq : Nat)
  | nodeInvalidate (pkg line cseq : Nat)    -- a node copy that another package holds of this one's line (R260, R265)
  | pcieCompletion (port : Nat) (rid : BitVec 16) (status : Nat) (data : List Byte)
  | pcieOutbound (port op : Nat) (addr : Dword) (data : Word)
  | debugReply (ok : Bool) (data : List Byte)
  | spdm (code : Nat) (body : List Byte)
  | report (kind unit : Nat)
deriving DecidableEq, Repr

/-- A memory key range (R418). -/
structure KeyRange where
  base  : Nat
  limit : Nat
  key   : BitVec 256
deriving DecidableEq, Repr

/-- The lifecycle states of R370 and R417, by their code. -/
structure Trust where
  tmbase    : Nat
  block     : Nat            -- TMBASE as the running command latched it (R371)
  busy      : Option Nat     -- the command in progress
  res       : Nat
  lifecycle : Nat
  dbg       : Bool
  kw        : Bool
  devid     : Quad
  nonce     : Option Nat     -- which draw of the generator the nonce is
  chseq     : Nat
  draws     : Nat
  mrs       : List (List Byte)
  pkgKey    : Nat            -- which draw key id 0 is (R418, R424)
  memKeys   : FMap KeyRange
  portKeys  : FMap (BitVec 256) -- port key slots (R383)
  sessions  : FMap (Nat × Bool) -- SPDM sessions open: their key exchange, and whether FINISH has completed the set-up (R421)
  exchanges : Nat            -- key exchanges so far: each makes another data key
  spdmSeq   : Nat
  authEC    : List Byte      -- the debug authority keys that the image carries, and their fused hashes (R373, R421)
  authPQ    : List Byte
  authHashEC : List Byte
  authHashPQ : List Byte
  imageHashEC : List Byte    -- fused hashes of the keys that images are signed under
  imageHashPQ : List Byte
  minVersion : Nat           -- fused security version minimum (R424)
deriving DecidableEq, Repr

/-- Health and thermal state (R422, R423, R425). -/
structure Health where
  replace   : Bool
  therm     : Bool
  cores     : Nat
  slices    : Nat
  channels  : Nat
  links     : Nat
  ce        : Nat
  ue        : Nat
  corrected : List (Nat × Nat × Nat) -- errors corrected in the last second: unit kind of R423, unit, and when
  degrading : FMap Nat       -- channels marked DEGRADING: since when
  badChans  : List Nat
  badLinks  : List Nat
  powerCap  : Nat
  tempLimit : Nat
  halted    : Bool
deriving DecidableEq, Repr

/-- What the boot ROM is doing (R424). -/
inductive Boot where
  | waiting      -- no verified image: the boot ROM waits
  | running
  | scrapped     -- R417: every die is held in reset
deriving DecidableEq, Repr

/-- The package CSRs of ports, fabric, PCIe and interrupts (R366, R389, R392, R401-R403, R414). -/
structure Regs where
  psel    : Nat
  nqBase  : Nat
  nqLog2  : Nat
  nqHead  : Word
  nqTail  : Word
  nqOvf   : Word
  thresh  : Nat
  astBase : Nat
  astLen  : Nat
  rtBase  : Nat
  ttBase  : Nat
  rpBase  : Nat
  rpSize  : Nat
  psBase  : Nat
  pen     : BitVec 16
  pkg     : Nat
  node    : BitVec 16
  retry   : Nat
  rto     : Nat
  pxAddr  : Dword
  pxData  : Word
  pxBusy  : Option (Nat × Nat)  -- outstanding: port and operation
  pxRes   : Nat
  ivBase  : Nat
  rqPort  : Nat
  rqRid   : BitVec 16
  evsel   : List Nat
  evcnt   : List Dword
deriving DecidableEq, Repr

/-! ### The package -/

/-- Who moves when no event is due: a control core, a slot of a compute core, or one of the package's engines (the home
slices, meshes, matrix arrays, copy engines and ports), which takes up the work that stands before it. -/
inductive Turn where
  | ctl (n : Nat)
  | slot (core slot : Nat)
  | engine
deriving DecidableEq, Repr

/-- The issue in progress: its thread, the address and words of the instruction, the active set by seat, and its
length in bytes. -/
structure Issue where
  who   : Who
  addr  : Dword
  word  : Word
  word2 : Word
  len   : Nat
  seats : List Nat
  words : Option (Word × Word)   -- the words that loop buffers gave (R146)
deriving DecidableEq, Repr

/-- An error of R242 that has not been found yet: one that its code corrects, in a unit by its kind of R423 or elsewhere (0); or one
that poisons a sector of memory or of a slice, of a near cache or of a control core's caches, a granule of a hamper, a register
of a bank, an s-register or a latch. -/
inductive Flaw where
  | corrected (kind unit : Nat)
  | sector (n : Nat)
  | near (core n : Nat)
  | copy (ctl n : Nat)
  | granule (cluster hamper off : Nat)
  | register (who : Who) (seat n : Nat)
  | sreg (who : Who) (n : Nat)
  | latch (who : Who) (seat n : Nat)
deriving DecidableEq, Repr

/-- The package. -/
structure State where
  -- the model's own (log 2): who moves, what is due, the issue in progress, and the hardware's free choices
  turn    : Turn
  agenda  : List Instr
  cur     : Option Issue
  ticks   : List Nat         -- clocks that pass per step; one when the list is empty
  bits    : List Bool        -- yes-no choices; no when the list is empty
  picks   : List Nat         -- numbers chosen; zero when the list is empty
  flaws   : List Flaw        -- the errors that are still to be found, in any order (R242)
  tick    : Nat              -- counter that the opaque free values are applied to
  round   : Nat              -- how often the engines have had their turn
  -- clocks
  now     : Nat
  cyc     : List Nat         -- CYC of each compute die (R303)
  cseq    : FMap Nat         -- CSEQ of each of the 18 dies (R412)
  -- threads and work
  ctls    : FMap Ctl
  groups  : FMap Group
  teams   : FMap Team
  grids   : FMap Grid
  parts   : FMap Part
  shadows : FMap Shadow      -- per partition: the context in shadow storage (R346)
  cores   : FMap Core
  clusters : FMap Cluster
  queued  : Nat              -- order numbers given to queue entries
  service : FMap Nat         -- per compute die: its service team
  services : List Nat        -- service numbers registered (R404)
  -- memory
  mem     : List Host.Cell
  tags    : List Nat         -- granules whose tag is set
  poison  : List Nat         -- poisoned sectors
  keyed   : FMap Config.MemKey -- per sector: the key it was written under, when that is not key id 0 (R418)
  lpddr   : Nat              -- installed LPDDR6 in GiB (R240)
  -- coherence, translation and requests
  dir     : FMap DirEntry
  copies  : List (Nat × Nat) -- (agent, line): copies of lines that agents hold
  dirty   : List (Nat × Nat) -- of those, the modified ones
  badCopies : List (Nat × Nat) -- (agent, sector): poison of clean copies in control-core caches (R242)
  nodeNames : List (PageKey × Nat × Nat) -- of those, the line of a page that each was asked for as
  nodeCopies : List Nat      -- lines of other packages held in this package's slices: 2^35 * (package + 1) + line (R260)
  reqs    : FMap Req
  smap    : FMap Nat         -- entries of the slice map that differ from reset (R236)
  smGen   : BitVec 16
  change  : Option MapChange
  stubs   : List Nat         -- slices that have left the map
  leaving : List Nat         -- slices whose change waits for the one in progress
  notes   : List DropNote    -- notices and write-backs on their way (R266)
  extents : List Extent
  monitors : List Monitor
  notices : List Notice
  xdrain  : Option OpenWork
  rvsync  : Option RvSync
  rvAsn   : BitVec 16
  acked   : List (Nat × Nat × Nat × Nat) -- writes to drives whose replies have landed and that no SFLUSH has covered: tick, handle, LBA, blocks (R406)
  freed   : List (Nat × Nat × Bool) -- objects freed (address space, index) until step 5 of R369 is over; and whether its sync has begun
  extinvs : List ExtInv
  takers  : List (Nat × Nat) -- (asn, package)
  rdmems  : List Nat         -- debug reads that their home slices hold back (R416)
  acks    : List TakerAck    -- acknowledgements this package owes as a taker (R395)
  farRevoked : List (Nat × Nat × Nat) -- (package, asn, object): bits set in other packages' revocation bitmaps
  remotes : List Extent      -- remote translation caches (R394)
  marks   : List Mark
  qholds  : List QueueHold
  farWatches : List (Nat × Who × Nat) -- watches that other packages have armed here: package, its thread, line (R299)
  tickets : List Ticket
  nextTicket : Nat
  cosy    : Option (Who × Nat)
  cosyQ   : List CosyWait
  -- messages and engines
  msgs    : FMap Msg
  batches : FMap Batch
  partials : List Partial
  arrived : List (Nat × Nat) -- port and number of messages whose packets have all come, or whose time was over (R381)
  hwWrites : List HwWrite
  retries : List (PageKey × Nat) -- pages that no monitor watches for an engine: when it looks again (R364)
  placing : List Placing     -- messages that have arrived and are not yet placed or dropped (R382, R385)
  txBusy  : FMap TxBusy
  txWait  : FMap Nat         -- transmit rings that wait for an entry to be ready: until when (R391)
  psRaised : FMap Nat        -- per stream port: when its vector was last raised (R403)
  inbound : List FabricReq   -- requests of other packages that wait at the home slice
  granted : List (Nat × Extent) -- translations given to other packages (R394)
  seqNums : FMap Nat         -- next sequence number per target package (R397)
  windows : FMap Window
  held    : FMap HeldPcie
  rtable  : FMap (BitVec 16) -- requester entries: 65,536 * port + RID to ASN (R401)
  vectors : List Nat         -- pending interrupt vectors, rising (R403)
  sent    : List Outbound
  regs    : Regs
  trust   : Trust
  health  : Health
  boot    : Boot
deriving DecidableEq, Repr

/-- Why a step cannot be taken. It is no behaviour of the machine: the state or the event's arguments name a thread
that does not exist. -/
inductive Fault where
  /-- Raised by every meaning when the issue in progress names no thread of the state; safe: no run from reset or from
  a state that names its issuer reaches it. -/
  | noIssuer
deriving DecidableEq, Repr

/-- Why an instruction has no meaning. -/
inductive Refusal where
  /-- Raised by an arm of Dispatch.lean whose instruction has no meaning in this model; safe: the run stops. -/
  | notModelled (mnemonic : String)
deriving DecidableEq, Repr

def Trust.reset : Trust :=
  { tmbase := 0, block := 0, busy := none, res := 0, lifecycle := 1, dbg := false, kw := false, devid := 0, nonce := none, chseq := 0,
    draws := 0, mrs := List.replicate 8 (List.replicate 48 0), pkgKey := 0, memKeys := [], portKeys := [], sessions := [],
    exchanges := 0, spdmSeq := 0, authEC := [], authPQ := [], authHashEC := [], authHashPQ := [], imageHashEC := [], imageHashPQ := [],
    minVersion := 0 }

def Health.reset : Health := ⟨false, false, 0, 0, 0, 0, 0, 0, [], [], [], [], 0, 0, false⟩

def Regs.reset : Regs :=
  { psel := 0, nqBase := 0, nqLog2 := 0, nqHead := 0, nqTail := 0, nqOvf := 0, thresh := 0, astBase := 0, astLen := 0,
    rtBase := 0, ttBase := 0, rpBase := 0, rpSize := 0, psBase := 0, pen := 0, pkg := 0, node := 1, retry := 8, rto := 20,
    pxAddr := 0, pxData := 0, pxBusy := none, pxRes := 0, ivBase := 0, rqPort := 0, rqRid := 0,
    evsel := List.replicate 4 0, evcnt := List.replicate 4 0 }

/-- The package right after package reset (R424): the boot ROM waits for its image, nothing is started, every table is
at its reset value. What the spec gives no reset value for is named in INVENTORY.md and notes/assumptions. -/
def State.reset : State :=
  { turn := .ctl 0, agenda := [], cur := none, ticks := [], bits := [], picks := [], flaws := [], tick := 0, round := 0, now := 0,
    cyc := List.replicate 8 0, cseq := [], ctls := [], groups := [], teams := [], grids := [], parts := [], shadows := [],
    cores := [], clusters := [], queued := 0, service := [], services := [1, 2, 16, 17, 18], mem := [], tags := [],
    poison := [], keyed := [], lpddr := 0, dir := [], copies := [], dirty := [], badCopies := [], nodeNames := [], nodeCopies := [], reqs := [], smap := [],
    smGen := 0, change := none, stubs := [], leaving := [], notes := [], extents := [], monitors := [], notices := [], xdrain := none,
    rvsync := none, rvAsn := 0, acked := [], freed := [], extinvs := [], takers := [], rdmems := [], acks := [], farRevoked := [], remotes := [], marks := [], qholds := [], farWatches := [], tickets := [], nextTicket := 0,
    cosy := none, cosyQ := [], msgs := [], batches := [], partials := [], arrived := [], hwWrites := [], retries := [], placing := [], txBusy := [], txWait := [], psRaised := [], inbound := [], granted := [], seqNums := [], windows := [],
    held := [], rtable := [], vectors := [], sent := [], regs := Regs.reset, trust := Trust.reset, health := Health.reset,
    boot := .waiting }

end Sys2Proof.Machine
end

