-- ==== Sys2Proof/Machine/Mem.lean ====
section
/-! DEFINITION. Bytes of the package's memory with their tags, poison and keys (R240, R242, R243, R418), rings of
records and notices (R357, R366, R410), clocks and the hardware's choices, event counters, vectors and CSEQ. -/

namespace Sys2Proof.Machine

open Sys2Proof

/-! ### Sorted sets of numbers -/

def sInsert : List Nat → Nat → List Nat
  | [], k => [k]
  | j :: l, k => if k < j then k :: j :: l else if k = j then j :: l else j :: sInsert l k

def sErase (l : List Nat) (k : Nat) : List Nat := l.filter (· != k)

/-! ### Choices, clocks, counters, vectors -/

/-- The next yes-no choice of the hardware; no when none is given. -/
def State.bit (s : State) : Bool × State := (s.bits.headD false, { s with bits := s.bits.tail })

/-- The next number the hardware chooses; zero when none is given. -/
def State.pick (s : State) : Nat × State := (s.picks.headD 0, { s with picks := s.picks.tail })

/-- The clocks of a step pass (R4, R303). -/
def State.clock (s : State) : State :=
  let k := s.ticks.headD 1
  { s with ticks := s.ticks.tail, now := s.now + k, cyc := s.cyc.map (· + k), tick := s.tick + 1 }

/-- Microseconds and milliseconds in clocks of the 1.0 GHz arithmetic clock (R4). -/
def usec (n : Nat) : Nat := 1000 * n
def msec (n : Nat) : Nat := 1000000 * n

/-- Every die is held in reset, or halted at the critical temperature (R417, R425). DEDUCED: nothing that comes from outside
has an effect then; debug commands are refused, and SPDM requests, but GET_VERSION of a scrapped part, get no response (log 104). -/
def State.down (s : State) : Bool := s.boot == .scrapped || s.health.halted

/-- An event that comes from outside has its effect, unless it finds every die held in reset or halted (R417, R425). -/
def State.unlessDown (s : State) (f : State → State) : State := if s.down then s else f s

/-- Raises an interrupt vector: it stays pending until it is claimed (R403). -/
def State.raise (s : State) (v : Nat) : State := { s with vectors := sInsert s.vectors v }

/-- Counts events of R414: every counter whose EVSEL names the event rises by n. -/
def State.count (s : State) (ev n : Nat) : State :=
  if s.regs.evsel.all (· != ev) then s else
  { s with regs := { s.regs with evcnt := (s.regs.evsel.zip s.regs.evcnt).map fun p =>
      if p.1 = ev ∧ ev ≠ 0 then p.2 + BitVec.ofNat 64 n else p.2 } }

/-- The CSEQ of a die (R412). -/
def State.cseqOf (s : State) (d : Nat) : Nat := s.cseq.getD d 0

/-- A message of die a reaches die b with the CSEQ that it has carried since it left (R412). -/
def State.heard (s : State) (a b carried : Nat) : State :=
  if a = b then s else { s with cseq := s.cseq.set b (max carried (s.cseqOf b) + 1) }

/-- A message of die a reaches die b in the step in which it leaves. -/
def State.cross (s : State) (a b : Nat) : State := s.heard a b (s.cseqOf a)

/-- The die whose port joins the fabric, which every message to or from another package passes (log 105). -/
def fabricDie : Nat := 16

/-- A message of another package reaches this one; what it carries is the hardware's number where its event does not name it. -/
def State.heardFar (s : State) : State :=
  let (c, s) := s.pick
  s.heard (fabricDie + 2) fabricDie c

/-- A die that writes a record steps its CSEQ and puts the new value in the record (R412). -/
def State.stepCseq (s : State) (d : Nat) : Nat × State :=
  let v := s.cseq.getD d 0 + 1
  (v, { s with cseq := s.cseq.set d v })

/-! ### Bytes -/

/-- What an unlisted address reads as: 0, the model's power-on contents (log 1). -/
def memByte : List Host.Cell → Nat → Byte
  | [], _ => 0
  | (a, v) :: m, k => if k < a then 0 else if k = a then v else memByte m k

/-- Writes one byte and keeps the canonical form: addresses rising, no byte that equals an unlisted one. -/
def memSet : List Host.Cell → Nat → Byte → List Host.Cell
  | [], k, v => if v = 0 then [] else [(k, v)]
  | (a, w) :: m, k, v =>
    if k < a then (if v = 0 then (a, w) :: m else (k, v) :: (a, w) :: m)
    else if k = a then (if v = 0 then m else (k, v) :: m)
    else (a, w) :: memSet m k v

/-- The canonical form of a list of cells above an address. -/
def memWfFrom : Option Nat → List Host.Cell → Bool
  | _, [] => true
  | lo, (a, v) :: m => (match lo with | none => true | some l => decide (l < a)) && (v != 0) && memWfFrom (some a) m

/-- The canonical form of memory. -/
def Memory.wf (m : List Host.Cell) : Bool := memWfFrom none m

def hbmEnd : Nat := 0x18000000000
def lpddrBase : Nat := 0x20000000000
def gib : Nat := 0x40000000

/-- An address where the package holds memory (R240): HBM on a channel that is in use, or installed LPDDR6. -/
def State.hasMem (s : State) (a : Nat) : Bool :=
  (decide (a < hbmEnd) && (s.health.badChans.isEmpty || !s.health.badChans.contains (Config.channelOf (a / 128)))) ||
  (decide (lpddrBase ≤ a) && decide (a < lpddrBase + s.lpddr * gib))

/-- The key a sector is read and written under now (R418): key id 0 outside every range. -/
def State.keyAt (s : State) (sector : Nat) : Config.MemKey :=
  ((s.trust.memKeys.map (·.2)).find? fun r => decide (r.base * gib ≤ sector * 32) && decide (sector * 32 < r.limit * gib)).elim
    (.package s.trust.pkgKey) fun r => .installed r.key

/-- The key a sector was written under. -/
def State.keyOf (s : State) (sector : Nat) : Config.MemKey := s.keyed.getD sector (.package s.trust.pkgKey)

/-- One byte of physical memory as every agent sees it: unrelated bits under another key (R418). -/
def State.byte (s : State) (a : Nat) : Byte :=
  let b := memByte s.mem a
  if s.keyed.isEmpty && s.trust.memKeys.isEmpty then b else
    let r := s.keyAt (a / 32)
    let w := s.keyOf (a / 32)
    if r = w then b else Config.unrelatedByte r w a b

def State.bytes (s : State) (a n : Nat) : List Byte := (List.range n).map fun i => s.byte (a + i)

/-- A little-endian number of n bytes. -/
def State.num (s : State) (a n : Nat) : Nat := leNat (s.bytes a n)

/-- The sector takes the key in force: what it held under another key becomes the unrelated bits it decrypts to. -/
def State.rekey (s : State) (sector : Nat) : State :=
  if s.keyed.isEmpty && s.trust.memKeys.isEmpty then s else
    let r := s.keyAt sector
    if r = s.keyOf sector then s else
      { s with mem := (List.range 32).foldl (fun m i => memSet m (32 * sector + i) (s.byte (32 * sector + i))) s.mem
               keyed := if r = .package s.trust.pkgKey then s.keyed.erase sector else s.keyed.set sector r }

/-- The granules or sectors of size g that [a, a + n) touches. -/
def blocks (g a n : Nat) : List Nat := if n = 0 then [] else (List.range ((a + n - 1) / g - a / g + 1)).map (· + a / g)

/-- Stores plain bytes: the sectors' keys are those in force. -/
def State.putBytes (s : State) (a : Nat) (bs : List Byte) : State :=
  let s := (blocks 32 a bs.length).foldl State.rekey s
  { s with mem := ((List.range bs.length).zip bs).foldl (fun m p => memSet m (a + p.1) p.2) s.mem }

/-- A store of data: the bytes, the tags of every granule it touches cleared (R95), and the poison of every sector it
covers whole cleared (R243). -/
def State.write (s : State) (a : Nat) (bs : List Byte) : State :=
  let s := s.putBytes a bs
  { s with tags := s.tags.filter fun g => !(blocks 16 a bs.length).contains g
           poison := s.poison.filter fun p => !(decide (a ≤ 32 * p) && decide (32 * p + 32 ≤ a + bs.length)) }

/-- A store of a capability granule: 16 bytes and the tag (R95). -/
def State.writeCap (s : State) (a : Nat) (bs : List Byte) (tag : Bool) : State :=
  let s := s.write a bs
  { s with tags := if tag then sInsert s.tags (a / 16) else s.tags }

def State.tagAt (s : State) (a : Nat) : Bool := s.tags.contains (a / 16)

/-- Whether any sector that [a, a + n) touches is poisoned. -/
def State.poisoned (s : State) (a n : Nat) : Bool := !s.poison.isEmpty && (blocks 32 a n).any s.poison.contains

/-- A unit is poisoned: counted under R414 and R422. -/
def State.unitPoisoned (s : State) : State :=
  ({ s with health := { s.health with ue := min (s.health.ue + 1) 0xFFFFFFFF } }).count 12 1

def State.poisonSector (s : State) (p : Nat) : State :=
  if s.poison.contains p then s else { s with poison := sInsert s.poison p }.unitPoisoned

/-- A capability granule as it stands in memory. -/
def State.capAt (s : State) (a : Nat) : Cap := ⟨BitVec.ofNat 128 (s.num a 16), s.tagAt a⟩

/-! ### The slice map (R236) -/

/-- H of R236 over successive 12-bit fields. -/
def hash12 : Nat → Nat → Nat
  | 0, _ => 0
  | n + 1, k => (k % 4096) ^^^ hash12 n (k / 4096)

def State.sliceOf (s : State) (key : Nat) : Nat :=
  let i := hash12 6 key
  s.smap.getD i (i % 512)

/-- The home slice of a physical address. -/
def State.homeSlice (s : State) (a : Nat) : Nat := s.sliceOf (a / 128)

/-- The die a slice lies on: 8 + base die (R411). -/
def sliceDie (sl : Nat) : Nat := 8 + sl / 64

/-- The key that a translation slice is chosen by, in the layout of R301 (R235). -/
def PageKey.num (k : PageKey) : Nat := k.asn % 2 ^ 16 + k.obj % 2 ^ 20 * 2 ^ 16 + k.page % 2 ^ 26 * 2 ^ 36

/-- The translation slice of a key (R235). -/
def State.translationSlice (s : State) (k : PageKey) : Nat := s.sliceOf k.num

/-! ### Rings -/

/-- Whether a ring has room for a record of n bytes beside k that have still to be written: on, with a free slot, and over memory
(R357, R410). -/
def State.ringRoom (s : State) (r : RecRing) (n : Nat) (k : Nat := 0) : Bool :=
  r.log2 != 0 && decide ((r.tail - r.head).toNat + k < 2 ^ r.log2) && s.hasMem (r.base + n * ((r.tail.toNat + k) % 2 ^ r.log2))

def State.part (s : State) (p : Nat) : Part := s.parts.getD p Part.reset
def State.setPart (s : State) (p : Nat) (v : Part) : State := { s with parts := s.parts.set p v }
def State.core (s : State) (c : Nat) : Core := s.cores.getD c Core.reset
def State.setCore (s : State) (c : Nat) (v : Core) : State := { s with cores := s.cores.set c v }
def State.cluster (s : State) (c : Nat) : Cluster := s.clusters.getD c Cluster.reset
def State.setCluster (s : State) (c : Nat) (v : Cluster) : State := { s with clusters := s.clusters.set c v }
def State.ctl (s : State) (n : Nat) : Ctl := s.ctls.getD n Ctl.reset
def State.setCtl (s : State) (n : Nat) (v : Ctl) : State := { s with ctls := s.ctls.set n v }

/-- The cluster of a core and its die (R262, R330). -/
def coreCluster (c : Nat) : Nat := c / 8
def coreDie (c : Nat) : Nat := c / 160

end Sys2Proof.Machine
end

