-- ==== Sys2Proof/Machine/Lanes.lean ====
section
/-! DEFINITION. Threads and their lanes: register codes and latches (R15-R23), windows and holds (R18, R282), capabilities
(R86), paths, reconvergence and runs (R22, R52, R137-R149), waits (R268), and the abort of transactions (R289). -/

namespace Sys2Proof.Machine

open Sys2Proof

/-! ### Threads and lanes -/

/-- The group of a thread: a compute group, or the one-lane group of a control core (R126). -/
def State.group? (s : State) : Who → Option Group
  | .ctl n => if n < 128 then some (s.ctl n).thread else none
  | .grp g => s.groups.get? g

def State.setGroup (s : State) (w : Who) (g : Group) : State :=
  match w with
  | .ctl n => s.setCtl n { s.ctl n with thread := g }
  | .grp k => { s with groups := s.groups.set k g }

def State.modGroup (s : State) (w : Who) (f : Group → Group) : State :=
  match s.group? w with
  | none => s
  | some g => s.setGroup w (f g)

def isSolo : Who → Bool
  | .ctl _ => true
  | .grp _ => false

def Group.lane (g : Group) (i : Nat) : Lane := g.lanes.getD i (Lane.fresh none 0 0)
def Group.modLane (g : Group) (i : Nat) (f : Lane → Lane) : Group := { g with lanes := g.lanes.modify i f }

/-- A write to s-registers that no instruction of the issue in progress makes: what has still to execute of it reads it too
(R281). -/
def Group.putSregs (g : Group) (n : Nat) (ws : List Word) : Group :=
  let put := fun (l : List Word) => (ws.zipIdx n).foldl (fun (l : List Word) p => l.set p.2 p.1) l
  { g with sregs := put g.sregs, snap := g.snap.map fun u => { u with sregs := put u.sregs }
           badSregs := g.badSregs.filter fun k => !(decide (n ≤ k) && decide (k < n + ws.length)) }

/-- Changes the lanes of the seats named. -/
def Group.modLanes (g : Group) (seats : List Nat) (f : Nat → Lane → Lane) : Group :=
  { g with lanes := g.lanes.mapIdx fun i l => if seats.contains i then f i l else l }

/-- The seats whose lanes meet a test. -/
def Group.seatsWhere (g : Group) (p : Lane → Bool) : List Nat := (List.range g.lanes.length).filter fun i => p (g.lane i)

/-- The logical lane of a lane's thread (R128). -/
def Lane.logical (l : Lane) : Nat := l.thread.getD 0 % 32

def Group.live (g : Group) : List Nat := g.seatsWhere fun l => l.thread.isSome && l.mode != .exited

/-- Seats in the order of their logical lanes (R8). Two lanes of one logical lane, which REGROUP can bring together (R152),
stand in the order of their seats: DESIGN CHOICE, the spec gives them none (log 19). -/
def Group.byLogical (g : Group) (seats : List Nat) : List Nat :=
  seats.foldl (fun out i =>
    out.filter (fun j => decide ((g.lane j).logical ≤ (g.lane i).logical)) ++ i ::
    out.filter (fun j => !decide ((g.lane j).logical ≤ (g.lane i).logical))) []

/-- LowestActive() of R33, as a seat; the lower seat where two active lanes share the lowest logical lane (log 19). -/
def Group.lowest (g : Group) (seats : List Nat) : Nat := (g.byLogical seats).headD 0

/-- A mask of seats (R155). -/
def seatMask (seats : List Nat) : Word := seats.foldl (fun m i => m ||| (1#32 <<< i)) 0

/-- Code 118: bit i is set when logical lane i is active (R15). -/
def Group.activeMask (g : Group) (seats : List Nat) : Word := seatMask (seats.map fun i => (g.lane i).logical)

/-- The uniform registers, the window base and the group CSRs as they stand. -/
def Group.uniforms (g : Group) : Uniforms :=
  ⟨g.wb, g.sregs, g.acaps, g.period, g.expired, g.gstat, g.fpRM, g.fpARM, g.txRetry, g.txValp, g.svpart, g.trap, g.stc⟩

/-- A thread with the issue that runs it: what an instruction's meaning works on. Its sources read the uniform registers,
the window base and the group CSRs as they stood when the issue began, before any active set of it wrote (R20, R139). -/
structure Ctx where
  who    : Who
  g      : Group
  c      : Issue
  teamix : Word
  u      : Uniforms
  missed : Bool       -- the lowest lane's page was in no translation cache (R413)
deriving DecidableEq, Repr

/-- The window base that register codes of the issue are read under. -/
def Ctx.wb (x : Ctx) : Nat := x.u.wb
/-- The s-register and the a-register that the issue's sources read. -/
def Ctx.sr (x : Ctx) (k : Nat) : Word := x.u.sregs.getD k 0
def Ctx.acap (x : Ctx) (k : Nat) : Cap := x.u.acaps.getD k Cap.null
/-- The group with the CSRs that the issue's sources read. -/
def Ctx.seen (x : Ctx) : Group :=
  { x.g with wb := x.u.wb, period := x.u.period, expired := x.u.expired, gstat := x.u.gstat, fpRM := x.u.fpRM, fpARM := x.u.fpARM
             txRetry := x.u.txRetry, txValp := x.u.txValp, svpart := x.u.svpart, trap := x.u.trap, stc := x.u.stc }

def Ctx.seats (x : Ctx) : List Nat := x.c.seats
def Ctx.solo (x : Ctx) : Bool := isSolo x.who
def Ctx.lowest (x : Ctx) : Nat := x.g.lowest x.c.seats
/-- The lane that reads the operands of a group instruction (R268). -/
def Ctx.readers (x : Ctx) : List Nat := x.c.seats.filter (· == x.lowest)

/-- The context of the issue in progress. -/
def State.ctx? (s : State) : Option Ctx :=
  match s.cur with
  | none => none
  | some c => match s.group? c.who with
    | none => none
    | some g => some ⟨c.who, g, c, match c.who with
        | .ctl _ => 0
        | .grp _ => BitVec.ofNat 32 ((s.teams.get? g.team).elim 0 fun t => t.index), g.snap.getD g.uniforms, false⟩

abbrev Result := Host.Outcome State Fault Refusal

/-- Runs a meaning on the issue in progress. -/
def withCtx (s : State) (f : Ctx → State) : Result :=
  match s.ctx? with
  | none => .fault .noIssuer
  | some x => .next (f x)

/-- The die a thread is on: compute die of its core, or of its control core (R2, R411). -/
def State.dieOf (s : State) (w : Who) : Nat :=
  match w with
  | .ctl n => n / 16
  | .grp k => match s.groups.get? k with
    | some g => (g.place.elim 0 fun p => coreDie p.core)
    | none => 0

/-- The compute core a thread is on. -/
def State.coreOf (s : State) (w : Who) : Option Nat :=
  match w with
  | .ctl _ => none
  | .grp k => match s.groups.get? k with
    | some g => g.place.map (·.core)
    | none => none

/-- The address space of a thread's accesses (R360). -/
def State.asnOf (s : State) (w : Who) : Nat :=
  match w with
  | .ctl n => (s.ctl n).pasn.toNat
  | .grp k => match s.groups.get? k with
    | some g => g.asn.toNat
    | none => 0

def State.teamOf (s : State) (g : Group) : Option Team := s.teams.get? g.team

/-- The partition of a thread (R331); none for the service team. -/
def State.partOf (s : State) (w : Who) : Option Nat :=
  match w with
  | .ctl n => some (s.ctl n).ppart
  | .grp k => match s.groups.get? k with
    | some g => match s.teams.get? g.team with
      | some t => t.part
      | none => none
    | none => none

/-- Whether a group belongs to a service team (R134). -/
def State.isService (s : State) (w : Who) : Bool :=
  match w with
  | .ctl _ => false
  | .grp k => match s.groups.get? k with
    | some g => match s.teams.get? g.team with
      | some t => t.part.isNone
      | none => false
    | none => false

/-- Where the triple of R154 names a thread of a control core, its team stands as all ones and its thread as its core's number
(log 90). -/
def noTeam : Nat := 2 ^ 32 - 1

/-- Whether a breakpoint is armed for the grid of a group, or for a control core: then it names no other control core's thread,
and a group of no launch is none of its. -/
def Break.names (b : Break) (w : Who) (g : Group) : Bool :=
  match w with
  | .grp _ => b.launch == g.launch.toNat && b.team != some noTeam
  | .ctl n => b.launch == 0 && b.team.all (· == noTeam) && b.thread.all (· == n)

/-- Privileged code (R269). -/
def State.privileged (s : State) (w : Who) : Bool :=
  match w with
  | .ctl n => (s.ctl n).kernel
  | .grp _ => s.isService w

/-! ### Register codes -/

/-- A source code at 32 bits (R15). -/
def Ctx.src32 (x : Ctx) (i : Nat) (c : Code) : Word :=
  let n := c.toNat
  let l := x.g.lane i
  if n < 96 then (l.regs.getD (x.wb + n) Reg.zero).val
  else if n < 112 then x.sr (n - 96)
  else if n = 112 then 0
  else if n = 113 then BitVec.ofNat 32 l.logical
  else if n = 114 then BitVec.ofNat 32 (l.thread.getD 0)
  else if n = 115 then x.teamix
  else if n = 116 then BitVec.ofNat 32 x.g.gix
  else if n = 117 then l.fl.setWidth 32
  else if n = 118 then x.g.activeMask x.c.seats
  else if n = 119 then 0xFFFFFFFF#32
  else (l.latches.getD (n - 120) 0).setWidth 32

/-- A source code at 64 bits (R17). -/
def Ctx.src64 (x : Ctx) (i : Nat) (c : Code) : Dword :=
  if c.toNat < 112 then x.src32 i (c + 1) ++ x.src32 i c
  else if c.toNat = 112 then 0
  else if c.toNat = 119 then 0xFFFFFFFFFFFFFFFF#64
  else (x.g.lane i).latches.getD (c.toNat - 120) 0

/-- A source code at 128 bits (R17). -/
def Ctx.src128 (x : Ctx) (i : Nat) (c : Code) : Quad :=
  if c.toNat < 112 then x.src64 i (c + 2) ++ x.src64 i c
  else if c.toNat = 119 then 0xFFFFFFFFFFFFFFFFFFFFFFFFFFFFFFFF#128
  else 0

/-- Src(L, code, w) of R33 as a number. -/
def Ctx.srcN (x : Ctx) (i : Nat) (c : Code) : Width → Nat
  | .w32 => (x.src32 i c).toNat
  | .w64 => (x.src64 i c).toNat
  | .w128 => (x.src128 i c).toNat

/-- A uniform operand of a group instruction, read as for the lowest active lane (R268). -/
def Ctx.uni32 (x : Ctx) (c : Code) : Word := x.src32 x.lowest c
def Ctx.uni64 (x : Ctx) (c : Code) : Dword := x.src64 x.lowest c

/-- s-register k. -/
def Ctx.sreg (x : Ctx) (k : BitVec 4) : Word := x.sr k.toNat
/-- The pair s(k):s(k+1). -/
def Ctx.spair (x : Ctx) (k : BitVec 4) : Dword := x.sr (k.toNat + 1) ++ x.sr k.toNat

def Lane.pred (l : Lane) (p : Nat) : Bool := p == 7 || l.preds.getLsbD p
/-- Writes p0-p6; p7 stays true (R23, R24). -/
def Lane.setPred (l : Lane) (p : Nat) (v : Bool) : Lane :=
  if p < 7 then
    { l with preds := if v then l.preds ||| (1#8 <<< p) else l.preds &&& ~~~(1#8 <<< p) }
  else l

/-- COND of a BR word (R29). -/
def Lane.cond (l : Lane) (c : BitVec 4) : Bool :=
  if c.toNat < 8 then l.pred c.toNat else !(l.pred (c.toNat - 8))

/-- A result enters L0 and the older entries move down (R21). -/
def Lane.push (l : Lane) (v : Dword) : Lane :=
  { l with latches := (v :: l.latches).take 8, pushes := l.pushes + 1, badLatch := l.badLatch.filter (· != l.pushes + 1) }

/-- Every latch reads zero again (R21, R140). -/
def Lane.clearRun (l : Lane) : Lane := { l with latches := List.replicate 8 0, pushes := l.pushes + 8, count := 0 }

def Lane.setReg (l : Lane) (n : Nat) (v : Word) (tag : Bool) : Lane := { l with regs := l.regs.set n ⟨v, tag, false⟩ }

/-- Writes words to consecutive registers of the lane. -/
def Lane.setRegs (l : Lane) (n : Nat) : List Word → Bool → Lane
  | [], _ => l
  | v :: vs, tag => (l.setReg n v tag).setRegs (n + 1) vs tag

def widthWords : Width → Nat
  | .w32 => 1 | .w64 => 2 | .w128 => 4

/-- The words of a value, low word first. -/
def words : Nat → Nat → List Word
  | 0, _ => []
  | n + 1, v => BitVec.ofNat 32 v :: words n (v / 4294967296)

/-- Writes words to consecutive s-registers. -/
def setWords (l : List Word) (n : Nat) : List Word → List Word
  | [] => l
  | v :: vs => setWords (l.set n v) (n + 1) vs

/-- Dst of R33 for a whole active set (R19, R21): a uniform destination takes the lowest active lane's value and every
lane pushes it; else each lane takes and pushes its own. N and code 112 write no register. -/
def Ctx.dst (x : Ctx) (n : Bool) (d : Code) (w : Width) (v : Nat → Nat) (tag : Nat → Bool := fun _ => false) : Group :=
  if uniform d then
    let r := v x.lowest
    let g := x.g.modLanes x.c.seats fun _ l => l.push (BitVec.ofNat 64 (r % 2 ^ (32 * widthWords w)))
    if n || d.toNat = 112 then g else
      { g with sregs := setWords g.sregs (d.toNat - 96) (words (widthWords w) r)
               badSregs := g.badSregs.filter fun k => !(decide (d.toNat - 96 ≤ k) && decide (k < d.toNat - 96 + widthWords w)) }
  else
    x.g.modLanes x.c.seats fun i l =>
      let l := l.push (BitVec.ofNat 64 (v i % 2 ^ (32 * widthWords w)))
      if n then l else l.setRegs (x.wb + d.toNat) (words (widthWords w) (v i)) (tag i)

/-- Writes the result of a group instruction to sK, a register result of every active lane (R268, R21). -/
def Ctx.dstS (x : Ctx) (n : Bool) (k : Nat) (w : Width) (v : Nat) : Group :=
  x.dst n (BitVec.ofNat 7 (96 + k)) w fun _ => v

/-- Replaces the group of a context. -/
def Ctx.put (x : Ctx) (g : Group) : Ctx := { x with g := g }

/-! ### Windows and holds -/

/-- An operand as the checks see it: a code and the number of registers it covers. -/
abbrev Opd := Code × Nat

def opd (c : Code) (w : Width) : Opd := (c, widthWords w)

/-- The register that R18 turns an operand away for: the lowest one at or beyond the allocation. -/
def Ctx.beyond (x : Ctx) (o : Opd) : Option Nat :=
  if o.1.toNat < 96 ∧ x.g.alloc < x.wb + o.1.toNat + o.2 then some (max (x.wb + o.1.toNat) x.g.alloc) else none

def Ctx.windowFault (x : Ctx) (os : List Opd) : Option Nat := os.findSome? x.beyond

/-- The numbers that holds use: absolute registers, and 0x1_0000 + n for sn (R282). -/
def Ctx.keys (x : Ctx) (o : Opd) : List Nat :=
  if o.1.toNat < 96 then (List.range o.2).map (· + (x.wb + o.1.toNat))
  else if o.1.toNat < 112 then (List.range o.2).map (· + (0x10000 + (o.1.toNat - 96)))
  else []

/-- Whether an active lane holds one of the registers, or a status has still to land in it (R280, R282). -/
def Group.heldBy (g : Group) (seats : List Nat) (ks : List Nat) : Bool :=
  g.holds.any (fun h => ks.contains h.1 && seats.contains h.2) ||
  g.status.any (fun h => ks.contains (0x10000 + h.1))

/-- Whether a load or ATOMR that has not completed still owes one of the registers to an active lane. -/
def State.owed (s : State) (w : Who) (seats : List Nat) (ks : List Nat) : Bool :=
  s.reqs.any fun r => r.2.who == w && seats.contains r.2.seat &&
    (match r.2.dest with
     | none => false
     | some d => (List.range 4).any fun j => ks.contains (d + j))

/-- Clocks of a class of R408. -/
def Group.charge (g : Group) (c : Nat) (n : Nat) : Group := if n = 0 then g else { g with charges := g.charges ++ [⟨c, n⟩] }

/-- From now on a group's clocks are of a class of R408: those since the last change are charged to the class they had. None
is charged while the group is saved or halted, or without a seat (R409). -/
def Group.phase (g : Group) (c now : Nat) : Group :=
  { g.charge g.cls (if g.place.isSome && !g.saved && !g.halted then now - g.paid else 0) with paid := max g.paid now, cls := c }

/-- Settles the charges made (R409). -/
def Group.settle (g : Group) : Group :=
  { g with stc := g.charges.foldl (fun l c => l.modify c.counter (· + BitVec.ofNat 32 c.amount)) g.stc, charges := [] }

/-! ### Capabilities (R86) -/

def Cap.kind (c : Cap) : Nat := (c.bits.extractLsb' 124 4).toNat
def Cap.perm (c : Cap) : BitVec 8 := c.bits.extractLsb' 116 8
def Cap.obj (c : Cap) : Nat := (c.bits.extractLsb' 88 28).toNat
def Cap.pkg (c : Cap) : Nat := c.obj / 2 ^ 20
def Cap.index (c : Cap) : Nat := c.obj % 2 ^ 20
def Cap.gexp (c : Cap) : Nat := (c.bits.extractLsb' 82 6).toNat
def Cap.lower (c : Cap) : Nat := (c.bits.extractLsb' 62 20).toNat
def Cap.upper (c : Cap) : Nat := (c.bits.extractLsb' 42 20).toNat
def Cap.cursor (c : Cap) : Nat := (c.bits.extractLsb' 0 42).toNat
def Cap.base (c : Cap) : Nat := c.lower * 2 ^ c.gexp
def Cap.limit (c : Cap) : Nat := c.upper * 2 ^ c.gexp
/-- The hamper a kind-2 capability names: its cluster in the package and its number (R86). -/
def Cap.hamper (c : Cap) : Nat × Nat := (20 * (c.obj / 2 ^ 17 % 8) + c.obj / 2 ^ 12 % 32, c.obj / 2 ^ 7 % 32)

/-- The 128 bits of R86 from its fields. -/
def capBits (kind perm obj gexp lower upper cursor : Nat) : Quad :=
  BitVec.ofNat 128 (kind * 2 ^ 124 + perm * 2 ^ 116 + obj * 2 ^ 88 + gexp * 2 ^ 82 + lower * 2 ^ 62 + upper * 2 ^ 42 + cursor)

def permR : BitVec 8 := 0x80
def permW : BitVec 8 := 0x40
def permA : BitVec 8 := 0x20
def permLC : BitVec 8 := 0x10
def permSC : BitVec 8 := 0x08
def permX : BitVec 8 := 0x04
def permQ : BitVec 8 := 0x02
def permE : BitVec 8 := 0x01

def Cap.has (c : Cap) (p : BitVec 8) : Bool := c.perm &&& p == p
def Cap.setCursor (c : Cap) (v : Nat) : Cap := ⟨capBits c.kind c.perm.toNat c.obj c.gexp c.lower c.upper (v % 2 ^ 42), c.tag⟩

/-- CapOf of R33: a(c), or the lane quad v(4c). -/
def Ctx.capOf (x : Ctx) (i : Nat) (c : BitVec 4) (quad : Bool) : Cap :=
  if quad then
    let r := fun j => (x.g.lane i).regs.getD (x.wb + 4 * c.toNat + j) Reg.zero
    ⟨(r 3).val ++ (r 2).val ++ (r 1).val ++ (r 0).val, (r 0).tag && (r 1).tag && (r 2).tag && (r 3).tag⟩
  else x.acap c.toNat

/-- The bounds of R90 around [b, b + n), or none when no exponent fits. -/
def boundsOf (b n : Nat) : Option (Nat × Nat × Nat) :=
  ((List.range 23).find? fun g => decide ((b + n + 2 ^ g - 1) / 2 ^ g ≤ 2 ^ 20 - 1)).map fun g =>
    (g, b / 2 ^ g, (b + n + 2 ^ g - 1) / 2 ^ g)

/-! ### Paths and runs (R52, R143-R149) -/

/-- A lane that can be served: running, not held by a trap (R143, R355). -/
def Lane.serves (l : Lane) : Bool := l.thread.isSome && l.mode == .running && !l.held

/-- The program counters of the group's paths, each once. -/
def Group.pathPcs (g : Group) : List Nat :=
  ((g.lanes.filter Lane.serves).map fun l => l.pc.toNat).foldl sInsert []

def Group.pathSeats (g : Group) (pc : Nat) : List Nat := g.seatsWhere fun l => l.serves && l.pc.toNat == pc

/-- The address of the path that the broadcast serves (R121, R144). -/
def Group.broadcast (g : Group) : Option Nat :=
  match g.bcast with
  | some a => if g.pathPcs.contains a.toNat then some a.toNat else g.pathPcs.head?
  | none => g.pathPcs.head?

/-- Whether a lane's loop buffer holds the word at its program counter (R146). -/
def Lane.buffered (l : Lane) : Bool :=
  match l.loopBuf with
  | none => false
  | some b => decide (b.first.toNat ≤ l.pc.toNat) && decide (l.pc.toNat < b.first.toNat + 4 * b.words.length)

/-- The words that a buffered lane's loop buffer gives it: the one at its program counter and, after a prefix, the next. -/
def Lane.bufferWords (l : Lane) : Word × Word :=
  match l.loopBuf with
  | none => (0, 0)
  | some b =>
    let j := (l.pc.toNat - b.first.toNat) / 4
    let w := b.words.getD j 0
    (w, if isPfxWord w.toNat then b.words.getD (j + 1) 0 else 0)

/-- The active sets of the next issue, in ascending address order (R143): the path of the broadcast, and the lanes that
their loop buffers serve, those that execute one word at one address together. DESIGN CHOICE: sets at one address whose loop
buffers hold different words stand in the order of their lowest seats; R143 orders sets by address alone (log 100). -/
def Group.nextSets (g : Group) : List IssueSet :=
  let b := g.broadcast
  g.pathPcs.flatMap fun pc =>
    let seats := g.pathSeats pc
    let a := BitVec.ofNat 64 pc
    if b = some pc then [⟨a, seats, none⟩]
    else
      let seats := seats.filter fun i => (g.lane i).buffered
      let ws := (seats.map fun i => (g.lane i).bufferWords).foldl (fun l w => if l.contains w then l else l ++ [w]) []
      ws.map fun w => ⟨a, seats.filter fun i => (g.lane i).bufferWords == w, some w⟩

/-- Seats of paths that wait for the broadcast (R121). -/
def Group.waiting (g : Group) : List Nat :=
  g.seatsWhere fun l => l.serves && !(g.broadcast == some l.pc.toNat) && !l.buffered

/-- The oldest of the paths of some seats: the one whose lanes executed longest ago; between equals the lower address
(R144). -/
def Group.oldestPath (g : Group) (seats : List Nat) : Option Dword :=
  (seats.foldl (fun best i =>
    let l := g.lane i
    match best with
    | none => some l
    | some b => if l.lastExec < b.lastExec ∨ (l.lastExec = b.lastExec ∧ l.pc.toNat < b.pc.toNat) then some l else some b)
    none).map (·.pc)

/-- The place in the stack of the innermost entry that holds a seat (R52). -/
def Group.innermost (g : Group) (i : Nat) : Option Nat := g.rstack.findIdx? fun e => e.members.contains i

/-- The entry at a place of the stack. -/
def Group.entry (g : Group) (k : Nat) : RPoint := g.rstack.getD k ⟨0, []⟩

/-- A lane that has come to the address of its innermost entry stops there. -/
def Group.stopAt (g : Group) (moved : List Nat) : Group :=
  g.modLanes (moved.filter fun i => (g.lane i).serves && (g.innermost i).any fun k => (g.entry k).addr == (g.lane i).pc)
    fun _ l => { l with mode := .stopped }

/-- Lanes stopped at an entry: those for which it is the innermost. -/
def Group.stoppedAt (g : Group) (k : Nat) : List Nat :=
  (g.entry k).members.filter fun i => (g.lane i).mode == .stopped && g.innermost i == some k

/-- An entry whose every member has stopped at it, or left: it can be removed. -/
def Group.complete (g : Group) (k : Nat) : Bool :=
  (g.entry k).members.all fun i => (g.lane i).mode == .stopped && g.innermost i == some k && (g.lane i).pc == (g.entry k).addr

/-- An entry goes, and the lanes stopped at it go on at its address as one path, whatever other entry has that address
(R52, R149). -/
def Group.release (g : Group) (k : Nat) : Group :=
  { g with rstack := g.rstack.eraseIdx k }.modLanes (g.stoppedAt k) fun _ l => { l with mode := .running }

/-- Removes complete entries and lets their lanes go on (R52). -/
def Group.reconverge (g : Group) : Nat → Group
  | 0 => g
  | n + 1 =>
    match (List.range g.rstack.length).find? g.complete with
    | none => g
    | some k => (g.release k).reconverge n

/-- Lanes leave every reconvergence entry, those that a trap has saved too, as an exiting lane does (R54, R151). -/
def Group.leaveEntries (g : Group) (seats : List Nat) : Group :=
  let leave := fun l : List RPoint => l.map fun e => { e with members := e.members.filter fun i => !seats.contains i }
  { g with rstack := leave g.rstack, trapSave := g.trapSave.map fun v => { v with stack := leave v.stack } }

/-- Program counters have moved: stops, removals and releases follow. -/
def Group.settlePaths (g : Group) (moved : List Nat) : Group := (g.stopAt moved).reconverge 9

/-- A push: a ninth entry discards the oldest, whose stopped lanes go on at once (R52). -/
def Group.push8 (g : Group) (t : Dword) (seats : List Nat) : Group :=
  let g := if g.rstack.length < 8 then g else g.release (g.rstack.length - 1)
  { g with rstack := ⟨t, seats⟩ :: g.rstack }

/-- BSYNC (R52): lanes whose innermost entry already has the address join it; else a new entry is pushed. -/
def Group.bsyncPush (g : Group) (t : Dword) (seats : List Nat) : Group :=
  match g.rstack.findIdx? fun e => e.members.any seats.contains with
  | some k =>
    if (g.entry k).addr == t then
      { g with rstack := g.rstack.modify k fun e => { e with members := seats.foldl sInsert e.members } }
    else g.push8 t seats
  | none => g.push8 t seats

/-- Lanes stopped at a reconvergence entry. -/
def Group.stoppedSeats (g : Group) : List Nat := g.seatsWhere fun l => l.thread.isSome && l.mode == .stopped

/-- The seats that the next issue serves. -/
def Group.nextServed (g : Group) : List Nat := g.nextSets.flatMap (·.seats)

/-- The path that the broadcast served, wherever it has come to: where it has split, the part that the broadcast goes on with,
which is the one at the broadcast's address or else the one at the lowest. -/
def Group.servedPc (g : Group) : Option Nat :=
  let pcs := (g.holder.filter fun i => (g.lane i).serves).map fun i => (g.lane i).pc.toNat
  match g.bcast.map (·.toNat) with
  | some a => if pcs.contains a then some a else (pcs.foldl sInsert []).head?
  | none => (pcs.foldl sInsert []).head?

/-- The seats of paths that wait at a run boundary: the path that the broadcast served does not (R53, R144). -/
def Group.waitingBeside (g : Group) : List Nat :=
  g.seatsWhere fun l => l.serves && g.servedPc != some l.pc.toNat && !l.buffered

/-- The steep timer's or YIELD's move at the end of a run: to the oldest waiting path, which holds the broadcast for one
run; or, at an expiry with no path waiting, the innermost entry that holds stopped lanes is released (R53, R144, R149).
DESIGN CHOICE: a YIELD with no path waiting ends a hold of one run like any other run end, so that a lower path which its loop
buffers serve has the broadcast again (R144); R53 says that the same path continues (log 100). -/
def Group.moveBroadcast (g : Group) : Group :=
  let g' := { g with bcast := none, steepDue := false, yieldDue := false }
  if !(g.steepDue || g.yieldDue) then g' else
  match g.oldestPath g.waitingBeside with
  | some pc => { g' with bcast := some pc }
  | none =>
    if g.steepDue then
      match (List.range g.rstack.length).find? fun k => !(g.stoppedAt k).isEmpty with
      | none => g'
      | some k => g'.release k
    else g'

/-- The broadcast fetch takes its path (R144): when that is another path than it served last, the timer restarts (R149), and
what the earlier path issued has to be performed first (R122), but where the path already ran in its loop buffers. DESIGN
CHOICE: with three or more paths the restart of R149 lets a third wait longer than the bound of R150 (log 100). -/
def Group.takeBroadcast (g : Group) (now : Nat) : Group :=
  match g.broadcast with
  | none => g
  | some pc =>
    let path := g.pathSeats pc
    if path.any g.holder.contains then { g with holder := path }
    else { g with holder := path, steep := 0, steepAt := g.steepAt.map fun _ => now
                  crossing := if path.all fun i => (g.lane i).buffered then g.crossing else g.holder.foldl sInsert g.crossing }

/-- Whether the steep timer runs (R149). -/
def Group.steepRuns (g : Group) : Bool :=
  g.laneProg && g.place.isSome && (!g.waiting.isEmpty || (!g.stoppedSeats.isEmpty && !g.nextServed.isEmpty))

/-- The clocks that the steep timer has counted. -/
def Group.steepCount (g : Group) (now : Nat) : Nat := g.steep + g.steepAt.elim 0 (now - ·)

/-- The steep timer after the paths of the group have changed: it runs, holds, or starts from zero when the last waiting
path and the last stopped lane are gone (R149). -/
def Group.syncSteep (g : Group) (now : Nat) : Group :=
  { g with steep := if g.waiting.isEmpty && g.stoppedSeats.isEmpty then 0 else g.steepCount now
           steepAt := if g.steepRuns then some now else none }

/-- A lane whose latches and count are kept for a replay: it is parked, or woken and has not replayed yet (R140, R142). -/
def Lane.keepsRun (l : Lane) : Bool := match l.mode with | .parked _ _ => true | _ => l.replays

/-- The class of a group with no run open: READY, or IDLE where no lane of it can be served (R408). -/
def Group.restClass (g : Group) : Nat := if g.wait.isSome || g.dbgStop || g.nextSets.isEmpty then 7 else 6

/-- The run boundary: the latches and counts of every seat are cleared, but those kept for a replay (R140, R142), and the
broadcast moves when it is due. -/
def Group.closeRun (g : Group) (now : Nat) : Group :=
  let g := ({ g with
    lanes := (g.lanes.map fun (l : Lane) => if l.keepsRun then l else l.clearRun),
    runOpen := false, endPending := false, served := [], issueQ := [], snap := none }.moveBroadcast.takeBroadcast now).syncSteep now
  g.phase g.restClass now

/-- What falls due at a run boundary (R138, R343, R398, R416): the events that take it up, in their order. -/
def Group.boundaryEvents (g : Group) (w : Who) : List Instr :=
  match w with
  | .ctl _ => []
  | .grp k => if g.runOpen then [] else if g.trapDue || g.pdone || g.marked || g.cut || g.moveDue.isSome then [.preemptTrap k] else []

/-- The run limit (R22): the run ends when a served seat has come to 24. -/
def Group.limit (g : Group) : Bool := (g.lanes.any fun l => decide (24 ≤ l.count))

/-- The end of an issue: the run ends at B, at its limit, and when no lane that it serves would be served next (R22, R145,
R147). -/
def Group.endIssue (g : Group) (now : Nat) : Group :=
  if g.issueQ.isEmpty && (g.endPending || g.limit || !g.nextServed.any g.served.contains) then
    { g.closeRun now with readySince := now }
  else g.syncSteep now

/-- An issue is cut short of its last active sets. Where it was the last of its run, the run ends: what the sets that have still to
execute read of it is kept for them, as for a replay (R147). -/
def Group.cutIssue (g : Group) (now : Nat) : Group :=
  if !g.endPending then g
  else { g.modLanes (g.issueQ.flatMap fun (q : IssueSet) => q.seats) fun _ l => { l with replays := true } with issueQ := [] }.closeRun now

/-- Seats have executed an instruction of the run: their counts step (R22). -/
def Group.executed (g : Group) (seats : List Nat) (now : Nat) : Group :=
  let g := g.modLanes seats fun _ l => { l with count := l.count + 1, lastExec := now, replays := false, woke := false }
  { g with lastIssue := now, served := seats.foldl sInsert g.served, skipStop := g.skipStop.filter fun p => !seats.contains p.2 }

/-- The end of an active set's instruction: counts step (R22), lanes that moved stop or reconverge, and the issue may be
over, which settles its charges (R409). -/
def Group.finish (g : Group) (addr : Dword) (seats : List Nat) (now : Nat) (endRun : Bool) : Group :=
  let g := { (g.executed seats now).settlePaths seats with endPending := g.endPending || endRun }
  let g := { g with bcast := if g.bcast == some addr then some (g.lane (seats.headD 0)).pc else g.bcast }
  (if g.issueQ.isEmpty then g.settle else g).endIssue now

/-- The instruction of the issue in progress is over: its group is put back, and what the run boundary brings is due. -/
def State.done (s : State) (x : Ctx) (g : Group) (endRun : Bool) : State :=
  let g := g.finish x.c.addr x.c.seats s.now endRun
  let s := { s with cur := none }.setGroup x.who g
  { s with agenda := s.agenda ++ g.boundaryEvents x.who }

/-- The active lanes go on to the next instruction in sequence. -/
def Ctx.advance (x : Ctx) (g : Group) : Group :=
  g.modLanes x.c.seats fun _ l => { l with pc := l.pc + BitVec.ofNat 64 x.c.len }

/-- An ordinary instruction has its result: advance, and end the run on B. -/
def State.retire (s : State) (x : Ctx) (h : Hdr) (g : Group) : State := s.done x (x.advance g) h.b

/-- The instruction cannot issue yet: nothing of it happens, and the clocks until it issues again are of a class of R408. -/
def State.stall (s : State) (x : Ctx) (cls : Nat) : State :=
  let g := { x.g.phase cls s.now with issueQ := ⟨x.c.addr, x.c.seats, x.c.words⟩ :: x.g.issueQ, stalled := true }
  { s with cur := none }.setGroup x.who (if isSolo x.who then { g with issueQ := [] } else g)

/-- A wait whose instruction takes what ended it when it issues again. -/
def Wait.answers : Wait → Bool
  | .lwait _ _ _ | .hgive _ | .svc _ | .spawnRoom _ _ | .wfi | .extinv => true
  | _ => false

/-- The group leaves arbitration at this instruction, which will issue again (R268): its run ends. An instruction that
takes an answer has the broadcast for that issue. -/
def State.leave (s : State) (x : Ctx) (g : Group) (w : Wait) : State :=
  let g := { g with issueQ := [] }.closeRun s.now
  let g := { g.phase 7 s.now with wait := some w, readySince := s.now, bcast := if w.answers then some x.c.addr else g.bcast }
  let s := { s with cur := none }.setGroup x.who g
  { s with agenda := s.agenda ++ g.boundaryEvents x.who }

/-! ### Transactions: validation and abort -/

/-- A byte of a granule's log or buffer. -/
def optByte (l : List (Option Byte)) (i : Nat) : Option Byte := (l.getD i none)

/-- R313: every logged byte and tag equals what its home slice holds. -/
def State.validate (s : State) (t : Tx) : Bool :=
  t.log.all fun e =>
    ((List.range 16).all fun i => match optByte e.bytes i with
      | none => true
      | some b => s.byte (16 * e.granule + i) == b) &&
    (match e.tag with
     | none => true
     | some g => s.tags.contains e.granule == g)

def abortNum : AbortCause → Nat
  | .conflict => 1 | .validation => 2 | .capacity => 3 | .remote => 4 | .explicit => 5 | .illegal => 6 | .fault => 7
  | .preempt => 8 | .nest => 9

/-- Whether the next attempt of a lane runs under the cosy lock (R289, R320, R321). -/
def Group.cosyNext (g : Group) (tries : Nat) : Bool := decide (g.txRetry ≠ 0) && decide (g.txRetry ≤ tries)

/-- The status word of R288. -/
def statusWord (code tries : Nat) (cosy : Bool) (cause : Nat) : Word :=
  BitVec.ofNat 32 (code * 2 ^ 24 + tries * 2 ^ 16 + cosy.toNat * 2 ^ 15 + cause)

/-- The abort of one lane's transaction in its group (R289). -/
def Group.abortLane (g : Group) (i : Nat) (cause : AbortCause) (code : Nat) : Group :=
  match (g.lane i).tx with
  | none => g
  | some t =>
    let tries := min ((g.lane i).tries + 1) 255
    g.modLane i fun l =>
      ({ l with tx := none, tries, pc := t.retryPc, replays := false, woke := false
                mode := (match l.mode with | .exited => .exited | .stopped => .running | .parked _ _ => .running | m => m) }
        ).setReg t.reg (statusWord code tries (g.cosyNext tries) (abortNum cause)) false

/-- A lane no longer holds, or waits for, the cosy lock (R321, R322). -/
def State.dropCosy (s : State) (w : Who) (i : Nat) : State :=
  { s with cosy := if s.cosy = some (w, i) then none else s.cosy, cosyQ := s.cosyQ.filter fun q => !(q.who == w && q.seat == i) }

/-- Aborts the transactions of the seats that have one (R289): writes discarded, tickets withdrawn, lock released. DESIGN
CHOICE: a lane that resumes at its retry path ends no run, neither its own nor that of the other lanes, which R289 leaves
unaffected; R22 does not name aborts (log 100). -/
def State.abort (s : State) (w : Who) (seats : List Nat) (cause : AbortCause) (code : Nat := 0) : State :=
  match s.group? w with
  | none => s
  | some g =>
    let open_ := seats.filter fun i => (g.lane i).tx.isSome
    if open_.isEmpty then s else
    let s := open_.foldl (fun s i => s.dropCosy w i) s
    let tickets := open_.filterMap fun i => (g.lane i).tx.bind (·.ticket)
    let s := { s with tickets := s.tickets.filter fun t => !tickets.contains t.num
                      marks := s.marks.filter fun m => !tickets.contains m.ticket }
    let s := match w with
      | .ctl n => s.setCtl n { s.ctl n with signature := [] }
      | .grp _ => s
    s.setGroup w (((open_.foldl (fun g i => g.abortLane i cause code) ((s.group? w).getD g)).settlePaths open_).syncSteep s.now)

/-! ### Waits that end -/

/-- A wait is over: the group is ready again, and the clocks of IDLE are charged (R408). -/
def Group.endWait (g : Group) (now : Nat) : Group :=
  match g.wait with
  | none => g
  | some _ => { g.phase 6 now with wait := none, readySince := now }

/-- What a group waits for: its own instruction, and one that a handler has interrupted at a run boundary. -/
def Group.waits (g : Group) : List Wait := g.wait.toList ++ (g.trapSave.bind fun v => v.wait).toList

/-- The answer of an instruction that waits has come: the instruction takes it when it issues again. -/
def Group.answer (g : Group) (w : Wait) (v now : Nat) : Group :=
  if g.wait == some w then { g.endWait now with waitDone := some v }
  else { g with trapSave := g.trapSave.map fun q => if q.wait == some w then { q with wait := none, waitDone := some v } else q }

/-- A group that had no lane to serve has one again: the clocks of IDLE are charged (R408). -/
def Group.idleOver (g : Group) (now : Nat) : Group := { g.phase 6 now with readySince := now }

end Sys2Proof.Machine
end

