-- ==== Sys2Proof/Machine/Lines.lean ====
section
/-! DEFINITION. Lines of memory and those who look at them: parked lanes and monitors (R364), watches and waits (R273, R284,
R299), control-core transactions (R318), the directory (R262-R266), writes by engines (R256), and the records and notices that
the hardware writes (R366, R410). -/

namespace Sys2Proof.Machine

open Sys2Proof

/-! ### Who looks at a line -/

/-- Parked lanes of a thread wake: they replay their instruction, after the validation that an open transaction asks for
(R142, R364). -/
def State.wakeThose (s : State) (w : Who) (p : PageKey → Option Nat → Bool) : State :=
  match s.group? w with
  | none => s
  | some g =>
    let ls := g.seatsWhere fun l => match l.mode with
      | .parked k t => p k t
      | _ => false
    let idle := g.wait.isNone && g.nextSets.isEmpty
    let g := g.modLanes ls fun _ l => { l with mode := .running, replays := true, woke := true }
    let s := s.setGroup w ((if idle && !ls.isEmpty then g.idleOver s.now else g).syncSteep s.now)
    let bad := ls.filter fun i => !isSolo w && !((g.lane i).tx.elim true s.validate)
    s.abort w bad .validation

/-- The lanes of a thread that a monitor has recorded for a page wake. -/
def State.wake (s : State) (w : Who) (k : PageKey) : State := s.wakeThose w fun q t => q == k && t.isNone

/-- The die of a line's home slice, and of an agent (R262); the engines of the ports are those of the fabric's die. -/
def State.lineDie (s : State) (line : Nat) : Nat := sliceDie (s.sliceOf line)
def agentDie (a : Nat) : Nat := if a < 128 then a / 16 else if a < 136 then fabricDie else if a < 1416 then coreDie (a - 136) else fabricDie

/-- The monitors of a line fire: every recorded requester is woken, across the fabric where it is remote (R364, R394). -/
def State.fireMonitors (s : State) (line : Nat) : State :=
  match s.monitors.filter fun m => m.line == line with
  | [] => s
  | ms =>
    let s := { s with monitors := s.monitors.filter fun m => m.line != line }
    ms.foldl (fun s m => m.who.foldl (fun s q =>
      if q.2.pkg = s.regs.pkg then s.wake q.1 q.2
      else (let s := s.cross (s.lineDie line) fabricDie
            { s with sent := s.sent ++ [.fabricMessage q.2.pkg (.resolve q.2 q.1) (s.cseqOf fabricDie)] })) s) s

/-- Ends a waiting LWAIT with a reason; its instruction takes it when it issues again (R299). -/
def Group.endLwait (g : Group) (now reason : Nat) : Group :=
  match g.wait with
  | some (.lwait _ _ _) => { g.endWait now with waitDone := some reason }
  | _ => g

/-- The watch on a line fires (R299). -/
def Group.fireWatch (g : Group) (now pkg line : Nat) : Group :=
  match g.watch with
  | some v => if v.pkg = pkg ∧ v.line = line then { g with watch := some { v with fired := true } }.endLwait now 0 else g
  | none => g

/-- Whether a JOIN or a queue instruction waits for a line to be written. -/
def Group.awaits (g : Group) (line : Nat) : Option (Who → Instr) :=
  match g.wait with
  | some (.join l) => if l = line then some .joinRecheck else none
  | some (.eqpush l) => if l = line then some .eqRecheck else none
  | some (.eqpop l) => if l = line then some .eqRecheck else none
  | _ => none

/-- Every thread of the package, compute groups and control cores that the tables list. -/
def State.threads (s : State) : List Who := (s.ctls.map fun e => Who.ctl e.1) ++ (s.groups.map fun e => Who.grp e.1)

/-- Watches that other packages have armed on a line fire through the fabric (R299). -/
def State.fireFarWatches (s : State) (line : Nat) : State :=
  match s.farWatches.filter fun v => v.2.2 == line with
  | [] => s
  | vs =>
    let s := s.cross (s.lineDie line) fabricDie
    { s with farWatches := s.farWatches.filter fun v => v.2.2 != line
             sent := s.sent ++ vs.map fun (v : Nat × Who × Nat) => Outbound.fabricRequest v.1 none 65536 0 0 (.fired v.2.1) (s.cseqOf fabricDie) }

/-- Watches, waits and monitors of a line that has been written (R273, R284, R299, R364). -/
def State.lineWritten (s : State) (line : Nat) : State :=
  let s := s.fireFarWatches line
  let s := { s with
    ctls := s.ctls.map fun (e : Nat × Ctl) => (e.1, { e.2 with thread := e.2.thread.fireWatch s.now s.regs.pkg line })
    groups := s.groups.map fun (e : Nat × Group) => (e.1, e.2.fireWatch s.now s.regs.pkg line) }
  let due := s.threads.filterMap fun w => ((s.group? w).bind fun g => g.awaits line).map fun (f : Who → Instr) => f w
  ({ s with agenda := s.agenda ++ due }).fireMonitors line

/-- A control core whose open transaction conflicts with an access of another agent to a line (R318). -/
def Ctl.conflicts (k : Ctl) (line : Nat) (writes : Bool) : Bool :=
  match (k.thread.lane 0).tx with
  | none => false
  | some t => t.wset.contains line || (writes && (t.rset.contains line || k.signature.contains line))

/-- A control core whose signature may report a line that was never entered (R318). -/
def Ctl.mayMatch (k : Ctl) (writes : Bool) : Bool := writes && (k.thread.lane 0).tx.isSome && !k.signature.isEmpty

/-- Conflicts with control-core transactions abort them at once with CONFLICT (R318): true ones, and a match of a signature
that the hardware's hash makes. DESIGN CHOICE: the holder of the cosy lock aborts so too; R318 names no exception for it, where
R321 says that it fails only for a non-transactional write (log 101). -/
def State.txConflict (s : State) (except_ : Option Nat) (line : Nat) (writes : Bool) : State :=
  (s.ctls.filter fun e => some e.1 != except_ && (e.2.conflicts line writes || e.2.mayMatch writes)).foldl
    (fun (s : State) e =>
      let (b, s) := if e.2.conflicts line writes then (true, s) else s.bit
      if b then s.abort (.ctl e.1) [0] .conflict else s) s

def ctlOf : Who → Option Nat
  | .ctl n => some n
  | .grp _ => none

/-! ### The directory -/

def State.dirAt (s : State) (line : Nat) : DirEntry := s.dir.getD line DirEntry.reset
def State.setDir (s : State) (line : Nat) (d : DirEntry) : State :=
  { s with dir := if d = DirEntry.reset then s.dir.erase line else s.dir.set line d }

/-- Whether a number names an agent (R262): control cores, packages of the node, engines; not the package's own position. -/
def State.isAgent (s : State) (a : Nat) : Bool :=
  if a < 128 then true
  else if a < 136 then
    let pos := a - 128
    let cols := (List.range 16).filter fun c => s.regs.node.getLsbD c
    match cols[pos]? with
    | none => false
    | some c => c != s.regs.pkg % 16
  else decide (a < 1438)

/-- The agents that an entry's pointers name, or its set bits cover (R263, R265). -/
def State.named (s : State) (d : DirEntry) : List Nat :=
  (match d.st with
   | .I => []
   | .P => d.ptrs
   | .C => (List.range 136).filter fun a => d.coarse.getLsbD (a / 8)
   | .O => d.ptrs.take 1).filter s.isAgent

/-- A sharer agent is added (R264). -/
def DirEntry.addSharer (d : DirEntry) (a : Nat) : DirEntry :=
  match d.st with
  | .I => { d with st := .P, ptrs := [a] }
  | .P =>
    if d.ptrs.contains a then d
    else if d.ptrs.length < 4 then { d with ptrs := d.ptrs ++ [a] }
    else { d with st := .C, ptrs := [], coarse := (d.ptrs ++ [a]).foldl (fun c b => c ||| (1#17 <<< (b / 8))) 0 }
  | .C => { d with coarse := d.coarse ||| (1#17 <<< (a / 8)) }
  | .O => d

def sharerAgent (a : Nat) : Bool := decide (a < 136)

/-- An agent discards its copy of a line (R265). -/
def State.dropCopy (s : State) (a line : Nat) : State :=
  { s with copies := s.copies.filter (· != (a, line)), dirty := s.dirty.filter (· != (a, line))
           badCopies := s.badCopies.filter fun c => !(c.1 == a && c.2 / 4 == line) }

/-- A sharer agent drops its copy: a notice, or a write-back of a modified line, is on its way to the slice (R266). -/
def State.evict (s : State) (a line : Nat) : State :=
  if !s.copies.contains (a, line) then s else
  let note : DropNote := ⟨a, line, s.dirty.contains (a, line)⟩
  { s.dropCopy a line with notes := s.notes ++ [note] }

/-- A store of an edge-queue step to a slot in another package. -/
def ReqKind.isSlot : ReqKind → Bool
  | .slot _ => true
  | _ => false

/-- Whether a step of a thread's edge-queue instruction goes on (R284): the thread stands at it, or a store of it to a slot in
another package is outstanding. -/
def State.stepOpen (s : State) (w : Who) (pc : Dword) : Bool :=
  (s.reqs.any fun r => r.2.who == w && r.2.pc == pc && r.2.kind.isSlot && r.2.answer.isNone) ||
  (s.group? w).any fun g => g.stalled && !g.ended && g.wait.isNone &&
    (if isSolo w then (g.lane 0).pc == pc && (g.lane 0).serves else g.issueQ.head?.any (·.addr == pc))

/-- Whether a line is held for a step on an edge queue's header. -/
def State.stepHolds (s : State) (line : Nat) : Bool :=
  s.qholds.any fun h => h.line == line && h.who.all fun w => s.stepOpen w h.pc

/-- A thread that goes on elsewhere has left its step: what it held is free, and what it has stored to slots is forgotten. -/
def State.leaveStep (s : State) (w : Who) : State :=
  let passed := s.qholds.filter fun h => h.who == some w && !s.stepOpen w h.pc
  if passed.isEmpty then s else
  { s with qholds := s.qholds.filter fun h => !passed.contains h
           reqs := s.reqs.filter fun r => !(r.2.who == w && r.2.kind.isSlot && passed.any fun h => h.pc == r.2.pc) }

/-- Whether the line's home slice holds requests back now: BUSY (R265), a mark (R316), a slice-map change (R238), or a step on an
edge queue (R284). The
arrival of a request at its slice and its being taken up are one step of the model: a request held back arrives later, which
leaves every order of arrival open. -/
def State.blocked (s : State) (line : Nat) (writes : Bool) : Bool :=
  (s.dirAt line).busy || (s.marks.any fun m => m.line == line && (writes || m.writes)) || s.stepHolds line ||
  (match s.change with
   | some c => s.sliceOf line == c.slice
   | none => false)

/-- The agents that an access must reach before it is performed: the sharers that a write invalidates, or the owner, who is
recalled (R264, R265); not the requester itself. -/
def State.toTell (s : State) (line : Nat) (writes : Bool) (own : Option Nat) : List Nat :=
  let d := s.dirAt line
  if writes || d.st == .O then (s.named d).filter fun a => some a != own else []

/-- Those of them that do not answer at once: an engine answers a recall when it has written all it is to write of the line
(R256), and the acknowledgement of another package's node copy crosses the fabric (R260). -/
def State.slow (s : State) (line : Nat) (writes : Bool) (own : Option Nat) : List Nat :=
  (s.toTell line writes own).filter fun a => decide (128 ≤ a)

/-- Invalidations or a recall go out, and the line is BUSY until the last of them is acknowledged (R265). -/
def State.startTell (s : State) (line : Nat) (writes : Bool) (own wait : Option Nat) : State :=
  let d := s.dirAt line
  let to_ := s.toTell line writes own
  let recalls := d.st == .O
  let s := if recalls then s.count 3 1 else s.count 1 to_.length
  s.setDir line { d with
    busy := true, acks := to_.length, wait, recalls, reads := !writes, owed := to_, acked := [], cseq := s.cseqOf (s.lineDie line) }

/-- Whether an access of an agent to a line can be performed now. -/
def State.mayTake (s : State) (line : Nat) (writes : Bool) (own : Option Nat) : Bool :=
  !s.blocked line writes && (s.slow line writes own).isEmpty

/-- An access has come to a line: agents that do not answer at once are told, and the access waits for them. -/
def State.summon (s : State) (line : Nat) (writes : Bool) (own : Option Nat) : State :=
  if !s.blocked line writes && !(s.slow line writes own).isEmpty then s.startTell line writes own none else s

/-- An engine comes to the bytes [a, a + n): whether it can read or write them now, and the state in which it waits. -/
def State.engineReady (s : State) (a n : Nat) (writes : Bool) (own : Option Nat) : Bool × State :=
  let ls := blocks 128 a n
  (ls.all fun l => s.mayTake l writes own, ls.foldl (fun (s : State) l => s.summon l writes own) s)

/-- A read at the home slice, its recall included (R264). -/
def State.dirRead (s : State) (line : Nat) (reader : Option Nat) : State :=
  let d := s.dirAt line
  match reader with
  | some a => if s.copies.contains (a, line) then s else
    let s := if d.st == .O then s.count 3 1 else s
    let d := if d.st == .O then { d with st := .P, ptrs := d.ptrs.filter sharerAgent } else d
    let s := { s with dirty := s.dirty.filter (·.2 != line), copies := s.copies ++ [(a, line)] }
    s.setDir line ((if d.ptrs.isEmpty && d.st == .P then { d with st := .I } else d).addSharer a)
  | none =>
    if d.st == .O then
      let s := s.count 3 1
      let keep := d.ptrs.filter sharerAgent
      ({ s with dirty := s.dirty.filter (·.2 != line) }).setDir line
        (if keep.isEmpty then DirEntry.reset else { d with st := .P, ptrs := keep })
    else s

/-- A write or ownership request at the home slice, carried through: every other copy invalidated or recalled (R265). -/
def State.dirWrite (s : State) (line : Nat) (owner : Option Nat) : State :=
  let d := s.dirAt line
  if d.st == .O && d.ptrs.head? == owner && owner.isSome then
    { s with dirty := if s.dirty.contains (owner.getD 0, line) || !sharerAgent (owner.getD 0) then s.dirty
                      else s.dirty ++ [(owner.getD 0, line)] }
  else
  let to_ := (s.named d).filter fun a => some a != owner
  let s := if d.st == .O then s.count 3 1 else (s.count 1 to_.length).count 2 (to_.filter fun a => !s.copies.contains (a, line)).length
  let s := to_.foldl (fun s a => s.dropCopy a line) s
  match owner with
  | none => s.setDir line DirEntry.reset
  | some a =>
    let s := s.setDir line { DirEntry.reset with st := .O, ptrs := [a] }
    if sharerAgent a then
      { s with copies := if s.copies.contains (a, line) then s.copies else s.copies ++ [(a, line)],
               dirty := if s.dirty.contains (a, line) then s.dirty else s.dirty ++ [(a, line)] }
    else s

/-! ### Writes by engines and by the hardware -/

/-- What an agent of a die does with a line at the line's home slice, and the answer: messages between two dies (R412). -/
def State.visit (s : State) (die : Option Nat) (line : Nat) (f : State → State) : State :=
  match die with
  | none => f s
  | some d => (f (s.cross d (s.lineDie line))).cross (s.lineDie line) d

/-- A write by an engine, a port or the fabric (R256): it takes ownership of each line, writes its bytes and gives the line
back, in one step. No near cache changes, and no directory copy survives. -/
def State.engineWrite (s : State) (a : Nat) (bs : List Byte) (die : Option Nat := none) : State :=
  (blocks 128 a bs.length).foldl (fun s line =>
    let lo := max a (128 * line)
    let hi := min (a + bs.length) (128 * line + 128)
    let part := (bs.drop (lo - a)).take (hi - lo)
    s.visit die line fun s => ((((s.txConflict none line true).dirWrite line none).write lo part).lineWritten line)) s

/-- A read by an engine at the home slice, as a strong read (R257): it leaves no copy and changes no byte. -/
def State.engineRead (s : State) (a n : Nat) (die : Option Nat := none) : State :=
  (blocks 128 a n).foldl (fun (s : State) l => s.visit die l fun s => (s.txConflict none l false).dirRead l none) s

/-- An engine comes to ranges of bytes, each to be read or written: its work goes on when it can have all of them, or waits
(R256, R257). -/
def State.allReady (s : State) (rs : List (Nat × Nat × Bool)) : Bool × State :=
  (rs.all fun r => (s.engineReady r.1 r.2.1 r.2.2 none).1, rs.foldl (fun (s : State) r => (s.engineReady r.1 r.2.1 r.2.2 none).2) s)

def State.whenReady (s : State) (rs : List (Nat × Nat × Bool)) (go : State → State) : State :=
  if (s.allReady rs).1 then go s else (s.allReady rs).2

/-- Whether two writes of the hardware's own go to one place, and so in their order. -/
def HwWrite.samePlace : HwWrite → HwWrite → Bool
  | .observation p _, .observation q _ => p == q
  | .record p _ _ _ _, .record q _ _ _ _ => p == q
  | .count e, .count f => e.phys == f.phys
  | .portCount p _ _, .portCount q _ _ => p == q
  | _, _ => false

/-- A write of the hardware's own is made at once when its lines can be had and none to its place is before it; else it waits. `go`
makes it, or says that it cannot be made yet. -/
def State.hwWrite (s : State) (w : HwWrite) (go : State → Bool × State) : State :=
  let later := fun (s : State) => { s with hwWrites := s.hwWrites ++ [w] }
  if s.hwWrites.any w.samePlace then later s
  else if (go s).1 then (go s).2 else later (go s).2

/-- One that waits is taken up again. -/
def State.hwAgain (s : State) (w : HwWrite) (go : State → Bool × State) : State :=
  if (s.hwWrites.find? w.samePlace) != some w then s
  else if (go s).1 then { (go s).2 with hwWrites := (go s).2.hwWrites.erase w } else (go s).2

/-- A record of an observation ring is written, TAIL steps and the interrupt is raised (R410). -/
def State.observationGo (p : Nat) (bytes : List Byte) (s : State) : Bool × State :=
  let q := s.part p
  if s.ringRoom q.oq 128 then
    let a := q.oq.base + 128 * (q.oq.tail.toNat % 2 ^ q.oq.log2)
    let (ready, s) := s.engineReady a 128 true none
    if ready then (true, ((s.engineWrite a bytes).setPart p { q with oq := { q.oq with tail := q.oq.tail + 1 } }).raise 0x084)
    else (false, s)
  else (true, s.setPart p { q with oq := { q.oq with lost := q.oq.lost + 1 } })

/-- A record for an observation ring, or its loss (R410); the record's bytes are formed from the new CSEQ. -/
def State.observe (s : State) (p : Nat) (die : Nat) (rec_ : Nat → List Byte) : State :=
  let q := s.part p
  if s.ringRoom q.oq 128 (s.hwWrites.filter fun w => w.samePlace (.observation p [])).length then
    let (c, s) := s.stepCseq die
    s.hwWrite (.observation p (rec_ c)) (State.observationGo p (rec_ c))
  else s.setPart p { q with oq := { q.oq with lost := q.oq.lost + 1 } }

/-- The bytes of a notice (R366). -/
def noticeBytes (n : Notice) (seq : Word) : List Byte :=
  leBytes 1 n.kind ++ leBytes 1 n.src ++ leBytes 2 n.key.asn ++ leBytes 4 n.key.obj ++ leBytes 8 n.key.page ++
  leBytes 8 n.entry.toNat ++ leBytes 8 seq.toNat

def State.noticeRoom (s : State) : Bool :=
  s.regs.nqLog2 != 0 && decide ((s.regs.nqTail - s.regs.nqHead).toNat < 2 ^ s.regs.nqLog2)

/-- Writes one notice to the ring, steps XQTAIL and raises the translation interrupt (R366). -/
def State.putNotice (s : State) (n : Notice) : State :=
  let a := s.regs.nqBase + 32 * (s.regs.nqTail.toNat % 2 ^ s.regs.nqLog2)
  let s := s.engineWrite a (noticeBytes n s.regs.nqTail)
  ({ s with regs := { s.regs with nqTail := s.regs.nqTail + 1 } }).raise 0x080

/-- The oldest waiting notice is written once there is room, and its line can be had. -/
def State.drainNotice (s : State) : State :=
  match s.notices with
  | [] => s
  | n :: rest =>
    if s.noticeRoom then
      s.whenReady [(s.regs.nqBase + 32 * (s.regs.nqTail.toNat % 2 ^ s.regs.nqLog2), 32, true)] fun s => { s with notices := rest }.putNotice n
    else s

/-- A notice is written, or waits: one of kind 1 is never dropped, and one of kind 2 comes only where there is room for it (R365, R366). -/
def State.notice (s : State) (n : Notice) : State := ({ s with notices := s.notices ++ [n] }).drainNotice

/-- Whether the ring has room for one more notice than those that wait. -/
def State.noticeFree (s : State) : Bool :=
  s.regs.nqLog2 != 0 && decide ((s.regs.nqTail - s.regs.nqHead).toNat + s.notices.length < 2 ^ s.regs.nqLog2)

end Sys2Proof.Machine
end

