-- ==== Sys2Proof/Machine/Ops.lean ====
section
/-! DEFINITION. The named operations the meanings share: descriptors and launch queues (R40, R41, R338), records (R357,
R358, R411), and taking a trap or an exception and returning from it (R292, R296, R297, R355, R356). Those over lanes and
over lines of memory stand in Lanes.lean and Lines.lean. -/

namespace Sys2Proof.Machine

open Sys2Proof

/-! ### Descriptors and launch queues (R40, R41, R131, R133, R338) -/

def leAt (bs : List Byte) (off n : Nat) : Nat := leNat ((bs.drop off).take n)

/-- The fields of a launch descriptor from its 256 bytes and the tags of its capability fields. -/
def descOf (bs : List Byte) (argTag joinTag : Bool) : Desc :=
  { entry := BitVec.ofNat 64 (leAt bs 0 8), traph := BitVec.ofNat 64 (leAt bs 8 8), gridX := leAt bs 0x10 4,
    gridY := leAt bs 0x14 4, gridZ := leAt bs 0x18 4, teamX := leAt bs 0x1C 2, teamY := leAt bs 0x1E 2,
    teamZ := leAt bs 0x20 2, span := leAt bs 0x22 1, roles := leAt bs 0x23 1, regs := leAt bs 0x24 2,
    hampers := leAt bs 0x26 1, barriers := leAt bs 0x27 1, progress := leAt bs 0x28 1, priority := leAt bs 0x29 1,
    residency := leAt bs 0x2A 1, argcap := ⟨BitVec.ofNat 128 (leAt bs 0x30 16), argTag⟩,
    joincap := ⟨BitVec.ofNat 128 (leAt bs 0x40 16), joinTag⟩,
    roleTab := (List.range 8).map fun i => BitVec.ofNat 32 (leAt bs (0x50 + 4 * i) 4),
    fmtTab := (List.range 8).map fun i => BitVec.ofNat 32 (leAt bs (0x70 + 4 * i) 4),
    reserved := leAt bs 0x2B 5 == 0 && leAt bs 0x90 112 == 0 }

namespace Desc

def threads (d : Desc) : Nat := d.teamX * d.teamY * d.teamZ
def groups (d : Desc) : Nat := (d.threads + 31) / 32
def teams (d : Desc) : Nat := d.gridX * d.gridY * d.gridZ
/-- GROUPS and registers of a role entry (R40). -/
def roleGroups (w : Word) : Nat := w.toNat / 128 % 512
def roleRegs (w : Word) : Nat := w.toNat / 65536
/-- The role of a group (R129, R41). -/
def roleOf (d : Desc) (g : Nat) : Nat :=
  (((List.range d.roles).find? fun r => decide (g < ((d.roleTab.take (r + 1)).map roleGroups).sum)).getD 0)
/-- Registers per thread of a group. -/
def allocOf (d : Desc) (g : Nat) : Nat := if d.roles = 0 then d.regs else roleRegs (d.roleTab.getD (d.roleOf g) 0)
/-- The number of map entries a team owns on each core (R324). -/
def entries (d : Desc) : Nat := (d.hampers + d.span - 1) / d.span

/-- A valid format register, by R160. -/
def fmtValid (w : Word) : Bool :=
  let e := w.toNat / 16 % 8; let m := w.toNat % 8; let sp := w.toNat / 1024 % 4; let wd := w.toNat / 256 % 2 + e + m
  decide (2 ≤ wd) && decide (wd ≤ 8) && sp != 3 && (e != 0 || sp == 0) && (sp != 1 || decide (1 ≤ m))

def regsOk (n : Nat) : Bool := decide (32 ≤ n) && decide (n ≤ 1024) && n % 32 == 0

/-- The limits of R40, R41, R160 and R207. `grid` is false where the grid fields are ignored (R286). -/
def valid (d : Desc) (grid : Bool) : Bool :=
  d.entry.toNat % 4 == 0 && d.traph.toNat % 4 == 0 &&
  (!grid || ([d.gridX, d.gridY, d.gridZ].all (fun n => decide (1 ≤ n) && decide (n < 2 ^ 24)) && decide (d.teams < 2 ^ 32))) &&
  [d.teamX, d.teamY, d.teamZ].all (fun n => decide (1 ≤ n)) && decide (d.threads ≤ 8192) &&
  [1, 2, 4, 8].contains d.span && decide (d.roles ≤ 8) && decide (d.hampers ≤ 32) && decide (d.hampers ≤ 16 * d.span) &&
  decide (d.barriers ≤ 128) && decide (d.progress ≤ 1) && decide (d.priority ≤ 7) && decide (d.residency ≤ 1) && d.reserved &&
  decide (d.groups ≤ 32 * d.span) && decide (d.groups ≤ 256) &&
  (if d.roles = 0 then regsOk d.regs else
    d.regs == 0 && ((d.roleTab.take d.roles).map roleGroups).sum == d.groups &&
    (d.roleTab.take d.roles).all (fun w => regsOk (roleRegs w) && decide (1 ≤ roleGroups w) && decide (roleGroups w ≤ 256) &&
      w.toNat % 128 == 0)) &&
  (d.roleTab.drop d.roles).all (· == 0) && d.fmtTab.all (fun w => w == 0 || fmtValid w)

/-- The capability fields a launch accepts (R271). -/
def capsOk (d : Desc) (arg : Bool) : Bool :=
  (!arg || d.argcap.tag || d.argcap.bits == 0) && (d.joincap.tag || d.joincap.bits == 0) &&
  (!d.joincap.tag || (d.joincap.has permW && d.joincap.has permA && d.joincap.kind == 1))

end Desc

/-- Whether groups with these budgets can sit on slots that already seat some (R135): each slot by its seats and
registers in use. Every distribution is tried. -/
def slotFits (used : List (Nat × Nat)) : List Nat → Bool
  | [] => true
  | a :: rest =>
    (List.range used.length).any fun i =>
      let u := used.getD i (0, 0)
      decide (u.1 < 16) && decide (u.2 + 32 * a ≤ 65536) && slotFits (used.set i (u.1 + 1, u.2 + 32 * a)) rest

/-- Whether one team of a descriptor could be placed on an empty block (R271, R286, R339). -/
def Desc.fitsEmpty (d : Desc) : Bool :=
  decide (d.hampers ≤ 32) && decide (d.entries ≤ 16) &&
  (List.range d.span).all fun c =>
    slotFits (List.replicate 4 (0, 0)) (((List.range d.groups).filter fun g => g % d.span == c).map d.allocOf)

/-- The service cores: core 0 of cluster 0 of each die (R134). -/
def serviceCore (c : Nat) : Bool := c % 160 == 0

/-- Whether a partition has a block of cores that could hold a team, even empty (R271). -/
def State.partFits (s : State) (p : Nat) (d : Desc) : Bool :=
  (s.part p).enabled && d.fitsEmpty &&
  (List.range 160).any fun cl => (s.part p).clusters.getLsbD cl &&
    (List.range (8 / d.span)).any fun b =>
      (List.range d.span).all fun j =>
        let c := 8 * cl + b * d.span + j
        !serviceCore c && !(s.core c).mappedOut

/-- The next launch id of a partition: 0 is never used (R131). -/
def State.launchId (s : State) (p : Nat) : Word × State :=
  let q := s.part p
  (q.nextId, s.setPart p { q with nextId := if q.nextId = 0xFFFFFFFF then 1 else q.nextId + 1 })

/-- The grids in the launch queue of a partition and priority, which still have a team to dispatch (R338, R358). -/
def State.queued_ (s : State) (p prio : Nat) : List Grid :=
  (s.grids.map (·.2)).filter fun g => g.part == some p && g.desc.priority == prio && !g.ended && decide (g.next < g.teams)

/-- A grid that R338 counts against the limit of 256: not one of an edge queue, an active message or the service machinery. -/
def Grid.counts (g : Grid) : Bool :=
  match g.source with
  | .spawn | .fault => true
  | _ => false

/-- The grids that a SPAWN's limit counts (R271, R338). -/
def State.queueLen (s : State) (p prio : Nat) : Nat := ((s.queued_ p prio).filter Grid.counts).length

/-- A grid enters its launch queue; the scheduler looks (R338, R340). -/
def State.enqueue (s : State) (g : Grid) : State :=
  let s := { s with grids := s.grids.set s.grids.fresh { g with order := s.queued }, queued := s.queued + 1 }
  match g.part with
  | none => s
  | some p => { s with agenda := s.agenda ++ [.schedule p] }

/-- The sixteen s-registers of a team from the words its source gives (R133). -/
def sregsOf (l : List Word) : List Word := (l ++ List.replicate 16 0).take 16

/-! ### Records (R357, R358) -/

/-- The bytes of a trap record. -/
def trapRecord (kind cause : Nat) (launch team thread : Nat) (name fpc val : Dword) (mask : Word) (place : Nat) : List Byte :=
  leBytes 1 kind ++ leBytes 1 cause ++ leBytes 2 0 ++ leBytes 4 launch ++ leBytes 4 team ++ leBytes 4 thread ++
  leBytes 8 name.toNat ++ leBytes 8 fpc.toNat ++ leBytes 8 val.toNat ++ leBytes 4 mask.toNat ++ leBytes 4 place ++ leBytes 16 0

/-- The fault team of R358 for a record written at the slot index `slot`. DESIGN CHOICE: FKLOST does not step for a record that names
a grid launched by this rule, since the rule's text steps it for a descriptor that fails or a queue that is full (log 102). -/
def State.faultTeam (s : State) (p : Nat) (slot : Word) (kind cause : Nat) (launch : Word) : State :=
  let q := s.part p
  if !q.fkEn then s else
  let byFault := s.grids.any fun e => e.2.part == some p && e.2.launch == launch && e.2.source == .fault
  if byFault then s else
  let s := s.engineRead q.fkd 256
  let bs := s.bytes q.fkd 256
  let d := descOf bs (s.tagAt (q.fkd + 0x30)) (s.tagAt (q.fkd + 0x40))
  if d.valid true && d.capsOk true && s.partFits p d && decide ((s.queued_ p d.priority).length < 256) then
    let (id, s) := s.launchId p
    s.enqueue { launch := id, part := some p, desc := d, asn := q.fkAsn,
                args := sregsOf [slot, BitVec.ofNat 32 kind, BitVec.ofNat 32 cause, launch], a0 := d.argcap, source := .fault,
                teams := 1, next := 0, held := false, reported := false, ended := false, order := 0 }
  else s.setPart p { s.part p with fkLost := q.fkLost + 1 }

/-- A record is written to a partition's trap record ring: TAIL, the interrupt, and the fault team (R357, R358). -/
def State.recordGo (p kind cause : Nat) (launch : Word) (bytes : List Byte) (s : State) : Bool × State :=
  let q := s.part p
  if s.ringRoom q.tq 64 then
    let a := q.tq.base + 64 * (q.tq.tail.toNat % 2 ^ q.tq.log2)
    let rs := (a, 64, true) :: if q.fkEn then [(q.fkd, 256, false)] else []
    if (s.allReady rs).1 then
      let s := s.engineWrite a bytes
      let q := s.part p
      let s := (s.setPart p { q with tq := { q.tq with tail := q.tq.tail + 1 } }).raise (0x40 + p)
      (true, s.faultTeam p q.tq.tail kind cause launch)
    else (false, (s.allReady rs).2)
  else (true, s.setPart p { q with tq := { q.tq with lost := q.tq.lost + 1 } })

/-- A record goes to a partition's trap record ring, or is lost (R357). -/
def State.trapRecord (s : State) (p : Nat) (kind cause : Nat) (launch : Word) (bytes : List Byte) : State :=
  let q := s.part p
  if s.ringRoom q.tq 64 (s.hwWrites.filter fun w => w.samePlace (.record p 0 0 0 [])).length then
    s.hwWrite (.record p kind cause launch bytes) (State.recordGo p kind cause launch bytes)
  else s.setPart p { q with tq := { q.tq with lost := q.tq.lost + 1 } }

/-! ### Traps and exceptions -/

def causeNum : Cause → Nat
  | .illegal => 0x01 | .capBound => 0x02 | .capPerm => 0x03 | .capTag => 0x04 | .capRevoked => 0x05 | .indexBound => 0x06
  | .window => 0x07 | .hamperDetached => 0x08 | .misaligned => 0x09 | .preempt => 0x0A | .break_ => 0x0B | .watch => 0x0C
  | .fabric => 0x0D | .poison => 0x0E | .serviceError => 0x0F | .extentError => 0x10 | .gridStall => 0x11

/-- The step of R296: EPC, CAUSE and EVAL are set, the mode and IE are saved, and EVEC is entered in kernel mode. -/
def State.exception (s : State) (n : Nat) (epc : Dword) (cause : Nat) (eval : Dword) : State :=
  let k := s.ctl n
  let g := k.thread.modLane 0 fun l => { l.clearRun with pc := k.evec, mode := .running, replays := false, woke := false }
  s.setCtl n { k with epc, ecause := BitVec.ofNat 8 cause, eval := eval.setWidth 32, pprv := k.kernel, pie := k.ie, ie := false,
                      kernel := true, thread := { g with runOpen := false, endPending := false, issueQ := [], snap := none, wait := none } }

/-- ERET (R297): the pc from EPC, the mode from PPRV, IE from PIE. -/
def State.exceptionReturn (s : State) (n : Nat) : State :=
  let k := s.ctl n
  let g := k.thread.modLane 0 fun l => { l with pc := k.epc }
  s.setCtl n { k with kernel := k.pprv, ie := k.pie, thread := g }

def placeWord (g : Group) : Nat :=
  match g.place with
  | none => 0
  | some p => coreDie p.core * 2 ^ 24 + p.core % 160 * 2 ^ 16 + p.slot * 2 ^ 14

/-- The teams of a grid that have been dispatched and not retired. -/
def State.teamsOf (s : State) (grid : Nat) : List Nat :=
  (s.teams.filter fun e => e.2.grid == grid && e.2.phase != .retired).map (·.1)

/-- Every lane of a group is gone: its transactions abort and it holds nothing more (R54, R356). -/
def Group.gone (g : Group) (now : Nat) : Group :=
  { g.phase 7 now with
    lanes := g.lanes.map fun l => { l with mode := .exited, tx := none }, issueQ := [], snap := none, runOpen := false, wait := none,
    rstack := [], holds := [], watch := none, trapDue := false, marked := false, cut := false, moveDue := none, ended := true }

/-- Whether a group is saved or halted (R336). -/
def Group.away (g : Group) : Bool := g.saved || g.halted

/-- Whether a group counts as pre-empted: it is away, or its run that executed PDONE has ended (R327). -/
def Group.preempted (g : Group) : Bool := g.away || (g.pdone && !g.runOpen)

/-- The end of a grid (R356): its resident groups halt, its saved and queued teams are discarded, every team retires and
advances the join counter, and a record of kind 1 is written. -/
def State.gridEnd (s : State) (grid : Nat) (rec_ : State → State) : State :=
  match s.grids.get? grid with
  | none => s
  | some d =>
    let ts := s.teamsOf grid
    let gs := ts.flatMap fun t => (s.teams.get? t).elim [] (·.groups)
    let s := gs.foldl (fun s k =>
      let s := ((s.group? (.grp k)).elim [] fun g => g.live).foldl (fun s i => s.dropCosy (.grp k) i) s
      s.modGroup (.grp k) fun g => g.gone s.now) s
    -- the teams that never ran retire as one record, which advances the counter once for each
    let left := if d.next < d.teams then
        [(s.teams.fresh, ({ grid, index := d.next, launch := d.launch, part := d.part, phase := .retiring 6, cluster := 0, base := 0,
                            span := 0, threads := 0, groups := [], fmts := [], barriers := [], maps := [], matrix := [], copies := [],
                            evicted := false, savedAt := 0, swapped := false, seated := false, advances := d.teams - d.next } : Team))]
      else []
    let s := { s with
      teams := left.foldl (fun m (e : Nat × Team) => m.set (max 1 e.1) e.2) s.teams
      tickets := s.tickets.filter fun t => !gs.contains t.who
      marks := s.marks.filter fun m => !s.tickets.any fun t => gs.contains t.who && t.num == m.ticket
      reqs := s.reqs.map fun (e : Nat × Req) => match e.2.who with
        | .grp k => (e.1, if gs.contains k then { e.2 with dest := none, latch := [] } else e.2)
        | .ctl _ => e }
    let s := { s with
      teams := ts.foldl (fun m t => match m.get? t with
        | some v => match v.phase with
          | .retiring _ => m   -- it retires already, and advances the counter once
          | _ => m.set t { v with phase := .retiring 1 }
        | none => m) s.teams
      grids := s.grids.set grid { d with ended := true, next := d.teams }
      agenda := s.agenda ++ ts.map .teamRetire }
    rec_ s

/-- The frame of a page, by the tables of R359 alone. -/
def State.tableFrame (s : State) (asn obj page : Nat) : Option Nat :=
  let ast := s.regs.astBase + 32 * asn
  if s.regs.astLen ≤ asn ∨ s.num (ast + 0xC) 4 % 2 = 0 then none else
  let ot := s.num ast 8 + 16 * obj
  if s.num (ast + 8) 4 ≤ obj ∨ s.num ot 16 / 2 ^ 127 = 0 then none else
  let o := s.num ot 16
  if o / 2 ^ 100 % 2 ^ 26 ≤ page then none else
  let e := s.num (o / 2 ^ 7 % 2 ^ 35 * 128 + 8 * page) 8
  if e / 2 ^ 63 = 0 then none else some (e / 2 ^ 16 % 2 ^ 26)

/-- What a trap is, before it is taken. -/
structure TrapReq where
  cause    : Cause
  seats    : List Nat   -- the lanes that raised it
  value    : Dword
  tfpc     : Dword
  word     : Word
  word2    : Word
  words    : Option (Word × Word)   -- as its lanes' loop buffers gave it
  deferred : Bool

/-- A group's trap handler address (R40). -/
def State.traphOf (s : State) (g : Group) : Dword :=
  match s.teams.get? g.team with
  | none => 0
  | some t => match s.grids.get? t.grid with
    | none => 0
    | some d => d.desc.traph

/-- A compute group takes a trap (R355), or its grid ends (R356). `hset` are the handler's lanes, `path` those of the
trapping path, `tpc` the return address. -/
def State.enterTrap (s : State) (k : Nat) (r : TrapReq) (hset path : List Nat) (tpc : Dword) : State :=
  match s.group? (.grp k) with
  | none => s
  | some g =>
    let th := s.traphOf g
    if th = 0 ∨ g.trap.inHandler then
      match s.teams.get? g.team with
      | none => s
      | some t =>
        let thread := ((g.lane ((r.seats.foldl min 31))).thread).getD 0
        s.gridEnd t.grid fun s => match t.part with
          | none => s
          | some p => s.trapRecord p 1 (causeNum r.cause) t.launch
              (Machine.trapRecord 1 (causeNum r.cause) t.launch.toNat t.index thread g.name r.tfpc r.value (seatMask r.seats)
                (placeWord g))
    else
      let boundary := r.deferred || r.cause == .preempt
      let save : TrapSave :=
        { seats := ((List.range g.lanes.length).map fun i =>
            let l := g.lane i
            ⟨l.pc, l.mode, l.latches, l.pushes, l.count, l.replays, l.woke, hset.contains i, path.contains i⟩),
          stack := g.rstack, tpc, next := tpc + (if isPfxWord r.word.toNat then 8 else 4), boundary,
          queue := ⟨tpc, path, r.words⟩ :: g.issueQ, bcast := g.bcast, holder := g.holder, served := path.foldl sInsert g.served,
          endPending := g.endPending, failed := g.failed, wait := g.wait, waitDone := g.waitDone }
      let g := { g with
        lanes := (g.lanes.mapIdx fun (i : Nat) (l : Lane) =>
          if hset.contains i then
            { l.clearRun with pc := th, mode := LaneMode.running, held := false, replays := false, woke := false }
          else { l with held := true }),
        rstack := [], bcast := none, issueQ := [], snap := none, endPending := false, runOpen := false, served := [], trapSave := some save, failed := [],
        inPreempt := r.cause == Cause.preempt, wait := none, waitDone := none,
        trap := ⟨true, r.deferred, BitVec.ofNat 8 (causeNum r.cause), seatMask r.seats, tpc, r.tfpc, r.value, r.word, r.word2⟩ }
      s.setGroup (.grp k) ({ (g.phase 6 s.now).settle with readySince := s.now }.takeBroadcast s.now |>.syncSteep s.now)

/-- The causes that R309 turns into aborts of open transactions. -/
def abortable : Cause → Bool
  | .capTag | .capBound | .capPerm | .capRevoked | .indexBound | .window | .misaligned | .hamperDetached | .watch | .poison
  | .extentError | .illegal => true
  | _ => false

/-- What a thread has asked of other packages for the instruction at an address, and no longer waits for; the header of an edge
queue that the answer holds is let go by itself (R284). -/
def State.dropReads (s : State) (w : Who) (a : Dword) : State :=
  { s with reqs := s.reqs.filter fun r => !(r.2.who == w && r.2.pc == a && r.2.remote.isSome && r.2.kind != .queueBegin &&
      (r.2.num.isNone || r.2.answer.isSome)) }

/-- A fault of the instruction in progress (R33 Trap, R309, R355, R356): the lanes that raised it with a transaction open
abort; if others raised it, the group or thread takes the trap with a mask of those; the instruction has no effect. -/
def State.fault (s : State) (x : Ctx) (cause : Cause) (seats : List Nat) (value : Dword) : State :=
  let s := { s with cur := none }.dropReads x.who x.c.addr
  let txs := if abortable cause then seats.filter fun i => (x.g.lane i).tx.isSome else []
  let rest := seats.filter fun i => !txs.contains i
  let s := txs.foldl (fun s i =>
    let why := if cause == .illegal then AbortCause.illegal
      else if !x.solo && !((x.g.lane i).tx.elim true s.validate) then .validation else .fault
    s.abort x.who [i] why) s
  if rest.isEmpty then
    -- no lane traps: the aborted lanes resume at their retry paths, and the others execute the instruction in the same run
    let left := x.c.seats.filter fun i => !txs.contains i
    let s := s.modGroup x.who fun g =>
      if left.isEmpty then g.endIssue s.now else { g with issueQ := ⟨x.c.addr, left, x.c.words⟩ :: g.issueQ, stalled := true }
    { s with agenda := s.agenda ++ (s.group? x.who).elim [] fun g => g.boundaryEvents x.who }
  else match x.who with
    | .ctl n => s.exception n x.c.addr (causeNum cause) value
    | .grp k => s.enterTrap k ⟨cause, rest, value, x.c.addr, x.c.word, x.c.word2, x.c.words, false⟩
        (x.c.seats.filter fun i => !txs.contains i) (x.c.seats.filter fun i => !txs.contains i) x.c.addr

/-- ILLEGAL with every active lane in the mask (R32). -/
def State.illegal (s : State) (x : Ctx) : State := s.fault x .illegal x.c.seats 0

/-- A cached entry's frame. -/
def Extent.frame (e : Extent) : Nat := e.entry.toNat / 2 ^ 16 % 2 ^ 26

def State.cachedExtent (s : State) (k : PageKey) : Option Extent := s.extents.find? fun e => e.key == k

/-- The instruction-cache lines of the core a thread runs on. -/
def State.icache (s : State) (w : Who) : FMap CodeLine :=
  match w with
  | .ctl n => (s.ctl n).icache
  | .grp _ => (s.coreOf w).elim [] fun c => (s.core c).icache

def State.setIcache (s : State) (w : Who) (m : FMap CodeLine) : State :=
  match w with
  | .ctl n => s.setCtl n { s.ctl n with icache := m }
  | .grp _ => match s.coreOf w with
    | some c => s.setCore c { s.core c with icache := m }
    | none => s

/-- The word at a physical address as the core fetches it: from its instruction cache, else from memory. -/
def State.codeAt (s : State) (w : Who) (a : Nat) : Word :=
  match (s.icache w).get? (a / 128) with
  | some l => BitVec.ofNat 32 (leNat ((l.bytes.drop (a % 128)).take 4))
  | none => BitVec.ofNat 32 (s.num a 4)

/-- The frame of a page of code: the extent cache's, else the tables'. -/
def State.codeFrame (s : State) (asn obj page : Nat) : Option Nat :=
  match s.cachedExtent ⟨s.regs.pkg, asn, obj, page⟩ with
  | some e => some e.frame
  | none => s.tableFrame asn obj page

/-- The word at a code address, without any effect. DESIGN CHOICE: where the address cannot be fetched, TWORD holds the word that
its translation leads to, and 0 where it has none (log 102). -/
def State.instrWord (s : State) (w : Who) (a : Dword) : Word :=
  match s.codeFrame (s.asnOf w) (a.toNat / 2 ^ 42 % 2 ^ 20) (a.toNat % 2 ^ 42 / 65536) with
  | none => 0
  | some f => s.codeAt w (f * 65536 + a.toNat % 65536)

/-- A trap taken at a run boundary (R355, PREEMPT and DEF): every lane that has neither exited nor parked enters. DESIGN CHOICE:
where the broadcast would serve no path next, because every lane waits or is stopped, TPC is 0, for R355 gives no address (log 102). -/
def State.boundaryTrap (s : State) (k : Nat) (cause : Cause) (seats : Option (List Nat)) (value : Dword) (tfpc : Option Dword)
    (tpc? : Option Dword) : State :=
  match s.group? (.grp k) with
  | none => s
  | some g =>
    let h := g.seatsWhere fun l => l.thread.isSome && (match l.mode with | LaneMode.exited => false | LaneMode.parked _ _ => false | _ => true)
    let tpc := match tpc? with
      | some a => a
      | none => BitVec.ofNat 64 (g.broadcast.getD 0)
    let path := g.pathSeats tpc.toNat
    let fpc := tfpc.getD tpc
    let w := s.instrWord (.grp k) fpc
    let w2 := if isPfxWord w.toNat then s.instrWord (.grp k) (fpc + 4) else 0
    s.enterTrap k ⟨cause, seats.getD h, value, fpc, w, w2, none, tfpc.isSome⟩ h path tpc

/-- A seat whose latches and count the trap found kept for a replay. -/
def SeatSave.keepsRun (q : SeatSave) : Bool := match q.mode with | .parked _ _ => true | _ => q.replays

/-- The part of an active set that can still execute: lanes at its address that are served, from the words it was issued
with where loop buffers gave them. -/
def IssueSet.remains (q : IssueSet) (g : Group) : IssueSet :=
  { q with seats := q.seats.filter fun i =>
      (g.lane i).serves && (g.lane i).pc == q.addr && q.words.all fun w => (g.lane i).buffered && (g.lane i).bufferWords == w }

/-- The return of R292 and R355: the saved structure comes back, the trapping path's lanes resume at TPC or after it, and
the interrupted run goes on with what its issue had still to execute, unless the trap came at a run boundary or the return is
to another address; what is kept for a replay is kept in any case (R141, R142). -/
def Group.trapReturn (g : Group) (next : Dword) (now : Nat) : Group :=
  match g.trapSave with
  | none => g
  | some v =>
    let g := g.phase 2 now
    let stays := next == v.tpc
    let fresh := v.boundary || !(stays || next == v.next)
    let g := { g with
      wait := if stays then v.wait else none, waitDone := if stays then v.waitDone else none, readySince := now,
      lanes := (g.lanes.mapIdx fun (i : Nat) (l : Lane) =>
        match v.seats[i]? with
        | none => l
        | some q =>
          let l := if fresh && !q.keepsRun then { l.clearRun with held := false }
            else { l with held := false, latches := q.latches, pushes := q.pushes, count := q.count, replays := l.replays || q.replays, woke := l.woke || q.woke }
          if l.mode == LaneMode.exited then l
          else if q.inH && q.onPath then { l with pc := next, mode := LaneMode.running }
          else if q.inH then { l with pc := q.pc, mode := q.mode }
          else l),
      rstack := v.stack, trapSave := none, beats := [], inPreempt := false, failed := v.failed ++ g.failed,
      bcast := if v.bcast == some v.tpc then some next else v.bcast, holder := v.holder, issueQ := [], snap := none,
      endPending := !fresh && v.endPending, served := if fresh then [] else v.served, runOpen := !fresh,
      trap := { g.trap with inHandler := false } }
    let g := g.settlePaths (g.seatsWhere Lane.serves)
    if fresh then { g with cls := g.restClass }.takeBroadcast now |>.syncSteep now
    else { g with issueQ := (v.queue.map fun (q : IssueSet) => q.remains g).filter fun q => !q.seats.isEmpty }.endIssue now

end Sys2Proof.Machine
end

