-- ==== Sys2Proof/Machine/Access.lean ====
section
/-! DEFINITION. Reaching memory: the checks of R87, translation and parking (R359-R366), bytes at the home slice (R234,
R246, R387), near caches (R231, R248) and transactional accesses (R308-R312). -/

namespace Sys2Proof.Machine

open Sys2Proof

/-! ### The checks of R87 -/

/-- An object's bit in the revocation bitmap of an address space (R359). -/
def State.revBit (s : State) (asn obj : Nat) : Bool :=
  let ast := s.regs.astBase + 32 * asn
  decide (asn < s.regs.astLen) && s.num (ast + 0xC) 4 % 2 == 1 &&
    (s.byte (s.num (ast + 0x10) 8 + obj / 8)).getLsbD (obj % 8)

/-- The word of the revocation cache of a core that covers an object (R241). -/
def revKey (asn obj : Nat) : Nat := asn * 2 ^ 15 + obj / 32

/-- The revocation-cache lines of the core a thread runs on. -/
def State.revCache (s : State) (w : Who) : FMap Word :=
  match w with
  | .ctl n => (s.ctl n).revoked
  | .grp _ => (s.coreOf w).elim [] fun c => (s.core c).revoked

/-- The issuing core may keep the line that covers an object, beside 63 others (R241). -/
def State.keepRevoked (s : State) (w : Who) (asn obj : Nat) : State :=
  let (b, s) := s.bit
  if !b then s else
  let m := s.revCache w
  let k := revKey asn obj
  if (m.get? k).isSome then s else
  let v := (List.range 32).foldl (fun (v : Word) i => if s.revBit asn (obj / 32 * 32 + i) then v ||| (1#32 <<< i) else v) 0
  let m := (if m.length < 64 then m else m.tail).set k v
  match w with
  | .ctl n => s.setCtl n { s.ctl n with revoked := m }
  | .grp _ => match s.coreOf w with
    | some c => s.setCore c { s.core c with revoked := m }
    | none => s

/-- The bit as the issuing core sees it: its revocation cache, else memory (R241). -/
def State.revoked (s : State) (w : Who) (asn obj : Nat) : Bool :=
  match (s.revCache w).get? (revKey asn obj) with
  | some v => v.getLsbD (obj % 32)
  | none => s.revBit asn obj

/-- A failed check: the step of R87 and its cause. -/
abbrev CheckFail := Nat × Cause

/-- Steps 1 to 6 of R87 for an access of s bytes at e. `kinds` and `perms` are what R88 asks; `align` is false where the
entry skips step 4; `team` is the issuing team for step 6. -/
def State.check (s : State) (w : Who) (team : Nat) (cap : Cap) (e : Int) (size : Nat) (kinds : List Nat) (perms : BitVec 8)
    (align : Bool) : Option CheckFail :=
  if !cap.tag || cap.kind == 0 then some (1, .capTag)
  else if !(kinds.contains cap.kind && cap.has perms && (cap.pkg == s.regs.pkg || cap.has permQ)) then some (2, .capPerm)
  else if !(decide ((cap.base : Int) ≤ e) && decide (e + size ≤ cap.limit)) then some (3, .capBound)
  else if align && size != 0 && e % size != 0 then some (4, .misaligned)
  else if cap.kind == 1 && (if cap.pkg = s.regs.pkg then s.revoked w (s.asnOf w) cap.index
      else s.farRevoked.contains (cap.pkg, s.asnOf w, cap.index)) then some (5, .capRevoked)
  else if cap.kind == 2 then
    let h := ((s.cluster cap.hamper.1).hampers.getD cap.hamper.2 Hamper.reset)
    if cap.pkg == s.regs.pkg && h.team == some team && !h.giving then none else some (6, .hamperDetached)
  else none

/-- Which cause an instruction reports and for which seats: the earliest step any lane raised (R87). -/
def firstFail (l : List (Nat × CheckFail)) : Option (Cause × List Nat) :=
  match l with
  | [] => none
  | f :: fs =>
    let best := fs.foldl (fun b q => if q.2.1 < b.2.1 then q else b) f
    some (best.2.2, (l.filter fun q => q.2.1 == best.2.1).map (·.1))

/-- The lowest of a list of seats. -/
def lowSeat (l : List Nat) : Nat := l.foldl min (l.headD 0)

/-! ### Translation -/

/-- What a translation slice answers (R361). -/
inductive Answer where
  | frame (f : Nat)
  | absent (entryAt : Nat) (entry : Dword)
  | error
  | held      -- not yet: its slice is leaving the map, or a line that its walker reads is held back (R238, R265, R316)
deriving DecidableEq, Repr

/-- Whether every line of a frame lies where the package holds memory: the channels that HBM lines spread over may be mapped
out one by one (R240, R361). -/
def State.frameMem (s : State) (f : Nat) : Bool :=
  if s.health.badChans.isEmpty then s.hasMem (f * 65536)
  else (List.range 512).all fun l => s.hasMem (f * 65536 + 128 * l)

/-- The walk of R361 over the three tables. The entry's address comes with a resident page. -/
def State.walk (s : State) (asn obj page : Nat) : Answer × Dword × Nat :=
  let bad : Answer × Dword × Nat := (.error, 0, 0)
  let ast := s.regs.astBase + 32 * asn
  if s.regs.astLen ≤ asn ∨ s.num (ast + 0xC) 4 % 2 = 0 then bad else
  if s.num (ast + 8) 4 ≤ obj then bad else
  let o := s.num (s.num ast 8 + 16 * obj) 16
  if o / 2 ^ 127 = 0 then bad else
  if s.num (ast + 0xC) 4 ≠ 1 ∨ s.num (ast + 0x18) 8 ≠ 0 then bad else
  if o / 2 ^ 42 % 2 ^ 58 ≠ 0 ∨ o % 128 ≠ 0 then bad else
  if o / 2 ^ 100 % 2 ^ 26 ≤ page then bad else
  let at_ := o / 2 ^ 7 % 2 ^ 35 * 128 + 8 * page
  let e := s.num at_ 8
  if e / 2 ^ 60 % 4 = 3 ∨ e / 2 ^ 56 % 16 ≠ 0 ∨ e % 2 ^ 16 ≠ 0 then bad else
  if e / 2 ^ 63 = 0 then (.absent at_ (BitVec.ofNat 64 e), BitVec.ofNat 64 e, at_) else
  let f := e / 2 ^ 16 % 2 ^ 26
  if !s.frameMem f then bad else (.frame f, BitVec.ofNat 64 e, at_)

/-- Replaces the count and Q of a cached entry (R365). -/
def Extent.setCount (e : Extent) (q : Bool) (cnt : Nat) : Extent :=
  let n := e.entry.toNat
  { e with entry := BitVec.ofNat 64 (n / 2 ^ 63 * 2 ^ 63 + q.toNat * 2 ^ 62 + n / 2 ^ 56 % 2 ^ 6 * 2 ^ 56 + cnt * 2 ^ 42 + n % 2 ^ 42) }

/-- The write-back of CNT and Q: one indivisible update that changes nothing else (R365). -/
def State.countGo (e : Extent) (s : State) : Bool × State :=
  let n := s.num e.phys 8
  let m := e.entry.toNat
  let line := e.phys / 128
  let (ready, s) := s.engineReady e.phys 8 true none
  (ready, if ready then
      (((s.txConflict none line true).dirWrite line none).putBytes e.phys (leBytes 8 (n / 2 ^ 63 * 2 ^ 63 + m / 2 ^ 62 % 2 * 2 ^ 62 +
        n / 2 ^ 56 % 2 ^ 6 * 2 ^ 56 + m / 2 ^ 42 % 2 ^ 14 * 2 ^ 42 + n % 2 ^ 42))).lineWritten line
    else s)

def State.countBack (s : State) (e : Extent) : State := s.hwWrite (.count e) (State.countGo e)

def State.setExtent (s : State) (e : Extent) : State :=
  { s with extents := s.extents.map fun f => if f.key == e.key then e else f }

/-- A counter at its threshold: a notice of kind 2 and Q, or XQOVF (R365). -/
def State.thresholdAct (s : State) (e : Extent) (src : Nat) : State :=
  if e.entry.getLsbD 62 then s else
  if s.noticeFree then
    let e' := e.setCount true (e.entry.toNat / 2 ^ 42 % 2 ^ 14)
    let note : Notice := ⟨2, src, e.key, e.read⟩
    ((s.setExtent e').countBack e').notice note
  else { s with regs := { s.regs with nqOvf := s.regs.nqOvf + 1 } }

/-- A request translated through an entry is counted (R365). -/
def State.countUse (s : State) (e : Extent) (src : Nat) : State :=
  let mig := e.entry.toNat / 2 ^ 60 % 4
  let t := s.regs.thresh
  if t = 0 ∨ mig = 0 ∨ (mig = 2 ∧ src = s.regs.pkg) then s else
  let c := e.entry.toNat / 2 ^ 42 % 2 ^ 14
  let c' := if c < t then c + 1 else c
  let e' := e.setCount (e.entry.getLsbD 62) c'
  let s := s.setExtent e'
  if c' < t then s else (if c < t then s.countBack e' else s).thresholdAct e' src

/-- The lines that a walk reads, as far as it comes (R361). -/
def State.walkLines (s : State) (asn obj page : Nat) : List Nat :=
  let ast := s.regs.astBase + 32 * asn
  if s.regs.astLen ≤ asn then [] else
  let ot := s.num ast 8 + 16 * obj
  ast / 128 :: (if s.num (ast + 0xC) 4 % 2 = 0 ∨ s.num (ast + 8) 4 ≤ obj then [] else
    let o := s.num ot 16
    ot / 128 :: (if o / 2 ^ 127 = 0 ∨ o / 2 ^ 100 % 2 ^ 26 ≤ page then [] else [(o / 2 ^ 7 % 2 ^ 35 * 128 + 8 * page) / 128]))

/-- Whether a request for a page must wait at its translation slice (R238), or for its walker's reads. -/
def State.lookupHeld (s : State) (k : PageKey) : Bool :=
  (s.change.any fun c => c.slice == s.translationSlice k) ||
  ((s.cachedExtent k).isNone && (s.walkLines k.asn k.obj k.page).any fun l => !s.mayTake l false none)

/-- A translation slice answers a request for a page: from its extent cache, or by a walk of strong reads (R361). -/
def State.lookup (s : State) (asn obj page : Nat) : Answer × State :=
  let k : PageKey := ⟨s.regs.pkg, asn, obj, page⟩
  if s.lookupHeld k then (.held, if (s.cachedExtent k).isSome then s else (s.walkLines asn obj page).foldl (fun (s : State) l => s.summon l false none) s) else
  match s.cachedExtent k with
  | some e => (.frame e.frame, s)
  | none =>
    let die := sliceDie (s.translationSlice k)
    let s := ((s.walkLines asn obj page).foldl (fun (s : State) l =>
      (((s.cross die (s.lineDie l)).txConflict none l false).dirRead l none).cross (s.lineDie l) die) s).count 5 1
    match s.walk asn obj page with
    | (.frame f, e, at_) =>
      let x : Extent := ⟨k, e, e, at_⟩
      (.frame f, { s with extents := s.extents ++ [x] })
    | (a, _, _) => (a, s)

/-- A request has been translated: it is counted (R365). -/
def State.counted (s : State) (k : PageKey) (src : Nat) : State :=
  match s.cachedExtent { k with pkg := s.regs.pkg } with
  | some e => s.countUse e src
  | none => s

/-- A translation slice answers a request for a page and counts it (R361, R365). -/
def State.translate (s : State) (asn obj page src : Nat) : Answer × State :=
  let (a, s) := s.lookup asn obj page
  (a, if a == .held then s else s.counted ⟨s.regs.pkg, asn, obj, page⟩ src)

/-- Arms a park monitor for a requester, with a notice for each page's first (R364). It answers when lanes that no monitor
records replay: with all 64 busy, 4,096 clocks later. -/
def State.park (s : State) (w : Who) (k : PageKey) (src entryAt : Nat) (entry : Dword) (lanes : Nat) : Option Nat × State :=
  let s := s.count 6 lanes
  let sl := s.translationSlice { k with pkg := s.regs.pkg }
  let line := entryAt / 128
  let note : Notice := ⟨1, src, k, entry⟩
  match s.monitors.find? fun m => m.slice == sl && m.line == line with
  | some m =>
    let fresh := !m.pages.contains k
    let m' := { m with pages := if fresh then m.pages ++ [k] else m.pages
                       who := if m.who.contains (w, k) then m.who else m.who ++ [(w, k)] }
    let s := { s with monitors := s.monitors.map fun q => if q == m then m' else q }
    (none, if fresh then s.notice note else s)
  | none =>
    if (s.monitors.filter fun m => m.slice == sl).length < 64 then
      (none, ({ s with monitors := s.monitors ++ [(⟨sl, line, [k], [(w, k)]⟩ : Monitor)] }).notice note)
    else (some (s.now + 4096), (s.count 7 1).notice note)

/-! ### Bytes at the home slice -/

/-- A receive ring by its number as the port reads it: none when it is off, or treated as off (R384). -/
def State.rxRing (s : State) (r : Nat) : Option RxRing :=
  let d := s.regs.rtBase + 64 * r
  let c := BitVec.ofNat 32 (s.num d 4)
  let lsz := c.toNat / 2 ^ 20 % 32
  let lnum := c.toNat / 2 ^ 15 % 32
  let base := s.num (d + 8) 8
  if 4096 ≤ r ∨ !c.getLsbD 31 ∨ lsz < 8 ∨ 16 < lsz ∨ 20 < lnum ∨ base < s.regs.rpBase ∨
      s.regs.rpBase + s.regs.rpSize * 2 ^ 20 < base + 2 ^ (lsz + lnum) then none
  else some ⟨d, c.getLsbD 30, c.getLsbD 29, lsz, lnum, c.toNat % 2 ^ 13, base⟩

/-- Ring HEAD and TAIL words under the max rule of R387, by their physical address: those of rings that are on (R384, R390). -/
def State.maxWord (s : State) (a : Nat) : Bool :=
  let w := a / 8 * 8
  (decide (s.regs.rtBase ≤ w) && decide (w < s.regs.rtBase + 64 * 4096) && (w - s.regs.rtBase) % 64 == 0x18 &&
    (s.rxRing ((w - s.regs.rtBase) / 64)).isSome) ||
  (decide (s.regs.ttBase ≤ w) && decide (w < s.regs.ttBase + 64 * 1024) && (w - s.regs.ttBase) % 64 == 0x10 &&
    (s.byte (w / 64 * 64 + 3)).getLsbD 7)

/-- The bytes that a store leaves at an address: the max rule keeps or advances a ring word (R387). -/
def State.maxed (s : State) (a : Nat) (bs : List Byte) (isSt64 : Bool) : List Byte :=
  if (List.range ((bs.length + 7) / 8)).all fun i => !s.maxWord (a + 8 * i) then bs else
  if isSt64 && bs.length = 8 then
    let old := s.num a 8
    let d := (leNat bs + 2 ^ 64 - old) % 2 ^ 64
    if 0 < d ∧ d < 2 ^ 63 then bs else leBytes 8 old
  else (List.range bs.length).map fun i => if s.maxWord (a + i) then s.byte (a + i) else bs.getD i 0

/-- A store of a granule with its tag: a no-op where it holds a ring word (R387). -/
def State.putCap (s : State) (a : Nat) (bs : List Byte) (tag : Bool) : State :=
  if s.maxWord a || s.maxWord (a + 8) then s else s.writeCap a bs tag

/-- A store has come to [a, a + n): a port that waits for an entry of a ring whose TAIL lies there looks again (R391). -/
def State.rang (s : State) (a n : Nat) : State :=
  if s.txWait.isEmpty then s else
  { s with txWait := s.txWait.map fun (e : Nat × Nat) =>
      let w := s.regs.ttBase + 64 * e.1 + 0x10
      if e.1 < 1024 ∧ a < w + 8 ∧ w < a + n then (e.1, 0) else e }

/-- A request of a thread comes to the home slice of an address, by way of the translation slice of its page where that is
named, is performed there, and is answered: messages between three dies (R412). -/
def State.atHome (s : State) (w : Who) (a : Nat) (via : Option PageKey) (go : State → State) : State :=
  let home := sliceDie (s.homeSlice a)
  let die := s.dieOf w
  (go (s.cross (via.elim die fun k => sliceDie (s.translationSlice k)) home)).cross home die

/-- A store at the home slice (R246, R265): the directory, conflicts, the bytes, and what the write fires. -/
def State.storeAt (s : State) (w : Who) (a : Nat) (bs : List Byte) (cap : Option Bool) : State :=
  let line := a / 128
  let s := s.txConflict (ctlOf w) line true
  let s := s.dirWrite line (ctlOf w)
  let s := match cap with
    | some t => s.putCap a bs t
    | none => s.write a (s.maxed a bs true)
  (s.rang a bs.length).lineWritten line

/-- A store of a thread that is performed as it issues. -/
def State.performStore (s : State) (w : Who) (a : Nat) (bs : List Byte) (cap : Option Bool) (via : Option PageKey := none) : State :=
  s.atHome w a via fun s => s.storeAt w a bs cap

/-- A load at the home slice: the directory and conflicts; the bytes are those of memory (R246, R264). -/
def State.loadAt (s : State) (w : Who) (a : Nat) : State := (s.txConflict (ctlOf w) (a / 128) false).dirRead (a / 128) (ctlOf w)

/-- A load of a thread that is performed as it issues. -/
def State.performLoad (s : State) (w : Who) (a : Nat) (via : Option PageKey := none) : State := s.atHome w a via fun s => s.loadAt w a

/-- The new value of an atomic (R98, R99), but for .fadd, which Floats.lean gives. -/
def atomicOp (op w m v : Nat) : Nat :=
  let x := BitVec.ofNat w m; let y := BitVec.ofNat w v
  match op with
  | 0 => (m + v) % 2 ^ w
  | 1 => if x.toInt ≤ y.toInt then m else v
  | 2 => if x.toInt ≤ y.toInt then v else m
  | 3 => min m v
  | 4 => max m v
  | 5 => (x &&& y).toNat
  | 6 => (x ||| y).toNat
  | 7 => (x ^^^ y).toNat
  | _ => v

/-! ### Near caches (R231, R248) -/

/-- A store updates the copy that the issuing core's near cache holds. -/
def State.nearStore (s : State) (c : Nat) (a : Nat) (bs : List Byte) (tag : Bool) : State :=
  let k := s.core c
  if k.near.isEmpty then s else
  s.setCore c { k with near := k.near.map fun e =>
    (e.1, { e.2 with
      bytes := (List.range 32).map fun i =>
        let p := 32 * e.1 + i
        if a ≤ p ∧ p < a + bs.length then bs.getD (p - a) 0 else e.2.bytes.getD i 0
      tags := (List.range 2).map fun j =>
        if (blocks 16 a bs.length).contains (2 * e.1 + j) then tag else e.2.tags.getD j false }) }

/-- An atomic discards the copy of its line. -/
def State.nearDrop (s : State) (c line : Nat) : State :=
  let k := s.core c
  if k.near.isEmpty then s else s.setCore c { k with near := k.near.filter fun e => e.1 / 4 != line }

/-- The invalidation of an acquire (R248). -/
def State.nearClear (s : State) (c : Nat) : State :=
  let k := s.core c
  if k.near.isEmpty then s else s.setCore c { k with near := [] }

/-- Requests that change memory. -/
def ReqKind.changes : ReqKind → Bool
  | .store _ | .storeCap _ _ | .atomic _ _ _ _ _ => true
  | _ => false

/-- Requests of the instructions that trap POISON precisely (R243). -/
def ReqKind.traps : ReqKind → Bool
  | .load _ _ | .loadCap _ | .atomic _ _ _ _ _ => true
  | _ => false

/-- Whether a thread has gone on past a read of one of these sectors that is still in flight. R243 traps a read of poisoned
data precisely, so no sector becomes poisoned before such a read of its line has been performed (log 28). -/
def State.reading (s : State) (sectors : List Nat) : Bool :=
  s.reqs.any fun r => !r.2.done && r.2.remote.isNone && r.2.kind.traps && sectors.any fun n => n / 4 == r.2.addr / 128

/-- The lines that a near cache holds. -/
def Core.nearLines (k : Core) : List Nat := (k.near.map fun e => e.1 / 4).foldl sInsert []

/-- A near cache of 256 KiB that has no room for a line gives one up, at the hardware's choice (R231). -/
def State.nearRoom (s : State) (c line : Nat) : State :=
  let ls := (s.core c).nearLines
  if ls.length < 2048 || ls.contains line then s else
  let (n, s) := s.pick
  s.nearDrop c (ls.getD (n % ls.length) 0)

/-- A fill of one sector from the home slice. A line that a write of the core is still on its way to is not filled, so that
no copy lacks a write of its own core (R97, R247). -/
def State.nearFill (s : State) (c sector : Nat) : State :=
  if s.reqs.any fun r => !r.2.done && r.2.remote.isNone && r.2.kind.changes && r.2.addr / 128 == sector / 4 &&
      s.coreOf r.2.who == some c then s else
  let s := s.nearRoom c (sector / 4)
  let k := s.core c
  s.setCore c { k with near := k.near.set sector ⟨s.bytes (32 * sector) 32,
    [s.tags.contains (2 * sector), s.tags.contains (2 * sector + 1)], s.poison.contains sector⟩ }

/-- A sector brought in without a thread's load, as a read at its home slice (R232, R233, R264): one that the slice holds back, or
must first recall from an owner, is not brought in. -/
def State.prefetch (s : State) (c sector : Nat) : State :=
  if !s.mayTake (sector / 4) false none then s
  else ((s.txConflict none (sector / 4) false).dirRead (sector / 4) none).nearFill c sector

/-- An acquire at .core scope or wider invalidates the near cache of the issuing core (R96, R245). -/
def State.acquire (s : State) (w : Who) (scope : Nat) : State :=
  match s.coreOf w, s.group? w with
  | some c, some g =>
    let span := (s.teamOf g).elim 1 (·.span)
    if scope = 0 ∨ 3 ≤ scope ∨ (scope = 2 ∧ 1 < span) then s.nearClear c else s
  | _, _ => s

/-! ### Requests in flight (R234, R250) -/

/-- A request of a copy engine or to a taker, which no fence of the issuing group waits for (R100). -/
def Req.ofCopy (r : Req) : Bool :=
  match r.kind with
  | .copyWrite _ _ _ _ _ _ | .copyRead _ _ _ _ | .invalidate _ | .parked | .portRead _ _ | .handler _ | .message _ _ | .give _ => true
  | _ => false

/-- A thread's accesses that have not been performed. -/
def State.unperformed (s : State) (w : Who) : Bool := s.reqs.any fun r => r.2.who == w && !r.2.done && !r.2.ofCopy

/-- The same, to one line: one group's requests to a line stay in order (R234). -/
def State.unperformedAt (s : State) (w : Who) (line : Nat) : Bool :=
  s.reqs.any fun r => r.2.who == w && !r.2.done && r.2.remote.isNone && r.2.addr / 128 == line

/-! ### Transactional accesses (R308-R312) -/

def emptyGranule : List (Option Byte) := List.replicate 16 none

/-- A byte of the lane's write buffer. -/
def Tx.buffered (t : Tx) (a : Nat) : Option Byte :=
  (t.buf.find? fun e => e.granule == a / 16).bind fun e => optByte e.bytes (a % 16)
def Tx.logged (t : Tx) (a : Nat) : Option Byte :=
  (t.log.find? fun e => e.granule == a / 16).bind fun e => optByte e.bytes (a % 16)

/-- The tag that a transaction holds of a granule: its write buffer's, or the one it has logged. DESIGN CHOICE: a granule that the
write buffer holds only in part gives its buffer's tag, for R311 names sources for bytes alone (log 101). -/
def Tx.tagOf (t : Tx) (a : Nat) : Option Bool :=
  ((t.buf.find? fun e => e.granule == a / 16).map (·.tag)).or ((t.log.find? fun e => e.granule == a / 16).bind (·.tag))

/-- Whether a transaction holds every byte of a range itself, and the tag where that is read (R311). -/
def Tx.holds (t : Tx) (a n : Nat) (tag : Bool) : Bool :=
  ((List.range n).all fun i => (t.buffered (a + i)).isSome || (t.logged (a + i)).isSome) && (!tag || (t.tagOf a).isSome)

/-- A transactional load of bytes: buffer, log, then memory or the sector that the near cache serves it from (R311); none
when the log has no room. `tag` asks for the tag. -/
def State.txLoad (s : State) (t : Tx) (a n : Nat) (tag : Bool) (near : Option NearSector) : Option (Tx × List Byte × Bool) :=
  let src := fun p : Nat => near.elim (s.byte p) fun e => e.bytes.getD (p % 32) 0
  let srcTag := near.elim (s.tags.contains (a / 16)) fun e => e.tags.getD (a % 32 / 16) false
  let bs := (List.range n).map fun i => ((t.buffered (a + i)).or (t.logged (a + i))).getD (src (a + i))
  let new := (List.range n).filter fun i => (t.buffered (a + i)).isNone || (tag && (t.tagOf a).isNone)
  let gs := (new.map fun i => (a + i) / 16).foldl sInsert []
  let missing := gs.filter fun g => !t.log.any fun e => e.granule == g
  if 64 < t.log.length + missing.length then none else
  let log := t.log ++ missing.map fun (g : Nat) => (⟨g, emptyGranule, none⟩ : LogEntry)
  let log := log.map fun e =>
    if gs.contains e.granule then
      { e with
        bytes := (List.range 16).map fun i =>
          let p := 16 * e.granule + i
          match optByte e.bytes i with
          | some b => some b
          | none => if a ≤ p ∧ p < a + n ∧ (t.buffered p).isNone then some (src p) else none
        tag := if tag && (t.tagOf a).isNone then some srcTag else e.tag }
    else e
  some ({ t with log }, bs, (t.tagOf a).getD srcTag)

/-- Entries of the write-buffer pool in use on a core (R312). -/
def State.bufUsed (s : State) (c : Nat) : Nat :=
  (s.groups.map fun e => if (e.2.place.any fun p => p.core == c) then
    (e.2.lanes.map fun l => (l.tx.elim 0 fun t => t.buf.length)).sum else 0).sum

/-- A transactional store (R312): none when an entry is needed and none is free. -/
def State.txStore (s : State) (core : Option Nat) (t : Tx) (a : Nat) (bs : List Byte) (tag : Bool) (how : Stored) : Option Tx :=
  let g := a / 16
  let hits := fun j : Nat => decide (a < 16 * g + 8 * j + 8) && decide (16 * g + 8 * j < a + bs.length)
  let put := fun e : BufEntry => { e with
    bytes := (List.range 16).map fun i =>
      let p := 16 * g + i
      if a ≤ p ∧ p < a + bs.length then some (bs.getD (p - a) 0) else optByte e.bytes i
    tag, how := (if hits 0 then how else e.how.1, if hits 1 then how else e.how.2) }
  if t.buf.any fun e => e.granule == g then
    some { t with buf := t.buf.map fun e => if e.granule == g then put e else e }
  else
    let full := match core with
      | some c => decide (32 ≤ t.buf.length) || decide (2048 ≤ s.bufUsed c)
      | none => false   -- a control core's written lines stay in its caches (R318)
    if full then none else some { t with buf := t.buf ++ [put ⟨g, emptyGranule, false, (.other, .other)⟩] }

/-- Publishes a write buffer (R315): every buffered byte, and every buffered granule's tag state. A ring word takes what an ST.b64
stored; an STC of its granule, and any other store to it, is a no-op (R387). -/
def State.publish (s : State) (w : Who) (t : Tx) : State :=
  t.buf.foldl (fun s e =>
    let a := 16 * e.granule
    let ring := s.maxWord a || s.maxWord (a + 8)
    let half := fun (j : Nat) (how : Stored) =>
      let l := (e.bytes.drop (8 * j)).take 8
      let bs := (List.range 8).map fun i => (optByte l i).getD (s.byte (a + 8 * j + i))
      if ring && how == .cap then s.bytes (a + 8 * j) 8 else s.maxed (a + 8 * j) bs (how == .dword)
    let bs := half 0 e.how.1 ++ half 1 e.how.2
    let s := (s.txConflict (ctlOf w) (a / 128) true).dirWrite (a / 128) (ctlOf w)
    let whole := (e.bytes.all (·.isSome))
    let p := s.poison
    let s := s.writeCap a bs (if ring then s.tagAt a && e.tag else e.tag)
    let s := if whole then s else { s with poison := p }
    (s.rang a 16).lineWritten (a / 128)) s

end Sys2Proof.Machine
end

