-- ==== Sys2Proof/Machine/Engines.lean ====
section
/-! DEFINITION. What engines, ports and system software do with objects in this package's memory: their translations (R361, R364),
and reads and writes of ranges at the home slices (R256, R257). -/

namespace Sys2Proof.Machine

open Sys2Proof

/-- An engine asks for a page's translation (R361). One that is absent has its monitor and its notice, and the engine asks again when
the monitor has fired; with every monitor busy it asks again 4,096 clocks later, with a notice of its own then (R364). -/
def State.engineLookup (s : State) (asn obj page : Nat) : Answer × State :=
  let k : PageKey := ⟨s.regs.pkg, asn, obj, page⟩
  let others := s.retries.filter fun r => r.1 != k
  if (s.monitors.any fun m => m.who.contains (.ctl 0, k)) || (s.retries.any fun r => r.1 == k && decide (s.now < r.2)) then (.absent 0 0, s)
  else match s.lookup asn obj page with
    | (.absent at_ e, s) =>
      let (t, s) := s.park (.ctl 0) k s.regs.pkg at_ e 0
      (.absent at_ e, { s with retries := others ++ t.toList.map fun t => (k, t) })
    | (a, s) => (a, { s with retries := others })

/-- The pieces of [off, off + n) by page: page, offset and length. -/
def pieces (off n : Nat) : List (Nat × Nat × Nat) :=
  (blocks 65536 off n).map fun p =>
    let lo := max off (65536 * p)
    let hi := min (off + n) (65536 * p + 65536)
    (p, lo, hi - lo)

/-- What an engine finds of a range of an object in this package. -/
inductive Found where
  | places (l : List (Nat × Nat))   -- its pieces by physical address, with their lengths
  | absent
  | error
  | held                            -- a translation slice does not answer yet
deriving DecidableEq, Repr

/-- Where [off, off + n) of an object lies, page by page in order, up to the first page that is absent. -/
def State.findObject (s : State) (asn obj off n : Nat) : Found × State :=
  (pieces off n).foldl (fun (r : Found × State) p =>
    match r.1 with
    | .places l => match r.2.engineLookup asn obj p.1 with
      | (.frame f, s) => (.places (l ++ [(65536 * f + p.2.1 % 65536, p.2.2)]), s)
      | (.absent _ _, s) => (.absent, s)
      | (.error, s) => (.error, s)
      | (.held, s) => (.held, s)
    | _ => r) (.places [], s)

/-- The requests of a range have been translated: one of each page (R365). -/
def State.countRange (s : State) (asn obj off n : Nat) : State :=
  (pieces off n).foldl (fun (s : State) p => s.counted ⟨s.regs.pkg, asn, obj, p.1⟩ s.regs.pkg) s

/-- An engine reads or writes such a range once every line of it can be had (R256, R257). -/
def State.engineRange (s : State) (asn obj off n : Nat) (l : List (Nat × Nat)) (writes : Bool) (go : State → State) : State :=
  s.whenReady (l.map fun p => (p.1, p.2, writes)) fun s => go (s.countRange asn obj off n)

/-- The bytes of pieces, as strong reads at their home slices (R257). -/
def State.readPlaces (s : State) (l : List (Nat × Nat)) (die : Option Nat := none) : List Byte × State :=
  (l.flatMap fun p => s.bytes p.1 p.2, l.foldl (fun (s : State) p => s.engineRead p.1 p.2 die) s)

/-- Bytes written to pieces, in order (R256); they change no ring word (R387). -/
def State.writePlaces (s : State) (l : List (Nat × Nat)) (bs : List Byte) (die : Option Nat := none) : State :=
  (l.foldl (fun (r : State × List Byte) p =>
    (r.1.engineWrite p.1 (r.1.maxed p.1 (r.2.take p.2) false) die, r.2.drop p.2)) (s, bs)).1

end Sys2Proof.Machine
end

