-- ==== Sys2Proof/Machine/Numbers.lean ====
section
/-! DEFINITION. Numbers to the last bit (R156-R171): the formats, RoundTo with its flags, the arithmetic of R177-R181,
conversions, the approximations of R179 and one K-step of the matrix array (R199, R217). Every result is a code and the
flags it raises, as a number in the layout of FL (R173). -/

namespace Sys2Proof.Machine

open Sys2Proof

/-! ### Formats and values -/

/-- A floating-point format (R156, R160, R163): sign bit, exponent and mantissa widths, bias, special values (0 none,
1 inf, 2 nan), saturation, and whether it is narrow. -/
structure Fmt where
  sgn    : Bool
  ebits  : Nat
  mbits  : Nat
  bias   : Int
  spec   : Nat
  sat    : Bool
  narrow : Bool
deriving DecidableEq, Repr

/-- A value with the NaN payload as a 52-bit fraction: m * 2^e when finite. -/
inductive Val where
  | nan (s : Bool) (quiet : Bool) (payload : Nat)
  | inf (s : Bool)
  | fin (s : Bool) (m : Nat) (e : Int)
deriving DecidableEq, Repr

/-- A code and the flags its making raised. -/
abbrev Coded := Nat × Nat

def flNX : Nat := 1
def flUF : Nat := 2
def flOF : Nat := 4
def flDZ : Nat := 8
def flNV : Nat := 16

def f64 : Fmt := ⟨true, 11, 52, 1023, 1, false, false⟩
def f32 : Fmt := ⟨true, 8, 23, 127, 1, false, false⟩
def f16 : Fmt := ⟨true, 5, 10, 15, 1, false, false⟩
def bf16 : Fmt := ⟨true, 8, 7, 127, 1, false, false⟩
def a40 : Fmt := ⟨true, 8, 31, 127, 1, false, false⟩
/-- SX8 (R163). -/
def sx8 : Fmt := ⟨false, 5, 3, 15, 2, true, true⟩

/-- The format a valid format register describes (R159, R160). -/
def fmtOf (w : Word) : Fmt :=
  ⟨w.getLsbD 8, w.toNat / 16 % 8, w.toNat % 8, (w.extractLsb' 24 8).toInt, w.toNat / 1024 % 4, w.getLsbD 12, true⟩

/-- The width of a narrow format. -/
def Fmt.width (f : Fmt) : Nat := f.sgn.toNat + f.ebits + f.mbits

def Fmt.emin (f : Fmt) : Int := 1 - f.bias
/-- The magnitude code with exponent all ones and fraction zero. -/
def Fmt.infMag (f : Fmt) : Nat := (2 ^ f.ebits - 1) * 2 ^ f.mbits
/-- The magnitude code of a NaN result: canonical in a fixed format (R157), all ones in a narrow one (R168). -/
def Fmt.nanMag (f : Fmt) : Nat := if f.narrow then 2 ^ (f.ebits + f.mbits) - 1 else f.infMag + 2 ^ (f.mbits - 1)
/-- The magnitude code of the largest finite value (R156, R161). -/
def Fmt.maxMag (f : Fmt) : Nat :=
  if f.ebits = 0 then 2 ^ f.mbits - 1
  else match f.spec with
    | 0 => 2 ^ (f.ebits + f.mbits) - 1
    | 1 => f.infMag - 1
    | _ => 2 ^ (f.ebits + f.mbits) - 2

/-- A code from its sign and magnitude. -/
def Fmt.code (f : Fmt) (s : Bool) (mag : Nat) : Nat := if s && f.sgn then mag + 2 ^ (f.ebits + f.mbits) else mag

/-- The value of a code (R156, R161). -/
def Fmt.val (f : Fmt) (c : Nat) : Val :=
  let s := f.sgn && c / 2 ^ (f.ebits + f.mbits) % 2 == 1
  let mag := c % 2 ^ (f.ebits + f.mbits)
  let e := mag / 2 ^ f.mbits
  let m := mag % 2 ^ f.mbits
  if f.ebits ≠ 0 ∧ f.spec = 1 ∧ mag = f.infMag then .inf s
  else if f.ebits ≠ 0 ∧ f.spec = 1 ∧ f.infMag < mag then
    if f.narrow then .nan s true (2 ^ 51) else .nan s (m / 2 ^ (f.mbits - 1) == 1) (m * 2 ^ (52 - f.mbits))
  else if f.ebits ≠ 0 ∧ f.spec = 2 ∧ mag + 1 = 2 ^ (f.ebits + f.mbits) then .nan s true (2 ^ 51)
  else if e = 0 then .fin s m (f.emin - f.mbits)
  else .fin s (2 ^ f.mbits + m) (e - f.bias - f.mbits)

/-! ### Rounding -/

/-- Nearest of R164 for the magnitude ip + (rem + a bit, when sticky) / d. -/
def nearest (mode : Nat) (neg : Bool) (ip rem d : Nat) (sticky : Bool) : Nat :=
  let inexact := rem != 0 || sticky
  let up := match mode with
    | 1 => decide (d < 2 * rem) || (decide (2 * rem = d) && (sticky || ip % 2 == 1))
    | 2 => false
    | 3 => !neg && inexact
    | 4 => neg && inexact
    | _ => decide (d ≤ 2 * rem)
  if up then ip + 1 else ip

/-- m * 2^e in units of 2^q: whole units, remainder and its denominator. -/
def units (m : Nat) (e q : Int) : Nat × Nat × Nat :=
  if q ≤ e then (m * 2 ^ (e - q).toNat, 0, 1)
  else
    let d := 2 ^ (q - e).toNat
    (m / d, m % d, d)

/-- R166. -/
def Fmt.overflow (f : Fmt) (mode : Nat) (s : Bool) : Coded :=
  let big := match mode with
    | 2 => false
    | 3 => !s
    | 4 => s
    | _ => true
  let bigMag := if !f.narrow then f.infMag else if f.sat then f.maxMag
    else match f.spec with
      | 1 => f.infMag
      | 2 => f.nanMag
      | _ => f.maxMag
  (f.code s (if big then bigMag else f.maxMag), flOF + flNX)

/-- Tiny of R165. -/
def Fmt.tiny (f : Fmt) (mode : Nat) (s : Bool) (m : Nat) (e : Int) (sticky : Bool) (n : Nat) : Bool :=
  if f.ebits = 0 then n == 0
  else
    let lg : Int := (Nat.log2 m : Int) + e
    let (ip, r, d) := units m e (lg - f.mbits)
    decide (lg < f.emin) && !(decide (lg + 1 = f.emin) && nearest mode s ip r d sticky == 2 ^ (f.mbits + 1))

/-- RoundTo of R164 for a finite x of magnitude m * 2^e, a little more when sticky; flags with the code. -/
def Fmt.round (f : Fmt) (mode : Nat) (s : Bool) (m : Nat) (e : Int) (sticky : Bool) : Coded :=
  if m = 0 ∧ sticky = false then (f.code s 0, 0)
  else if !f.sgn && s then (0, flNV)
  else
    let lg : Int := (Nat.log2 m : Int) + e
    let k := if f.ebits = 0 then f.emin else max lg f.emin
    let (ip, r, d) := units m e (k - f.mbits)
    let n := nearest mode s ip r d sticky
    let mag := if f.ebits = 0 then n else (k + f.bias - 1).toNat * 2 ^ f.mbits + n
    if f.maxMag < mag then f.overflow mode s
    else (f.code s mag,
      if r = 0 ∧ sticky = false then 0 else if f.tiny mode s m e sticky n then flNX + flUF else flNX)

/-- Special of R167 for an infinity. -/
def Fmt.special (f : Fmt) (s : Bool) : Coded :=
  if !f.sgn && s then (0, flNV)
  else if !f.narrow then (f.code s f.infMag, 0)
  else if f.sat then (f.code s f.maxMag, 0)
  else match f.spec with
    | 1 => (f.code s f.infMag, 0)
    | 2 => (f.code s f.nanMag, flNV)
    | _ => (f.code s f.maxMag, flNV)

/-- NaNResult of R168. -/
def Fmt.nanResult (f : Fmt) (s quiet : Bool) (payload : Nat) : Coded :=
  let nv := if quiet then 0 else flNV
  if !f.narrow then
    let frac := payload % 2 ^ 52 / 2 ^ (52 - f.mbits)
    (f.code s (f.infMag + (if frac / 2 ^ (f.mbits - 1) = 1 then frac else frac + 2 ^ (f.mbits - 1))), nv)
  else if f.spec = 0 then (0, flNV)
  else (f.code s f.nanMag, nv)

/-- RoundTo of R164 on a value. -/
def Fmt.ofVal (f : Fmt) (mode : Nat) : Val → Coded
  | .nan s q p => f.nanResult s q p
  | .inf s => f.special s
  | .fin s m e => f.round mode s m e false

/-- The canonical NaN with NV: an invalid operation (R169). -/
def Fmt.invalid (f : Fmt) : Coded := (f.nanMag, flNV)

/-! ### Operations on values -/

def Val.isNaN : Val → Bool
  | .nan _ _ _ => true
  | _ => false
def Val.isSNaN : Val → Bool
  | .nan _ q _ => !q
  | _ => false
def Val.isInf : Val → Bool
  | .inf _ => true
  | _ => false
def Val.isZero : Val → Bool
  | .fin _ m _ => m == 0
  | _ => false
def Val.neg : Val → Bool
  | .nan s _ _ => s
  | .inf s => s
  | .fin s _ _ => s
/-- The same magnitude with the other sign. -/
def Val.negate : Val → Val
  | .nan s q p => .nan (!s) q p
  | .inf s => .inf (!s)
  | .fin s m e => .fin (!s) m e

/-- The result that a NaN operand decides (R169): the first NaN, with NV for any signalling one (R173). -/
def Fmt.nanOf (f : Fmt) (l : List Val) : Option Coded :=
  (l.find? Val.isNaN).map fun v =>
    let r := f.ofVal 1 v
    (r.1, r.2 ||| (if l.any Val.isSNaN then flNV else 0))

/-- A finite value in units of 2^q, q at or below its exponent. -/
def Val.scaled (q : Int) : Val → Int
  | .fin s m e => if s then -((m * 2 ^ (e - q).toNat : Nat) : Int) else (m * 2 ^ (e - q).toNat : Nat)
  | _ => 0

def Val.exp : Val → Int
  | .fin _ _ e => e
  | _ => 0

/-- The exact sum of two values that are not NaN, rounded (R164, R177). -/
def Fmt.sum (f : Fmt) (mode : Nat) (a b : Val) : Coded :=
  match a, b with
  | .inf s, .inf t => if s = t then f.special s else f.invalid
  | .inf s, _ => f.special s
  | _, .inf t => f.special t
  | _, _ =>
    let q := min a.exp b.exp
    let t := a.scaled q + b.scaled q
    if t = 0 then (f.code (if a.neg = b.neg then a.neg else mode == 4) 0, 0)
    else f.round mode (decide (t < 0)) t.natAbs q false

/-- The exact product of two values that are not NaN; a quiet NaN stands for 0 times an infinity. -/
def Val.times : Val → Val → Val
  | .fin s m e, .fin t n g => .fin (s != t) (m * n) (e + g)
  | a, b => if a.isZero || b.isZero then .nan false false 0 else .inf (a.neg != b.neg)

def Fmt.add (f : Fmt) (mode : Nat) (a b : Val) : Coded := (f.nanOf [a, b]).getD (f.sum mode a b)
def Fmt.sub (f : Fmt) (mode : Nat) (a b : Val) : Coded := (f.nanOf [a, b]).getD (f.sum mode a b.negate)
def Fmt.mul (f : Fmt) (mode : Nat) (a b : Val) : Coded :=
  (f.nanOf [a, b]).getD (let p := a.times b; if p.isNaN then f.invalid else f.ofVal mode p)

/-- FFMA: one rounding; 0 times an infinity is invalid whatever c is (R177). -/
def Fmt.fma (f : Fmt) (mode : Nat) (a b c : Val) : Coded :=
  if a.isNaN || b.isNaN then (f.nanOf [a, b, c]).getD f.invalid
  else
    let p := a.times b
    if p.isNaN then f.invalid else (f.nanOf [c]).getD (f.sum mode p c)

def Fmt.div (f : Fmt) (mode : Nat) (a b : Val) : Coded :=
  (f.nanOf [a, b]).getD (
    let s := a.neg != b.neg
    match a, b with
    | .inf _, .inf _ => f.invalid
    | .inf _, _ => f.special s
    | _, .inf _ => (f.code s 0, 0)
    | .fin _ m e, .fin _ n g =>
      if n = 0 then (if m = 0 then f.invalid else (f.code s f.infMag, flDZ))
      else if m = 0 then (f.code s 0, 0)
      else
        let k := f.mbits + 4 + Nat.log2 n
        f.round mode s (m * 2 ^ k / n) (e - g - k) (m * 2 ^ k % n != 0)
    | _, _ => f.invalid)

/-- The integer square root, one bit at a time from bit k. -/
def isqrt (n : Nat) : Nat → Nat → Nat
  | 0, r => if (r + 1) * (r + 1) ≤ n then r + 1 else r
  | k + 1, r => isqrt n k (if (r + 2 ^ (k + 1)) * (r + 2 ^ (k + 1)) ≤ n then r + 2 ^ (k + 1) else r)

def natRoot (n : Nat) : Nat := isqrt n (Nat.log2 n / 2 + 1) 0

def Fmt.sqrt (f : Fmt) (mode : Nat) (a : Val) : Coded :=
  (f.nanOf [a]).getD (
    match a with
    | .inf s => if s then f.invalid else f.special false
    | .fin s m e =>
      if m = 0 then (f.code s 0, 0)
      else if s then f.invalid
      else
        let k := 2 * (f.mbits + 4) + (e % 2).toNat
        let n := m * 2 ^ k
        let r := natRoot n
        f.round mode false r ((e - k) / 2) (r * r != n)
    | _ => f.invalid)

/-- a < b as numbers, for values that are not NaN. -/
def Val.lt (a b : Val) : Bool :=
  match a, b with
  | .inf s, .inf t => s && !t
  | .inf s, _ => s
  | _, .inf t => !t
  | _, _ => let q := min a.exp b.exp; decide (a.scaled q < b.scaled q)

/-- FMIN and FMAX (R178). -/
def Fmt.minmax (f : Fmt) (isMax : Bool) (x y : Nat) : Coded :=
  let a := f.val x; let b := f.val y
  let nv := if a.isSNaN || b.isSNaN then flNV else 0
  if a.isNaN && b.isNaN then (f.nanMag, nv)
  else if a.isNaN then (y, nv)
  else if b.isNaN then (x, nv)
  else
    let less := a.lt b || (!(b.lt a) && a.neg && !b.neg)   -- -0 below +0
    (if less then (if isMax then y else x) else (if isMax then x else y), nv)

/-- FSET (R180). -/
def fset (a b : Val) : Coded :=
  (if a.isNaN || b.isNaN then 8 else if a.lt b then 1 else if b.lt a then 4 else 2,
   if a.isSNaN || b.isSNaN then flNV else 0)

/-- FCLASS (R181): the bit of a code's class. -/
def Fmt.classBit (f : Fmt) (c : Nat) : Nat :=
  match f.val c with
  | .nan _ q _ => if q then 9 else 8
  | .inf s => if s then 0 else 7
  | .fin s m _ =>
    let sub := decide (c % 2 ^ (f.ebits + f.mbits) < 2 ^ f.mbits)
    if m = 0 then (if s then 3 else 4) else if sub then (if s then 2 else 5) else (if s then 1 else 6)

/-- A float to an integer of w bits (R171). The result is taken modulo 2^w. -/
def toInt (mode w : Nat) (signed : Bool) (v : Val) : Coded :=
  let hi : Int := if signed then 2 ^ (w - 1) - 1 else 2 ^ w - 1
  let lo : Int := if signed then -(2 ^ (w - 1)) else 0
  let out := fun n : Int => (n % (2 ^ w : Int)).toNat
  match v with
  | .nan _ _ _ => (0, flNV)
  | .inf s => (out (if s then lo else hi), flNV)
  | .fin s m e =>
    let (ip, r, d) := units m e 0
    let n := nearest mode s ip r d false
    let x : Int := if s then -(n : Int) else n
    if hi < x then (out hi, flNV) else if x < lo then (out lo, flNV) else (out x, if r = 0 then 0 else flNX)

/-- An integer as a value. -/
def Val.ofInt (n : Int) : Val := .fin (decide (n < 0)) n.natAbs 0

/-! ### The approximations (R179) -/

/-- A device's code for an approximation when it lies in [lo, hi] * 2^e; else the code nearest to their middle. The
interval is the bound of R179 around the exact value. -/
def within (cand : Nat) (lo hi : Int) (e : Int) : Nat :=
  let v := f32.val cand
  let q := min v.exp e
  let k : Int := 2 ^ (e - q).toNat
  if !v.isNaN && !v.isInf && decide (lo * k ≤ v.scaled q) && decide (v.scaled q ≤ hi * k) then cand
  else (f32.round 1 (decide (lo + hi < 0)) (lo + hi).natAbs (e - 1) false).1

/-- A result outside the exact cases whose exact value is about n * 2^e, with bound b in units of 2^e (R179). -/
def approxFin (cand : Nat) (n : Int) (e : Int) (b : Nat) : Coded :=
  let r := f32.round 1 (decide (n < 0)) n.natAbs e true
  if r.2 &&& flOF = flOF then r else (within cand (n - b) (n + b) e, flNX ||| r.2)

/-- The exponent of an ulp of binary32 at n * 2^e. -/
def ulp32 (n : Nat) (e : Int) : Int := max ((Nat.log2 n : Int) + e) (-126) - 23

/-- A bound of k ulps at n * 2^e, in units of 2^e, one unit larger for the unit that n was cut by. -/
def ulps (k n : Nat) (e : Int) : Nat := let u := ulp32 n e; if e ≤ u then k * 2 ^ (u - e).toNat + 2 else k + 2

/-- pi * 2^256 and ln 2 * 2^128. -/
def piScaled : Nat := 0x3243F6A8885A308D313198A2E03707344A4093822299F31D0082EFA98EC4E6C89
def ln2Scaled : Nat := 0xB17217F7D1CF79ABC9E3B39803F2F6AF

/-- Terms of a power series in fixed point at 2^-128: t, t * x / k, ... with k stepping by `by_`. -/
def series (x2 : Int) (alternate : Bool) : Nat → Nat → Nat → Int → Int
  | 0, _, _, t => t
  | n + 1, k, by_, t =>
    let d : Int := if by_ = 1 then k else k * (k + 1)
    t + series x2 alternate n (k + by_) by_ ((if alternate then -(t * x2) else t * x2) / 2 ^ 128 / d)

/-- 2^f at 2^-128 for f at 2^-128 in [0, 1). -/
def exp2Fixed (f : Nat) : Int := series ((f * ln2Scaled / 2 ^ 128 : Nat) : Int) false 40 1 1 (2 ^ 128)

/-- Bits of log2 of y / 2^160 in [1, 2). -/
def log2Bits : Nat → Nat → Nat
  | 0, _ => 0
  | n + 1, y =>
    let z := y * y / 2 ^ 160
    if 2 ^ 161 ≤ z then 2 ^ n + log2Bits n (z / 2) else log2Bits n z

/-- x modulo 2 pi at 2^-128, for |x| = m * 2^e. -/
def reduceAngle (m : Nat) (e : Int) : Int :=
  let x := if 0 ≤ e + 256 then m * 2 ^ (e + 256).toNat else m / 2 ^ (-(e + 256)).toNat
  ((x % (2 * piScaled) / 2 ^ 128 : Nat) : Int)

def sinFixed (r : Int) : Int := series (r * r / 2 ^ 128) true 40 2 2 r
def cosFixed (r : Int) : Int := series (r * r / 2 ^ 128) true 40 1 2 (2 ^ 128)

/-- Whether a positive value is a power of two. -/
def powerOfTwo (m : Nat) : Bool := m == 2 ^ Nat.log2 m

/-- An approximation on a binary32 code (R179). -/
def approx32 (fn : Config.ApproxFn) (x : Nat) : Coded :=
  let v := f32.val x
  let cand := (Config.approxCode fn (BitVec.ofNat 32 x)).toNat
  (f32.nanOf [v]).getD (
    match fn, v with
    | .rcp, .inf s => (f32.code s 0, 0)
    | .rcp, .fin s m e =>
      if m = 0 then (f32.code s f32.infMag, flDZ) else
      let p : Int := -((Nat.log2 m : Int) + e)
      if powerOfTwo m ∧ -126 ≤ p ∧ p ≤ 127 then f32.round 1 s 1 p false
      else
        let n : Nat := 2 ^ 88 / m
        approxFin cand (if s then -(n : Int) else n) (-88 - e) (ulps 1 n (-88 - e))
    | .rsq, .inf s => if s then f32.invalid else (0, 0)
    | .rsq, .fin s m e =>
      if m = 0 then (f32.code s f32.infMag, flDZ) else
      if s then f32.invalid else
      let p : Int := (Nat.log2 m : Int) + e
      if powerOfTwo m ∧ p % 2 = 0 then f32.round 1 false 1 (-(p / 2)) false
      else
        let odd := (e % 2).toNat
        let n : Nat := natRoot (2 ^ 176 / (m * 2 ^ odd))
        let g := -88 - (e - odd) / 2
        approxFin cand n g (ulps 1 n g)
    | .exp2, .inf s => if s then (0, 0) else (f32.infMag, 0)
    | .exp2, .fin s m e =>
      let t := (units m e (-128)).1
      let t : Int := if s then -(t : Int) else t
      let n := t / 2 ^ 128
      let f := (t % 2 ^ 128).toNat
      let whole := if 0 ≤ e then true else m % 2 ^ (-e).toNat == 0
      if 128 ≤ n then f32.overflow 1 false
      else if whole ∧ -126 ≤ n then f32.round 1 false 1 n false
      else
        let g := max n (-300) - 128
        let y := exp2Fixed f
        approxFin cand y g (ulps 2 y.toNat g + 2 ^ 40)
    | .log2, .inf s => if s then f32.invalid else (f32.infMag, 0)
    | .log2, .fin s m e =>
      if m = 0 then (f32.code true f32.infMag, flDZ) else
      if s then f32.invalid else
      let k := Nat.log2 m
      let p : Int := (k : Int) + e
      if powerOfTwo m then f32.ofVal 1 (.ofInt p)
      else
        let n : Int := p * 2 ^ 80 + (log2Bits 80 (m * 2 ^ (160 - k)) : Nat)
        let near := p = 0 ∨ p = -1
        approxFin cand n (-80) (max (ulps 2 n.natAbs (-80)) (if near then 2 ^ 58 + 2 else 0))
    | .sin, .inf _ => f32.invalid
    | .sin, .fin s m e =>
      if m = 0 then (x, 0) else
      let y := sinFixed (reduceAngle m e)
      let small := decide ((Nat.log2 m : Int) + e < -60)
      if small then approxFin cand (if s then -((m : Int) * 2 ^ 30 - 1) else (m : Int) * 2 ^ 30 - 1) (e - 30)
        (2 ^ (8 - e).toNat + 2)
      else approxFin cand (if s then -y else y) (-128) (2 ^ 106 + 2)
    | .cos, .inf _ => f32.invalid
    | .cos, .fin _ m e =>
      if m = 0 then (f32.code false (127 * 2 ^ 23), 0) else
      approxFin cand (cosFixed (reduceAngle m e)) (-128) (2 ^ 106 + 2)
    | _, _ => f32.invalid)

/-- An approximation of a 16-bit or binary32 type (R179): exact in, rounded to the type with .rn. -/
def Fmt.approx (f : Fmt) (fn : Config.ApproxFn) (x : Nat) : Coded :=
  if f = f32 then approx32 fn x
  else
    match f.val x with
    | .nan s q p => f.nanResult s q p
    | v =>
      let r := approx32 fn (f32.ofVal 1 v).1
      let o := f.ofVal 1 (f32.val r.1)
      (o.1, r.2 ||| o.2)

/-! ### One K-step (R199, R214, R217) -/

/-- The sum of two values of a K-step before rounding; a quiet NaN stands for infinities of both signs. -/
def Val.plus : Val → Val → Val
  | .inf s, .inf t => if s = t then .inf s else .nan false false 0
  | .inf s, .fin _ _ _ => .inf s
  | .fin _ _ _, .inf t => .inf t
  | .fin s m e, .fin t n g =>
    let q := min e g
    let x := (Val.fin s m e).scaled q + (Val.fin t n g).scaled q
    .fin (decide (x < 0)) x.natAbs q
  | _, _ => .nan false false 0

/-- One block term T(j) of R214. -/
def blockTerm (sx sw : Val) (xs ws : List Val) : Val :=
  let dot := (xs.zip ws).foldl (fun a p => a.plus (p.1.times p.2)) (.fin false 0 0)
  if dot.isNaN then dot else (sx.times sw).times dot

/-- The leading bit of a finite non-zero value. -/
def Val.lead : Val → Int
  | .fin _ m e => (Nat.log2 m : Int) + e
  | _ => 0

/-- KStepWindow of R217 on finite terms, the accumulator first. -/
def kWindow (mode : Nat) (acc : Nat) (terms : List Val) : Coded :=
  let nz := (a40.val acc :: terms).filter fun t => !t.isZero
  match nz with
  | [] => (acc, 0)
  | t :: _ =>
    let p := nz.foldl (fun m v => max m v.lead) t.lead
    let q := p - 96
    let cut := nz.map fun v => match v with
      | .fin s m e => let u := units m e q; ((if s then -(u.1 : Int) else (u.1 : Int)), u.2.1 != 0)
      | _ => (0, false)
    let sum := cut.foldl (fun (a : Int) c => a + c.1) 0
    let sticky := cut.any (·.2)
    let nx := if sticky then flNX else 0
    if sum = 0 then (a40.code (mode == 4) 0, nx)
    else
      let r := a40.round mode (decide (sum < 0)) sum.natAbs q sticky
      (r.1, r.2 ||| nx)

/-- One K-step into an AF40 code: the special values of R199, else the window. Scales come one for each four elements. -/
def kStep (mode : Nat) (acc : Nat) (xs ws sxs sws : List Val) : Coded :=
  let a := a40.val acc
  if a.isNaN || xs.any Val.isNaN || ws.any Val.isNaN || sxs.any Val.isNaN || sws.any Val.isNaN then
    (a40.nanMag, if a.isSNaN then flNV else 0)
  else
    let terms := (List.range 32).map fun j =>
      blockTerm (sxs.getD j (.fin false 1 0)) (sws.getD j (.fin false 1 0)) ((xs.drop (4 * j)).take 4) ((ws.drop (4 * j)).take 4)
    let infs := (a :: terms).filter Val.isInf
    if terms.any Val.isNaN || (infs.any Val.neg && infs.any fun v => !v.neg) then a40.invalid
    else match infs with
      | v :: _ => (a40.code v.neg a40.infMag, 0)
      | [] => kWindow mode acc terms

end Sys2Proof.Machine
end

