-- ==== Sys2Proof/Machine/Operands.lean ====
section
/-! DEFINITION. Operand forms: what turns an instruction away before its own faults (R18, R186, R280, R282), the skeleton
of R20, third sources (R46), floating-point operands (R175) and the addresses of MEM and SYS words (R14, R84, R87). -/

namespace Sys2Proof.Machine

open Sys2Proof

/-! ### Before an instruction's own effect -/

/-- A matrix or tile instruction of the group that has not completed (R186, R191). -/
def State.matrixPending (s : State) (w : Who) : Bool :=
  match w with
  | .ctl _ => false
  | .grp k => s.cores.any fun c => (c.2.matrix.queue ++ c.2.matrix.incoming).any fun o => o.group == k

/-- Whether a matrix instruction of a group that has not been performed names a hamper. -/
def State.matrixUses (s : State) (w : Who) (h : Nat × Nat) : Bool :=
  match w with
  | .ctl _ => false
  | .grp k => s.cores.any fun c => (c.2.matrix.queue ++ c.2.matrix.incoming).any fun o => o.group == k && o.hamper == some h

/-- Whether a load that has not completed still owes a latch to an active lane. -/
def State.owedLatch (s : State) (w : Who) (seats : List Nat) : Bool :=
  s.reqs.any fun r => r.2.who == w && r.2.remote.isNone && r.2.latch.any fun p => seats.contains p.1

/-- The numbers of the registers that an operand reads: those that holds use, and for a latch its code above 0x2_0000. -/
def Ctx.readKeys (x : Ctx) (o : Opd) : List Nat := if 120 ≤ o.1.toNat then [0x20000 + o.1.toNat] else x.keys o

/-- Whether the ECC of a register fails in a lane (R242): a lane register, an s-register or a latch. -/
def Ctx.bad (x : Ctx) (i k : Nat) : Bool :=
  let l := x.g.lane i
  if k < 0x10000 then (l.regs.getD k Reg.zero).bad
  else if k < 0x20000 then x.g.badSregs.contains (k - 0x10000)
  else decide (k - (0x20000 + 120) ≤ l.pushes) && l.badLatch.contains (l.pushes - (k - (0x20000 + 120)))

/-- The register that an instruction reads in a lane and whose bank ECC fails (R243). -/
def Ctx.failing (x : Ctx) (ks : List Nat) (i : Nat) : Option Nat := ks.find? (x.bad i)

/-- What turns the issue away with these operands: WINDOW (R18), else a stall on a hold (R282), on a result that is still
owed, or on flags that matrix work has still to raise (R186), else POISON for the lanes that read a register whose bank ECC
fails (R243): `reads` are the operands read, in `lanes`. None when the instruction can go on. DESIGN CHOICE: this POISON comes
before the other causes of the instruction itself; the spec does not order it among them (log 95). -/
def State.ready (s : State) (x : Ctx) (os : List Opd) (reads : List Opd := os) (lanes : List Nat := x.c.seats) : Option State :=
  match x.windowFault os with
  | some n => some (s.fault x .window x.c.seats (BitVec.ofNat 64 n))
  | none =>
    let ks := os.flatMap x.keys
    if x.g.heldBy x.c.seats ks then some (s.stall x 3)
    else if s.owed x.who x.c.seats ks then some (s.stall x 2)
    else if os.any (fun o => decide (120 ≤ o.1.toNat)) && s.owedLatch x.who x.c.seats then some (s.stall x 1)
    else if os.any (fun o => o.1.toNat == 117) && s.matrixPending x.who then some (s.stall x 1)
    else
      let rs := reads.flatMap x.readKeys
      match lanes.filter fun i => (x.failing rs i).isSome with
      | [] => none
      | ls => some (s.fault x .poison ls (BitVec.ofNat 64 ((x.failing rs (lowSeat ls)).getD 0)))

/-- A meaning over operands that may turn it away. -/
def withOps (s : State) (os : Ctx → List Opd) (f : Ctx → State) (reads : Ctx → List Opd := os)
    (lanes : Ctx → List Nat := fun x => x.c.seats) : Result :=
  withCtx s fun x => (s.ready x (os x) (reads x) (lanes x)).getD (f x)

/-- The skeleton of R20: read the sources in every active lane, write the destination, go on. -/
def compute (s : State) (h : Hdr) (d : Code) (wd : Width) (srcs : List Opd) (f : Ctx → Nat → Nat) : Result :=
  withOps s (fun _ => srcs ++ [opd d wd]) (reads := fun _ => srcs) fun x => s.retire x h (x.dst h.n d wd (f x))

/-- The same with a change of predicates beside the result. -/
def computeP (s : State) (h : Hdr) (d : Code) (wd : Width) (srcs : List Opd) (p : Nat) (f : Ctx → Nat → Nat)
    (q : Ctx → Nat → Bool) : Result :=
  withOps s (fun _ => srcs ++ [opd d wd]) (reads := fun _ => srcs) fun x =>
    s.retire x h ((x.dst h.n d wd (f x)).modLanes x.c.seats fun i l => l.setPred p (q x i))

/-- An instruction that raises ILLEGAL in the solo profile (R32). -/
def notSolo (s : State) (r : Result) : Result :=
  match s.ctx? with
  | some x => if x.solo then .next (s.illegal x) else r
  | none => r

/-! ### Integer types (R29, R44) -/

def bitsOf : Width → Nat
  | .w32 => 32 | .w64 => 64 | .w128 => 128

/-- The width of an integer type code and whether it is signed. -/
def typeW (m : BitVec 2) : Width := wide (m.getLsbD 1)
def signedType (m : BitVec 2) : Bool := !m.getLsbD 0

/-- A number of w bits read by its signedness. -/
def readInt (w : Nat) (signed : Bool) (n : Nat) : Int := if signed then (BitVec.ofNat w n).toInt else (n % 2 ^ w : Nat)

/-- Modulo 2^w, or clamped to the type (R45). -/
def wrapOrSat (w : Nat) (signed sat : Bool) (n : Int) : Nat :=
  let lo : Int := if signed then -(2 ^ (w - 1)) else 0
  let hi : Int := if signed then 2 ^ (w - 1) - 1 else 2 ^ w - 1
  let n := if sat then max lo (min hi n) else n
  (n % (2 ^ w : Int)).toNat

/-! ### Floating-point types (R175, R183) -/

def fpType (m : BitVec 2) : Fmt :=
  match m.toNat with | 0 => f32 | 1 => f64 | 2 => f16 | _ => bf16

/-- The kinds of R183. -/
def fpKind (k : BitVec 3) : Fmt :=
  match k.toNat with | 0 => f32 | 1 => f64 | 2 => f16 | 3 => bf16 | 4 => a40 | _ => sx8

/-- The code a register operand holds of a format: the bits above it are ignored (R158, R175, R183). -/
def Fmt.codeOf (f : Fmt) (n : Nat) : Nat := n % 2 ^ f.width

/-- The rounding mode of an ORD code (R27, R172). -/
def Group.mode (g : Group) (ord : Nat) : Nat := if ord = 0 then g.fpRM else ord

/-! ### Addresses (R14, R84, R87) -/

/-- The immediate of a MEM word in units of its size: imm5, imm17 under a prefix, imm13 for an atomic (R11, R14). DESIGN
CHOICE: imm13 is read as two's complement, as imm5 and imm17 are; R14 does not say so (log 98). -/
def memImm (h : Hdr) (imm : BitVec 5) (atomic : Bool) : Int :=
  match h.pfx with
  | none => imm.toInt
  | some p => if atomic then (p.ext.extractLsb' 0 8 ++ imm).toInt else (p.ext.extractLsb' 0 12 ++ imm).toInt

/-- e of R87 for a lane. -/
def Ctx.address (x : Ctx) (i : Nat) (cap : Cap) (off : Code) (imm : Int) : Int :=
  (cap.cursor : Int) + (x.src32 i off).toInt + imm

/-- An address as a trap value: e modulo 2^64. -/
def intVal (e : Int) : Dword := BitVec.ofInt 64 e

/-- The tag a lane quad carries (R23); no other code carries one. -/
def Ctx.quadTag (x : Ctx) (c : Code) (i : Nat) : Bool :=
  decide (c.toNat < 96) &&
    (List.range 4).all fun j => ((x.g.lane i).regs.getD (x.wb + c.toNat + j) Reg.zero).tag

/-- The operand of a capability number: the lane quad's registers, when it names one. -/
def capOpd (c : BitVec 4) (quad : Bool) : List Opd := if quad then [(BitVec.ofNat 7 (4 * c.toNat), 4)] else []

end Sys2Proof.Machine
end

