-- ==== Sys2Proof/Machine/Flags.lean ====
section
/-! DEFINITION. Raising the sticky flags of FL (R173, R174) and writing predicate p6 (R43). -/

namespace Sys2Proof.Machine

open Sys2Proof

/-- Sets flags in FL; they are cleared by FLCLR alone (R173). -/
def Lane.raise (l : Lane) (flags : Nat) : Lane := { l with fl := l.fl ||| BitVec.ofNat 5 flags }

/-- Flags of a result in each lane that computes it; with a uniform destination, those of the result written, in the lowest
active lane only (R174). -/
def Ctx.raise (x : Ctx) (g : Group) (d : Code) (flags : Nat → Nat) : Group :=
  if uniform d then g.modLane x.lowest fun l => l.raise (flags x.lowest)
  else g.modLanes x.c.seats fun i l => l.raise (flags i)

/-- The skeleton of R20 for instructions that raise flags. -/
def computeF (s : State) (h : Hdr) (d : Code) (wd : Width) (srcs : List Opd) (f : Ctx → Nat → Coded) : Result :=
  withOps s (fun _ => srcs ++ [opd d wd]) (reads := fun _ => srcs) fun x =>
    s.retire x h (x.raise (x.dst h.n d wd fun i => (f x i).1) d fun i => (f x i).2)

/-- Writes p6 in each active lane (R43). -/
def Ctx.p6 (x : Ctx) (g : Group) (q : Nat → Bool) : Group := g.modLanes x.c.seats fun i l => l.setPred 6 (q i)

end Sys2Proof.Machine
end

