-- ==== Sys2Proof/Machine/Requests.lean ====
section
/-! DEFINITION. What the memory instructions share: the deferred fabric fault (R398), the data watch and debug stops
(R415, R416), observation records (R411, R413), lanes that leave an instruction by parking or aborting (R309, R363),
remote requests (R394-R398), and the path from the checks of R87 to the physical addresses (R362, R363). -/

namespace Sys2Proof.Machine

open Sys2Proof

/-! ### Observation records (R411) -/

/-- A record of a thread in its partition's observation ring: header, then payload. -/
def State.record (s : State) (w : Who) (kind thread : Nat) (payload : List Byte) : State :=
  match s.group? w, s.partOf w with
  | some g, some p =>
    let die := s.dieOf w
    let place := match w with
      | .ctl n => n % 16 * 4
      | .grp _ => g.place.elim 0 fun q => q.core % 160 * 4 + q.slot
    let team := match w with | .ctl _ => noTeam | .grp _ => (s.teamOf g).elim 0 (·.index)
    let thread := (ctlOf w).getD thread
    s.observe p die fun c =>
      (leBytes 1 kind ++ leBytes 1 die ++ leBytes 2 place ++ leBytes 4 0 ++ leBytes 8 c ++ leBytes 8 (s.cyc.getD die 0) ++
        leBytes 4 g.launch.toNat ++ leBytes 4 team ++ leBytes 4 thread ++ leBytes 4 0 ++ leBytes 8 g.name.toNat ++ payload ++
        leBytes 80 0).take 128
  | _, _ => s

/-- A group stops for the debugger before the instruction takes effect (R416); it leaves arbitration, and its run goes on when
it is released, unless this issue was its last (R147). -/
def State.debugStop (s : State) (x : Ctx) (cause : Nat) (seats : List Nat) (value : Nat) : State :=
  let g := { x.g with issueQ := ⟨x.c.addr, x.c.seats, x.c.words⟩ :: x.g.issueQ }.cutIssue s.now
  let g := { g.phase 7 s.now with dbgStop := true, stopCause := cause, stopSeats := x.c.seats, issueQ := [], snap := none, runOpen := false, readySince := s.now }
  let s := { s with cur := none }.setGroup x.who g
  s.record x.who 3 (((x.g.lane (x.g.lowest seats)).thread).getD 0)
    (leBytes 8 x.c.addr.toNat ++ leBytes 4 cause ++ leBytes 4 (seatMask seats).toNat ++ leBytes 4 value)

/-! ### Releases, fences and the deferred fabric fault -/

/-- A release or fence of a group with a failed remote store does not issue: FABRIC is taken with DEF = 1 (R398). Open
transactions abort with FAULT first (R309). DESIGN CHOICE: of several failures the oldest is taken, and the others, which the
trap saves with the code that it interrupts, once its handler has returned (log 103). -/
def State.takeFabric (s : State) (x : Ctx) (v : Deferred) : State :=
  let s := { s with cur := none }
  let s := s.abort x.who x.g.live .fault
  let s := s.modGroup x.who fun g => { g with failed := g.failed.tail, issueQ := [] }
  let g := (s.group? x.who).getD x.g
  match x.who with
  | .ctl n => s.exception n (g.lane 0).pc (causeNum v.cause) v.value
  | .grp k => s.boundaryTrap k v.cause (some ((List.range 32).filter fun i => v.mask.getLsbD i)) v.value (some v.pc)
      (if (g.pathSeats x.c.addr.toNat).isEmpty then none else some x.c.addr)

/-- What a release waits for: every earlier access of its thread performed (R250). -/
def State.release (s : State) (x : Ctx) (go : State) : State :=
  match x.g.failed with
  | v :: _ => s.takeFabric x v
  | [] => if s.unperformed x.who then s.stall x 2 else go

/-! ### Lanes that leave an instruction -/

/-- Whether the word of an issue has B set, which ends the run even where every active lane has aborted (R9, R22). -/
def Issue.endsRun (c : Issue) : Bool := (if isPfxWord c.word.toNat then c.word2 else c.word).getLsbD 31

/-- No lane of the active set goes on from the instruction: they have parked or aborted. -/
def State.lapse (s : State) (x : Ctx) (endRun : Bool := false) : State :=
  let s := { s with cur := none }.modGroup x.who fun g =>
    let g := { g with endPending := g.endPending || endRun }
    g.settle.endIssue s.now
  match s.group? x.who with
  | some g => { s with agenda := s.agenda ++ g.boundaryEvents x.who }
  | none => s

/-- The context of the lanes that are left, over the group as it stands. -/
def State.rest (s : State) (x : Ctx) (gone : List Nat) : Ctx :=
  { x with g := (s.group? x.who).getD x.g, c := { x.c with seats := x.c.seats.filter fun i => !gone.contains i } }

/-- Lanes park on pages that are not resident (R363), their monitors armed, or with the clock they replay at (R364). -/
def State.parkLanes (s : State) (x : Ctx) (ls : List (Nat × PageKey × Option Nat)) : State :=
  s.modGroup x.who fun g => ls.foldl (fun g p => g.modLane p.1 fun l => { l with mode := .parked p.2.1 p.2.2 }) g

/-! ### Instructions that a transaction bars, and group instructions (R268, R270) -/

/-- Lanes inside a transaction abort with ILLEGAL instead (R270); the others go on. -/
def outsideTx (s : State) (x : Ctx) (go : State → Ctx → State) : State :=
  let txs := x.c.seats.filter fun i => (x.g.lane i).tx.isSome
  if txs.isEmpty then go s x
  else
    let s := s.abort x.who txs .illegal
    let x := s.rest x txs
    if x.c.seats.isEmpty then s.lapse x x.c.endsRun else go s x

/-- An instruction of R270 with its operands; a register is read in the lowest active lane (R268), unless `lanes` says
otherwise. -/
def groupOp (s : State) (os : Ctx → List Opd) (f : State → Ctx → State) (reads : Ctx → List Opd := os)
    (lanes : Ctx → List Nat := fun x => x.readers) : Result :=
  withCtx s fun x => outsideTx s x fun s x => (s.ready x (os x) (reads x) (lanes x)).getD (f s x)

/-- The same for an instruction that a control core does not have (R82, R267). -/
def coreOp (s : State) (os : Ctx → List Opd) (f : State → Ctx → State) (lanes : Ctx → List Nat := fun x => x.readers) : Result :=
  notSolo s (groupOp s os f (lanes := lanes))

/-- The operand sK. -/
def sOpd (k : BitVec 4) (w : Width) : Opd := (BitVec.ofNat 7 (96 + k.toNat), widthWords w)

/-! ### An access -/

/-- What a memory instruction asks of memory, lane by lane: its capability, its address e, its size, what it needs of
the capability (R88) and its codes. `whole` marks an access made once for the path (R94, R363). -/
structure Access where
  cap    : Nat → Cap
  e      : Nat → Int
  size   : Nat
  perms  : Nat → BitVec 8
  reads  : Bool
  writes : Bool
  ord    : Nat
  scope  : Nat
  whole  : Bool
  waits  : Bool      -- it takes a reply from another package, so a failure there traps precisely (R398)
  op     : Nat := 0      -- the opcode of a load, a store or an atomic, which the data watch and the trail look at (R413, R415)
  code   : Nat := 0      -- its size code

def Access.lanes (a : Access) (x : Ctx) : List Nat := if a.whole then [x.lowest] else x.c.seats
/-- The lanes a fault of some lanes names. -/
def Access.mask (a : Access) (x : Ctx) (ls : List Nat) : List Nat := if a.whole then x.c.seats else ls

def Access.object (a : Access) (i : Nat) : Nat := (a.cap i).index
def Access.offset (a : Access) (i : Nat) : Nat := (a.e i).toNat
def Access.page (a : Access) (i : Nat) : Nat := a.offset i / 65536
def Access.remote (a : Access) (s : State) (i : Nat) : Bool := (a.cap i).pkg != s.regs.pkg
def Access.key (a : Access) (s : State) (x : Ctx) (i : Nat) : PageKey := ⟨(a.cap i).pkg, s.asnOf x.who, a.object i, a.page i⟩

/-- Whether a lane of the active set is outside a transaction: ordering suffixes act for such lanes alone (R308). -/
def Ctx.plain (x : Ctx) : Bool := x.c.seats.any fun i => (x.g.lane i).tx.isNone

/-- Whether a lane's access writes at its home slice now: a compute lane's transactional write stays in its buffer (R312). -/
def Access.writesAt (a : Access) (x : Ctx) (i : Nat) : Bool := a.writes && (x.solo || (x.g.lane i).tx.isNone)

/-- Whether a lane's access goes to its home slice now. -/
def Access.goes (a : Access) (x : Ctx) (i : Nat) : Bool := a.reads || !a.writes || a.writesAt x i

/-- The value of a key in the layout of R301. -/
def keyVal (k : PageKey) : Dword := BitVec.ofNat 64 k.num

/-- Lanes of the active set whose access the partition's data watch matches (R415); those in a transaction abort with it (R309). -/
def State.watched (s : State) (x : Ctx) (a : Access) : List Nat :=
  match s.partOf x.who with
  | none => []
  | some p =>
    let q := s.part p
    if a.op == 0 || !q.watchCfg.getLsbD 31 || q.watchLen == 0 then [] else
    x.c.seats.filter fun j =>
      let i := if a.whole then x.lowest else j
      ((a.reads && q.watchCfg.getLsbD 30) || (a.writes && q.watchCfg.getLsbD 29)) &&
      (a.cap i).kind == 1 && !a.remote s i && a.object i == q.watchCfg.toNat % 2 ^ 20 &&
      decide (a.offset i < q.watchOff + q.watchLen.toNat) && decide (q.watchOff < a.offset i + a.size)

/-- The generation under which an injector hashes: the old one until it has adopted a new map (R238). -/
def State.genOf (s : State) (injector : Nat) : Nat :=
  if s.change.any fun c => c.acks.contains injector then (s.smGen - 1).toNat else s.smGen.toNat

/-- A thread's injector: its control core, or its compute core after the agents of R262. -/
def State.injectors (s : State) (w : Who) : Nat :=
  match w with
  | .ctl n => n
  | .grp _ => 2048 + (s.coreOf w).getD 0

/-- The physical address a page's tables or cache give, without any effect. -/
def State.peek (s : State) (k : PageKey) (off : Nat) : Option Nat :=
  match s.cachedExtent k with
  | some e => some (e.frame * 65536 + off % 65536)
  | none => match (s.walk k.asn k.obj k.page).1 with
    | .frame f => some (f * 65536 + off % 65536)
    | _ => none

/-- Whether ranges hold all of [a, b). -/
def rangesHave (l : List (Nat × Nat)) (a b : Nat) : Bool := l.any fun r => decide (r.1 ≤ a) && decide (b ≤ r.2)

/-- The lines that a copy has still to write in memory in pages of its destinations, ascending for each of them. -/
def State.destLines (s : State) (c : CopySlot) (within : PageKey → Bool) : List Nat :=
  if c.rowLen = 0 then [] else
  (c.dsts.zip c.done).flatMap fun d => match d.1 with
    | .mem pkg asn obj off =>
      if pkg ≠ s.regs.pkg then [] else
      ((List.range c.rows).flatMap fun i =>
        let a := off + i * c.dstPitch
        (blocks 128 a c.rowLen).filterMap fun l =>
          let lo := max a (128 * l)
          let hi := min (a + c.rowLen) (128 * l + 128)
          let k : PageKey := ⟨pkg, asn, obj, 128 * l / 65536⟩
          if !within k || rangesHave d.2 (i * c.rowLen + (lo - a)) (i * c.rowLen + (hi - a)) then none
          else (s.peek k (128 * l)).map fun p => p / 128).foldl sInsert []
    | .hamper _ _ _ => []

/-- Lines that copies of a group have still to own, or to write in pages that were absent when they issued (R256): the group's
later requests to them come behind the engine's. -/
def State.wanted (s : State) (w : Who) (line : Nat) : Bool :=
  match w with
  | .ctl _ => false
  | .grp g => s.cores.any fun e => e.2.copies.any fun c => c.2.state == .running && c.2.group == g &&
      (c.2.want.contains line || (!c.2.absent.isEmpty && (s.destLines c.2 c.2.absent.contains).contains line))

/-- A request to a line stays behind what its injector has outstanding there: a request hashed under another generation of the
slice map, or one that was answered with RE-HOME (R238, R239). -/
def State.outOfMap (s : State) (w : Who) (line : Nat) : Bool :=
  s.reqs.any fun r => !r.2.done && r.2.remote.isNone && r.2.addr / 128 == line && s.injectors r.2.who == s.injectors w &&
    (r.2.bounced || r.2.rehome || r.2.gen != s.genOf (s.injectors w))

/-- Whether another thread of the compute core has a write to the line in flight. The core's writes to a line are performed in
the order in which its near cache takes them, so that its copy is never older than its own writes (R247). -/
def State.crowded (s : State) (w : Who) (line : Nat) : Bool :=
  match s.coreOf w with
  | none => false
  | some c => s.reqs.any fun r => !r.2.done && r.2.remote.isNone && r.2.kind.changes && r.2.addr / 128 == line && s.coreOf r.2.who == some c

/-- Whether an access of a thread to a line must wait at its home slice: the line is held back or must first be taken from an
agent that does not answer at once (R238, R256, R265, R316), or the thread's own requests to it come first (R234, R239). -/
def State.lineHeld (s : State) (w : Who) (line : Nat) (writes : Bool) : Bool :=
  !s.mayTake line writes (ctlOf w) || s.unperformedAt w line || s.outOfMap w line || s.wanted w line || (writes && s.crowded w line)

/-- The lines of an access of `size` bytes at an offset of a page, where the page has a translation. -/
def State.linesAt (s : State) (k : PageKey) (off size : Nat) : List Nat :=
  (s.peek k off).elim [] fun p => blocks 128 p size

/-- Whether an access must wait: its translation slice is leaving the map, or one of its lines is held (R238). -/
def State.held_ (s : State) (w : Who) (writes : Bool) (k : PageKey) (off size : Nat) : Bool :=
  s.lookupHeld k || (s.linesAt k off size).any fun l => s.lineHeld w l writes

/-- It has come to the lines: agents that do not answer at once are told (R264, R265). -/
def State.summonAt (s : State) (w : Who) (writes : Bool) (k : PageKey) (off size : Nat) : State :=
  if s.lookupHeld k then (s.lookup k.asn k.obj k.page).2 else
  (s.linesAt k off size).foldl (fun (s : State) l => s.summon l writes (ctlOf w)) s

/-- The answers of translation for lanes, in order. -/
def State.lookupAll (s : State) (x : Ctx) (a : Access) : List Nat → List (Nat × Answer) × State
  | [] => ([], s)
  | i :: is =>
    let s := s.cross (s.dieOf x.who) (sliceDie (s.translationSlice (a.key s x i)))
    let (r, s) := s.lookup (s.asnOf x.who) (a.object i) (a.page i)
    let (rs, s) := s.lookupAll x a is
    ((i, r) :: rs, s)

/-- The requests of lanes have been translated: each is counted once, as its access goes ahead or traps (R365). -/
def State.countLanes (s : State) (x : Ctx) (a : Access) (ls : List Nat) : State :=
  ls.foldl (fun (s : State) i => if a.remote s i then s else s.counted (a.key s x i) s.regs.pkg) s

/-! ### Remote requests (R394-R398) -/

/-- A numbered request's number at its target (R397). -/
def State.number (s : State) (pkg : Nat) : Nat × State :=
  let n := s.seqNums.getD pkg 0
  (n % 2 ^ 48, { s with seqNums := s.seqNums.set pkg (n + 1) })

def ReqKind.op : ReqKind → FabricOp
  | .translate => .translate
  | .load n _ => .load n
  | .loadCap _ => .loadCap
  | .loadTags n => .loadTags n
  | .handler _ => .loadTags 256
  | .queueBegin => .queueBegin
  | .queueEnd counts => .queueEnd counts
  | .slot bs => .store bs
  | .watch w => .watch w
  | .store bs => .store bs
  | .storeCap bs t => .storeCap bs t
  | .atomic op n v c _ => .atomic op n v c
  | .copyWrite _ _ _ _ bs p => .copyWrite bs p
  | .copyRead _ _ _ n => .load n
  | .portRead _ n => .load n
  | .message _ op => op
  | .give name => .resolve name
  | .parked | .invalidate _ => .translate

/-- Requests that carry a number: they change something (R397). -/
def ReqKind.numbered : ReqKind → Bool
  | .store _ | .storeCap _ _ | .atomic _ _ _ _ _ | .copyWrite _ _ _ _ _ _ | .queueBegin | .queueEnd _ | .slot _ => true
  | _ => false

/-- The pc of requests that no instruction of a thread waits for. -/
def noPc : Dword := 0xFFFFFFFFFFFFFFFF

/-- A request to another package is sent (R397): its entry's number, and the state. -/
def State.request (s : State) (w : Who) (seat : Nat) (k : PageKey) (off : Nat) (kind : ReqKind) (strong : Bool) (pc : Dword)
    (fence : Option Nat := none) : Nat × State :=
  let s := s.cross (s.dieOf w) fabricDie
  let (num, s) := if kind.numbered then (some (s.number k.pkg).1, (s.number k.pkg).2) else (none, s)
  let n := s.reqs.fresh
  let c := s.cseqOf fabricDie
  let r : Req := { who := w, seat, kind, strong, addr := off, key := k, asn := k.asn, dest := none, latch := [], done := false,
                   answer := none, value := [], tag := false, gen := s.smGen.toNat, rehome := false, bounced := false,
                   remote := some k.pkg, num, sends := 1, sentAt := s.now, pc, cseq := c, fence }
  (n, { s with reqs := s.reqs.set n r, sent := s.sent ++ [Outbound.fabricRequest k.pkg num k.asn k.obj off kind.op c] })

/-- A message of a thread goes to another package, whose answer is its status or what a give finds there (R335). It names no
address space. -/
def State.sendFar (s : State) (w : Who) (pkg : Nat) (kind : ReqKind) : State := (s.request w 0 ⟨pkg, 65536, 0, 0⟩ 0 kind false noPc).2

/-- An instruction's request to another package. -/
def State.sendRemote (s : State) (x : Ctx) (k : PageKey) (off seat : Nat) (kind : ReqKind) (strong : Bool := false)
    (fence : Option Nat := none) : State :=
  (s.request x.who seat k off kind strong x.c.addr fence).2

/-- An ATOM.acq of a thread in another package has still to be performed: its later accesses wait for it (R96, R250). -/
def State.fenced (s : State) (w : Who) : Bool := s.reqs.any fun r => r.2.who == w && r.2.fence.isSome && !r.2.done

def ReqKind.isTranslate : ReqKind → Bool
  | .translate => true
  | _ => false

/-- Requests whose answers their instruction takes. -/
def ReqKind.isRead : ReqKind → Bool
  | .load _ _ | .loadCap _ | .loadTags _ | .queueBegin | .queueEnd _ | .slot _ | .watch _ => true
  | .atomic _ _ _ _ returns => returns
  | _ => false

/-- The request a lane has made of another package for this instruction, whose answer it takes. -/
def State.remoteReq (s : State) (x : Ctx) (i : Nat) : Option (Nat × Req) :=
  s.reqs.find? fun r => r.2.who == x.who && r.2.seat == i && r.2.pc == x.c.addr && r.2.remote.isSome && r.2.kind.isRead

/-- A translation that the package has asked another for. -/
def State.remoteAsk (s : State) (x : Ctx) (k : PageKey) : Option (Nat × Req) :=
  s.reqs.find? fun r => r.2.who == x.who && r.2.key == k && r.2.pc == x.c.addr && r.2.kind.isTranslate

def State.dropReq (s : State) (n : Nat) : State := { s with reqs := s.reqs.erase n }

/-- An answered request is over; one whose page is not resident stays for the wake of the target's monitor (R394). -/
def State.answered (s : State) (n : Nat) : State :=
  match s.reqs.get? n with
  | none => s
  | some r =>
    if r.answer = some .notResident then { s with reqs := s.reqs.set n { r with kind := .parked, answer := none, done := true } }
    else s.dropReq n

/-- The reason of R398 in an answer. -/
def fabricReason : FabricAnswer → Option Nat
  | .unreachable => some 1
  | .replayLost => some 2
  | .noAsn => some 3
  | _ => none

/-- TVAL of FABRIC (R398). -/
def fabricVal (reason pkg num : Nat) : Dword := BitVec.ofNat 64 (reason * 2 ^ 56 + pkg % 256 * 2 ^ 48 + num % 2 ^ 48)

/-- The failure of a remote store or ATOM is kept for the next release, fence or run boundary (R398); lanes of one instruction
fail together. -/
def State.defers (s : State) (w : Who) (cause : Cause) (pc : Dword) (seat : Nat) (v : Dword) : State :=
  s.modGroup w fun g =>
    if g.failed.any fun d => d.pc == pc && d.cause == cause then
      { g with failed := g.failed.map fun d => if d.pc = pc ∧ d.cause = cause then { d with mask := d.mask ||| (1#32 <<< seat) } else d }
    else { g with failed := g.failed ++ [(⟨cause, pc, v, 1#32 <<< seat⟩ : Deferred)] }

/-- What the failure of a request that its instruction does not wait for raises: FABRIC, or for an ATOM that read poison POISON.
DESIGN CHOICE: the latter is taken as FABRIC is, with DEF = 1: R398 has a remote ATOM complete at issue, and R243 has it trap
POISON precisely (log 103). -/
def State.lateFailure (s : State) (r : Req) (a : FabricAnswer) : State :=
  match fabricReason a with
  | some why => s.defers r.who .fabric r.pc r.seat (fabricVal why r.key.pkg (r.num.getD 0))
  | none => if a = .poisoned then s.defers r.who .poison r.pc r.seat (BitVec.ofNat 64 (r.addr / 32 * 32)) else s

/-- An answer that says that a page is not resident. -/
def isAbsent (a : FabricAnswer) : Bool := a == .notResident || a == .unmonitored

/-- When the lanes of such an answer replay by themselves (R364). -/
def State.replayAt (s : State) (a : FabricAnswer) : Option Nat := if a = .unmonitored then some (s.now + 4096) else none

/-- The translations of the remote lanes, asked for once for each page that no cache holds (R394, R399): `some` when the
instruction waits for one; else the lanes whose pages have been answered, and the state that has taken the answers. -/
def State.remotePages (s : State) (x : Ctx) (a : Access) (rs : List Nat) : Option State × List (Nat × FabricAnswer) × State :=
  let keys := (rs.map fun i => a.key s x i).foldl (fun l k => if l.contains k then l else l ++ [k]) []
  let miss := keys.filter fun k => !(s.remotes.any fun e => e.key == k)
  let ask := miss.filter fun k => (s.remoteAsk x k).isNone
  if !ask.isEmpty then
    (some ((ask.foldl (fun s k => s.sendRemote x k (65536 * k.page) 0 .translate) s).stall x 2), [], s)
  else
    let answers := miss.map fun k => (k, (s.remoteAsk x k).bind fun r => r.2.answer)
    if answers.any fun p => p.2.isNone then (some (s.stall x 2), [], s) else
    (none, rs.filterMap fun i => ((answers.find? fun q => q.1 == a.key s x i).bind (·.2)).map fun r => (i, r),
     miss.foldl (fun s k => (s.remoteAsk x k).elim s fun r => s.answered r.1) s)

/-- The whole path parks on one page (R363). -/
def State.parkAll (s : State) (x : Ctx) (k : PageKey) (replay : Option Nat) : State :=
  let s := (s.dropReads x.who x.c.addr).parkLanes x (x.c.seats.map fun i => (i, k, replay))
  s.lapse (s.rest x x.c.seats)

/-- A request that a path makes of another package for this instruction, once, under a tag of its own: its answer, or the
state that waits for it, parks the path or traps (R394, R398). -/
def State.ask (s : State) (x : Ctx) (tag : Nat) (k : PageKey) (off : Nat) (kind : ReqKind) : Sum State FabricAnswer :=
  match s.remoteReq x tag with
  | none => .inl ((s.sendRemote x k off tag kind).stall x 2)
  | some (n, r) => match r.answer with
    | none => .inl (s.stall x 2)
    | some a =>
      if isAbsent a then .inl (((s.answered n).count 6 x.c.seats.length).parkAll x k (s.replayAt a))
      else if a = .extentError then .inl (s.fault x .extentError x.c.seats (keyVal k))
      else if a = .poisoned then .inl (s.fault x .poison x.c.seats (BitVec.ofNat 64 (off / 32 * 32)))
      else match fabricReason a with
        | some why => .inl (s.fault x .fabric x.c.seats (fabricVal why k.pkg (r.num.getD 0)))
        | none => .inr a

/-- Bytes and tags of an answer. -/
def granuleData (a : FabricAnswer) : List Byte × List Bool :=
  match a with
  | .granules bs ts => (bs, ts)
  | _ => ([], [])

/-! ### Trail samples (R413) -/

/-- Oracle numbers for the stamps of a trail sample. -/
def State.picksN : Nat → State → List Nat × State
  | 0, s => ([], s)
  | n + 1, s =>
    let (v, s) := s.pick
    let (vs, s) := State.picksN n s
    (v :: vs, s)

/-- Whether the core follows this instruction's lowest active lane: one in 2^RATE, at random. DESIGN CHOICE: the home slice of a
request to another package, which that package's map places, is a free value (log 107). -/
def State.follows (s : State) (x : Ctx) (a : Access) (addr : Nat) : Option Trail × State :=
  match s.partOf x.who, s.coreOf x.who with
  | some p, some _ =>
    if a.op == 0 || !(s.part p).oqTrail then (none, s) else
    let (v, s) := s.pick
    if v % 2 ^ (s.part p).oqRate ≠ 0 then (none, s) else
    let i := x.lowest
    let (far, s) := if a.remote s i then s.pick else (0, s)
    (some ⟨((x.g.lane i).thread).getD 0, a.op, a.code, s.asnOf x.who, a.object i, a.offset i, s.translationSlice (a.key s x i),
      if a.remote s i then far % 512 else s.homeSlice addr, (x.g.lane i).woke, x.missed⟩, s)
  | _, _ => (none, s)

/-- How a followed request has ended. -/
inductive TrailEnd where
  | near | home | far | untranslated | untranslatedFar | lost | noAsn
deriving DecidableEq

/-- The stages that it has passed, in the order of T0 to T9. -/
def TrailEnd.stages : TrailEnd → List Nat
  | .near => [0, 7]
  | .home => [0, 1, 2, 3, 4, 5, 6, 7]
  | .far => [0, 1, 2, 3, 4, 5, 6, 7, 8, 9]
  | .untranslated => [0, 1, 2, 6, 7]
  | .untranslatedFar => [0, 1, 2, 6, 7, 8, 9]
  | .lost => [0, 1, 7, 8]
  | .noAsn => [0, 1, 6, 7, 8, 9]

/-- The record of a sample, when the reply has reached the lane or the request has failed. DESIGN CHOICE: the clocks of each stage
that the request has passed are free values, for the model keeps no queues of these stages (log 107). -/
def State.trailRecord (s : State) (w : Who) (t : Trail) (e : TrailEnd) (far rehomed failed : Bool) : State :=
  let (ts, s) := State.picksN 10 s
  let stamps := ts.zipIdx.map fun p => if e.stages.contains p.2 then min p.1 65535 else 0
  let flags := (decide (e = .near)).toNat + 2 * far.toNat + 4 * t.parked.toNat + 8 * rehomed.toNat + 16 * failed.toNat + 32 * t.missed.toNat
  s.record w 2 t.thread
    ((stamps.flatMap fun n => leBytes 2 n) ++ leBytes 2 t.slice ++ leBytes 2 t.home ++ leBytes 2 flags ++ leBytes 1 t.op ++
      leBytes 1 t.size ++ leBytes 2 t.asn ++ leBytes 2 0 ++ leBytes 4 t.obj ++ leBytes 8 t.off)

/-- The request of an instruction's lowest active lane has been answered as it issued, or is in flight, where the sample goes
with it: that of the lane, or of the lane that a combined atomic goes with (R396). -/
def State.sample (s : State) (x : Ctx) (a : Access) (addr : Nat) (e : TrailEnd) (later : Bool) (lead : Nat) : State :=
  match s.follows x a addr with
  | (none, s) => s
  | (some t, s) =>
    let far := a.remote s x.lowest
    let r := if later then s.reqs.reverse.find? fun r => r.2.who == x.who && r.2.seat == lead && r.2.pc == x.c.addr && !r.2.done else none
    match r with
    | some (n, r) => { s with reqs := s.reqs.set n { r with trail := some t } }
    | none => s.trailRecord x.who t e far false false

/-- The requests of lanes have failed, the lowest active lane's among them. -/
def State.sampleFailed (s : State) (x : Ctx) (a : Access) (ls : List Nat) (addr : Nat) (e : TrailEnd) : State :=
  if !(a.whole || ls.contains x.lowest) then s else
  match s.follows x a addr with
  | (none, s) => s
  | (some t, s) => s.trailRecord x.who t e (a.remote s x.lowest) false true

/-- A request in flight has ended: its sample, if one follows it, is written. -/
def State.trailEnds (s : State) (r : Req) (a : Option FabricAnswer) : State :=
  match r.trail with
  | none => s
  | some t =>
    let e : TrailEnd := if r.remote.isNone then .home else match a with
      | some .extentError => .untranslatedFar
      | some .unreachable => .lost
      | some .noAsn => .noAsn
      | _ => .far
    let failed := a.any fun b => b == .extentError || b == .poisoned || (fabricReason b).isSome
    s.trailRecord r.who t e r.remote.isSome r.bounced failed

/-! ### From the checks to the addresses -/

/-- The checks of R87 in every lane of an access, against the kinds given. -/
def State.failing (s : State) (x : Ctx) (a : Access) : Option (Cause × List Nat) :=
  firstFail ((a.lanes x).filterMap fun i =>
    (s.check x.who x.g.team (a.cap i) (a.e i) a.size [1] (a.perms i) true).map fun f => (i, f))

/-- Transactional lanes that name another package abort with REMOTE once R87 has passed (R323). Cache control acts as
outside a transaction (R308). -/
def State.remoteAborts (s : State) (x : Ctx) (a : Access) : List Nat :=
  if !a.reads && !a.writes then [] else
  x.c.seats.filter fun i => (x.g.lane i).tx.isSome && a.remote s (if a.whole then x.lowest else i)

/-- The lanes whose pages are absent park, with their monitors armed here (R363, R364); the others go on. -/
def State.parkAbsent (s : State) (x : Ctx) (a : Access) (here : List (Nat × Nat × Dword)) (far : List (Nat × FabricAnswer))
    (go : State → Ctx → State) : State :=
  let r := here.foldl (fun (r : List (Nat × Option Nat) × State) p =>
    let (t, s) := r.2.park x.who (a.key s x p.1) s.regs.pkg p.2.1 p.2.2 (if a.whole then x.c.seats.length else 1)
    (r.1 ++ [(p.1, t)], s)) (far.map (fun p => (p.1, s.replayAt p.2)), s.count 6 (a.mask x (far.map (·.1))).length)
  let parks := r.1.flatMap fun p => (a.mask x [p.1]).map fun i => (i, a.key s x p.1, p.2)
  let s := r.2.parkLanes x parks
  let x' := s.rest x (parks.map (·.1))
  if x'.c.seats.isEmpty then s.lapse x' else go s x'

/-- The translation of the lanes that are left: EXTENT_ERROR traps, absent pages park, and the others go on with their
physical addresses (R362, R363). -/
def withAddresses (s : State) (x : Ctx) (a : Access) (poisons : State → Ctx → (Nat → Nat) → List (Nat × Dword))
    (go : State → Ctx → (Nat → Nat) → State) : State :=
  let ls := a.lanes x
  let here := ls.filter fun i => !a.remote s i
  let goes := here.filter fun i => a.goes x i
  if goes.any fun i => s.held_ x.who (a.writesAt x i) (a.key s x i) (a.offset i) a.size then
    (goes.foldl (fun (s : State) i => s.summonAt x.who (a.writesAt x i) (a.key s x i) (a.offset i) a.size) s).stall x 2
  else
  match s.remotePages x a (ls.filter fun i => a.remote s i) with
  | (some t, _, _) => t
  | (none, far, s) =>
    let missed := (s.cachedExtent (a.key s x x.lowest)).isNone
    let (answers, s) := s.lookupAll x a here
    let framed := answers.filterMap fun p => match p.2 with
      | .frame f => some (p.1, f)
      | _ => none
    let absent := answers.filterMap fun p => match p.2 with
      | .absent at_ e => some (p.1, at_, e)
      | _ => none
    let bad := (answers.filter fun p => p.2 == .error).map (·.1) ++ (far.filter fun p => p.2 == .extentError).map (·.1)
    let lost := far.filter fun p => (fabricReason p.2).isSome
    let farAbsent := far.filter fun p => isAbsent p.2
    if answers.any fun p => p.2 == .held then s.stall x 2 else
    let x := { x with missed := if a.remote s x.lowest then far.any fun p => p.1 == x.lowest else missed }
    let stop := s.countLanes x a (framed.map (·.1))
    if !bad.isEmpty then
      (stop.sampleFailed x a bad 0 (if a.remote s x.lowest then .untranslatedFar else .untranslated)).fault x .extentError (a.mask x bad)
        (keyVal (a.key s x (lowSeat bad)))
    else if !lost.isEmpty && a.waits then
      let i := lowSeat (lost.map (·.1))
      let why := ((lost.find? fun p => p.1 == i).bind fun p => fabricReason p.2).getD 1
      (stop.sampleFailed x a (lost.map (·.1)) 0 (if why = 1 then .lost else .noAsn)).fault x .fabric (a.mask x (lost.map (·.1))) (fabricVal why (a.cap i).pkg 0)
    else
    let addr := fun i =>
      let i := if a.whole then x.lowest else i
      (framed.find? fun p => p.1 == i).elim 0 fun p => p.2 * 65536 + a.offset i % 65536
    let gone := absent.map (·.1) ++ farAbsent.map (·.1)
    let left := if a.whole then (if gone.isEmpty then x.c.seats else []) else x.c.seats.filter fun i => !gone.contains i
    let sound := poisons s { x with c := { x.c with seats := left } } addr
    if !sound.isEmpty then
      (stop.sampleFailed x a (sound.map (·.1)) (addr x.lowest) .home).fault x .poison (sound.map (·.1)) ((sound.find? fun p => p.1 == lowSeat (sound.map (·.1))).elim 0 (·.2))
    else if gone.isEmpty then go s x addr
    else s.parkAbsent x a absent farAbsent fun s x => go s x addr

/-- A memory instruction after its operands are ready: R87, transactions that reach another package, the data watch, then
translation. `poisons` names the lanes that would read poisoned data, each with the address of the unit. -/
def withAccess (s : State) (x : Ctx) (a : Access) (poisons : State → Ctx → (Nat → Nat) → List (Nat × Dword))
    (go : State → Ctx → (Nat → Nat) → State) : State :=
  match s.failing x a with
  | some (c, bad) => s.fault x c (a.mask x bad) (intVal (a.e (lowSeat bad)))
  | none =>
    let s := if s.regs.pkg = (a.cap x.lowest).pkg then s.keepRevoked x.who (s.asnOf x.who) (a.object x.lowest) else s
    let far := s.remoteAborts x a
    let s := s.abort x.who far .remote
    let x := if far.isEmpty then x else s.rest x far
    if x.c.seats.isEmpty then s.lapse x x.c.endsRun else
    let hit := s.watched x a
    let stops := (s.partOf x.who).any fun p => (s.part p).watchCfg.getLsbD 28 && s.trust.dbg
    let due := hit.filter fun i => !x.g.skipStop.contains (2, i)
    if !due.isEmpty && stops then s.debugStop x 2 due 0
    else if !hit.isEmpty && !stops then s.fault x .watch hit (intVal (a.e (lowSeat hit)))
    else if s.fenced x.who then s.stall x 2
    else if (a.ord = 3 ∨ a.ord = 4) && x.plain then s.release x (withAddresses s x a poisons go)
    else withAddresses s x a poisons go

end Sys2Proof.Machine
end

