-- ==== Sys2Proof/Machine/Capability.lean ====
section
/-! DEFINITION. The capability instructions (R89-R92): none can widen bounds or add a permission, and only privileged
code makes a tagged capability from bits. -/

namespace Sys2Proof.Machine

open Sys2Proof

/-- The operands of CAPSET, CAPPERM and CAPADD: K[3] makes the destination a lane quad, K[2] the source (R84). -/
def capOpds (p q : BitVec 4) (dq sq : Bool) : List Opd := capOpd p dq ++ capOpd q sq

/-- The destination of R89: an a-register takes the lowest active lane's result, a quad each lane's own. -/
def Ctx.capDst (x : Ctx) (p : BitVec 4) (quad : Bool) (r : Nat → Cap) : Group :=
  if quad then x.g.modLanes x.c.seats fun i l => l.setRegs (x.wb + 4 * p.toNat) (words 4 (r i).bits.toNat) (r i).tag
  else { x.g with acaps := x.g.acaps.set p.toNat (r x.lowest) }

/-- A capability instruction: each active lane's source gives a result or a fault; the earliest fault in the order of
R87 traps, with the cursor as its address. -/
def capResult (s : State) (x : Ctx) (h : Hdr) (p q : BitVec 4) (dq sq : Bool) (f : Nat → Cap → Except CheckFail Cap) : State :=
  let src := fun i => x.capOf i q sq
  let bad := x.c.seats.filterMap fun i => match f i (src i) with
    | .error e => some (i, e)
    | .ok _ => none
  match firstFail bad with
  | some (c, ls) => s.fault x c ls (BitVec.ofNat 64 (src (lowSeat ls)).cursor)
  | none => s.retire x h (x.capDst p dq fun i => match f i (src i) with
      | .ok r => r
      | .error _ => Cap.null)

/-- CAPSET.bnd and .exact (R90). -/
def boundCap (c : Cap) (n : Nat) (exact_ : Bool) : Except CheckFail Cap :=
  if !c.tag then .error (1, .capTag) else
  match boundsOf c.cursor n with
  | none => .error (3, .capBound)
  | some (g, lo, up) =>
    if lo * 2 ^ g < c.base ∨ c.limit < up * 2 ^ g then .error (3, .capBound)
    else if exact_ && (c.cursor % 2 ^ g != 0 || (c.cursor + n) % 2 ^ g != 0) then .error (3, .capBound)
    else .ok ⟨capBits c.kind c.perm.toNat c.obj g lo up c.cursor, true⟩

/-- CAPSET.seal (R89). -/
def sealCap (c : Cap) : Except CheckFail Cap :=
  if (c.kind = 1 ∨ c.kind = 2) ∧ c.gexp ≤ 22 ∧ c.lower ≤ c.upper then .ok { c with tag := true } else .error (3, .capBound)

def execCapset (h : Hdr) (p q k : BitVec 4) (g : BitVec 7) (s : State) : Result :=
  let dq := k.getLsbD 3
  let sq := k.getLsbD 2
  let op := k.toNat % 4
  withCtx s fun x =>
    if op = 3 && !s.privileged x.who then s.illegal x else
    let given := if op = 1 ∨ op = 2 then [opd g .w64] else []
    (s.ready x (capOpds p q dq sq ++ given) (capOpd q sq ++ given)).getD
      (capResult s x h p q dq sq fun i c =>
        match op with
        | 0 => .ok c
        | 3 => sealCap c
        | _ => boundCap c (x.src64 i g).toNat (op == 2))

def execCapperm (h : Hdr) (p q : BitVec 4) (k : BitVec 2) (g : BitVec 7) (s : State) : Result :=
  let dq := k.getLsbD 1
  let sq := k.getLsbD 0
  withOps s (fun _ => capOpds p q dq sq ++ [opd g .w32]) (reads := fun _ => capOpd q sq ++ [opd g .w32]) fun x =>
    capResult s x h p q dq sq fun i c =>
      if !c.tag then .error (1, .capTag)
      else .ok ⟨capBits c.kind (c.perm &&& (x.src32 i g).setWidth 8).toNat c.obj c.gexp c.lower c.upper c.cursor, true⟩

def execCapadd (h : Hdr) (p q k : BitVec 4) (g : BitVec 7) (s : State) : Result :=
  let dq := k.getLsbD 3
  let sq := k.getLsbD 2
  withOps s (fun _ => capOpds p q dq sq ++ [opd g .w64]) (reads := fun _ => capOpd q sq ++ [opd g .w64]) fun x =>
    capResult s x h p q dq sq fun i c =>
      let v := (x.src64 i g).toNat
      .ok (c.setCursor (if k.toNat % 4 = 1 then v else c.cursor + v))

/-- The field of R91. -/
def capField (c : Cap) (f : Nat) : Nat :=
  match f with
  | 0 => c.base | 1 => c.limit | 2 => c.cursor | 3 => c.limit + 2 ^ 84 - c.base | 4 => c.perm.toNat | 5 => c.kind
  | 6 => c.tag.toNat | 7 => c.obj | _ => c.gexp

def execCapget (h : Hdr) (p q : BitVec 4) (quad : Bool) (g : BitVec 7) (s : State) : Result :=
  compute s h g (wide (p.toNat < 4)) (capOpd q quad) fun x i => capField (x.capOf i q quad) p.toNat

/-- CAPCHK (R92): the checks of R87 as a question. -/
def execCapchk (h : Hdr) (q : BitVec 4) (quad : Bool) (g : BitVec 7) (s : State) : Result :=
  withOps s (fun _ => capOpd q quad ++ [opd g .w32]) fun x =>
    s.retire x h (x.p6 x.g fun i =>
      let c := x.capOf i q quad
      let w := x.src32 i g
      (s.check x.who x.g.team c c.cursor (w.toNat / 256) [1, 2] (w.setWidth 8) true).isNone)

end Sys2Proof.Machine
end

