-- ==== Sys2Proof/Machine/Control.lean ====
section
/-! DEFINITION. Branches, calls, reconvergence and YIELD, the window base and index registers (R48-R53, R55-R58). EXIT
stands with the life of a group, in Groups.lean. -/

namespace Sys2Proof.Machine

open Sys2Proof

/-- The address of the next instruction in sequence. -/
def Ctx.next (x : Ctx) : Dword := x.c.addr + BitVec.ofNat 64 x.c.len

/-- The target of a BR word: the address of the word that carries the OP field plus 4 * OFS (R11). -/
def Ctx.target (x : Ctx) (h : Hdr) (ofs : BitVec 19) : Dword :=
  x.c.addr + BitVec.ofNat 64 (x.c.len - 4) + BitVec.ofInt 64 (4 * brOffset h ofs)

/-- Lanes whose condition holds move to the target, the others go on; a move away from the next word ends the run (R48). -/
def Ctx.branch (x : Ctx) (g : Group) (cond : BitVec 4) (t : Dword) : Group :=
  g.modLanes x.c.seats fun i l => { l with pc := if (x.g.lane i).cond cond then t else x.next }

/-- The seats that take a branch. -/
def Ctx.takers (x : Ctx) (cond : BitVec 4) : List Nat := x.c.seats.filter fun i => (x.g.lane i).cond cond

def Ctx.movesAway (x : Ctx) (cond : BitVec 4) (t : Dword) : Bool := !(x.takers cond).isEmpty && t != x.next

def execNop (h : Hdr) (s : State) : Result := withCtx s fun x => s.retire x h x.g

def execBra (h : Hdr) (cond : BitVec 4) (ofs : BitVec 19) (s : State) : Result :=
  withCtx s fun x =>
    let t := x.target h ofs
    s.done x (x.branch x.g cond t) (h.b || x.movesAway cond t)

/-- The words of a LOOP body from its target through the LOOP, when it has at most 48 (R49, R146). -/
def State.loopBody (s : State) (x : Ctx) (t : Dword) : Option LoopBody :=
  let last := x.c.addr.toNat + x.c.len - 4
  let n := (last - t.toNat) / 4 + 1
  if t.toNat ≤ last ∧ n ≤ 48 then
    some ⟨t, (List.range n).map fun j => s.instrWord x.who (t + BitVec.ofNat 64 (4 * j))⟩
  else none

/-- LOOP: a BRA whose body the loop buffers of the lanes that take it hold, while the broadcast serves them (R49, R146). -/
def execLoop (h : Hdr) (cond : BitVec 4) (ofs : BitVec 19) (s : State) : Result :=
  withCtx s fun x =>
    let t := x.target h ofs
    let g := x.branch x.g cond t
    let g := if !x.solo && x.c.words.isNone then
        match s.loopBody x t with
        | some b => g.modLanes (x.takers cond) fun _ l => { l with loopBuf := some b }
        | none => g
      else g
    s.done x g (h.b || x.movesAway cond t)

/-- The link pair of CALL: v94:v95 (R48, R51). -/
def linkOpd : Opd := (94#7, 2)

/-- A link written in the lanes that take a call, a register result (R51). -/
def Ctx.link (x : Ctx) (g : Group) (n : Bool) (d : Code) (seats : List Nat) : Group :=
  g.modLanes seats fun _ l =>
    let l := l.push x.next
    if n then l else l.setRegs (x.wb + d.toNat) (words 2 x.next.toNat) false

def execCall (h : Hdr) (cond : BitVec 4) (ofs : BitVec 19) (s : State) : Result :=
  withOps s (fun _ => [linkOpd]) (reads := fun _ => []) fun x =>
    let t := x.target h ofs
    s.done x (x.branch (x.link x.g h.n 94#7 (x.takers cond)) cond t) (h.b || x.movesAway cond t)

/-- BRX and RET: each lane goes to its own 64-bit target; a misaligned one traps and no lane moves (R50). -/
def jumpTo (s : State) (x : Ctx) (h : Hdr) (a : Code) (link : Option Code) : State :=
  let t := fun i => x.src64 i a
  let bad := x.c.seats.filter fun i => (t i).toNat % 4 != 0
  if !bad.isEmpty then s.fault x .misaligned bad (t (lowSeat bad))
  else
    let g := match link with
      | some d => x.link x.g h.n d x.c.seats
      | none => x.g
    s.done x (g.modLanes x.c.seats fun i l => { l with pc := t i })
      (h.b || x.c.seats.any fun i => t i != x.next)

def execBrx (h : Hdr) (d a : BitVec 7) (call : Bool) (s : State) : Result :=
  withOps s (fun _ => opd a .w64 :: (if call then [opd d .w64] else [])) (reads := fun _ => [opd a .w64]) fun x =>
    jumpTo s x h a (if call then some d else none)

def execRet (h : Hdr) (a : BitVec 7) (s : State) : Result :=
  withOps s (fun _ => [opd a .w64]) fun x => jumpTo s x h a none

def execBsync (h : Hdr) (ofs : BitVec 19) (s : State) : Result :=
  withCtx s fun x => s.retire x h (x.g.bsyncPush (x.target h ofs) x.c.seats)

/-- YIELD ends the run; the broadcast moves to the oldest waiting path, if there is one (R53). -/
def execYieldRun (h : Hdr) (s : State) : Result :=
  withCtx s fun x => s.done x (x.advance { x.g with yieldDue := !x.solo }) (h.b || !x.solo)

/-! ### Window base and index registers (R56-R58) -/

def execWbase (h : Hdr) (a : BitVec 7) (imm : BitVec 9) (s : State) : Result :=
  withOps s (fun _ => [opd a .w32]) (lanes := fun x => x.readers) fun x =>
    let w : Int := (x.uni32 a).toNat + 32 * riImm h imm
    if w < 0 ∨ (x.g.alloc : Int) ≤ w ∨ w % 32 ≠ 0 then s.fault x .window x.c.seats (intVal w)
    else s.retire x h { x.g with wb := w.toNat }

/-- SETX from a packed word (R57). -/
def indexOf (u : Word) (imm : Int) : IndexReg := ⟨BitVec.ofInt 32 (u.toNat / 2 ^ 21 + imm), u.toNat % 1024, u.toNat / 1024 % 2048⟩

def execSetx (h : Hdr) (xn : BitVec 2) (a : BitVec 7) (imm : BitVec 9) (s : State) : Result :=
  withOps s (fun _ => [opd a .w32]) fun x =>
    s.retire x h (x.g.modLanes x.c.seats fun i l => { l with idx := l.idx.set xn.toNat (indexOf (x.src32 i a) (riImm h imm)) })

/-- The register t that MOVX and MOVXW reach in a lane (R58). -/
def Ctx.indexed (x : Ctx) (i : Nat) (xn : BitVec 2) (imm : Int) : Int :=
  ((x.g.lane i).idx.getD xn.toNat ⟨0, 0, 0⟩).value.toInt + imm

/-- MOVX and MOVXW in the order of R58: INDEX_BOUND, then WINDOW for the register reached, then the fixed operand and the
access when no lane is held at either register. MOVX (`loads`) reads the register it reaches, MOVXW the fixed one. -/
def indexAccess (s : State) (xn : BitVec 2) (imm : Int) (fixed : Opd) (loads : Bool) (f : Ctx → (Nat → Nat) → State) : Result :=
  withCtx s fun x =>
    let t := fun i => x.indexed i xn imm
    let r := fun i => (x.g.lane i).idx.getD xn.toNat ⟨0, 0, 0⟩
    let bad := x.c.seats.filter fun i => decide (t i < (r i).base) || decide (((r i).limit : Int) ≤ t i)
    if !bad.isEmpty then s.fault x .indexBound bad (intVal (t (lowSeat bad)))
    else
      let far := x.c.seats.filter fun i => decide ((x.g.alloc : Int) ≤ t i)
      if !far.isEmpty then s.fault x .window far (intVal (t (lowSeat far)))
      else (s.ready x [fixed] (if loads then [] else [fixed])).getD
        (if x.c.seats.any fun i => x.g.heldBy [i] [(t i).toNat] then s.stall x 3
         else if x.c.seats.any fun i => s.owed x.who [i] [(t i).toNat] then s.stall x 2
         else
           let poor := x.c.seats.filter fun i => loads && (x.failing [(t i).toNat] i).isSome
           if !poor.isEmpty then s.fault x .poison poor (intVal (t (lowSeat poor)))
           else f x fun i => (t i).toNat)

def execMovx (h : Hdr) (d : BitVec 7) (xn : BitVec 2) (imm : BitVec 9) (s : State) : Result :=
  indexAccess s xn (riImm h imm) (opd d .w32) true fun x t =>
    s.retire x h (x.dst h.n d .w32 fun i => ((x.g.lane i).regs.getD (t i) Reg.zero).val.toNat)

def execMovxw (h : Hdr) (xn : BitVec 2) (a : BitVec 7) (imm : BitVec 9) (s : State) : Result :=
  indexAccess s xn (riImm h imm) (opd a .w32) false fun x t =>
    s.retire x h (x.g.modLanes x.c.seats fun i l =>
      let v := x.src32 i a
      let l := l.push (v.setWidth 64)
      if h.n then l else l.setReg (t i) v false)

end Sys2Proof.Machine
end

