-- ==== Sys2Proof/Machine/CrossLane.lean ====
section
/-! DEFINITION. Cross-lane instructions (R72-R81): they work within companion sets, lanes named by logical lane. -/

namespace Sys2Proof.Machine

open Sys2Proof

def Lane.origin (l : Lane) : Nat := l.thread.getD 0 / 32

/-- The companion set of a seat's lane, in the order of logical lanes (R72). -/
def Ctx.companions (x : Ctx) (i : Nat) : List Nat :=
  x.g.byLogical (x.c.seats.filter fun j => (x.g.lane j).origin == (x.g.lane i).origin)

/-- A ballot of seats by logical lane. -/
def Ctx.ballot (x : Ctx) (seats : List Nat) : Nat := (x.g.activeMask seats).toNat

/-- The companion that SHFL names (R73). -/
def Ctx.named (x : Ctx) (i : Nat) (m : BitVec 2) (b : Nat) : Option Nat :=
  let l := (x.g.lane i).logical
  let n : Option Nat := match m.toNat with
    | 0 => some b
    | 1 => if b ≤ l then some (l - b) else none
    | 2 => some (l + b)
    | _ => some (l ^^^ b)
  match n with
  | none => none
  | some n => if n ≤ 31 then (x.companions i).find? fun j => (x.g.lane j).logical == n else none

def execShfl (h : Hdr) (d a b : BitVec 7) (m : BitVec 2) (s : State) : Result :=
  notSolo s (computeP s h d .w32 [opd a .w32, opd b .w32] 6
    (fun x i => match x.named i m (x.src32 i b).toNat with
      | some j => (x.src32 j a).toNat
      | none => 0)
    (fun x i => (x.named i m (x.src32 i b).toNat).isSome))

/-- The word and predicate of VOTE (R74). -/
def Ctx.vote (x : Ctx) (i : Nat) (a b : Code) (m : BitVec 2) : Nat × Bool :=
  let c := x.companions i
  let v := fun j => x.src32 j a &&& x.src32 j b
  let q := c.filter fun j => v j != 0
  let same := c.filter fun j => v j == v i
  match m.toNat with
  | 0 => (x.ballot q, q.length == c.length)
  | 1 => (x.ballot q, !q.isEmpty)
  | 2 => (x.ballot same, same.length == c.length)
  | _ => (q.length, v i != 0)

def execVote (h : Hdr) (d a b : BitVec 7) (m : BitVec 2) (s : State) : Result :=
  notSolo s (computeP s h d .w32 [opd a .w32, opd b .w32] 6 (fun x i => (x.vote i a b m).1) (fun x i => (x.vote i a b m).2))

/-! ### REDUCE and SCAN (R75-R78) -/

/-- Whether a type of R75 is a float, and its format. -/
def floatType (t : BitVec 3) : Option Fmt :=
  match t.toNat with | 4 => some f32 | 5 => some f64 | _ => none

def signedScan (t : BitVec 3) : Bool := t == 0#3 || t == 2#3

/-- The identity of an operation on a type (R75). -/
def scanIdentity (op t : BitVec 3) : Nat :=
  let w := bitsOf (reduceWidth t)
  match op.toNat with
  | 0 => 0
  | 1 => match floatType t with
    | some f => f.infMag
    | none => if signedScan t then 2 ^ (w - 1) - 1 else 2 ^ w - 1
  | 2 => match floatType t with
    | some f => f.code true f.infMag
    | none => if signedScan t then 2 ^ (w - 1) else 0
  | 3 => 2 ^ w - 1
  | _ => 0

/-- One combining step with the flags it raises (R75, R77). -/
def scanStep (mode : Nat) (op t : BitVec 3) (p q : Nat) : Coded :=
  let w := bitsOf (reduceWidth t)
  match floatType t with
  | some f => match op.toNat with
    | 0 => f.add mode (f.val p) (f.val q)
    | 1 => f.minmax false p q
    | _ => f.minmax true p q
  | none =>
    let r := readInt w (signedScan t)
    let o : Nat := match op.toNat with
      | 0 => (p + q) % 2 ^ w
      | 1 => if r p ≤ r q then p else q
      | 2 => if r p ≤ r q then q else p
      | 3 => p &&& q
      | 4 => p ||| q
      | _ => p ^^^ q
    (o, 0)

/-- The result of a lane from the values it combines, in logical lane order; a lone term passes through (R76, R77). -/
def scanFold (mode : Nat) (op t : BitVec 3) : List Nat → Coded
  | [] => (scanIdentity op t, 0)
  | v :: vs => vs.foldl (fun a q => let r := scanStep mode op t a.1 q; (r.1, a.2 ||| r.2)) (v, 0)

/-- The contributors of a lane: companions whose participation predicate is true (R76). -/
def Ctx.contributors (x : Ctx) (i : Nat) (p : BitVec 2) : List Nat :=
  (x.companions i).filter fun j => (x.g.lane j).pred (4 + p.toNat)

/-- REDUCE takes them all; SCAN those at or below the lane, and .excl those below (R76). -/
def Ctx.scanned (x : Ctx) (i : Nat) (p : BitVec 2) (scan excl : Bool) : List Nat :=
  if !scan then x.contributors i p
  else (x.contributors i p).filter fun j =>
    if excl then decide ((x.g.lane j).logical < (x.g.lane i).logical) else decide ((x.g.lane j).logical ≤ (x.g.lane i).logical)

def reduceOp (s : State) (h : Hdr) (d a : Code) (op t : BitVec 3) (p : BitVec 2) (scan excl : Bool) : Result :=
  let w := reduceWidth t
  notSolo s (withOps s (fun _ => [opd a w, opd d w]) (reads := fun _ => [opd a w]) fun x =>
    let r := fun i => scanFold x.u.fpRM op t ((x.scanned i p scan excl).map fun j => x.srcN j a w)
    let g := x.raise (x.dst h.n d w fun i => (r i).1) d fun i => (r i).2
    s.retire x h { g with gstat := x.c.seats.any fun i => (x.contributors i p).isEmpty })

def execReduce (h : Hdr) (d a : BitVec 7) (op t : BitVec 3) (p : BitVec 2) (s : State) : Result :=
  reduceOp s h d a op t p false false
def execScan (h : Hdr) (d a : BitVec 7) (op t : BitVec 3) (excl : Bool) (p : BitVec 2) (s : State) : Result :=
  reduceOp s h d a op t p true excl

/-! ### MATCH and MAPGET (R79, R80) -/

/-- The word and predicate of MATCH. -/
def Ctx.matching (x : Ctx) (i : Nat) (a : Code) (wd : Width) (all : Bool) : Nat × Bool :=
  let c := x.companions i
  let same := c.filter fun j => x.srcN j a wd == x.srcN i a wd
  if all then (if same.length = c.length then (x.ballot c, true) else (0, false))
  else (x.ballot same, same.head? == some i)

def execMatchv (h : Hdr) (d a : BitVec 7) (w all : Bool) (s : State) : Result :=
  notSolo s (computeP s h d .w32 [opd a (wide w)] 6 (fun x i => (x.matching i a (wide w) all).1)
    (fun x i => (x.matching i a (wide w) all).2))

/-- The remap table as MAPGET reads it (R80, R153). -/
def Group.mapget (g : Group) (seat : Bool) (u : Nat) : Option Nat :=
  if seat then (List.range g.lanes.length).find? fun i => (g.lane i).thread == some u
  else if u < 32 then (g.lane u).thread else none

def execMapget (h : Hdr) (d a : BitVec 7) (seat : Bool) (s : State) : Result :=
  notSolo s (computeP s h d .w32 [opd a .w32] 6 (fun x i => (x.g.mapget seat (x.src32 i a).toNat).getD 0xFFFFFFFF)
    (fun x i => (x.g.mapget seat (x.src32 i a).toNat).isSome))

end Sys2Proof.Machine
end

