-- ==== Sys2Proof/Machine/Fetch.lean ====
section
/-! DEFINITION. Fetching an instruction (R354) and choosing what issues next: control cores, the arbitration of a slot
(R342), runs (R137, R143, R145), breakpoints (R416), and the hardware's free order among the package's agents. -/

namespace Sys2Proof.Machine

open Sys2Proof

/-- What a fetch of one word meets. -/
inductive Fetched where
  | word (v : Word)
  | fails (c : Cause) (v : Dword)
  | absent (k : PageKey) (entryAt : Nat) (entry : Dword)
  | waits      -- a slice holds one of its reads back (R238, R265, R316)
  deriving DecidableEq, Repr

/-- The object entry of an address space, or none when the space is not valid (R359). -/
def State.objectEntry (s : State) (asn obj : Nat) : Option Nat :=
  let ast := s.regs.astBase + 32 * asn
  if s.regs.astLen ≤ asn ∨ s.num (ast + 0xC) 4 % 2 = 0 ∨ s.num (ast + 8) 4 ≤ obj then none
  else some (s.num (s.num ast 8 + 16 * obj) 16)

/-- An instruction cache of 128 KiB takes a line, and when it is full gives up another, at the hardware's choice (R231). -/
def State.icacheFill (s : State) (w : Who) (line : Nat) : State :=
  let m := s.icache w
  let l : CodeLine := ⟨s.bytes (128 * line) 128, (List.range 4).filter fun j => s.poison.contains (4 * line + j)⟩
  if m.length < 1024 then s.setIcache w (m.set line l)
  else
    let (k, s) := s.pick
    s.setIcache w ((m.erase ((m.map (·.1)).getD (k % m.length) 0)).set line l)

/-- The word of code at an address: the checks of R354 in their order, then its translation and its poison (R243). What the
core's instruction cache does not hold is a read at the home slice, whose line the cache may keep (R302). -/
def State.fetchAt (s : State) (w : Who) (a : Dword) : Fetched × State :=
  let asn := s.asnOf w
  let obj := a.toNat / 2 ^ 42 % 2 ^ 20
  let off := a.toNat % 2 ^ 42
  let k : PageKey := ⟨s.regs.pkg, asn, obj, off / 65536⟩
  if a.toNat / 2 ^ 62 ≠ 0 then (.fails .capBound a, s)
  else if s.revoked w asn obj then (.fails .capRevoked a, s)
  else match s.objectEntry asn obj with
    | none => (.fails .capPerm a, s)
    | some o =>
      if o / 2 ^ 126 ≠ 3 then (.fails .capPerm a, s)
      else if 65536 * (o / 2 ^ 100 % 2 ^ 26) < off + 4 then (.fails .capBound a, s)
      else match s.lookup asn obj (off / 65536) with
        | (.error, s) => (.fails .extentError (keyVal k), s)
        | (.absent at_ e, s) => (.absent k at_ e, s)
        | (.held, s) => (.waits, s)
        | (.frame f, s) =>
          let p := f * 65536 + off % 65536
          let ill := Fetched.fails .poison (BitVec.ofNat 64 (off / 32 * 32))
          match (s.icache w).get? (p / 128) with
          | some l => (if l.poison.contains (p % 128 / 32) then ill else .word (s.codeAt w p), s)
          | none =>
            if !s.mayTake (p / 128) false none then (.waits, s.summon (p / 128) false none) else
            let s := ((s.counted k s.regs.pkg).atHome w p (some k) fun s => (s.txConflict none (p / 128) false).dirRead (p / 128) none)
            let r := if s.poisoned p 4 then ill else .word (s.codeAt w p)
            let (b, s) := s.bit
            (r, if b then s.icacheFill w (p / 128) else s)

/-- A fetch waits for a slice: the active set issues again (R137). -/
def State.fetchAgain (s : State) (w : Who) (q : IssueSet) (seats : List Nat) : State :=
  s.modGroup w fun g => { g.phase 2 s.now with issueQ := if isSolo w then [] else { q with seats } :: g.issueQ, stalled := true }

/-- A path whose code page is not resident parks (R363). -/
def State.parkPath (s : State) (w : Who) (seats : List Nat) (k : PageKey) (entryAt : Nat) (entry : Dword) : State :=
  let (t, s) := s.park w k s.regs.pkg entryAt entry seats.length
  let s := s.modGroup w fun g => (g.modLanes seats fun _ l => { l with mode := .parked k t }).endIssue s.now
  { s with agenda := s.agenda ++ (s.group? w).elim [] fun g => g.boundaryEvents w }

/-- The instruction of fetched words, decoded and judged (R32). -/
def judge (bs : List Byte) : Instr × Nat :=
  match decode bs with
  | .ok (i, n) => (if wellFormed i then i else .illegalEncoding, n)
  | .error _ => (.illegalEncoding, 4)

/-- The instruction of an active set, from its fetch or from its lanes' loop buffers (R146). A second word is fetched for a
prefix before the two are judged as one instruction: DESIGN CHOICE where that fetch fails and the prefix itself has B or N
set, for the spec does not say which comes first (log 86). -/
def State.fetchIssue (s : State) (w : Who) (q : IssueSet) (seats : List Nat) : Option Instr × State :=
  let a := q.addr
  let put := fun (s : State) (w1 w2 : Word) (n : Nat) => { s with cur := some ⟨w, a, w1, w2, n, seats, q.words⟩ }
  let run := fun (s : State) (w1 w2 : Word) (bs : List Byte) => let r := judge bs; (some r.1, put s w1 w2 r.2)
  match q.words with
  | some (w1, w2) =>
    if isPfxWord w1.toNat then run s w1 w2 (wordBytes w1.toNat ++ wordBytes w2.toNat) else run s w1 0 (wordBytes w1.toNat)
  | none =>
    match s.fetchAt w a with
    | (.fails c v, s) =>
      let w1 := s.instrWord w a
      (some (.instructionFetchFault c v), put s w1 (if isPfxWord w1.toNat then s.instrWord w (a + 4) else 0) 4)
    | (.absent k at_ e, s) => (none, s.parkPath w seats k at_ e)
    | (.waits, s) => (none, s.fetchAgain w q seats)
    | (.word w1, s) =>
      if !isPfxWord w1.toNat then run s w1 0 (wordBytes w1.toNat)
      else match s.fetchAt w (a + 4) with
        | (.fails c v, s) => (some (.instructionFetchFault c v), put s w1 (s.instrWord w (a + 4)) 4)
        | (.absent k at_ e, s) => (none, s.parkPath w seats k at_ e)
        | (.waits, s) => (none, s.fetchAgain w q seats)
        | (.word w2, s) => run s w1 w2 (wordBytes w1.toNat ++ wordBytes w2.toNat)

/-! ### Breakpoints (R416) -/

/-- The lanes of an active set whose threads a breakpoint names. -/
def State.breakSeats (s : State) (w : Who) (g : Group) (a : Dword) (seats : List Nat) : List Nat :=
  if !s.trust.dbg then [] else
  match s.partOf w with
  | none => []
  | some p => seats.filter fun i => !g.skipStop.contains (1, i) && (s.part p).breaks.any fun b =>
      b.addr == a && b.names w g &&
      (isSolo w || (b.team.all (fun t => (s.teamOf g).any (fun v => v.index == t)) && b.thread.all fun t => (g.lane i).thread == some t))

/-- Whether the steep timer of a group has reached PERIOD (R149). -/
def Group.steepReached (g : Group) (now : Nat) : Bool :=
  g.place.isSome && !g.away && !g.ended && g.steepRuns && decide (g.period ≤ g.steepCount now)

/-! ### Who issues -/

/-- The next active set of an issue executes. Sets whose lanes have left the address meanwhile are passed over. -/
def State.issueFrom (s : State) (w : Who) (g : Group) : List IssueSet → Option Instr × State
  | [] =>
    let g := { g with issueQ := [] }.closeRun s.now
    (none, { s with agenda := s.agenda ++ g.boundaryEvents w }.setGroup w g)
  | q :: rest =>
    let seats := q.seats.filter fun i => (g.lane i).serves && (g.lane i).pc == q.addr
    if seats.isEmpty then s.issueFrom w g rest
    else
      let s := if g.stalled then s else s.leaveStep w
      let stops := s.breakSeats w g q.addr seats
      let g := { g with issueQ := rest, stalled := false }
      let s := s.setGroup w g
      if stops.isEmpty then s.fetchIssue w q seats
      else
        let c : Issue := ⟨w, q.addr, s.instrWord w q.addr, 0, 4, seats, q.words⟩
        (none, s.debugStop ⟨w, g, c, 0, g.uniforms, false⟩ 1 stops 0)

/-- Strong accesses of the paths that the broadcast has left are still to be performed (R122). -/
def State.crossed (s : State) (w : Who) (g : Group) : Bool :=
  s.reqs.any fun r => r.2.who == w && r.2.strong && !r.2.done && g.crossing.contains r.2.seat

/-- The active sets that an issue can serve now: the broadcast's new path may have to wait (R122), and loop buffers serve their
lanes meanwhile. -/
def State.setsNow (s : State) (w : Who) (g : Group) : List IssueSet :=
  if s.crossed w g then g.nextSets.filter fun q => q.words.isSome else g.nextSets

/-- A new issue: its active sets, over the uniform registers that their sources read (R139, R143). -/
def State.beginIssue (s : State) (w : Who) (g : Group) : Group × List IssueSet :=
  let g := g.takeBroadcast s.now
  let sets := s.setsNow w g
  ({ g with beats := [], snap := if 1 < sets.length then some g.uniforms else none, crossing := if s.crossed w g then g.crossing else [] }, sets)

/-- Issues for a thread: the next active set of its issue in progress, or a new issue, which waits while its one path may not
begin (R122, R143). -/
def State.issueThread (s : State) (w : Who) (g : Group) : Option Instr × State :=
  if !g.issueQ.isEmpty then s.issueFrom w g g.issueQ
  else
    let (g, sets) := s.beginIssue w g
    if sets.isEmpty && s.crossed w g then (none, s.setGroup w (g.phase 2 s.now)) else s.issueFrom w g sets

/-- An FP64 arithmetic instruction, which takes two clocks per beat (R139). -/
def Instr.isFp64 : Instr → Bool
  | .fadd _ _ _ _ m | .fsub _ _ _ _ m | .fmul _ _ _ _ m | .fmin _ _ _ _ m | .fmax _ _ _ _ m => m == 1#2
  | .ffma _ _ _ _ m | .fdiv _ _ _ _ m | .fsqrt _ _ _ m => m == 1#2
  | _ => false

/-- The beats in which an instruction of an issue passes: one for each eight seats that hold a served lane, and a second one
beside each for FP64 arithmetic; none where its fetch has failed (R139). -/
def Instr.beatsOf (i : Instr) (seats : List Nat) : List Nat :=
  let l := seats.foldl (fun l n => sInsert l (n / 8)) []
  match i with
  | .instructionFetchFault _ _ => []
  | _ => if Instr.isFp64 i then l ++ l.map (4 + ·) else l

/-- An instruction issues: the slot is taken for the beats that no other active set of the issue has had, and the group's
clocks of them are of ISSUE. DESIGN CHOICE: clocks of an open run beyond them, in which the slot waits for the next
instruction, are of MEMORY, as those of a fetch (R139, R408, log 106). -/
def State.takeBeats (s : State) (core slot k : Nat) (l : List Nat) : State :=
  match s.groups.get? k with
  | none => s
  | some g =>
    let new := l.filter fun b => !g.beats.contains b
    let n := new.length
    let c := s.core core
    (s.setCore core { c with busy := c.busy.set slot (max (c.busy.getD slot 0) s.now + n) }).setGroup (.grp k)
      (let g := g.phase 2 s.now; { g.charge 0 n with paid := g.paid + n, beats := g.beats ++ new })

/-- Whether a control core issues. -/
def Ctl.runs (k : Ctl) : Bool :=
  k.started && !k.mappedOut && k.thread.wait.isNone && !k.thread.dbgStop && (k.thread.lane 0).serves

/-- A group that has not left arbitration (R342). -/
def Group.arbitrates (g : Group) : Bool :=
  g.wait.isNone && !g.dbgStop && !g.preempted && !g.ended && !g.nextSets.isEmpty

/-- A resident group's seat on a slot. -/
def Group.onSlot (g : Group) (core slot : Nat) : Bool := g.place.any fun p => p.core == core && p.slot == slot

def State.priorityOf (s : State) (g : Group) : Nat :=
  match s.teams.get? g.team with
  | some t => match s.grids.get? t.grid with
    | some d => d.desc.priority
    | none => 0
  | none => 0

/-- The order of R342: whether the first group goes before the second. -/
def State.before (s : State) (a b : Group) : Bool :=
  let late := fun g : Group => decide (65536 < s.now - g.readySince)
  let seat := fun g : Group => g.place.elim 0 (·.seat)
  if late a != late b then late a
  else if late a && a.readySince != b.readySince then decide (a.readySince < b.readySince)
  else if s.priorityOf a != s.priorityOf b then decide (s.priorityOf b < s.priorityOf a)
  else if a.lastIssue != b.lastIssue then decide (a.lastIssue < b.lastIssue)
  else decide (seat a < seat b)

/-- The winner among the ready groups of a slot. -/
def State.winner (s : State) (core slot : Nat) : Option (Nat × Group) :=
  (s.groups.filter fun e => e.2.onSlot core slot && e.2.arbitrates && !(s.setsNow (.grp e.1) e.2).isEmpty).foldl
    (fun best e => match best with
      | none => some e
      | some b => if s.before e.2 b.2 then some e else some b) none

/-- A group wins its slot: READY and IDLE are charged and a run opens (R22, R408, R409). -/
def Group.openRun (g : Group) (now : Nat) : Group :=
  { (g.phase 2 now).settle with runOpen := true, served := [], endPending := false, issueQ := [], snap := none }

/-- The group of a slot's open run (R137). -/
def State.running (s : State) (core slot : Nat) : Option (Nat × Group) :=
  (((s.core core).slots.getD slot none).bind fun k => (s.groups.get? k).map fun g => (k, g)).filter
    fun (e : Nat × Group) => e.2.runOpen && e.2.onSlot core slot && e.2.wait.isNone && !e.2.dbgStop

/-- A group of a slot issues: the steep timer's expiry comes before the issue that it has come due at (R149), and the slot
is taken for the beats of the issue (R139). -/
def State.issueGroup (s : State) (core slot k : Nat) (g : Group) : Option Instr × State :=
  if g.steepReached s.now then (some (.steepExpiry k), s)
  else
    match s.issueThread (.grp k) g with
    | (none, s) => (none, s)
    | (some i, s) => (some i, s.takeBeats core slot k (Instr.beatsOf i (s.cur.elim [] fun c => c.seats)))

/-- A slot issues: the run it has open, or the run of the group that wins it (R137, R342), once the beats of its last issue
are over. -/
def State.issueSlot (s : State) (core slot : Nat) : Option Instr × State :=
  if s.now < (s.core core).busy.getD slot 0 then (none, s) else
  match s.running core slot with
  | some (k, g) =>
    if g.issueQ.isEmpty && g.nextSets.isEmpty then
      let g := { g.closeRun s.now with readySince := s.now }
      (none, { s with agenda := s.agenda ++ g.boundaryEvents (.grp k) }.setGroup (.grp k) g)
    else s.issueGroup core slot k g
  | none =>
    match s.winner core slot with
    | none => (none, s)
    | some (k, g) =>
      let c := s.core core
      let g := g.openRun s.now
      let s := (s.setCore core { c with slots := c.slots.set slot (some k) }).setGroup (.grp k) g
      s.issueGroup core slot k g

/-- A control core issues. -/
def State.issueCtl (s : State) (n : Nat) : Option Instr × State :=
  let k := s.ctl n
  if s.boot == .running && !s.health.halted && k.runs then
    let g := { k.thread with runOpen := true, issueQ := [] }
    s.issueThread (.ctl n) g
  else (none, s)

/-! ### The order among agents (log 2) -/

/-- Who can issue: the control cores that run, the slots that seat a group, and the package's engines. -/
def State.issuers (s : State) : List Turn :=
  ((s.ctls.filter fun e => e.2.runs).map fun (e : Nat × Ctl) => Turn.ctl e.1) ++
  (s.groups.filterMap fun (e : Nat × Group) => e.2.place.map fun p => Turn.slot p.core p.slot).foldl
    (fun l t => if l.contains t then l else l ++ [t]) [] ++ [Turn.engine]

/-- The turn passes on, round robin, or as many places further as the hardware chooses. -/
def State.passTurn (s : State) : State :=
  let (k, s) := s.pick
  let l := s.issuers
  let at_ := (l.findIdx? (· == s.turn)).elim 0 (· + 1)
  { s with turn := l.getD ((at_ + k) % l.length) .engine }

end Sys2Proof.Machine
end

