-- ==== Sys2Proof/Machine/Float.lean ====
section
/-! DEFINITION. Floating-point, conversion, packing and format instructions (R175-R187), opcodes 0x40-0x56. -/

namespace Sys2Proof.Machine

open Sys2Proof

/-- A float operand's value in a lane (R175). -/
def Ctx.fpVal (x : Ctx) (i : Nat) (c : Code) (f : Fmt) (w : Width) : Val := f.val (f.codeOf (x.srcN i c w))

/-- An arithmetic instruction on two sources (R177). -/
def fpOp2 (s : State) (h : Hdr) (d a b : Code) (m : BitVec 2) (op : Fmt → Nat → Val → Val → Coded) : Result :=
  let w := fpWidth m
  let f := fpType m
  computeF s h d w [opd a w, opd b w] fun x i => op f (x.seen.mode h.ord) (x.fpVal i a f w) (x.fpVal i b f w)

def execFadd (h : Hdr) (d a b : BitVec 7) (m : BitVec 2) (s : State) : Result := fpOp2 s h d a b m Fmt.add
def execFsub (h : Hdr) (d a b : BitVec 7) (m : BitVec 2) (s : State) : Result := fpOp2 s h d a b m Fmt.sub
def execFmul (h : Hdr) (d a b : BitVec 7) (m : BitVec 2) (s : State) : Result := fpOp2 s h d a b m Fmt.mul
def execFdiv (h : Hdr) (d a b : BitVec 7) (m : BitVec 2) (s : State) : Result := fpOp2 s h d a b m Fmt.div

/-- FFMA with its third source (R46, R177). -/
def execFfma (h : Hdr) (d a b : BitVec 7) (m : BitVec 2) (s : State) : Result :=
  let w := fpWidth m
  let f := fpType m
  let c := h.thirdCode d
  computeF s h d w [opd a w, opd b w, opd c w] fun x i =>
    f.fma (x.seen.mode h.ord) (x.fpVal i a f w) (x.fpVal i b f w) (x.fpVal i c f w)

/-- FMIN and FMAX (R178). -/
def fpMinMax (s : State) (h : Hdr) (d a b : Code) (m : BitVec 2) (isMax : Bool) : Result :=
  let w := fpWidth m
  let f := fpType m
  computeF s h d w [opd a w, opd b w] fun x i => f.minmax isMax (f.codeOf (x.srcN i a w)) (f.codeOf (x.srcN i b w))

def execFmin (h : Hdr) (d a b : BitVec 7) (m : BitVec 2) (s : State) : Result := fpMinMax s h d a b m false
def execFmax (h : Hdr) (d a b : BitVec 7) (m : BitVec 2) (s : State) : Result := fpMinMax s h d a b m true

def execFsqrt (h : Hdr) (d a : BitVec 7) (m : BitVec 2) (s : State) : Result :=
  let w := fpWidth m
  let f := fpType m
  computeF s h d w [opd a w] fun x i => f.sqrt (x.seen.mode h.ord) (x.fpVal i a f w)

/-- An approximation (R179). -/
def fpApprox (s : State) (h : Hdr) (d a : Code) (m : BitVec 2) (fn : Config.ApproxFn) : Result :=
  let f := fpType m
  computeF s h d .w32 [opd a .w32] fun x i => f.approx fn (f.codeOf (x.src32 i a).toNat)

def execFrcp (h : Hdr) (d a : BitVec 7) (m : BitVec 2) (s : State) : Result := fpApprox s h d a m .rcp
def execFrsq (h : Hdr) (d a : BitVec 7) (m : BitVec 2) (s : State) : Result := fpApprox s h d a m .rsq
def execFexp2 (h : Hdr) (d a : BitVec 7) (m : BitVec 2) (s : State) : Result := fpApprox s h d a m .exp2
def execFlog2 (h : Hdr) (d a : BitVec 7) (m : BitVec 2) (s : State) : Result := fpApprox s h d a m .log2
def execFsin (h : Hdr) (d a : BitVec 7) (m : BitVec 2) (s : State) : Result := fpApprox s h d a m .sin
def execFcos (h : Hdr) (d a : BitVec 7) (m : BitVec 2) (s : State) : Result := fpApprox s h d a m .cos

def execFset (h : Hdr) (d a b : BitVec 7) (m : BitVec 2) (s : State) : Result :=
  let w := fpWidth m
  let f := fpType m
  computeF s h d .w32 [opd a w, opd b w] fun x i => fset (x.fpVal i a f w) (x.fpVal i b f w)

def execFclass (h : Hdr) (d a : BitVec 7) (m : BitVec 2) (s : State) : Result :=
  let w := fpWidth m
  let f := fpType m
  compute s h d .w32 [opd a w] fun x i => 2 ^ f.classBit (f.codeOf (x.srcN i a w))

/-! ### Conversions (R182-R184) -/

def execFcvt (h : Hdr) (d a : BitVec 7) (kd ks : BitVec 3) (s : State) : Result :=
  let f := fpKind kd
  let fs := fpKind ks
  computeF s h d (kindWidth kd) [opd a (kindWidth ks)] fun x i =>
    f.ofVal (x.seen.mode h.ord) (x.fpVal i a fs (kindWidth ks))

/-- Bits and signedness of an integer type of R184. -/
def icvtBits (t : BitVec 3) : Nat :=
  match t.toNat with | 0 | 1 => 32 | 2 | 3 => 64 | 4 | 5 => 16 | _ => 8
def icvtSigned (t : BitVec 3) : Bool := !t.getLsbD 0

/-- An integer result of 8 or 16 bits is extended to 32 by its signedness (R184). -/
def icvtExtend (t : BitVec 3) (n : Nat) : Nat :=
  let w := icvtBits t
  (readInt w (icvtSigned t) n % (2 ^ (max w 32) : Int)).toNat

def execIcvt (h : Hdr) (d a : BitVec 7) (fk it : BitVec 3) (toFloat : Bool) (s : State) : Result :=
  let f := fpKind fk
  let wf := kindWidth fk
  let wi := intTypeWidth it
  if toFloat then
    computeF s h d wf [opd a wi] fun x i =>
      f.ofVal (x.seen.mode h.ord) (.ofInt (readInt (icvtBits it) (icvtSigned it) (x.srcN i a wi)))
  else
    computeF s h d wi [opd a wf] fun x i =>
      let r := toInt (x.seen.mode h.ord) (icvtBits it) (icvtSigned it) (x.fpVal i a f wf)
      (icvtExtend it r.1, r.2)

/-! ### Format registers (R159, R187) and packing (R185) -/

/-- Format register k as a thread sees it: its team's, or a control-core thread's own. -/
def State.fmtReg (s : State) (w : Who) (k : Nat) : Word :=
  match s.group? w with
  | none => 0
  | some g => if isSolo w then g.fmts.getD k 0 else (s.teamOf g).elim 0 fun t => t.fmts.getD k 0

/-- A format register written. DESIGN CHOICE: every group of the team sees the new value at once, where R187 lets another
group see the old or the new one until a BAR (log 97). -/
def State.setFmt (s : State) (w : Who) (k : Nat) (v : Word) : State :=
  match s.group? w with
  | none => s
  | some g =>
    if isSolo w then s.setGroup w { g with fmts := g.fmts.set k v }
    else match s.teamOf g with
      | none => s
      | some t => { s with teams := s.teams.set g.team { t with fmts := t.fmts.set k v } }

/-- The fields of a format register that R159 marks RW. -/
def fmtFields (v : Word) : Word := v &&& 0xFF001D77#32

/-- The format of a narrow form: .q8 and .q4 by their container, none when R160 bars the register; .sx8 is fixed. -/
def State.narrowFmt (s : State) (w : Who) (f : BitVec 3) (m : BitVec 2) : Option Fmt :=
  if m = 2 then some sx8 else
    let r := s.fmtReg w f.toNat
    if Desc.fmtValid r && (if m = 1 then decide ((fmtOf r).width ≤ 4) else decide (5 ≤ (fmtOf r).width)) then some (fmtOf r)
    else none

/-- The bit of a packed word at which element j starts, and the element's container width (R162, R185). -/
def packPlace (m : BitVec 2) (hi : Bool) (j : Nat) : Nat × Nat := if m = 1 then (16 * hi.toNat + 4 * j, 4) else (8 * j, 8)

/-- Word j of a quad. -/
def quadWord (q j : Nat) : Nat := q / 2 ^ (32 * j) % 2 ^ 32

def execPack (h : Hdr) (d a : BitVec 7) (hi : Bool) (f : BitVec 3) (m : BitVec 2) (s : State) : Result :=
  withCtx s fun x =>
    match s.narrowFmt x.who f m with
    | none => s.illegal x
    | some fm => (s.ready x [opd a .w128, opd d .w32] (opd a .w128 :: (if m = 1 then [opd d .w32] else []))).getD
      (let r := fun i =>
        let q := x.srcN i a .w128
        let es := (List.range 4).map fun j => fm.ofVal (x.seen.mode h.ord) (f32.val (quadWord q j))
        let body := ((List.range 4).map fun j => (es.getD j (0, 0)).1 * 2 ^ (packPlace m hi j).1).sum
        let old := (x.src32 i d).toNat
        let keep := if m = 1 then (if hi then old % 65536 else old / 65536 * 65536) else 0
        ((keep + body, es.foldl (fun n e => n ||| e.2) 0) : Coded)
      s.retire x h (x.raise (x.dst h.n d .w32 fun i => (r i).1) d fun i => (r i).2))

def execUnpack (h : Hdr) (d a : BitVec 7) (hi : Bool) (f : BitVec 3) (m : BitVec 2) (s : State) : Result :=
  withCtx s fun x =>
    match s.narrowFmt x.who f m with
    | none => s.illegal x
    | some fm => (s.ready x [opd a .w32, opd d .w128] [opd a .w32]).getD
      (let r := fun i =>
        let v := (x.src32 i a).toNat
        let es := (List.range 4).map fun j =>
          let p := packPlace m hi j
          f32.ofVal (x.seen.mode h.ord) (fm.val (fm.codeOf (v / 2 ^ p.1 % 2 ^ p.2)))
        ((((List.range 4).map fun j => (es.getD j (0, 0)).1 * 2 ^ (32 * j)).sum, es.foldl (fun n e => n ||| e.2) 0) : Coded)
      s.retire x h (x.raise (x.dst h.n d .w128 fun i => (r i).1) d fun i => (r i).2))

/-- FLCLR waits for the group's matrix work, then clears flags (R186). -/
def execFlclr (h : Hdr) (a : BitVec 7) (s : State) : Result :=
  withOps s (fun _ => [opd a .w32]) fun x =>
    if s.matrixPending x.who then s.stall x 1
    else s.retire x h (x.g.modLanes x.c.seats fun i l => { l with fl := l.fl &&& ~~~((x.src32 i a).setWidth 5) })

def execFmtw (h : Hdr) (f : BitVec 3) (a : BitVec 7) (s : State) : Result :=
  withOps s (fun _ => [opd a .w32]) (lanes := fun x => x.readers) fun x =>
    let s := s.setFmt x.who f.toNat (fmtFields (x.uni32 a))
    s.retire x h ((s.group? x.who).getD x.g)

def execFmtr (h : Hdr) (d : BitVec 7) (f : BitVec 3) (s : State) : Result :=
  compute s h d .w32 [] fun x _ => (s.fmtReg x.who f.toNat).toNat

end Sys2Proof.Machine
end

