-- ==== Sys2Proof/Machine/Names.lean ====
section
/-! DEFINITION. Group names and the name tables of the cores (R278, R332-R336), and the hamper map entries of teams (R103,
R324). -/

namespace Sys2Proof.Machine

open Sys2Proof

/-! ### Names -/

def namePkg (n : Dword) : Nat := n.toNat / 2 ^ 56
/-- The home core a name selects, by its number in the package; none where the die has no such core. -/
def nameCore (n : Dword) : Option Nat :=
  let c := n.toNat / 2 ^ 45 % 256
  if c < 160 then some (160 * (n.toNat / 2 ^ 53 % 8) + c) else none
def nameEntry (n : Dword) : Nat := n.toNat / 2 ^ 35 % 1024
def nameGen (n : Dword) : Nat := n.toNat / 2 ^ 11 % 2 ^ 24

def nameOf (pkg core entry gen : Nat) : Dword :=
  BitVec.ofNat 64 (pkg * 2 ^ 56 + core / 160 * 2 ^ 53 + core % 160 * 2 ^ 45 + entry * 2 ^ 35 + gen * 2 ^ 11)

/-- A name-table entry at reset: free, with generation 1 (R333). -/
def NameEntry.reset : NameEntry := ⟨1, none, 0, false⟩

def Core.nameAt (c : Core) (e : Nat) : NameEntry := c.names.getD e NameEntry.reset

/-- The home core's entry for a name: none when it is free or of another generation (R335). -/
def State.lookupName (s : State) (n : Dword) : Option (Nat × NameEntry) :=
  match nameCore n with
  | none => none
  | some c =>
    let e := (s.core c).nameAt (nameEntry n)
    match e.group with
    | some g => if e.gen = nameGen n ∧ !e.withdrawn then some (g, e) else none
    | none => none

/-- Whether a core of a package's own number is meant. -/
def State.nameHere (s : State) (n : Dword) : Bool := namePkg n == s.regs.pkg

/-- A group's name entry becomes free and its generation rises, or the entry is withdrawn (R333). -/
def State.freeName (s : State) (n : Dword) : State :=
  match s.lookupName n, nameCore n with
  | some (_, e), some c =>
    let v : NameEntry := if e.gen + 1 < 2 ^ 24 then ⟨e.gen + 1, none, 0, false⟩ else ⟨e.gen, none, 0, true⟩
    s.setCore c { s.core c with names := (s.core c).names.set (nameEntry n) v }
  | _, _ => s

/-- The first free entry of a core's name table. -/
def Core.freeName (c : Core) : Option Nat :=
  (List.range 1024).find? fun e => (c.nameAt e).group.isNone && !(c.nameAt e).withdrawn

/-! ### Hamper map entries -/

/-- An entry that a team owns on one of its cores. -/
def Team.entry (t : Team) (tcore q : Nat) : Option MapEntry := (t.maps.getD tcore []).find? fun e => e.index == q

def Team.setEntry (t : Team) (tcore : Nat) (e : MapEntry) : Team :=
  { t with maps := t.maps.modify tcore fun m => m.map fun f => if f.index == e.index then e else f }

/-- The entry of a group's team on the group's core. -/
def State.mapEntry (s : State) (g : Group) (q : Nat) : Option MapEntry := (s.teamOf g).bind fun t => t.entry g.tcore q

def State.setMapEntry (s : State) (g : Group) (e : MapEntry) : State :=
  match s.teamOf g with
  | none => s
  | some t => { s with teams := s.teams.set g.team (t.setEntry g.tcore e) }

/-- A hamper by cluster and number. -/
def State.hamper (s : State) (cl n : Nat) : Hamper := (s.cluster cl).hampers.getD n Hamper.reset
def State.setHamper (s : State) (cl n : Nat) (h : Hamper) : State :=
  let c := s.cluster cl
  s.setCluster cl { c with hampers := c.hampers.set n h }

/-- The hamper an entry has attached and usable (R104 step 1), in the cluster of the team. -/
def State.attached (s : State) (g : Group) (q : Nat) : Option (Nat × Nat) :=
  match s.teamOf g, s.mapEntry g q with
  | some t, some e => if e.gv then none else e.hamper.map fun n => (t.cluster, n)
  | _, _ => none

/-- The map register of R103 as a group reads it: zero where its team does not own the entry. -/
def State.mapWord (s : State) (g : Group) (q : Nat) : Word :=
  match s.teamOf g, s.mapEntry g q with
  | some t, some e =>
    match e.hamper with
    | none => BitVec.ofNat 32 (2 ^ 24)
    | some n => BitVec.ofNat 32 (2 ^ 31 + e.gv.toNat * 2 ^ 30 + n * 2 ^ 25 + 2 ^ 24 + (s.hamper t.cluster n).swz * 2 ^ 16)
  | _, _ => 0

/-- Where the byte at an offset is stored: bank, row and byte as one number (R228). -/
def hamperPlace (swz h : Nat) : Nat :=
  let b := h / 64 % 8
  let b := if swz ≤ 5 then b ^^^ (h / 2 ^ (swz + 7) % 8) else b
  b * 16384 + h / 512 % 256 * 64 + h % 64

def Hamper.byte (k : Hamper) (h : Nat) : Byte := k.bytes.getD (hamperPlace k.swz h) 0
def Hamper.read (k : Hamper) (h n : Nat) : List Byte := (List.range n).map fun i => k.byte (h + i)

/-- The 8-byte granules, by stored place, that [h, h + n) touches. -/
def Hamper.granules (k : Hamper) (h n : Nat) : List Nat := (blocks 8 h n).map fun b => hamperPlace k.swz (8 * b) / 8

def Hamper.isPoisoned (k : Hamper) (h n : Nat) : Bool := !k.poison.isEmpty && (k.granules h n).any k.poison.contains

/-- A write: the bytes, and the poison of every granule it covers whole (R243). -/
def Hamper.write (k : Hamper) (h : Nat) (bs : List Byte) : Hamper :=
  let put := fun (m : FMap Byte) (p : Nat × Byte) =>
    let q := hamperPlace k.swz (h + p.1)
    if p.2 = 0 then m.erase q else m.set q p.2
  let whole := (blocks 8 h bs.length).filter fun b => decide (h ≤ 8 * b) && decide (8 * b + 8 ≤ h + bs.length)
  { k with bytes := ((List.range bs.length).zip bs).foldl put k.bytes,
           poison := k.poison.filter fun p => !(whole.map fun b => hamperPlace k.swz (8 * b) / 8).contains p }

/-- Marks the granules of a range as poisoned. -/
def Hamper.poisonRange (k : Hamper) (h n : Nat) : Hamper := { k with poison := (k.granules h n).foldl sInsert k.poison }

/-- Whether two messages come from one sender. -/
def Sender.same : Sender → Sender → Bool
  | .here v _ _, .here w _ _ => v == w
  | .far p _, .far q _ => p == q
  | _, _ => false

/-- Whether postcards of a sender to a name are still on their way to its home core, of those before a message, or of all: the messages
of one sender to one name take one path and are never reordered (R335). -/
def State.unrouted (s : State) (w : Sender) (name : Dword) (below : Option Nat) : Bool :=
  s.msgs.any fun e => (below.all fun n => decide (e.1 < n)) && (match e.2 with
    | .post v n _ => v.same w && n == name
    | _ => false)

end Sys2Proof.Machine
end

