-- ==== Sys2Proof/Machine/Hampers.lean ====
section
/-! DEFINITION. Hampers (R103-R109, R227-R229), kettle words (R117, R118), copies (R110-R116, R256, R257, R399) and gives,
with the engine events that carry them out. -/

namespace Sys2Proof.Machine

open Sys2Proof

/-! ### Kettle words -/

/-- Groups that wait in KWAIT on a word look again. -/
def State.wakeKettle (s : State) (cl n off : Nat) : State :=
  { s with groups := s.groups.map fun (e : Nat × Group) =>
      (e.1, match e.2.wait with
        | some (.kwait c m o) => if c = cl ∧ m = n ∧ o = off then e.2.endWait s.now else e.2
        | _ => e.2) }

/-- A write of a hamper's bytes; waits on the words it touches look again (R105, R117). -/
def State.hamperStore (s : State) (cl n off : Nat) (bs : List Byte) : State :=
  let s := s.setHamper cl n ((s.hamper cl n).write off bs)
  (blocks 8 off bs.length).foldl (fun (s : State) w => s.wakeKettle cl n (8 * w)) s

def State.kettle (s : State) (cl n off : Nat) : Nat := leNat ((s.hamper cl n).read off 8)

/-- The arrival of c bytes at a word: COUNT, and GEN for each time TARGET is reached (R117). -/
def kettleNext (w c : Nat) : Nat :=
  let gen := w / 2 ^ 48
  let target := w / 2 ^ 24 % 2 ^ 24
  let count := w % 2 ^ 24 + c
  if target = 0 then gen * 2 ^ 48 + count % 2 ^ 24
  else (gen + count / target) % 2 ^ 16 * 2 ^ 48 + target * 2 ^ 24 + count % target

def State.kettleArrive (s : State) (cl n off c : Nat) : State :=
  let w := s.kettle cl n off
  let w' := kettleNext w c
  let s := s.setHamper cl n ((s.hamper cl n).write off (leBytes 8 w'))
  if w' / 2 ^ 48 = w / 2 ^ 48 then s else s.wakeKettle cl n off

/-- KETTLE_STEP: a word whose count stands at its target steps, and its waits wake (R117, R258). -/
def execKettleStep (cluster hamper off : Nat) (s : State) : Result := .next (s.kettleArrive cluster hamper off 0)

/-- KINIT, KADD and KWAIT: the word at the cursor plus the uniform offset, checked under R87 with s = 8 (R118). -/
def kettleOp (s : State) (p : BitVec 4) (g : Code) (k : BitVec 4) (perm : BitVec 8) (f : State → Ctx → Nat → Nat → Nat → State) : Result :=
  coreOp s (fun _ => [opd g .w32, sOpd k .w32]) fun s x =>
    let c := x.acap p.toNat
    let e := x.address x.lowest c g 0
    match s.check x.who x.g.team c e 8 [2] perm true with
    | some (_, why) => s.fault x why x.c.seats (intVal e)
    | none =>
      -- the group's own accesses to the hamper come in program order, those of its queued matrix instructions too (R105)
      if s.matrixUses x.who c.hamper then s.stall x 1 else f s x c.hamper.1 c.hamper.2 e.toNat

def execKinit (h : Hdr) (p k : BitVec 4) (g : BitVec 7) (s : State) : Result :=
  kettleOp s p g k permW fun s x cl n off =>
    let w := s.kettle cl n off
    (s.setHamper cl n ((s.hamper cl n).write off (leBytes 8 (w / 2 ^ 48 * 2 ^ 48 + (x.sreg k).toNat % 2 ^ 24 * 2 ^ 24)))).retire x h x.g

/-- KADD: a release at .clus, then an arrival (R118, R258). -/
def execKadd (h : Hdr) (p k : BitVec 4) (g : BitVec 7) (s : State) : Result :=
  kettleOp s p g k permW fun s x cl n off =>
    s.release x ((s.kettleArrive cl n off ((x.sreg k).toNat % 2 ^ 24)).retire x h x.g)

/-- KWAIT: goes on as an acquire when GEN differs, else waits (R118). -/
def execKwait (h : Hdr) (p k : BitVec 4) (g : BitVec 7) (s : State) : Result :=
  kettleOp s p g k permR fun s x cl n off =>
    if s.kettle cl n off / 2 ^ 48 ≠ (x.sreg k).toNat % 2 ^ 16 then
      (s.acquire x.who (if h.ord = 2 then (if h.sc = 0 then 6 else h.sc) else 4)).retire x h x.g
    else s.leave x x.g (.kwait cl n off)

/-! ### HGET, HPUT and HMAPR -/

/-- The checks of R104 in every lane; then the access at its offsets. -/
def hamperAccess (s : State) (x : Ctx) (hm : BitVec 4) (size : Nat) (off : Nat → Int)
    (f : Nat → Nat → (Nat → Nat) → State) : State :=
  match s.attached x.g hm.toNat with
  | none => s.fault x .hamperDetached x.c.seats (intVal (off (lowSeat x.c.seats)))
  | some (cl, n) =>
    let out := x.c.seats.filter fun i => decide (off i < 0) || decide (131072 < off i + size)
    let mis := x.c.seats.filter fun i => (off i) % (size : Int) != 0
    if !out.isEmpty then s.fault x .capBound out (intVal (off (lowSeat out)))
    else if !mis.isEmpty then s.fault x .misaligned mis (intVal (off (lowSeat mis)))
    else if s.matrixPending x.who then s.stall x 1
    else if s.fenced x.who then s.stall x 2
    else f cl n fun i => (off i).toNat

def hamperOffset (x : Ctx) (h : Hdr) (off : Code) (imm : BitVec 5) (size : Nat) (i : Nat) : Int :=
  (x.src32 i off).toInt + memImm h imm false * size

def execHget (h : Hdr) (d : BitVec 7) (hm : BitVec 4) (off : BitVec 7) (imm : BitVec 5) (s : State) : Result :=
  let size := sizeBytes 4 h.size
  notSolo s (withOps s (fun _ => [opd off .w32, opd d (widthOfBytes size)]) (reads := fun _ => [opd off .w32]) fun x =>
    hamperAccess s x hm size (hamperOffset x h off imm size) fun cl n a =>
      let k := s.hamper cl n
      let bad := x.c.seats.filter fun i => k.isPoisoned (a i) size
      if !bad.isEmpty then s.fault x .poison bad (BitVec.ofNat 64 (a (lowSeat bad) / 8 * 8))
      else
        let read := fun i =>
          let v := leNat (k.read (a i) size)
          if h.size = 6 then (readInt 8 true v % (2 ^ 32 : Int)).toNat
          else if h.size = 7 then (readInt 16 true v % (2 ^ 32 : Int)).toNat else v
        s.retire x h (x.dst h.n d (widthOfBytes size) read))

def execHput (h : Hdr) (d : BitVec 7) (hm : BitVec 4) (off : BitVec 7) (imm : BitVec 5) (s : State) : Result :=
  let size := sizeBytes 4 h.size
  notSolo s (withOps s (fun _ => [opd off .w32, opd d (widthOfBytes size)]) fun x =>
    hamperAccess s x hm size (hamperOffset x h off imm size) fun cl n a =>
      ((x.g.byLogical x.c.seats).foldl (fun (s : State) i =>
        s.hamperStore cl n (a i) (leBytes size (x.srcN i d (widthOfBytes size)))) s).retire x h x.g)

/-- The kind-2 capability of a hamper (R86, R108). -/
def hamperCap (pkg cl n : Nat) : Cap :=
  ⟨capBits 2 (permR ||| permW ||| permA ||| permE).toNat
    (pkg * 2 ^ 20 + cl / 20 * 2 ^ 17 + cl % 20 * 2 ^ 12 + n * 2 ^ 7) 0 0 0x20000 0, true⟩

def execHmapr (h : Hdr) (p q : BitVec 4) (cap : Bool) (g : BitVec 7) (s : State) : Result :=
  notSolo s (withOps s (fun _ => if cap then [] else [opd g .w32]) (reads := fun _ => []) fun x =>
    if cap then
      match s.teamOf x.g, (s.mapEntry x.g q.toNat).bind (·.hamper) with
      | some t, some n => s.retire x h { x.g with acaps := x.g.acaps.set p.toNat (hamperCap s.regs.pkg t.cluster n) }
      | _, _ => s.fault x .hamperDetached x.c.seats 0
    else s.retire x h (x.dst h.n g .w32 fun _ => (s.mapWord x.g q.toNat).toNat))

/-! ### Copies: the engine -/

/-- The engine agent of a compute core (R262). -/
def copyAgent (core : Nat) : Nat := 136 + core

def CopySlot.total (c : CopySlot) : Nat := c.rowLen * c.rows
/-- Where byte j lies from the first byte of an end with a pitch (R111). -/
def CopySlot.offset (c : CopySlot) (pitch j : Nat) : Nat := j / c.rowLen * pitch + j % c.rowLen

/-- How many bytes disjoint ranges [first, last) hold. -/
def rangesLen (l : List (Nat × Nat)) : Nat := (l.map fun r => r.2 - r.1).sum

/-- Adds a range, merging what it meets. -/
def addRange : List (Nat × Nat) → Nat → Nat → List (Nat × Nat)
  | [], a, b => [(a, b)]
  | (p, q) :: l, a, b =>
    if b < p then (a, b) :: (p, q) :: l
    else if q < a then (p, q) :: addRange l a b
    else addRange l (min a p) (max b q)

/-- The first piece of [a, b) that no range holds. -/
def undone : List (Nat × Nat) → Nat → Nat → Nat × Nat
  | [], a, b => (a, b)
  | (p, q) :: l, a, b => if b ≤ p then (a, b) else if a < p then (a, p) else if a < q then undone l q b else undone l a b

/-- Bytes not written, over the destinations (R113). -/
def CopySlot.unwritten (c : CopySlot) : Nat := (c.done.map fun l => c.total - rangesLen l).sum

/-- Every byte is written at every destination. -/
def CopySlot.allWritten (c : CopySlot) : Bool := c.done.all fun l => rangesLen l == c.total

/-- Where rows overlap in the destinations, a byte takes the value of the highest row that writes it (R111): whether a higher
row has already been read for the place of byte j. -/
def CopySlot.overtaken (c : CopySlot) (j : Nat) : Bool :=
  let i := j / c.rowLen
  let o := c.offset c.dstPitch j
  let top := if c.dstPitch = 0 then c.rows - 1 else min (c.rows - 1) (o / c.dstPitch)
  (List.range (top - i)).any fun k =>
    let col := o - (i + 1 + k) * c.dstPitch
    let m := (i + 1 + k) * c.rowLen + col
    decide (col < c.rowLen) && rangesHave c.taken m (m + 1)

/-- Rows overlap in the destinations. -/
def CopySlot.overlaps (c : CopySlot) : Bool := decide (c.dstPitch < c.rowLen) && decide (1 < c.rows)

/-- The lines that the engine has still to write in memory (R256). -/
def State.copyLines (s : State) (c : CopySlot) : List Nat := s.destLines c fun _ => true

/-- The destination pages of a copy that have no translation. -/
def State.absentPages (s : State) (c : CopySlot) : List PageKey :=
  c.dsts.flatMap fun d => match d with
    | .mem pkg asn obj off =>
      if pkg ≠ s.regs.pkg then [] else
      (((List.range c.rows).flatMap fun i => blocks 65536 (off + i * c.dstPitch) c.rowLen).foldl sInsert []).filterMap fun p =>
        let k : PageKey := ⟨pkg, asn, obj, p⟩
        if (s.peek k 0).isSome then none else some k
    | .hamper _ _ _ => []

/-- Lines that copies of a core's engine have still to write. -/
def State.engineLines (s : State) (core : Nat) : List Nat :=
  (s.core core).copies.flatMap fun e => if e.2.state == .running && e.2.stop.isNone then s.copyLines e.2 else []

/-- Whether an engine that owns a line has more to write in it (R256). Ports, PCIe and the fabric write at once. -/
def State.stillWrites (s : State) (agent line : Nat) : Bool :=
  decide (136 ≤ agent) && decide (agent < 1416) && (s.engineLines (agent - 136)).contains line

/-- A core's copy engine owns a line, and no write-back of it is on its way. -/
def State.owns (s : State) (core line : Nat) : Bool :=
  (s.dirAt line).st == .O && (s.dirAt line).ptrs.head? == some (copyAgent core) && !s.notes.contains ⟨copyAgent core, line, true⟩

/-- The engine returns, with a write-back, the lines it owns and has no more to write in (R256, R266). -/
def State.releaseLines (s : State) (core : Nat) : State :=
  let keep := s.engineLines core
  let back := (s.dir.filter fun e => s.owns core e.1 && !keep.contains e.1).map fun e => (⟨copyAgent core, e.1, true⟩ : DropNote)
  { s with notes := s.notes ++ back }

/-- Whether the engine can read or take a line now: it owns it, or nothing holds the line back and its last write-back of it
has come home. -/
def State.engineCan (s : State) (core line : Nat) (writes : Bool) : Bool :=
  s.owns core line || (s.mayTake line writes (some (copyAgent core)) && !s.notes.contains ⟨copyAgent core, line, true⟩)

/-- The same for bytes, with the state in which it waits. -/
def State.engineAt (s : State) (core p n : Nat) (writes : Bool) : Bool × State :=
  let ls := blocks 128 p n
  (ls.all fun l => s.engineCan core l writes,
   ls.foldl (fun (s : State) l => if s.owns core l then s else s.summon l writes (some (copyAgent core))) s)

def State.setCopy (s : State) (core slot : Nat) (c : CopySlot) : State :=
  let k := s.core core
  s.setCore core { k with copies := k.copies.set slot c }

/-- The engine asks for ownership of lines: it gets those it can have, and the others stay wanted (R256). -/
def State.ownLines (s : State) (core slot : Nat) (lines : List Nat) : State :=
  let r := lines.foldl (fun (r : List Nat × State) l =>
    let s := r.2
    if s.owns core l then r
    else if s.engineCan core l true then (r.1, (s.txConflict none l true).dirWrite l (some (copyAgent core)))
    else (r.1 ++ [l], s.summon l true (some (copyAgent core)))) ([], s)
  match (r.2.core core).copies.get? slot with
  | some c => r.2.setCopy core slot { c with want := r.1 }
  | none => r.2

/-- Groups that wait for a copy slot of a core look again (R110). -/
def State.wakeSlots (s : State) (core : Nat) : State :=
  { s with groups := s.groups.map fun (e : Nat × Group) =>
      (e.1, if e.2.wait == some .copySlot && (e.2.place.any fun p => p.core == core) then e.2.endWait s.now else e.2) }

/-- Requests of a copy to other packages that are outstanding: its writes, or its reads too. -/
def State.copyReqs (s : State) (core slot : Nat) (reads : Bool) : Bool :=
  s.reqs.any fun r => match r.2.kind with
    | .copyWrite a b _ _ _ _ => a == core && b == slot
    | .copyRead a b _ _ => reads && a == core && b == slot
    | _ => false

/-- A copy in flight ends: complete, cancelled or failed, with what it has not written counted (R113-R115). -/
def State.endCopy (s : State) (core slot : Nat) (how : CopyState) : State :=
  let k := s.core core
  match k.copies.get? slot with
  | none => s
  | some c =>
    if c.state != .running then s else
    let left := if how == .complete then 0 else c.unwritten
    let s := s.setCore core { k with
      copies := k.copies.set slot { c with state := how, left, want := [], stop := none }
      cpDrop := (k.cpDrop + left) % 2 ^ 64, cpErr := k.cpErr || how == .failed }
    let s := { s with
      teams := s.teams.map fun (e : Nat × Team) => (e.1, { e.2 with copies := e.2.copies.filter (· != (core, slot)) }) }
    (s.releaseLines core).wakeSlots core

/-- A copy stops: its engine takes up no more of it, and it ends once its writes to other packages have been answered (R113,
R114, R116). -/
def State.stopCopy (s : State) (core slot : Nat) (how : CopyState) : State :=
  match (s.core core).copies.get? slot with
  | none => s
  | some c =>
    if c.state != .running || c.stop.isSome then s else
    let s := { s with reqs := s.reqs.filter fun r => match r.2.kind with
      | .copyRead a b _ _ => !(a == core && b == slot)
      | _ => true }
    if s.copyReqs core slot false then (s.setCopy core slot { c with stop := some how, want := [] }).releaseLines core
    else s.endCopy core slot how

/-- What a copy comes to after a piece: a stopped one ends with its last answer, one that has written everything is complete. -/
def State.settleCopy (s : State) (core slot : Nat) : State :=
  let s := s.releaseLines core
  match (s.core core).copies.get? slot with
  | none => s
  | some c =>
    if c.state != .running || s.copyReqs core slot true then s
    else match c.stop with
      | some how => s.endCopy core slot how
      | none => if c.allWritten then { s with agenda := s.agenda ++ [.copyComplete core slot] } else s

/-- Bytes of a copy have been written at a destination; the kettle word counts them then (R117, R258). -/
def State.wrote (s : State) (core slot dst first n : Nat) : State :=
  match (s.core core).copies.get? slot with
  | none => s
  | some c =>
    let s := s.setCopy core slot { c with done := c.done.modify dst fun l => addRange l first (first + n) }
    match c.kettle with
    | some (cl, m, off) => s.kettleArrive cl m off n
    | none => s

/-- What an engine finds at one end of a piece. -/
inductive EndAt where
  | mem (p : Nat)
  | ham (cl n off : Nat)
  | far (key : PageKey) (off : Nat)
  | wait
  | error
deriving DecidableEq, Repr

/-- One end of a piece located: its page translated in the issuing group's address space (R110, R114, R360). -/
def State.locate (s : State) (e : CopyEnd) (at_ : Nat) : EndAt × State :=
  match e with
  | .hamper cl n off => (.ham cl n (off + at_), s)
  | .mem pkg asn obj off =>
    let o := off + at_
    let k : PageKey := ⟨pkg, asn, obj, o / 65536⟩
    if pkg ≠ s.regs.pkg then (.far k o, s) else
    match s.engineLookup asn obj (o / 65536) with
    | (.frame f, s) => (.mem (f * 65536 + o % 65536), s)
    | (.absent _ _, s) => (.wait, s)
    | (.error, s) => (.error, s)
    | (.held, s) => (.wait, s)

/-- The translation of an end that the engine has used is counted (R365). -/
def State.countEnd (s : State) (e : CopyEnd) (at_ : Nat) : State :=
  match e with
  | .hamper _ _ _ => s
  | .mem pkg asn obj off => if pkg = s.regs.pkg then s.counted ⟨pkg, asn, obj, (off + at_) / 65536⟩ s.regs.pkg else s

/-- Bytes of an end, each with the poison of its unit, read at the home slice as a strong read (R243, R257). -/
def State.readEnd (s : State) (core : Nat) (e : EndAt) (n : Nat) : List (Byte × Bool) × State :=
  match e with
  | .mem p =>
    ((List.range n).map fun i => (s.byte (p + i), s.poison.contains ((p + i) / 32)),
     (blocks 128 p n).foldl (fun (s : State) l => s.visit (some (coreDie core)) l fun s =>
      if s.owns core l then s else (s.txConflict none l false).dirRead l none) s)
  | .ham cl m off =>
    let h := s.hamper cl m
    ((h.read off n).zipIdx.map fun b => (b.1, h.isPoisoned (off + b.2) 1), s)
  | _ => ([], s)

/-- Writes a piece at a destination: tags cleared, poison passed on unit by unit (R110, R243, R256). -/
def State.writeEnd (s : State) (core g slot dst first : Nat) (e : EndAt) (v : List (Byte × Bool)) : State :=
  let bs := v.map (·.1)
  let bad := (v.zipIdx.filter fun b => b.1.2).map (·.2)
  match e with
  | .mem p =>
    let s := (blocks 128 p bs.length).foldl (fun (s : State) l => s.visit (some (coreDie core)) l fun s =>
      if s.owns core l then s else (s.txConflict none l true).dirWrite l (some (copyAgent core))) s
    let s := s.write p (s.maxed p bs false)
    let s := ((bad.map fun i => (p + i) / 32).foldl sInsert []).foldl State.poisonSector s
    (blocks 128 p bs.length).foldl State.lineWritten s
  | .ham cl n off =>
    let s := s.hamperStore cl n off bs
    bad.foldl (fun (s : State) i => s.setHamper cl n ((s.hamper cl n).poisonRange (off + i) 1)) s
  | .far k off =>
    (s.request (.grp g) 0 k off (.copyWrite core slot dst first bs (!bad.isEmpty)) false noPc).2
  | _ => s

/-- The destinations take a piece. At one in another package its bytes count as written with the answer (R113, R258). Bytes
that a higher row has overtaken are not written again (R111). -/
def State.copyPut (s : State) (core slot : Nat) (c : CopySlot) (first : Nat) (v : List (Byte × Bool)) (ends : List EndAt) : State :=
  let n := v.length
  let live := !c.overtaken first
  let s := s.setCopy core slot { c with taken := addRange c.taken first (first + n) }
  let s := c.dsts.foldl (fun (s : State) e => s.countEnd e (c.offset c.dstPitch first)) s
  let s := ends.zipIdx.foldl (fun (s : State) e =>
    let s := if live then s.writeEnd core c.group slot e.2 first e.1 v else s
    match e.1, live with
    | .far _ _, true => s
    | _, _ => s.wrote core slot e.2 first n) s
  s.settleCopy core slot

/-- The piece an engine takes up: not yet read, within one row and within one 32-byte block of each end, and all of it or none
overtaken by a higher row. -/
def CopySlot.piece (c : CopySlot) (off len : Nat) : Nat × Nat :=
  let (a, b) := undone c.taken off (min (off + len) c.total)
  if c.rowLen = 0 ∨ b ≤ a then (a, 0) else
  let col := a % c.rowLen
  let fits := fun (e : CopyEnd) (pitch : Nat) =>
    let o := match e with
      | .mem _ _ _ o => o
      | .hamper _ _ o => o
    32 - (o + c.offset pitch a) % 32
  let room := (c.dsts.map fun d => fits d c.dstPitch).foldl min (c.src.elim 32 fun e => fits e c.srcPitch)
  let n := min (min (b - a) (c.rowLen - col)) room
  (a, if c.overlaps then ((List.range n).takeWhile fun k => c.overtaken (a + k) == c.overtaken a).length else n)

/-- Whether the engine can read its source and write its local destinations now, with the state in which it waits. Where rows
overlap, a row's bytes for another package wait for the answer to the row before. -/
def State.copyReady (s : State) (core slot n : Nat) (c : CopySlot) (src : EndAt) (dsts : List EndAt) : Bool × State :=
  let far := dsts.any fun e => match e with
    | .far _ _ => true
    | _ => false
  let r : Bool × State := match src with
    | .mem p => s.engineAt core p n false
    | _ => (true, s)
  let r := dsts.foldl (fun (r : Bool × State) e => match e with
    | .mem p => let q := r.2.engineAt core p n true; (r.1 && q.1, q.2)
    | _ => r) r
  (r.1 && !(far && c.overlaps && s.copyReqs core slot false), r.2)

/-- Whether a poisoned piece must wait for reads in flight at one of its destinations (R243, log 28). -/
def State.readsFirst (s : State) (v : List (Byte × Bool)) (dsts : List EndAt) : Bool :=
  v.any (·.2) && dsts.any fun e => match e with
    | .mem p => s.reading (blocks 32 p v.length)
    | _ => false

/-- The bytes of a piece whose source lies in another package: read once, when the answer has come (R257). -/
def State.copyFetch (s : State) (core slot : Nat) (c : CopySlot) (a n : Nat) (k : PageKey) (o : Nat) (dsts : List EndAt) : State :=
  match s.reqs.find? fun q => q.2.kind == .copyRead core slot a n with
  | some (m, q) => match q.answer with
    | none => s
    | some (.data bs _) => (s.dropReq m).copyPut core slot c a (bs.map fun b => (b, false)) dsts
    | some .poisoned =>
      let v := List.replicate n (0, true)
      if s.readsFirst v dsts then s else (s.dropReq m).copyPut core slot c a v dsts
    | some .notResident | some .unmonitored => s.dropReq m
    | some _ => s.stopCopy core slot .failed
  | none => (s.request (.grp c.group) 0 k o (.copyRead core slot a n) false noPc).2

/-- COPY_WRITE: the engine reads a piece of the source once and writes it at every destination (R110, R257). A page that
is not resident, or a line that is held back, delays it; an EXTENT_ERROR fails the copy (R114). -/
def State.copyStep (s : State) (core slot off len : Nat) : State :=
  match (s.core core).copies.get? slot with
  | none => s
  | some c =>
    let s := if c.want.isEmpty then s else s.ownLines core slot c.want
    match c.src with
    | none => s
    | some src =>
      if c.state != .running || c.stop.isSome then s else
      let asked := s.reqs.findSome? fun q => match q.2.kind with
        | .copyRead i j first n => if i = core ∧ j = slot then some (first, n) else none
        | _ => none
      let (a, n) := asked.getD (c.piece off len)
      if n = 0 then s else
      let c := ((s.core core).copies.get? slot).getD c
      let (from_, s) := s.locate src (c.offset c.srcPitch a)
      let (ends, s) := c.dsts.foldl (fun (r : List EndAt × State) d =>
        let (e, s) := r.2.locate d (c.offset c.dstPitch a)
        (r.1 ++ [e], s)) ([], s)
      if from_ == .error || ends.contains .error then s.stopCopy core slot .failed
      else if from_ == .wait || ends.contains .wait then s
      else
        let (ready, s) := s.copyReady core slot n c from_ ends
        if !ready then s
        else match from_ with
          | .far k o => s.copyFetch core slot c a n k o ends
          | _ =>
            let (v, t) := (s.countEnd src (c.offset c.srcPitch a)).readEnd core from_ n
            if s.readsFirst v ends then s else t.copyPut core slot c a v ends

def execCopyWrite (core slot off len : Nat) (s : State) : Result := .next (s.copyStep core slot off len)

/-- COPY_COMPLETE: every byte is written, those of other packages as they have answered (R112, R113). -/
def execCopyComplete (core slot : Nat) (s : State) : Result :=
  .next (match (s.core core).copies.get? slot with
    | some c => if c.stop.isNone && c.allWritten && !s.copyReqs core slot true then s.endCopy core slot .complete else s
    | none => s)

/-! ### COPY, COPY2 and COPYC -/

/-- The shape of a copy: bytes per row, rows and pitches. -/
structure Shape where
  r  : Nat
  k  : Nat
  sp : Nat
  dp : Nat

def Shape.span (h : Shape) (pitch : Nat) : Nat := if h.r = 0 ∨ h.k = 0 then 0 else (h.k - 1) * pitch + h.r

/-- The first failing check of a COPY with its trap value (R110, R111). -/
def State.copyFails (s : State) (x : Ctx) (src : Cap) (dsts : List Cap) (kettle : Option Cap) (h : Shape) : Option (Cause × Dword) :=
  let big := decide (2 ^ 32 ≤ h.r * h.k)
  let one := fun (c : Cap) (perm : BitVec 8) (pitch : Nat) =>
    let f := s.check x.who x.g.team c c.cursor (if big then 0 else h.span pitch) [1, 2] (perm ||| permE) false
    if big then (match f with
      | some (n, why) => if n ≤ 2 then some (n, why) else some (3, Cause.capBound)
      | none => some (3, .capBound)) else f
  let fails : List (Dword × CheckFail) :=
    ((one src permR h.sp).map fun f => (BitVec.allOnes 64, f)).toList ++
    (dsts.zipIdx.filterMap fun d => (one d.1 permW h.dp).map fun f => (BitVec.ofNat 64 d.2, f)) ++
    ((kettle.bind fun c => s.check x.who x.g.team c c.cursor 8 [2] permW true).map fun f => (0xFFFFFFFFFFFFFFFE#64, f)).toList
  match fails with
  | [] => none
  | f :: fs =>
    let best := fs.foldl (fun b q => if q.2.1 < b.2.1 then q else b) f
    some (best.2.2, best.1)

/-- One end from a capability. -/
def copyEnd (asn : Nat) (c : Cap) : CopyEnd :=
  if c.kind = 2 then .hamper c.hamper.1 c.hamper.2 c.cursor else .mem c.pkg asn c.index c.cursor

/-- A COPY with a destination in another package translates every page of every destination first (R399): none when all
are resident. -/
def State.copyPages (s : State) (x : Ctx) (dsts : List Cap) (h : Shape) : Option State :=
  if dsts.all fun c => c.kind = 2 ∨ c.pkg = s.regs.pkg then none else
  let pages := dsts.flatMap fun c => if c.kind = 2 then [] else
    ((List.range h.k).flatMap fun i => blocks 65536 (c.cursor + i * h.dp) h.r).foldl sInsert [] |>.map
      fun p => (⟨c.pkg, s.asnOf x.who, c.index, p⟩ : PageKey)
  pages.foldl (fun (r : Option State) k =>
    if r.isSome then r
    else if k.pkg = s.regs.pkg then
      match s.engineLookup k.asn k.obj k.page with
      | (.frame _, _) => none
      | (.error, s) => some (s.fault x .extentError x.c.seats (keyVal k))
      | (.absent _ _, s) => some (s.stall x 2)
      | (.held, s) => some (s.stall x 2)
    else if s.remotes.any fun e => e.key == k then none
    else match s.remoteAsk x k with
      | none => some ((s.sendRemote x k (65536 * k.page) 0 .translate).stall x 2)
      | some (n, q) => match q.answer with
        | none => some (s.stall x 2)
        | some .extentError => some (s.fault x .extentError x.c.seats (keyVal k))
        | some .notResident | some .unmonitored => some ((s.dropReq n).stall x 2)
        | some _ => none) none

/-- COPY and COPY2: every check, then a slot, then the engine (R110-R113). DESIGN CHOICE: the slot is the lowest that runs no
copy, for the spec does not say which is allocated (log 87). -/
def State.startCopy (s : State) (x : Ctx) (hd : Hdr) (p q k : BitVec 4) (h : Shape) : State :=
  let ndst := hd.ext / 256 % 8 + 1
  let ke := hd.ext / 2 ^ 15 % 2 = 1
  let src := x.acap q.toNat
  let dsts := (List.range ndst).map fun i => x.acap (p.toNat + i)
  let kettle := if ke then some (x.acap (hd.ext / 2 ^ 11 % 16)) else none
  match s.copyFails x src dsts kettle h, s.coreOf x.who with
  | some (c, v), _ => s.fault x c x.c.seats v
  | none, none => s.illegal x
  | none, some core =>
    match s.copyPages x dsts h with
    | some t => t
    | none =>
      let go : State :=
        let s := s.dropReads x.who x.c.addr
        let kc := s.core core
        let handle := fun slot : Nat => kc.seq * 65536 + slot
        if h.r = 0 ∨ h.k = 0 then
          (s.setCore core { kc with seq := (kc.seq + 1) % 65536 }).retire x hd (x.dstS hd.n k.toNat .w32 (handle 0))
        else match (List.range 64).find? fun i => (kc.copies.get? i).all fun c => c.state != .running with
          | none => s.leave x x.g .copySlot
          | some slot =>
            let c : CopySlot :=
              { state := .running, seq := kc.seq, team := x.g.team, group := (match x.who with | .grp g => g | .ctl _ => 0),
                rowLen := h.r, rows := h.k, srcPitch := h.sp, dstPitch := h.dp, src := some (copyEnd (s.asnOf x.who) src),
                dsts := dsts.map (copyEnd (s.asnOf x.who)), taken := [],
                done := List.replicate ndst [], want := [], absent := [], stop := none,
                kettle := kettle.map fun c => (c.hamper.1, c.hamper.2, c.cursor), left := 0 }
            let c := { c with absent := s.absentPages c }
            let s := s.setCore core { kc with seq := (kc.seq + 1) % 65536, copies := kc.copies.set slot c }
            let s := { s with teams := match s.teams.get? x.g.team with
              | some t => s.teams.set x.g.team { t with copies := t.copies ++ [(core, slot)] }
              | none => s.teams }
            (s.ownLines core slot (s.copyLines c)).retire x hd (x.dstS hd.n k.toNat .w32 (handle slot))
      if s.matrixPending x.who then s.stall x 5
      else if hd.ord = 3 then s.release x go else if s.unperformed x.who then s.stall x 2 else go

def execCopy (h : Hdr) (p q k : BitVec 4) (g : BitVec 7) (s : State) : Result :=
  coreOp s (fun _ => [opd g .w32, sOpd k .w32]) fun s x =>
    let n := (x.uni32 g).toNat
    s.startCopy x h p q k ⟨n, if n = 0 then 0 else 1, 0, 0⟩

def execCopy2 (h : Hdr) (p q k : BitVec 4) (g : BitVec 7) (s : State) : Result :=
  coreOp s (fun _ => [opd g .w128, sOpd k .w32]) fun s x =>
    let v := (x.src128 x.lowest g).toNat
    s.startCopy x h p q k ⟨v % 2 ^ 32, v / 2 ^ 32 % 2 ^ 32, v / 2 ^ 64 % 2 ^ 32, v / 2 ^ 96⟩

/-- The status word of COPYC before any cancellation (R113). -/
def copyStatus (c : CopySlot) (team : Nat) (seq : Nat) : Nat :=
  let left := min c.left (2 ^ 28 - 1)
  if c.state == .never || c.seq != seq then 2 ^ 28
  else if c.team != team then 2 * 2 ^ 28
  else match c.state with
    | .running => 3 * 2 ^ 28
    | .cancelled => left
    | .failed => 4 * 2 ^ 28 + left
    | _ => 2 ^ 28

def execCopyc (h : Hdr) (test : Bool) (k : BitVec 4) (g : BitVec 7) (s : State) : Result :=
  coreOp s (fun _ => [opd g .w32, sOpd k .w32]) fun s x =>
    match s.coreOf x.who with
    | none => s.illegal x
    | some core =>
      let hd := (x.uni32 g).toNat
      let slot := hd % 64
      let mine := fun s : State => (((s.core core).copies.get? slot).map fun c => copyStatus c x.g.team (hd / 65536)).getD (2 ^ 28)
      let s := if !test && mine s / 2 ^ 28 = 3 then s.stopCopy core slot .cancelled else s
      let st := mine s
      -- bytes on their way to another package may still be written
      if !test && st / 2 ^ 28 = 3 then s.stall x 2 else
      let s := if st / 2 ^ 28 = 2 ∨ st / 2 ^ 28 = 3 then s else s.acquire x.who 3
      s.retire x h (x.dstS h.n k.toNat .w32 st)

/-! ### Gives (R106, R107, R259) -/

/-- Whether what reached a hamper before GV was set has finished (R107). HGET and HPUT are performed as they issue. -/
def State.drained (s : State) (cl n : Nat) : Bool :=
  !(s.cores.any fun e =>
    (e.2.copies.any fun c => c.2.state == .running &&
      ((c.2.src.toList ++ c.2.dsts).any (fun d => match d with
        | .hamper a b _ => a == cl && b == n
        | .mem _ _ _ _ => false) || c.2.kettle.any fun k => k.1 == cl && k.2.1 == n)) ||
    ((e.2.matrix.queue ++ e.2.matrix.incoming).any fun o => o.hamper == some (cl, n)))

/-- HGIVE: GV is set and the group leaves arbitration until the give completes or is refused (R106). -/
def execHgive (h : Hdr) (p q k : BitVec 4) (g : BitVec 7) (s : State) : Result :=
  coreOp s (fun _ => [opd g .w64, sOpd k .w32]) fun s x =>
    match x.g.waitDone with
    | some st => s.done x (x.advance ({ x with g := { x.g with waitDone := none } }.dstS h.n k.toNat .w32 st)) true
    | none =>
      match s.teamOf x.g, s.mapEntry x.g p.toNat, s.coreOf x.who with
      | some t, some e, some core =>
        match e.hamper with
        | some n =>
          if e.gv then s.fault x .hamperDetached x.c.seats 0 else
          let s := s.setMapEntry x.g { e with gv := true }
          let s := s.setHamper t.cluster n { s.hamper t.cluster n with giving := true }
          s.leave x x.g (.hgive ⟨core, p.toNat, n, q.toNat, x.uni64 g, k.toNat⟩)
        | none => s.fault x .hamperDetached x.c.seats 0
      | _, _, _ => s.fault x .hamperDetached x.c.seats 0

/-- The status of a give, with the receiving group's team and team core when it is given (R106, R335, R336). -/
def State.giveTarget (s : State) (cl : Nat) (w : Give) : Nat × Option (Nat × Nat) :=
  match s.lookupName w.name with
  | none => (2, none)
  | some (gn, _) =>
    match s.groups.get? gn with
    | none => (2, none)
    | some g =>
      match s.teams.get? g.team with
      | none => (2, none)
      | some t =>
        if g.ended then (2, none)
        else if t.cluster ≠ cl then (3, none)
        else match t.entry g.tcore w.target with
          | none => (1, none)
          | some e => if e.hamper.isSome then (1, none) else (0, some (g.team, g.tcore))

/-- The give that a group waits for. -/
def Wait.give : Wait → Option Give
  | .hgive w => some w
  | _ => none

/-- The request by which a give asks the home core of a name in another package. -/
def State.giveReq (s : State) (k : Nat) : Option (Nat × Req) := s.reqs.find? fun r => r.2.who == Who.grp k && (match r.2.kind with | .give _ => true | _ => false)

/-- A give of a group whose drain set is empty, with the giver's accesses performed (R106, R107), and behind its postcards to that
name (R335). -/
def State.giveOver (s : State) (k : Nat) (g : Group) : Option (Give × Team) :=
  match s.teamOf g with
  | none => none
  | some t => ((g.waits.filterMap Wait.give).find? fun w => s.drained t.cluster w.hamper && !s.unperformed (.grp k) &&
      !s.unrouted (.here (.grp k) 0 0) w.name none).map fun w => (w, t)

/-- What a give comes to, or none while the home core of its name in another package has still to answer (R335). -/
def State.giveStatus (s : State) (k cl : Nat) (w : Give) : Option (Nat × Option (Nat × Nat)) × State :=
  if s.nameHere w.name then
    let die := s.dieOf (.grp k)
    let home := (nameCore w.name).elim die coreDie
    (some (s.giveTarget cl w), (s.cross die home).cross home die)
  else match s.giveReq k with
    | none => (none, s.sendFar (.grp k) (namePkg w.name) (.give w.name))
    | some (n, r) => match r.answer with
      | none => (none, s)
      | some a => (some (if a = .status 3 then 3 else 2, none), s.dropReq n)

/-- A give ends with a status: GV falls, and a hamper that is given moves to its entry (R106, R324). -/
def State.endGive (s : State) (g : Nat) (v : Group) (t : Team) (w : Give) (status : Nat) (to_ : Option (Nat × Nat)) : State :=
  let keep : MapEntry := ⟨w.entry, if status = 0 then none else some w.hamper, false⟩
  let s := s.setMapEntry v keep
  let k := { s.hamper t.cluster w.hamper with giving := false }
  let s := match to_ with
    | some (tn, tc) =>
      let s := s.setHamper t.cluster w.hamper { k with team := some tn }
      match s.teams.get? tn with
      | some u => { s with teams := s.teams.set tn (u.setEntry tc ⟨w.target, some w.hamper, false⟩) }
      | none => s
    | none => s.setHamper t.cluster w.hamper k
  s.modGroup (.grp g) fun v => v.answer (.hgive w) status s.now

/-- HGIVE_COMPLETE: with the drain set empty and the giver's accesses performed, the hamper moves or stays (R106, R107,
R324). -/
def execHgiveComplete (g : Nat) (s : State) : Result :=
  .next (match s.groups.get? g with
    | none => s
    | some v =>
      match s.giveOver g v with
      | none => s
      | some (w, t) =>
        match s.giveStatus g t.cluster w with
        | (some (status, to_), s) => s.endGive g v t w status to_
        | (none, s) => s)

end Sys2Proof.Machine
end

