-- ==== Sys2Proof/Machine/Matrix.lean ====
section
/-! DEFINITION. The matrix array (R188-R205, R213-R221): the checks at issue, claims and queues, and what the array does
when it performs an accepted instruction. -/

namespace Sys2Proof.Machine

open Sys2Proof

/-! ### Operand rows (R193) -/

def rowKind (m : BitVec 2) : RowKind :=
  match m.toNat with | 0 => .q8 | 1 => .q4 | 2 => .bf16 | _ => .f16

namespace RowKind

def size : RowKind → Nat
  | .q8 => 160 | .q4 => 96 | _ => 256

/-- Whether elements are decoded with a format register. -/
def narrow : RowKind → Bool
  | .q8 | .q4 => true
  | _ => false

def fmt (k : RowKind) (w : Word) : Fmt :=
  match k with | .bf16 => Machine.bf16 | .f16 => Machine.f16 | _ => fmtOf w

/-- The code of K-element j of a row. -/
def code (k : RowKind) (bs : List Byte) (j : Nat) : Nat :=
  let at_ := fun n => (bs.getD n 0).toNat
  match k with
  | .q8 => at_ (40 * (j / 32) + j % 32)
  | .q4 => at_ (24 * (j / 32) + j % 32 / 2) / 2 ^ (4 * (j % 2)) % 16
  | _ => at_ (2 * j) + 256 * at_ (2 * j + 1)

/-- The value of block scale j of a row. -/
def scale (k : RowKind) (bs : List Byte) (j : Nat) : Val :=
  match k with
  | .q8 => sx8.val (bs.getD (40 * (j / 8) + 32 + j % 8) 0).toNat
  | .q4 => sx8.val (bs.getD (24 * (j / 8) + 16 + j % 8) 0).toNat
  | _ => .fin false 1 0

/-- The 128 values and 32 scales of a row. -/
def values (k : RowKind) (w : Word) (bs : List Byte) : List Val × List Val :=
  let f := k.fmt w
  ((List.range 128).map fun j => f.val (f.codeOf (k.code bs j)), (List.range 32).map (k.scale bs))

end RowKind

/-- Column n of the weight tile a plane holds: its elements and scales. -/
def Plane.column (p : Plane) (n : Nat) : List Val × List Val := p.kind.values p.fmt (p.rows.getD n [])

/-! ### The accumulator plane -/

def AccElem.zero : AccElem := ⟨0, false⟩
def Matrix.elem (m : Matrix) (row col : Nat) : AccElem := m.acc.getD (128 * row + col) AccElem.zero
def Matrix.setElem (m : Matrix) (row col : Nat) (e : AccElem) : Matrix :=
  { m with acc := if e = AccElem.zero then m.acc.erase (128 * row + col) else m.acc.set (128 * row + col) e }

/-- An element as the array writes it: a poisoned result has no value of its own. -/
def accOf (poison : Bool) (c : Coded) : AccElem × Nat :=
  if poison then (⟨0, true⟩, 0) else (⟨BitVec.ofNat 40 c.1, false⟩, c.2)

/-- What an array instruction leaves: the matrix state and the flags raised for seats. -/
abbrev Work := Matrix × List (Nat × Nat)

/-- Rewrites one element for the seat that owns it. -/
def Work.put (w : Work) (lane row col : Nat) (e : AccElem × Nat) : Work :=
  (w.1.setElem row col e.1, if e.2 = 0 then w.2 else w.2 ++ [(lane, e.2)])

/-- The rows of a tile that the thread at a seat owns: of tile row i, the seat i mod 32 (R215). The shares of slices go with
them: DEDUCED for row slices, whose share R204 gives to `lane L` (log 21). -/
def ownedRows (lane : Nat) : List Nat := [lane, lane + 32, lane + 64, lane + 96]

/-! ### Slices (R203-R205) -/

def elemFmt (e : Nat) : Fmt :=
  match e with | 0 => f32 | 1 => bf16 | 2 => f64 | _ => a40
def elemSize (e : Nat) : Nat :=
  match e with | 0 => 4 | 1 => 2 | _ => 8

/-- An AF40 code as an element of a type, and back. -/
def toElem (rm e code : Nat) : Coded := if e = 3 then (code, 0) else (elemFmt e).ofVal rm (a40.val code)
def ofElem (rm e v : Nat) : Coded :=
  if e = 3 then (v % 2 ^ 40, 0) else a40.ofVal rm ((elemFmt e).val ((elemFmt e).codeOf v))

/-- The elements of a slice in a lane's share, and the cell of an element. -/
def shareOf (col : Bool) (lane : Nat) : List Nat :=
  (List.range 4).map fun j => if col then lane + 32 * j else 4 * lane + j
def cellOf (t : Nat) (col : Bool) (k e : Nat) : Nat × Nat := if col then (128 * t + e, k) else (128 * t + k, e)

/-- Registers a share takes, and the bits of element j among them. -/
def shareWords (e : Nat) : Nat :=
  match e with | 0 => 4 | 1 => 2 | _ => 8
def shareElem (e : Nat) (n : Nat) (j : Nat) : Nat := n / 2 ^ (8 * elemSize e * j) % 2 ^ (8 * elemSize e)
def shareNum (e : Nat) (l : List Nat) : Nat := (l.zipIdx.map fun p => p.1 * 2 ^ (8 * elemSize e * p.2)).sum

/-- Registers read as one number. -/
def wordsNum : List Word → Nat
  | [] => 0
  | w :: ws => w.toNat + 2 ^ 32 * wordsNum ws

/-! ### What the array does -/

/-- The tile rows an MMA or MMQ computes with the hamper offsets of their operand rows (R198, R200): the rows in its range
whose owner was active, less those that an index quad skips. -/
def matrixRows (lanes : List Nat) (w0 w1 : Nat) (idx : Option (List (Nat × List Word))) : List (Nat × Nat) :=
  let row0 := w1 % 128
  (List.range (w1 / 256 % 128 + 1)).filterMap fun k =>
    let i := row0 + k
    let lane := i % 32
    if !lanes.contains lane then none else
    match idx with
    | none => some (i, w0 + k * (8 * (w1 / 2 ^ 20)))
    | some q =>
      let u := (((q.find? fun p => p.1 == lane).elim [] (·.2)).getD (i / 32) 0).toNat
      if u = 0xFFFFFFFF then none else some (i, w0 + u * (8 * (w1 / 2 ^ 20)))

def MatrixOp.lanes (o : MatrixOp) : List Nat := o.owners.map (·.1)
def MatrixOp.words (o : MatrixOp) (lane : Nat) : List Word := (o.vals.find? fun p => p.1 == lane).elim [] (·.2)

/-- The rows of an MMA or MMQ, and none for any other instruction. -/
def MatrixOp.rowsOf (o : MatrixOp) : Option (RowKind × List (Nat × Nat)) :=
  match o.instr with
  | .mma _ _ _ _ m => some (rowKind m, matrixRows o.lanes o.o0 o.o1 none)
  | .mmq _ _ _ _ m => some (rowKind m, matrixRows o.lanes o.o0 o.o1 (some o.vals))
  | _ => none

/-- The hamper rows as read, with the poisoned ones by place. -/
def readRows (k : Hamper) (size : Nat) (offs : List Nat) : List (List Byte) × List Nat :=
  (offs.map fun o => k.read o size,
   (offs.zipIdx.filter fun p => k.isPoisoned p.1 size).map (·.2))

/-- MMA and MMQ: one K-step into each element of each row (R198-R200, R214-R217). -/
def Matrix.mma (m : Matrix) (o : MatrixOp) (t : Nat) (z : Bool) (kind : RowKind) (rows : List (Nat × Nat))
    (data : List (List Byte) × List Nat) : Work :=
  let cols := (List.range 128).map m.active.column
  (rows.zipIdx).foldl (fun (w : Work) p =>
    let i := p.1.1
    let (xs, sx) := kind.values o.fmt (data.1.getD p.2 [])
    let bad := data.2.contains p.2
    (List.range 128).foldl (fun (w : Work) c =>
      let acc := if z then AccElem.zero else w.1.elem (128 * t + i) c
      let (ws, sw) := cols.getD c ([], [])
      w.put (i % 32) (128 * t + i) c
        (accOf (bad || acc.poison || m.active.poison.contains c) (kStep o.arm acc.code.toNat xs ws sx sw))) w) (m, [])

/-- Every element of the rows that the active lanes own in a tile (R202). -/
def Matrix.eachOwned (m : Matrix) (lanes : List Nat) (t : Nat) (f : Nat → Nat → Nat → AccElem → AccElem × Nat) : Work :=
  lanes.foldl (fun (w : Work) lane => (ownedRows lane).foldl (fun (w : Work) i =>
    (List.range 128).foldl (fun (w : Work) c =>
      w.put lane (128 * t + i) c (f lane i c (w.1.elem (128 * t + i) c))) w) w) (m, [])

/-- Every element of a slice that an active lane has in its share. -/
def Matrix.eachShare (m : Matrix) (lanes : List Nat) (t : Nat) (col : Bool) (k : Nat)
    (f : Nat → Nat → Nat → AccElem → AccElem × Nat) : Work :=
  lanes.foldl (fun (w : Work) lane => (shareOf col lane).zipIdx.foldl (fun (w : Work) p =>
    let (r, c) := cellOf t col k p.1
    w.put lane r c (f lane p.2 p.1 (w.1.elem r c))) w) (m, [])

/-- A matrix instruction as one step on a core's state and the hamper it names: what is left of both, and flags. -/
def Matrix.perform (m : Matrix) (o : MatrixOp) (ham : Hamper) : Work × Option Hamper :=
  let f32At := fun c => (leNat (ham.read (o.o0 + 4 * c) 4), ham.isPoisoned (o.o0 + 4 * c) 4)
  match o.instr with
  | .ldw _ _ _ _ k =>
    let kind := rowKind k
    let r := readRows ham kind.size ((List.range 128).map fun n => o.o0 + n * kind.size)
    (({ m with shadow := ⟨kind, o.fmt, r.1, r.2⟩ }, []), none)
  | .swapw _ => (({ m with active := m.shadow, shadow := m.active }, []), none)
  | .mma h t _ _ _ | .mmq h t _ _ _ =>
    match o.rowsOf with
    | none => ((m, []), none)
    | some (kind, rows) =>
      let data := o.rows.getD (readRows ham kind.size (rows.map (·.2)))
      (m.mma o t.toNat (h.ord / 2 % 2 == 1) kind rows data, none)
  | .tzero _ t => (m.eachOwned o.lanes t.toNat fun _ _ _ _ => (AccElem.zero, 0), none)
  | .scacc _ t _ _ k =>
    (m.eachOwned o.lanes t.toNat fun lane i c e =>
      let (v, bad) := match k.toNat with
        | 0 => (((o.words lane).getD (i / 32) 0).toNat, false)
        | 2 => (((o.words lane).getD 0 0).toNat, false)
        | _ => f32At c
      accOf (e.poison || bad) (if k.toNat = 3 then a40.add o.rm (a40.val e.code.toNat) (f32.val v)
        else a40.mul o.rm (a40.val e.code.toNat) (f32.val v)), none)
  | .twr _ t col _ _ u =>
    let ty := u.toNat / 64
    (m.eachShare o.lanes t.toNat col o.o0 fun lane j _ _ =>
      accOf false (ofElem o.rm ty (shareElem ty (wordsNum (o.words lane)) j)), none)
  | .tscl _ t col _ _ _ =>
    (m.eachShare o.lanes t.toNat col o.o0 fun lane j _ e =>
      accOf e.poison (a40.mul o.rm (a40.val e.code.toNat) (f32.val ((o.words lane).getD j 0).toNat)), none)
  | .tld _ t col _ _ u =>
    let ty := u.toNat / 64
    (m.eachShare o.lanes t.toNat col o.o0 fun _ _ e _ =>
      let at_ := o.o1 + e * elemSize ty
      accOf (ham.isPoisoned at_ (elemSize ty)) (ofElem o.rm ty (leNat (ham.read at_ (elemSize ty)))), none)
  | .tst _ t col _ _ u =>
    let ty := u.toNat / 64
    let r := o.lanes.foldl (fun (r : Hamper × List (Nat × Nat)) lane => (shareOf col lane).foldl (fun (r : Hamper × List (Nat × Nat)) e =>
      let cell := cellOf t.toNat col o.o0 e
      let v := m.elem cell.1 cell.2
      let c := if v.poison then (0, 0) else toElem o.rm ty v.code.toNat
      let at_ := o.o1 + e * elemSize ty
      let k := r.1.write at_ (leBytes (elemSize ty) c.1)
      (if v.poison then k.poisonRange at_ (elemSize ty) else k, if c.2 = 0 then r.2 else r.2 ++ [(lane, c.2)])) r) (ham, [])
    ((m, r.2), some r.1)
  | _ => ((m, []), none)

/-! ### Claims, queues and the performance of accepted instructions (R189, R191, R201, R216, R221) -/

/-- A team claims a core's matrix state: planes and accumulator are zero (R189, R213). -/
def State.claimCore (s : State) (c team : Nat) : State :=
  let k := s.core c
  s.setCore c { k with matrix := { Matrix.reset with claim := some team, incoming := k.matrix.incoming,
                                                     active := { Plane.zero with kind := .bf16 },
                                                     shadow := { Plane.zero with kind := .bf16 } } }

/-- A claim is released: groups that wait for the core look again. -/
def State.releaseClaim (s : State) (c : Nat) : State :=
  let k := s.core c
  let s := s.setCore c { k with matrix := { Matrix.reset with incoming := k.matrix.incoming } }
  { s with groups := s.groups.map fun (e : Nat × Group) =>
      (e.1, if e.2.wait == some .claim && (e.2.place.any fun p => p.core == c) then e.2.endWait s.now else e.2) }

/-- The flags of rows reach the thread that owned them at issue, unless it has exited (R215, R216). -/
def State.ownerFlags (s : State) (o : MatrixOp) (l : List (Nat × Nat)) : State :=
  match s.groups.get? o.group with
  | none => s
  | some g =>
    let ks := (s.teamOf g).elim [] (·.groups)
    l.foldl (fun (s : State) p =>
      match (o.owners.find? fun q => q.1 == p.1) with
      | none => s
      | some (_, th) => ks.foldl (fun (s : State) k => s.modGroup (.grp k) fun g =>
          { g with lanes := g.lanes.map fun (l : Lane) =>
              if l.thread == some th && l.mode != LaneMode.exited then l.raise p.2 else l }) s) s

/-- The other cores that hold a copy of a .sh operation. -/
def State.shCopies (s : State) (n : Nat) (incoming : Bool) : List Nat :=
  (s.cores.filter fun e => (if incoming then e.2.matrix.incoming else e.2.matrix.queue).any fun o => o.sh == some n && !o.home).map (·.1)

/-- Whether a team core lets the stream of a .sh product advance: it has accepted the product, and everything that it accepted
earlier is done (R201, R221). -/
def Matrix.takesStream (m : Matrix) (n : Nat) : Bool := m.queue.head?.any fun o => o.sh == some n

/-- The team of an operation's group. -/
def State.opTeam (s : State) (o : MatrixOp) : Nat := (s.groups.get? o.group).elim 0 (·.team)

/-- Whether the head of a core's queue can be performed: not in the clock of its acceptance, in which an instruction of a
lower slot may still go before it (R191); the stream of a .sh product once every team core has come to it, and on a team core when
its rows have come (R201, R221). -/
def State.matrixReady (s : State) (c : Nat) : Bool :=
  match (s.core c).matrix.queue with
  | [] => false
  | o :: _ =>
    decide (o.time < s.now) &&
    (if o.rowsOf.isNone then true else
    match o.sh with
    | none => true
    | some n => if o.home then
        (s.shCopies n true).isEmpty && (s.shCopies n false).all fun d => (s.core d).matrix.takesStream n
      else o.rows.isSome)

/-- What one core raised for a .sh operation waits with the copies that other cores have still to perform: the flags are ORed
into FL when the last of them has (R216). -/
def State.flagsOf (s : State) (o : MatrixOp) (l : List (Nat × Nat)) : State :=
  let same := fun (q : MatrixOp) => o.sh.isSome && q.sh == o.sh
  if s.cores.any fun e => (e.2.matrix.queue ++ e.2.matrix.incoming).any same then
    let add := fun (q : MatrixOp) => if same q then { q with raised := q.raised ++ l } else q
    { s with cores := s.cores.map fun (e : Nat × Core) =>
        (e.1, { e.2 with matrix := { e.2.matrix with queue := e.2.matrix.queue.map add, incoming := e.2.matrix.incoming.map add } }) }
  else s.ownerFlags o (o.raised ++ l)

/-- Groups that wait in BAR for their matrix instructions look again (R210). -/
def State.wakeBars (s : State) : State :=
  { s with groups := s.groups.map fun (e : Nat × Group) =>
      (e.1, if e.2.wait == some Wait.bar && !s.matrixPending (.grp e.1) then e.2.endWait s.now else e.2) }

/-- MATRIX_PERFORM: the array performs the oldest accepted instruction as one step (R191). -/
def execMatrixPerform (core : Nat) (s : State) : Result :=
  .next (if !s.matrixReady core then s else
    let k := s.core core
    match k.matrix.queue with
    | [] => s
    | o :: rest =>
      let ham := o.hamper.elim Hamper.reset fun p => s.hamper p.1 p.2
      let data := o.rowsOf.map fun r => o.rows.getD (readRows ham r.1.size (r.2.map (·.2)))
      let o := { o with rows := data }
      -- the rows of a .sh product reach every team core
      let s := match o.sh with
        | some n => if !o.home then s else
          let give := fun (q : MatrixOp) => if q.sh == some n && !q.home then { q with rows := data, hamper := none } else q
          { s with cores := s.cores.map fun (e : Nat × Core) =>
              (e.1, { e.2 with matrix := { e.2.matrix with queue := e.2.matrix.queue.map give,
                                                           incoming := e.2.matrix.incoming.map give } }) }
        | none => s
      let (w, h) := k.matrix.perform o ham
      let s := s.setCore core { s.core core with matrix := { w.1 with queue := rest, incoming := (s.core core).matrix.incoming } }
      let s := match h, o.hamper with
        | some v, some (cl, n) =>
          let s := s.setHamper cl n v
          { s with groups := s.groups.map fun (e : Nat × Group) =>
              (e.1, match e.2.wait with
                | some (.kwait a b _) => if a = cl ∧ b = n then e.2.endWait s.now else e.2
                | _ => e.2) }
        | _, _ => s
      (s.flagsOf o w.2).wakeBars)

/-- The oldest .sh operation on its way to a core of a team that may use the core: those of another team than the claiming
one wait, and hold back no other team's (R201). -/
def State.arriving (s : State) (core : Nat) : Option MatrixOp :=
  let k := (s.core core).matrix
  k.incoming.find? fun o => k.claim.all (· == s.opTeam o)

/-- SH_ARRIVAL: a .sh operation on its way to a core is accepted there, when the core is unclaimed or the team's own and its
queue has room (R201). One group's operations arrive in the order of their issue (R210). DESIGN CHOICE: so do those of
different groups and teams, whose order at a core the spec leaves open; two streams that two cores accepted in opposite orders would
wait for each other for ever under R221 (log 94). -/
def execShArrival (core : Nat) (s : State) : Result :=
  .next (match s.arriving core with
    | none => s
    | some o =>
      if 32 ≤ (s.core core).matrix.queue.length then s else
      let s := if (s.core core).matrix.claim.isNone then s.claimCore core (s.opTeam o) else s
      let c := s.core core
      s.setCore core { c with matrix := { c.matrix with queue := c.matrix.queue ++ [{ o with slot := 4, time := s.now }],
                                                        incoming := c.matrix.incoming.erase o } })

/-! ### Issue (R188-R192) -/

/-- The active seats with their threads (R215). -/
def Ctx.owners (x : Ctx) : List (Nat × Nat) := x.c.seats.map fun i => (i, ((x.g.lane i).thread).getD 0)

/-- Active seats whose threads share a logical lane (R215). -/
def Ctx.sharing (x : Ctx) : List Nat :=
  x.c.seats.filter fun i => x.c.seats.any fun j => i != j && (x.g.lane i).logical == (x.g.lane j).logical

/-- A matrix instruction outside any transaction: what the solo profile and R270 bar comes first, then the descriptor's
ILLEGAL, then WINDOW and stalls on operands. Operands are read in the lowest active lane, unless they are `laned`. -/
def matrixOp (s : State) (os : List Opd) (bad : State → Ctx → Bool) (f : State → Ctx → State) (reads : List Opd := os)
    (laned : Bool := false) : Result :=
  notSolo s (withCtx s fun x => outsideTx s x fun s x =>
    if x.g.heldBy x.c.seats (os.flatMap x.keys) then s.stall x 3
    else if bad s x then s.illegal x
    else (s.ready x os reads (if laned then x.c.seats else x.readers)).getD (f s x))

/-- INDEX_BOUND for active threads that share a logical lane (R215), after the range checks of the instruction. DESIGN
CHOICE: R192 does not order the two, and R352 gives as TVAL an out-of-range value that there is not; the model stores the
shared logical lane (log 21). -/
def State.distinct (s : State) (x : Ctx) (go : State) : State :=
  match x.sharing with
  | [] => go
  | i :: l => s.fault x .indexBound (i :: l) (BitVec.ofNat 64 (x.g.lane (lowSeat (i :: l))).logical)

/-- The hamper steps of R192 for a range of offsets: `out` are the seats that fail CAP_BOUND, each with its offset. -/
def matrixHamper (s : State) (x : Ctx) (hm off : Nat) (out : List (Nat × Nat)) (mis : Bool) (go : Nat × Nat → State) : State :=
  match s.attached x.g hm with
  | none => s.fault x .hamperDetached x.c.seats (BitVec.ofNat 64 off)
  | some p =>
    if !out.isEmpty then
      let ls := out.map (·.1)
      s.fault x .capBound ls (BitVec.ofNat 64 ((out.find? fun q => q.1 == lowSeat ls).elim 0 (·.2)))
    else if mis then s.fault x .misaligned x.c.seats (BitVec.ofNat 64 off)
    else go p

/-- Every active seat fails at an offset when a test holds. -/
def Ctx.allOut (x : Ctx) (b : Bool) (off : Nat) : List (Nat × Nat) := if b then x.c.seats.map fun i => (i, off) else []

/-- The claim of the core, then `go` on it; a group whose core another team has claimed leaves arbitration (R189). -/
def State.withClaim (s : State) (x : Ctx) (go : State → Nat → State) : State :=
  match s.coreOf x.who with
  | none => s.illegal x
  | some c => match (s.core c).matrix.claim with
    | none => go (s.claimCore c x.g.team) c
    | some t => if t = x.g.team then go s c else s.leave x x.g .claim

/-- Acceptance in the order of slots among instructions issued in one clock (R191): the operation goes before those that
higher slots have had accepted in this clock. -/
def Matrix.enqueue (m : Matrix) (o : MatrixOp) : Matrix :=
  let later := fun q : MatrixOp => q.time == o.time && decide (o.slot < q.slot) && decide (q.slot < 4)
  let tail := (m.queue.reverse.takeWhile later).reverse
  { m with queue := m.queue.take (m.queue.length - tail.length) ++ o :: tail }

/-- Acceptance into the queue of 32 (R191), and the copies of a .sh operation on their way to the team's cores (R201). An
instruction of a lower slot than a TRD of the same clock issues in a later clock, and a .sh operation once those of its team that
were issued before it have come to its own core, so that every core accepts a team's in the order of issue (log 94). -/
def State.accept (s : State) (x : Ctx) (h : Hdr) (sh : Bool) (o : MatrixOp) : State :=
  s.withClaim x fun s c =>
    let k := s.core c
    let slot := x.g.place.elim 4 fun p => p.slot
    if 32 ≤ k.matrix.queue.length || (k.lastTrd.1 == s.now && decide (slot < k.lastTrd.2)) ||
      (sh && k.matrix.incoming.any fun q => s.opTeam q == x.g.team) then s.stall x 5 else
    let others := match s.teamOf x.g with
      | some t => if sh then ((List.range t.span).map (· + t.base)).filter (· != c) else []
      | none => []
    let n := s.queued
    let o := { o with sh := if others.isEmpty then none else some n, home := true, time := s.now }
    let k := s.core c
    let s := { s with queued := if others.isEmpty then n else n + 1 }.setCore c { k with matrix := k.matrix.enqueue o }
    let s := others.foldl (fun (s : State) d =>
      let k := s.core d
      s.setCore d { k with matrix := { k.matrix with incoming := k.matrix.incoming ++ [{ o with home := false }] } }) s
    s.retire x h x.g

/-- An operation with what every matrix instruction takes at its acceptance. -/
def Ctx.matrixOf (x : Ctx) (i : Instr) (o0 o1 : Nat) (vals : Nat → List Word) (fmt : Word) (hamper : Option (Nat × Nat))
    (rm : Nat) : MatrixOp :=
  { instr := i, group := (match x.who with | .grp g => g | .ctl _ => 0), owners := x.owners, o0, o1,
    vals := x.c.seats.map fun i => (i, vals i), fmt, hamper, rm, arm := x.u.fpARM,
    sh := none, rows := none, home := true, slot := (x.g.place.elim 4 fun p => p.slot), time := 0, raised := [] }

/-- Registers of a lane operand; zero and ones read as 0 and all ones at any width (R17). -/
def Ctx.laneWords (x : Ctx) (v : Code) (n : Nat) (i : Nat) : List Word :=
  (List.range n).map fun j => x.src32 i (if v = 112 ∨ v = 119 then v else v + BitVec.ofNat 7 j)

/-- The format register of narrow rows, when R160 lets it be used; 16-bit kinds need none. -/
def State.rowFmt (s : State) (x : Ctx) (f : BitVec 3) (m : BitVec 2) : Option Word :=
  if (rowKind m).narrow then (s.narrowFmt x.who f m).map fun _ => s.fmtReg x.who f.toNat else some 0

def execLdw (h : Hdr) (hm : BitVec 4) (a : BitVec 7) (f : BitVec 3) (m : BitVec 2) (s : State) : Result :=
  matrixOp s [opd a .w32] (fun s x => (s.rowFmt x f m).isNone) fun s x =>
    let o := (x.uni32 a).toNat
    matrixHamper s x hm.toNat o (x.allOut (decide (131072 < o + 128 * (rowKind m).size)) o) (o % 8 != 0) fun p =>
      s.accept x h false (x.matrixOf (.ldw h hm a f m) o 0 (fun _ => []) ((s.rowFmt x f m).getD 0) (some p) x.u.fpRM)

def execSwapw (h : Hdr) (s : State) : Result :=
  matrixOp s [] (fun _ _ => false) fun s x =>
    s.accept x h (h.ord % 2 == 1) (x.matrixOf (.swapw h) 0 0 (fun _ => []) 0 none x.u.fpRM)

/-- MMA and MMQ up to their acceptance (R197, R198, R200). The range check goes before that of shared lanes (log 21). -/
def mmaOp (s : State) (h : Hdr) (hm : BitVec 4) (b : Code) (m : BitVec 2) (idx : Option Code) (i : Instr) : Result :=
  let word1 := fun x : Ctx => (x.uni32 (b + 1)).toNat
  let afmt := fun x : Ctx => BitVec.ofNat 3 (word1 x / 2 ^ 16)
  matrixOp s (opd b .w64 :: (idx.map fun c => opd c .w128).toList)
    (fun s x => word1 x / 2 ^ 19 % 2 = 1 || word1 x / 2 ^ 15 % 2 = 1 || word1 x / 2 ^ 7 % 2 = 1 ||
      (!(rowKind m).narrow && afmt x != 0) || (s.rowFmt x (afmt x) m).isNone)
    (laned := idx.isSome) fun s x =>
      let w0 := (x.uni32 b).toNat
      let w1 := word1 x
      let last := w1 % 128 + w1 / 256 % 128
      if 127 < last then s.fault x .indexBound x.c.seats (BitVec.ofNat 64 last) else
      s.distinct x
        (let vals := fun i => match idx with
           | some c => x.laneWords c 4 i
           | none => []
         let size := (rowKind m).size
         let one := fun i => matrixRows [i] w0 w1 (idx.map fun _ => [(i, vals i)])
         let far := x.c.seats.filterMap fun i => ((one i).find? fun r => decide (131072 < r.2 + size)).map fun r => (i, r.2)
         let out := match idx, far with
           | none, r :: _ => x.c.seats.map fun i => (i, r.2)
           | _, l => l
         matrixHamper s x hm.toNat w0 out (w0 % 8 != 0) fun p =>
           s.accept x h (h.ord % 2 == 1) (x.matrixOf i w0 w1 vals ((s.rowFmt x (afmt x) m).getD 0) (some p) x.u.fpRM))

def execMma (h : Hdr) (t : BitVec 3) (hm : BitVec 4) (b : BitVec 7) (m : BitVec 2) (s : State) : Result :=
  mmaOp s h hm b m none (.mma h t hm b m)
def execMmq (h : Hdr) (t : BitVec 3) (hm : BitVec 4) (b : BitVec 7) (m : BitVec 2) (s : State) : Result :=
  mmaOp s h hm b m (some (BitVec.ofNat 7 h.third)) (.mmq h t hm b m)

def execTzero (h : Hdr) (t : BitVec 3) (s : State) : Result :=
  matrixOp s [] (fun _ _ => false) fun s x =>
    s.distinct x (s.accept x h false (x.matrixOf (.tzero h t) 0 0 (fun _ => []) 0 none x.u.fpRM))

/-- SCACC (R202): its factors come from registers, or from 512 bytes of a hamper. -/
def execScacc (h : Hdr) (t : BitVec 3) (a b : BitVec 7) (m : BitVec 2) (s : State) : Result :=
  let hamper := m.getLsbD 0
  matrixOp s [(a, if m = 0 then 4 else 1)] (fun _ _ => false) (laned := !hamper) fun s x =>
    s.distinct x
      (let go := fun (o : Nat) (vals : Nat → List Word) (p : Option (Nat × Nat)) =>
         s.accept x h false (x.matrixOf (.scacc h t a b m) o 0 vals 0 p (x.seen.mode h.ord))
       if hamper then
         let o := (x.uni32 a).toNat
         matrixHamper s x (b.toNat % 16) o (x.allOut (decide (131072 < o + 512)) o) (o % 4 != 0) fun p => go o (fun _ => []) (some p)
       else go 0 (fun i => if m = 0 then x.laneWords a 4 i else [x.src32 i a]) none)

/-! ### Slices: TRD, TWR, TLD, TST, TSCL -/

/-- The operands of a TILE word: the index register, or the pair that holds the index and the hamper offset. -/
def tileOpd (i : BitVec 4) (hamper : Bool) : Opd := sOpd i (if hamper then .w64 else .w32)

/-- A slice instruction with its index in range, and then its lanes distinct (R203, R215; log 21). -/
def sliceOp (s : State) (i : BitVec 4) (u : Nat) (os : List Opd) (hamper : Bool) (f : State → Ctx → Nat → State)
    (reads : List Opd := os) : Result :=
  matrixOp s (tileOpd i hamper :: os) (fun _ _ => false) (reads := reads) (laned := true) fun s x =>
    let k := (x.sreg i).toNat + u % 64
    if 127 < k then s.fault x .indexBound x.c.seats (BitVec.ofNat 64 k) else s.distinct x (f s x k)

/-- TRD reads its share once no earlier matrix instruction of the core is unfinished (R191, R205). -/
def execTrd (h : Hdr) (t : BitVec 3) (col : Bool) (i : BitVec 4) (v : BitVec 7) (u : BitVec 8) (s : State) : Result :=
  let ty := u.toNat / 64
  sliceOp s i u.toNat [(v, shareWords ty)] false (reads := []) fun s x k =>
    s.withClaim x fun s c =>
      let m := (s.core c).matrix
      if !m.queue.isEmpty then s.stall x 1 else
      let cells := fun seat => (shareOf col seat).map fun e =>
        let p := cellOf t.toNat col k e
        m.elem p.1 p.2
      let bad := x.c.seats.filter fun seat => (cells seat).any (·.poison)
      if !bad.isEmpty then
        s.fault x .poison bad (BitVec.ofNat 64 (((shareOf col (lowSeat bad)).map fun e =>
          let p := cellOf t.toNat col k e
          (128 * p.1 + p.2, (m.elem p.1 p.2).poison)).find? (·.2) |>.elim 0 (·.1)))
      else
        let r := fun seat => (cells seat).map fun e => toElem x.u.fpRM ty e.code.toNat
        let num := fun seat => shareNum ty ((r seat).map (·.1))
        let s := s.setCore c { s.core c with lastTrd := (s.now, x.g.place.elim 4 fun p => p.slot) }
        s.retire x h (x.g.modLanes x.c.seats fun seat l =>
          let l := (l.push (BitVec.ofNat 64 (num seat))).raise ((r seat).foldl (fun f c => f ||| c.2) 0)
          if h.n then l else l.setRegs (x.wb + v.toNat) (words (shareWords ty) (num seat)) false)

def execTwr (h : Hdr) (t : BitVec 3) (col : Bool) (i : BitVec 4) (v : BitVec 7) (u : BitVec 8) (s : State) : Result :=
  let n := shareWords (u.toNat / 64)
  sliceOp s i u.toNat [(v, n)] false fun s x k =>
    s.accept x h false (x.matrixOf (.twr h t col i v u) k 0 (x.laneWords v n) 0 none x.u.fpRM)

def execTscl (h : Hdr) (t : BitVec 3) (col : Bool) (i : BitVec 4) (v : BitVec 7) (u : BitVec 6) (s : State) : Result :=
  sliceOp s i u.toNat [(v, 4)] false fun s x k =>
    s.accept x h false (x.matrixOf (.tscl h t col i v u) k 0 (x.laneWords v 4) 0 none x.u.fpRM)

/-- TLD and TST: the offset is s(I + 1) plus the prefix's 8-byte units (R203, R204). -/
def tileMove (s : State) (h : Hdr) (i hm : BitVec 4) (u : BitVec 8) (ins : Instr) : Result :=
  let size := elemSize (u.toNat / 64)
  sliceOp s i u.toNat [] true fun s x k =>
    let o := (x.sr (i.toNat + 1)).toNat + 8 * h.ext
    matrixHamper s x hm.toNat o (x.allOut (decide (131072 < o + 128 * size)) o) (o % size != 0) fun p =>
      s.accept x h false (x.matrixOf ins k o (fun _ => []) 0 (some p) x.u.fpRM)

def execTld (h : Hdr) (t : BitVec 3) (col : Bool) (i hm : BitVec 4) (u : BitVec 8) (s : State) : Result :=
  tileMove s h i hm u (.tld h t col i hm u)
def execTst (h : Hdr) (t : BitVec 3) (col : Bool) (i hm : BitVec 4) (u : BitVec 8) (s : State) : Result :=
  tileMove s h i hm u (.tst h t col i hm u)

end Sys2Proof.Machine
end

