-- ==== Sys2Proof/Machine/Memory.lean ====
section
/-! DEFINITION. Loads and stores (R93-R97), atomics (R98, R99, R396), fences and cache control (R100-R102). An access is
performed at its home slice when it issues, or, by the hardware's choice, waits in flight until the slice takes it up
(R234, R249). -/

namespace Sys2Proof.Machine

open Sys2Proof

/-! ### Transactional accesses of one lane (R308, R311, R312, R318) -/

def Tx.addLine (l : List Nat) (line : Nat) : List Nat := sInsert l line

/-- A transactional load: a control core reads its hidden writes and memory and tracks the line; a compute lane logs, and goes
to the home slice for what neither it nor the near cache holds. None is CAPACITY. -/
def State.txReadLane (s : State) (x : Ctx) (i a n : Nat) (tag : Bool) (near : Option NearSector := none) :
    Option (List Byte × Bool × State) :=
  match ((s.group? x.who).getD x.g |>.lane i).tx with
  | none => none
  | some t =>
    if x.solo then
      let bs := (List.range n).map fun j => (t.buffered (a + j)).getD (s.byte (a + j))
      let tg := ((t.buf.find? fun e => e.granule == a / 16).map (·.tag)).getD (s.tagAt a)
      some (bs, tg, (s.performLoad x.who a).modGroup x.who fun g =>
        g.modLane i fun l => { l with tx := l.tx.map fun t => { t with rset := sInsert t.rset (a / 128) } })
    else (s.txLoad t a n tag near).map fun r =>
      let s := if near.isSome || t.holds a n tag then s else s.performLoad x.who a
      (r.2.1, r.2.2, s.modGroup x.who fun g => g.modLane i fun l => { l with tx := some r.1 })

/-- A transactional store. None is CAPACITY. -/
def State.txWriteLane (s : State) (x : Ctx) (i a : Nat) (bs : List Byte) (tag : Bool) (how : Stored) : Option State :=
  match ((s.group? x.who).getD x.g |>.lane i).tx with
  | none => none
  | some t => (s.txStore (s.coreOf x.who) t a bs tag how).map fun t =>
    match ctlOf x.who with
    | some c =>
      let s := (s.txConflict (some c) (a / 128) true).dirWrite (a / 128) (some c)
      s.modGroup x.who fun g => g.modLane i fun l => { l with tx := some { t with wset := sInsert t.wset (a / 128) } }
    | none => s.modGroup x.who fun g => g.modLane i fun l => { l with tx := some t }

/-! ### Loads -/

/-- What the lanes of an instruction have got so far: values by seat, lanes still in flight, lanes out of capacity. -/
structure Got where
  s     : State
  vals  : List (Nat × List Byte × Bool)
  later : List Nat
  full  : List Nat

/-- Whether a lane's read takes a byte, or the tag it asks for, from outside its transaction (R311). -/
def Lane.readsOutside (l : Lane) (a n : Nat) (tag : Bool) : Bool := l.tx.elim true fun t => !t.holds a n tag

/-- The lane whose read serves a lane: its own, but for one access of a whole path, which serves every lane outside a transaction
together (R94). -/
def Access.server (a : Access) (x : Ctx) (i : Nat) : Nat :=
  if a.whole && (x.g.lane i).tx.isNone then ((x.g.byLogical x.c.seats).find? fun j => (x.g.lane j).tx.isNone).getD i else i

/-- The lanes of a read that take poisoned data (R243): `bad` says of a lane whether what serves it is poisoned. -/
def Access.poisonsBy (a : Access) (s : State) (x : Ctx) (addr : Nat → Nat) (tag : Bool) (bad : Nat → Bool) : List (Nat × Dword) :=
  (x.c.seats.filter fun i =>
      !a.remote s (if a.whole then x.lowest else i) && bad (a.server x i) && (x.g.lane i).readsOutside (addr i) a.size tag).map
    fun i => (i, BitVec.ofNat 64 (a.offset i / 32 * 32))

/-- Whether a read at the home slice takes poisoned data: the slice's, or on a control core its own copy's (R242). -/
def State.badAt (s : State) (x : Ctx) (p n : Nat) : Bool :=
  s.poisoned p n || (ctlOf x.who).any fun c => (blocks 32 p n).any fun k => s.badCopies.contains (c, k)

/-- The poisoned lanes of a read at the home slice. -/
def poisonedReads (a : Access) (s : State) (x : Ctx) (addr : Nat → Nat) : List (Nat × Dword) :=
  if s.poison.isEmpty && s.badCopies.isEmpty then [] else a.poisonsBy s x addr false fun i => s.badAt x (addr i) a.size

/-- The sector of the near cache that serves a lane's weak load, where the hardware takes it from there (R96, R231). -/
def State.nearHit (s : State) (x : Ctx) (a : Access) (addr : Nat → Nat) (i : Nat) : Option NearSector :=
  if a.ord ≠ 0 || !s.bits.getD i false then none
  else (s.coreOf x.who).bind fun c => (s.core c).near.get? (addr i / 32)

/-- The poisoned lanes of a load: poison is that of the copy which serves the lane (R231, R243). -/
def poisonedLoads (a : Access) (tag : Bool) (s : State) (x : Ctx) (addr : Nat → Nat) : List (Nat × Dword) :=
  a.poisonsBy s x addr tag fun i => match s.nearHit x a addr i with
    | some e => e.poison
    | none => s.badAt x (addr i) a.size

/-- The hardware may keep what a weak load has brought in (R96). -/
def State.mayFill (s : State) (x : Ctx) (a : Access) (p : Nat) : State :=
  match s.coreOf x.who with
  | some c => if a.ord = 0 then
      let (f, s) := s.bit
      if f then s.nearFill c (p / 32) else s
    else s
  | none => s

/-- One lane's load; `near` names the sector that serves it from the near cache. -/
def Got.load (r : Got) (x : Ctx) (a : Access) (addr : Nat → Nat) (tag later : Bool) (near : Option NearSector) (i : Nat) : Got :=
  let p := addr i
  if (x.g.lane i).tx.isSome then
    match r.s.txReadLane x i p a.size tag near with
    | none => { r with full := r.full ++ [i] }
    | some (bs, t, s) => { r with s := if near.isSome then s else s.mayFill x a p, vals := r.vals ++ [(i, bs, t)] }
  else
    match near with
    | some e => { r with vals := r.vals ++ [(i, (e.bytes.drop (p % 32)).take a.size, e.tags.getD (p % 32 / 16) false)] }
    | none =>
      if later then { r with later := r.later ++ [i] }
      else
        let s := r.s.performLoad x.who p (some (a.key r.s x i))
        { r with s := s.mayFill x a p, vals := r.vals ++ [(i, s.bytes p a.size, s.tagAt p)] }

/-- What has come back for remote lanes: none when the instruction must wait or stop, with the state that follows. -/
def State.remoteAnswers (s : State) (x : Ctx) (a : Access) (rs : List Nat) : Option State :=
  let ans := rs.map fun i => (i, (s.remoteReq x i).bind fun r => r.2.answer)
  let lanesOf := fun (p : FabricAnswer → Bool) => (ans.filter fun q => q.2.any p).map (·.1)
  let bad := lanesOf fun r => r == .extentError
  let ill := lanesOf fun r => r == .poisoned
  let lost := lanesOf fun r => (fabricReason r).isSome
  let absent := lanesOf isAbsent
  if ans.any fun q => q.2.isNone then some (s.stall x 2)
  else if !bad.isEmpty then some ((s.sampleFailed x a bad 0 .untranslatedFar).fault x .extentError (a.mask x bad) (keyVal (a.key s x (lowSeat bad))))
  else if !ill.isEmpty then
    some ((s.sampleFailed x a ill 0 .far).fault x .poison (a.mask x ill) (BitVec.ofNat 64 (a.offset (lowSeat ill) / 32 * 32)))
  else if !lost.isEmpty then
    let r := s.remoteReq x (lowSeat lost)
    let why := (r.bind fun q => q.2.answer.bind fabricReason).getD 1
    some ((s.sampleFailed x a lost 0 (if why = 1 then .lost else if why = 3 then .noAsn else .far)).fault x .fabric (a.mask x lost) (fabricVal why (a.cap (lowSeat lost)).pkg ((r.bind fun q => q.2.num).getD 0)))
  else if !absent.isEmpty then
    let far := ans.filterMap fun q => (q.2.filter isAbsent).map fun r => (q.1, r)
    let s := absent.foldl (fun (s : State) i => (s.remoteReq x i).elim s fun r => s.answered r.1) s
    some (s.parkAbsent x a [] far fun s x => s.stall x 2)
  else none

/-- The bytes and tag of an answer. -/
def FabricData (r : FabricAnswer) : List Byte × Bool :=
  match r with
  | .data bs t => (bs, t)
  | _ => ([], false)

/-- Sends the reads of remote lanes once, then waits for their answers (R398). `some` is the state that waits or stops. -/
def State.remoteReads (s : State) (x : Ctx) (a : Access) (rs : List Nat) (kind : ReqKind) : Option State :=
  let unsent := rs.filter fun i => (s.remoteReq x i).isNone
  if !unsent.isEmpty then
    some ((unsent.foldl (fun (s : State) i => s.sendRemote x (a.key s x i) (a.offset i) i kind) s).stall x 2)
  else s.remoteAnswers x a rs

/-- The answers of remote lanes, taken. -/
def State.takeAnswers (s : State) (x : Ctx) (rs : List Nat) : List (Nat × List Byte × Bool) × State :=
  (rs.map fun i =>
      let d := (((s.remoteReq x i).bind fun r => r.2.answer).map FabricData).getD ([], false)
      (i, d.1, d.2),
   rs.foldl (fun (s : State) i => (s.remoteReq x i).elim s fun r => s.dropReq r.1) s)

/-- A request of a lane to a home slice of the package, in flight (R234). -/
def State.inFlight (s : State) (x : Ctx) (a : Access) (addr : Nat → Nat) (i : Nat) (kind : ReqKind) (dest : Option Nat)
    (latch : List (Nat × Nat)) : State :=
  let r : Req := { who := x.who, seat := i, kind, strong := a.ord != 0, addr := addr i, key := a.key s x i, asn := s.asnOf x.who, dest, latch,
                   done := false, answer := none, value := [], tag := false, gen := s.genOf (s.injectors x.who), rehome := false, bounced := false,
                   remote := none, num := none, sends := 0, sentAt := s.now, pc := x.c.addr,
                   cseq := s.cseqOf (sliceDie (s.translationSlice (a.key s x i))) }
  { s with reqs := s.reqs.set s.reqs.fresh r }

/-- The result of a load as its registers take it: extended as the size code states (R14, R93). -/
def loadValue (code : Nat) (bs : List Byte) : Nat :=
  let n := leNat bs
  if code = 6 then (readInt 8 true n % (2 ^ 32 : Int)).toNat
  else if code = 7 then (readInt 16 true n % (2 ^ 32 : Int)).toNat
  else n

/-- The latches that a result which lands after its instruction belongs to (R21): each seat's own, but for a uniform
destination, where every seat takes the value of the lowest active lane. -/
def Ctx.latchesOf (x : Ctx) (g : Group) (d : Code) (i : Nat) : List (Nat × Nat) :=
  let at_ := fun j => (j, (g.lane j).pushes)
  if !uniform d then [at_ i] else if i = x.lowest then x.c.seats.map at_ else []

/-- A lane's register result that lands after its instruction: registers, tags and the latches that pushes made for it. -/
def Group.land (g : Group) (i : Nat) (dest : Option Nat) (latch : List (Nat × Nat)) (w : Width) (v : Nat) (tag : Bool) : Group :=
  let put := fun (ls : List Dword) (n k : Nat) =>
    if k ≤ n ∧ n - k < 8 then ls.set (n - k) (BitVec.ofNat 64 (v % 2 ^ (32 * widthWords w))) else ls
  let g := match dest with
    | some d => g.modLane i fun l => l.setRegs d (words (widthWords w) v) tag
    | none => g
  latch.foldl (fun (g : Group) p =>
    let g := g.modLane p.1 fun l => { l with latches := put l.latches l.pushes p.2 }
    { g with trapSave := g.trapSave.map fun v => { v with seats := v.seats.modify p.1 fun q =>
        { q with latches := put q.latches q.pushes p.2 } } }) g

/-- The stream prefetcher of a core follows the lines that a weak load touches (R233). -/
def State.follow (s : State) (x : Ctx) (a : Access) : State :=
  match s.coreOf x.who, s.partOf x.who, x.who with
  | some c, some p, .grp g =>
    if a.ord ≠ 0 ∨ (s.part p).pfMode ≠ 2 then s else
    (x.c.seats.filter fun i => !a.remote s i).foldl (fun (s : State) i =>
      let k := s.core c
      let cap := a.cap i
      let line := a.offset i / 128
      let mine := fun v : Stream => v.group == g && v.key.obj == cap.index && v.base == cap.base && v.limit == cap.limit
      let step : Int := match k.streams.find? mine with
        | none => 0
        | some v =>
          let d : Int := line - v.line
          if d = 0 then v.stride else if d = 1 ∨ d = -1 then d else 0
      let v : Stream := ⟨g, a.key s x i, cap.base, cap.limit, line, step⟩
      s.setCore c { k with streams := (v :: k.streams.filter fun v => !mine v).take 16 }) s
  | _, _, _ => s

/-- A weak load of a line of a node-mate may leave a node copy in this package's slices, and a copy in the control core
that asked, which this package's directory tracks (R260). The line's number at home is the answer's. -/
def State.nodeFill (s : State) (w : Who) (k : PageKey) (off ord : Nat) : State :=
  if ord ≠ 0 ∨ k.pkg / 16 ≠ s.regs.pkg / 16 ∨ !s.regs.node.getLsbD (k.pkg % 16) then s else
  let (b, s) := s.bit
  if !b then s else
  let line := off % 65536 / 128
  let (key, s) := match s.nodeNames.find? fun e => e.1 == k && e.2.1 == line with
    | some e => (e.2.2, s)
    | none =>
      let (l, s) := s.pick
      (2 ^ 35 * (k.pkg + 1) + l, s)
  let s := { s with nodeCopies := sInsert s.nodeCopies key
                    nodeNames := if s.nodeNames.contains (k, line, key) then s.nodeNames else s.nodeNames ++ [(k, line, key)] }
  match w with
  | .ctl n => if (s.dirAt key).busy then s else s.dirRead key (some n)
  | .grp _ => s

/-- The loads: LD, LDU and LDC. `kind` is the request a lane in flight or a remote lane makes. -/
def State.loads (s : State) (x : Ctx) (h : Hdr) (a : Access) (d : Code) (w : Width) (kind : ReqKind)
    (val : List Byte → Nat) (lc : Nat → Option Bool) : State :=
  withAccess s x a (poisonedLoads a (x.c.seats.any fun i => (lc i).getD false)) fun s x addr =>
    let rs := (a.lanes x).filter fun i => a.remote s i
    match s.remoteReads x a rs kind with
    | some t => t
    | none =>
      let (far, s) := s.takeAnswers x rs
      let near := s.nearHit x a addr
      let asks := fun i => (x.g.lane i).readsOutside (addr i) a.size ((lc i).getD false)
      let s := (if a.ord = 0 then { s with bits := s.bits.drop 32 } else s).countLanes x a ((a.lanes x).filter fun i => (near i).isNone)
      let s := rs.foldl (fun (s : State) i => s.nodeFill x.who (a.key s x i) (a.offset i) a.ord) s
      let here := if a.whole then (if rs.isEmpty then x.g.byLogical x.c.seats else []) else
        x.g.byLogical (x.c.seats.filter fun i => !a.remote s i)
      let plain := here.any fun i => (x.g.lane i).tx.isNone
      let (later, s) := if a.ord ≤ 1 && !a.whole && plain then s.bit else (false, s)
      -- one access of a whole path serves every lane outside a transaction (R94)
      let here := if a.whole then
          (here.filter fun i => (x.g.lane i).tx.isSome) ++ (here.filter fun i => (x.g.lane i).tx.isNone).take 1 else here
      let got := here.foldl (fun (r : Got) i => r.load x a addr ((lc i).getD false) later (near i) i) (⟨s, far, [], []⟩ : Got)
      let s := got.s.abort x.who got.full .capacity
      let x := s.rest x got.full
      if x.c.seats.isEmpty then s.lapse x x.c.endsRun else
      let s := if (a.ord = 2 ∨ a.ord = 4) && x.plain then s.acquire x.who (if a.scope = 0 then 6 else a.scope) else s
      let one := if a.whole then (got.vals.find? fun v => (x.g.lane v.1).tx.isNone).map (·.2) else none
      let of := fun i => match got.vals.find? fun v => v.1 == i with
        | some v => v.2
        | none => one.getD ([], false)
      let g := x.dst h.n d w (fun i => val (of i).1) fun i => match lc i with
        | some b => (of i).2 && b
        | none => false
      let dest := if h.n || !isV d then none else some (x.wb + d.toNat)
      let s := got.later.foldl (fun (s : State) i => s.inFlight x a addr i
        (match kind, lc i with
         | .loadCap _, some b => .loadCap b
         | k, _ => k) dest (x.latchesOf g d i)) s
      let i := x.lowest
      let s := s.follow x a
      let s := if !asks i then s else s.sample x a (addr i) (if (near i).isSome then .near else if a.remote s i then .far else .home) (got.later.contains i) i
      s.retire x h g

/-- The access of a MEM word (R83, R87). -/
def memAccess (x : Ctx) (h : Hdr) (cap : BitVec 4) (off : Code) (imm : BitVec 5) (size : Nat) (atomic : Bool)
    (perms : Nat → BitVec 8) (reads writes : Bool) (op : Nat) : Access :=
  { cap := fun i => x.capOf i cap h.laneCap, e := fun i => x.address i (x.capOf i cap h.laneCap) off (memImm h imm atomic * size),
    size, perms, reads, writes, ord := h.ord, scope := h.sc, whole := false, waits := reads && (!writes || (perms 0).getLsbD 7), op, code := h.size }

def execLd (h : Hdr) (d : BitVec 7) (cap : BitVec 4) (off : BitVec 7) (imm : BitVec 5) (s : State) : Result :=
  let n := sizeBytes 4 h.size
  withOps s (fun _ => opd off .w32 :: opd d (widthOfBytes n) :: capOpd cap h.laneCap)
    (reads := fun _ => opd off .w32 :: capOpd cap h.laneCap) fun x =>
    s.loads x h (memAccess x h cap off imm n false (fun _ => permR) true false 0x70) d (widthOfBytes n) (.load n h.size)
      (loadValue h.size) fun _ => none

/-- LDU: e is computed once; on a control core it is an LD (R82, R94). -/
def execLdu (h : Hdr) (d : BitVec 7) (cap : BitVec 4) (off : BitVec 7) (imm : BitVec 5) (s : State) : Result :=
  let n := sizeBytes 4 h.size
  withOps s (fun _ => [opd off .w32, opd d (widthOfBytes n)]) (reads := fun _ => [opd off .w32]) (lanes := fun x => x.readers) fun x =>
    let a := memAccess x h cap off imm n false (fun _ => permR) true false 0x72
    let e := a.e x.lowest
    s.loads x h { a with e := fun _ => e, whole := true } d (widthOfBytes n) (.load n h.size) (loadValue h.size) fun _ => none

/-- LDC: the quad's tags become the memory tag and the capability's LC (R95). -/
def execLdc (h : Hdr) (d : BitVec 7) (cap : BitVec 4) (off : BitVec 7) (imm : BitVec 5) (s : State) : Result :=
  withOps s (fun _ => opd off .w32 :: opd d .w128 :: capOpd cap h.laneCap) (reads := fun _ => opd off .w32 :: capOpd cap h.laneCap) fun x =>
    let a := memAccess x h cap off imm 16 false (fun _ => permR) true false 0x73
    s.loads x h a d .w128 (.loadCap false) leNat fun i => some ((a.cap i).has permLC)

/-! ### Stores -/

/-- One lane's store. -/
def Got.store (r : Got) (x : Ctx) (a : Access) (addr : Nat → Nat) (bs : List Byte) (tag : Option Bool) (later : Bool)
    (i : Nat) : Got :=
  let p := addr i
  if (x.g.lane i).tx.isSome then
    match r.s.txWriteLane x i p bs (tag.getD false) (if tag.isSome then .cap else if bs.length = 8 then .dword else .other) with
    | none => { r with full := r.full ++ [i] }
    | some s => { r with s }
  else
    let s := match r.s.coreOf x.who with
      | some c => r.s.nearStore c p bs (tag.getD false)
      | none => r.s
    if later then
      { r with s := s.inFlight x a addr i (match tag with | some t => .storeCap bs t | none => .store bs) none [] }
    else { r with s := s.performStore x.who p bs tag (some (a.key s x i)) }

/-- ST and STC: lanes in ascending logical order, so the highest one's bytes stand (R97). -/
def State.stores (s : State) (x : Ctx) (h : Hdr) (a : Access) (bytes : Nat → List Byte) (tag : Nat → Option Bool) : State :=
  withAccess s x a (fun _ _ _ => []) fun s x addr =>
    let lanes := x.g.byLogical x.c.seats
    let rs := lanes.filter fun i => a.remote s i
    let here := lanes.filter fun i => !a.remote s i
    let s := s.countLanes x a here
    let s := rs.foldl (fun (s : State) i => s.sendRemote x (a.key s x i) (a.offset i) i
      (match tag i with | some t => .storeCap (bytes i) t | none => .store (bytes i)) (a.ord != 0)) s
    let (later, s) := if a.ord ≠ 2 && a.ord ≠ 4 && here.any (fun i => (x.g.lane i).tx.isNone) then s.bit else (false, s)
    let got := here.foldl (fun (r : Got) i => r.store x a addr (bytes i) (tag i) later i) (⟨s, [], [], []⟩ : Got)
    let s := got.s.abort x.who got.full .capacity
    let x := s.rest x got.full
    if x.c.seats.isEmpty then s.lapse x x.c.endsRun else
    let i := x.lowest
    let far := a.remote s i
    (if (x.g.lane i).tx.isSome && !x.solo then s else s.sample x a (addr i) (if far then .far else .home) (far || later) i).retire x h x.g

def execSt (h : Hdr) (d : BitVec 7) (cap : BitVec 4) (off : BitVec 7) (imm : BitVec 5) (s : State) : Result :=
  let n := sizeBytes 4 h.size
  withOps s (fun _ => opd off .w32 :: opd d (widthOfBytes n) :: capOpd cap h.laneCap) fun x =>
    s.stores x h (memAccess x h cap off imm n false (fun _ => permW) false true 0x71)
      (fun i => leBytes n (x.srcN i d (widthOfBytes n))) fun _ => none

/-- STC: SC is needed when the quad is tagged (R88, R95). -/
def execStc (h : Hdr) (d : BitVec 7) (cap : BitVec 4) (off : BitVec 7) (imm : BitVec 5) (s : State) : Result :=
  withOps s (fun _ => opd off .w32 :: opd d .w128 :: capOpd cap h.laneCap) fun x =>
    s.stores x h (memAccess x h cap off imm 16 false (fun i => if x.quadTag d i then permW ||| permSC else permW) false true 0x74)
      (fun i => leBytes 16 (x.src128 i d).toNat) fun i => some (x.quadTag d i)

/-! ### Atomics -/

/-- The new value of an atomic of `size` bytes, or none when a .cas fails (R98). -/
def atomicNew (op size m v cmp : Nat) : Option Nat :=
  if op = 9 then (if m = cmp then some v else none)
  else if op = 10 then
    let f := if size = 8 then f64 else f32
    some (f.add 1 (f.val m) (f.val v)).1
  else some (atomicOp op (8 * size) m v)

/-- An atomic at the home slice: the old value, and the state after it (R99). -/
def State.atomicAt (s : State) (w : Who) (a op size v cmp : Nat) : Nat × State :=
  let line := a / 128
  let m := s.num a size
  match atomicNew op size m v cmp with
  | none => (m, (s.txConflict (ctlOf w) line false).dirRead line none)
  | some n =>
    let s := (s.txConflict (ctlOf w) line true).dirWrite line none
    (m, (s.write a (s.maxed a (leBytes size n) false)).lineWritten line)

/-- An atomic of a thread that is performed as it issues. -/
def State.performAtomic (s : State) (w : Who) (a op size v cmp : Nat) (via : Option PageKey := none) : Nat × State :=
  let home := sliceDie (s.homeSlice a)
  let r := (s.cross (via.elim (s.dieOf w) fun k => sliceDie (s.translationSlice k)) home).atomicAt w a op size v cmp
  (r.1, r.2.cross home (s.dieOf w))

/-- The operand and the compare value a lane reads from D (R98). -/
def Ctx.atomicArgs (x : Ctx) (i : Nat) (d : Code) (op size : Nat) : Nat × Nat :=
  if op = 9 then
    let n := x.srcN i d (widthOfBytes (2 * size))
    (n / 2 ^ (8 * size), n % 2 ^ (8 * size))
  else (x.srcN i d (widthOfBytes size), 0)

/-- One lane's atomic. -/
def Got.atomic (r : Got) (x : Ctx) (a : Access) (addr : Nat → Nat) (op v cmp : Nat) (later returns : Bool) (i : Nat) : Got :=
  let p := addr i
  if (x.g.lane i).tx.isSome then
    match r.s.txReadLane x i p a.size false with
    | none => { r with full := r.full ++ [i] }
    | some (bs, _, s) => match atomicNew op a.size (leNat bs) v cmp with
      | none => { r with s, vals := r.vals ++ [(i, bs, false)] }
      | some n => match s.txWriteLane x i p (leBytes a.size n) false .other with
        | none => { r with s, full := r.full ++ [i] }
        | some s => { r with s, vals := r.vals ++ [(i, bs, false)] }
  else
    let s := match r.s.coreOf x.who with
      | some c => r.s.nearDrop c (p / 128)
      | none => r.s
    if later then { r with s, later := r.later ++ [i] }
    else
      let (m, s) := s.performAtomic x.who p op a.size v cmp (some (a.key s x i))
      { r with s, vals := r.vals ++ (if returns then [(i, leBytes a.size m, false)] else []) }

/-- Remote lanes that one combined atomic serves (R396): those with the lane's own address, in logical order. -/
def Access.combined (a : Access) (s : State) (x : Ctx) (op : Nat) (rs : List Nat) (i : Nat) : List Nat :=
  if 9 ≤ op then [i] else rs.filter fun j => a.key s x j == a.key s x i && a.offset j == a.offset i

/-- Remote atomics: combined lanes travel as one request; .cas and .fadd lanes go one at a time, each after the reply to
the one before it (R396). `some` is the state that waits or stops. -/
def State.remoteAtomics (s : State) (x : Ctx) (a : Access) (rs : List Nat) (op : Nat) (args : Nat → Nat × Nat) (returns : Bool) :
    Option State × State :=
  let rs := x.g.byLogical rs
  let leads := rs.filter fun i => (a.combined s x op rs i).head? == some i
  let unsent := leads.filter fun i => (s.remoteReq x i).isNone
  let operand := fun i => match (a.combined s x op rs i).map fun j => (args j).1 with
    | [] => 0
    | v :: vs => vs.foldl (atomicOp op (8 * a.size)) v
  let send := fun (s : State) (i : Nat) (keep : Bool) =>
    s.sendRemote x (a.key s x i) (a.offset i) i (.atomic op a.size (if 9 ≤ op then (args i).1 else operand i) (args i).2 keep)
      (a.ord != 0) (if !keep && (a.ord = 2 ∨ a.ord = 4) then some (if a.scope = 0 then 6 else a.scope) else none)
  if op < 9 then
    if unsent.isEmpty then
      if returns then (s.remoteAnswers x a leads, s) else (none, s)
    else
      let s := unsent.foldl (fun (s : State) i => send s i returns) s
      if returns then (some (s.stall x 2), s) else (none, s)
  else
    let sent := leads.filter fun i => (s.remoteReq x i).isSome
    -- an ATOM's lane that has failed raises its trap later, and the next lane goes on (R398)
    let fails := fun i => !returns && ((s.remoteReq x i).bind fun r => r.2.answer).any fun b => (fabricReason b).isSome || b == .poisoned
    let late := sent.filter fails
    let sent := sent.filter fun i => !fails i
    match unsent with
    | [] => (s.remoteAnswers x a leads, s)
    | i :: later =>
      match s.remoteAnswers x a sent with
      | some t => (some t, s)
      | none =>
        let s := send s i (returns || !later.isEmpty)
        if returns || !later.isEmpty then (some (s.stall x 2), s)
        else
          let s := late.foldl (fun (s : State) j => (s.remoteReq x j).elim s fun r => s.lateFailure r.2 (r.2.answer.getD .done)) s
          (none, leads.foldl (fun (s : State) j => (s.remoteReq x j).elim s fun r => s.dropReq r.1) s)

/-- The value each remote lane of an ATOMR receives: the lower lanes' operands applied to the value that came back. -/
def State.remoteOld (s : State) (x : Ctx) (a : Access) (rs : List Nat) (op : Nat) (args : Nat → Nat × Nat) :
    List (Nat × List Byte × Bool) :=
  let rs := x.g.byLogical rs
  rs.map fun i =>
    let same := a.combined s x op rs i
    let m := leNat ((((s.remoteReq x (same.headD i)).bind fun r => r.2.answer).map fun r => (FabricData r).1).getD [])
    let below := same.takeWhile (· != i)
    (i, leBytes a.size (below.foldl (fun m j => atomicOp op (8 * a.size) m (args j).1) m), false)

/-- ATOM and ATOMR (R98, R99). -/
def State.atomics (s : State) (x : Ctx) (h : Hdr) (a : Access) (d : Code) (op : Nat) (returns : Bool) : State :=
  withAccess s x a (poisonedReads a) fun s x addr =>
    let args := fun i => x.atomicArgs i d op a.size
    let asks := fun i => (x.g.lane i).readsOutside (addr i) a.size false
    let rs := x.c.seats.filter fun i => a.remote s i
    match if rs.isEmpty then (none, s) else s.remoteAtomics x a rs op args returns with
    | (some t, _) => t
    | (none, s) =>
      let far := if returns then s.remoteOld x a rs op args else []
      let s := if returns then (s.takeAnswers x rs).2 else s
      let here := x.g.byLogical (x.c.seats.filter fun i => !a.remote s i)
      let s := s.countLanes x a here
      let (later, s) := if a.ord ≠ 2 && a.ord ≠ 4 && here.any (fun i => (x.g.lane i).tx.isNone) then s.bit else (false, s)
      let got := here.foldl (fun (r : Got) i => r.atomic x a addr op (args i).1 (args i).2 later returns i) (⟨s, far, [], []⟩ : Got)
      let s := got.s.abort x.who got.full .capacity
      let x := s.rest x got.full
      if x.c.seats.isEmpty then s.lapse x x.c.endsRun else
      let s := if (a.ord = 2 ∨ a.ord = 4) && x.plain then s.acquire x.who (if a.scope = 0 then 6 else a.scope) else s
      let of := fun i => ((got.vals.find? fun v => v.1 == i).map fun v => leNat v.2.1).getD 0
      let g := if returns then x.dst h.n d (widthOfBytes a.size) of else x.g
      let dest := if returns && !h.n && isV d then some (x.wb + d.toNat) else none
      let s := got.later.foldl (fun (s : State) i => s.inFlight x a addr i (.atomic op a.size (args i).1 (args i).2 returns) dest
        (if returns then x.latchesOf g d i else [])) s
      let i := x.lowest
      let lead := if a.remote s i then (a.combined s x op (x.g.byLogical rs) i).headD i else i
      (if !asks i then s else s.sample x a (addr i) (if a.remote s i then .far else .home) (got.later.contains i || (a.remote s i && !returns)) lead).retire x h g

/-- The operands of an atomic: .cas reads twice its width (R98). -/
def atomicOpds (h : Hdr) (d : Code) (cap : BitVec 4) (off : Code) : List Opd :=
  let n := sizeBytes 4 h.size
  opd off .w32 :: opd d (widthOfBytes (if h.aop = 9 then 2 * n else n)) :: capOpd cap h.laneCap

def execAtom (h : Hdr) (d : BitVec 7) (cap : BitVec 4) (off : BitVec 7) (imm : BitVec 5) (s : State) : Result :=
  withOps s (fun _ => atomicOpds h d cap off) fun x =>
    s.atomics x h (memAccess x h cap off imm (sizeBytes 4 h.size) true (fun _ => permW ||| permA) true true 0x75) d h.aop false

def execAtomr (h : Hdr) (d : BitVec 7) (cap : BitVec 4) (off : BitVec 7) (imm : BitVec 5) (s : State) : Result :=
  withOps s (fun _ => atomicOpds h d cap off) fun x =>
    s.atomics x h (memAccess x h cap off imm (sizeBytes 4 h.size) true (fun _ => permR ||| permW ||| permA) true true 0x76) d h.aop true

/-! ### Fences and cache control -/

/-- ".core scope or wider" (R245). -/
def State.coreWide (s : State) (x : Ctx) (scope : Nat) : Bool :=
  scope == 0 || decide (3 ≤ scope) || (scope == 2 && decide (1 < ((s.teamOf x.g).elim 1 (·.span))))

/-- FENCE: everything earlier is performed; an acquire kind invalidates (R100, R250, R255). At .core scope or wider it
also orders the hamper accesses of the group's matrix work (R105). -/
def execFence (h : Hdr) (s : State) : Result :=
  withCtx s fun x =>
    if s.coreWide x h.sc && s.matrixPending x.who then s.stall x 5
    else s.release x
      ((if h.ord = 3 then s else s.acquire x.who (if h.sc = 0 then 6 else h.sc)).retire x h x.g)

/-- The access of a SYS word of memory control: e is the cursor plus the signed offset G (R84, R102). -/
def lineAccess (x : Ctx) (q : BitVec 4) (quad : Bool) (g : Code) (perms : Nat → BitVec 8) : Access :=
  { cap := fun i => x.capOf i q quad, e := fun i => x.address i (x.capOf i q quad) g 0, size := 1, perms, reads := false,
    writes := false, ord := 0, scope := 0, whole := false, waits := false }

/-- PFETCH: a hint that may fetch a line into the near cache (R101, R232). DESIGN CHOICE: the lanes that fetch nothing are
those that fail R87 for one byte of a kind-1 capability with R, since R88 has no row for PFETCH; and an operand beyond the
allocation traps WINDOW under R18, though R101 says that PFETCH never traps (log 96). -/
def execPfetch (h : Hdr) (q : BitVec 4) (quad slice : Bool) (g : BitVec 7) (s : State) : Result :=
  withOps s (fun _ => opd g .w32 :: capOpd q quad) (reads := fun _ => []) fun x =>
    let a := lineAccess x q quad g fun _ => permR
    let on := (s.partOf x.who).any fun p => (s.part p).pfMode != 0
    let s := x.c.seats.foldl (fun (s : State) i =>
      match s.coreOf x.who, s.peek (a.key s x i) (a.offset i) with
      | some c, some p =>
        if on && !slice && !a.remote s i && (s.check x.who x.g.team (a.cap i) (a.e i) 1 [1] permR true).isNone then
          let (b, s) := s.bit
          if b then (List.range 4).foldl (fun (s : State) j => s.prefetch c (p / 128 * 4 + j)) s else s
        else s
      | _, _ => s) s
    s.retire x h x.g

/-- CWB: a control core's modified copy is written back and kept (R102). -/
def execCwb (h : Hdr) (q : BitVec 4) (quad _mem : Bool) (g : BitVec 7) (s : State) : Result :=
  withOps s (fun _ => opd g .w32 :: capOpd q quad) fun x =>
    let a := lineAccess x q quad g fun i => if (x.capOf i q quad).has permR then permR else permW
    withAccess s x a (fun _ _ _ => []) fun s x addr =>
      let lines := (x.c.seats.filter fun i => !a.remote s i).map fun i => addr i / 128
      let s := s.countLanes x a x.c.seats
      let s := match ctlOf x.who with
        | some n => { s with dirty := s.dirty.filter fun d => !(d.1 == n && lines.contains d.2) }
        | none => s
      s.retire x h x.g

/-- CINV: the core's copy of the line is discarded, written back first on a control core, a node-mate's line too (R102, R260,
R266). -/
def execCinv (h : Hdr) (q : BitVec 4) (quad : Bool) (g : BitVec 7) (s : State) : Result :=
  withOps s (fun _ => opd g .w32 :: capOpd q quad) fun x =>
    let a := lineAccess x q quad g fun _ => permR
    withAccess s x a (fun _ _ _ => []) fun s x addr =>
      let lines := ((x.c.seats.filter fun i => !a.remote s i).map fun i => addr i / 128).foldl sInsert []
      let far := (x.c.seats.filter fun i => a.remote s i).flatMap fun i =>
        (s.nodeNames.filter fun e => e.1 == a.key s x i && e.2.1 == a.offset i % 65536 / 128).map (·.2.2)
      let s := s.countLanes x a x.c.seats
      let s := match ctlOf x.who, s.coreOf x.who with
        | some n, _ =>
          -- a written line of the open transaction must not leave the caches (R318)
          let hidden := (x.g.lane 0).tx.any fun (t : Tx) => lines.any t.wset.contains
          (lines ++ far).foldl (fun (s : State) l => s.evict n l) (if hidden then s.abort x.who [0] .capacity else s)
        | none, some c => lines.foldl (fun (s : State) l => s.nearDrop c l) s
        | none, none => s
      let x := s.rest x (x.c.seats.filter fun i => (x.g.lane i).tx.isSome && ((s.group? x.who).getD x.g |>.lane i).tx.isNone)
      if x.c.seats.isEmpty then s.lapse x x.c.endsRun else s.retire x h x.g

end Sys2Proof.Machine
end

