-- ==== Sys2Proof/Machine/Groups.lean ====
section
/-! DEFINITION. The life of a group and its team: EXIT and retirement of a group (R54), SPAWN and JOIN (R271, R273),
barriers (R274-R276), REGROUP (R151-R153, R277) and the end of a run at its limit (R22). -/

namespace Sys2Proof.Machine

open Sys2Proof

/-! ### Threads of a team -/

/-- The groups of a team that have not retired, by the model's number. -/
def State.teamGroups (s : State) (t : Team) : List (Nat × Group) :=
  t.groups.filterMap fun k => (s.groups.get? k).bind fun g => if g.ended then none else some (k, g)

/-- The logical threads of a team that have not exited (R275). -/
def State.liveThreads (s : State) (t : Team) : List Nat :=
  (s.teamGroups t).flatMap fun e => e.2.live.map fun i => ((e.2.lane i).thread).getD 0

/-- Lanes of a group go on after a wait: IDLE ends when the group had no lane to serve (R408). -/
def Group.rouse (g : Group) (now : Nat) (f : Group → Group) : Group :=
  let idle := !g.runOpen && g.wait.isNone && g.nextSets.isEmpty
  let g' := f g
  (if idle && !g'.nextSets.isEmpty then g'.idleOver now else g').syncSteep now

/-! ### EXIT and the retirement of a group (R54, R333, R408, R411) -/

/-- A group's seat and name become free. -/
def State.freeGroup (s : State) (k : Nat) : State :=
  match s.groups.get? k with
  | none => s
  | some g =>
    let s := if g.name = 0 then s else s.freeName g.name
    let s := s.setGroup (.grp k) { g with place := none, ended := true, wait := none, runOpen := false }
    match s.partOf (.grp k) with
    | some p => { s with agenda := s.agenda ++ [.schedule p] }
    | none => s

/-- The counters of a group at its retirement, as a record of kind 1 where RETIRE is set (R410, R411). -/
def State.retireRecord (s : State) (k : Nat) (g : Group) : State :=
  match s.partOf (.grp k) with
  | none => s
  | some p => if !(s.part p).oqRetire then s else
    s.record (.grp k) 1 ((g.lanes.filterMap (·.thread)).foldl min ((g.lanes.filterMap (·.thread)).headD 0))
      (g.stc.flatMap fun v => leBytes 4 v.toNat)

/-- A team whose last group has retired begins its own retirement (R230). -/
def State.teamDone (s : State) (t : Nat) : State :=
  match s.teams.get? t with
  | none => s
  | some v =>
    if v.phase == .resident && (s.teamGroups v).isEmpty then
      { s with teams := s.teams.set t { v with phase := .retiring 1 }, agenda := s.agenda ++ [.teamRetire t] }
    else s

/-- A group retires when none of its lanes remains (R54). -/
def State.retireGroup (s : State) (k : Nat) : State :=
  match s.groups.get? k with
  | none => s
  | some g =>
    if g.ended || !g.live.isEmpty then s else
    let g := (g.phase 7 s.now).settle
    let s := s.setGroup (.grp k) g
    ((s.retireRecord k g).freeGroup k).teamDone g.team

/-! ### Barriers (R274, R275) -/

/-- Whether the current phase has all its arrivals. -/
def Barrier.isOver (b : Barrier) (live : List Nat) : Bool :=
  if b.cnt = 0 then !live.isEmpty && live.all b.arrived.contains else decide (b.cnt ≤ b.arr)

/-- A phase completes: ARR is set to 0 and the phase advances; arrivals held over count in the next. -/
def Barrier.next (b : Barrier) : Barrier :=
  { b with arr := b.again.length, phase := b.phase + 1, arrived := b.again, again := [] }

/-- Completes phases that are over. -/
def Barrier.settle (live : List Nat) : Nat → Barrier → Barrier
  | 0, b => b
  | n + 1, b => if b.isOver live then Barrier.settle live n b.next else b

/-- A thread's arrival: the barrier after it, and what its lane waits for. -/
def Barrier.arrive (b : Barrier) (n thread : Nat) (arr : Bool) (live : List Nat) : Barrier × Option LaneMode :=
  if b.cnt = 0 ∧ b.arrived.contains thread then
    if arr then ({ b with again := sInsert b.again thread }, none) else (b, some (.barrierNext n b.phase))
  else
    (Barrier.settle live 2 { b with arr := b.arr + 1, arrived := sInsert b.arrived thread },
     if arr then none else some (.atBarrier n b.phase))

def State.setBarrier (s : State) (team n : Nat) (b : Barrier) : State :=
  match s.teams.get? team with
  | none => s
  | some t => { s with teams := s.teams.set team { t with barriers := t.barriers.set n b } }

/-- The lanes of a group that waited at a barrier: those whose phase has completed go on, and those held for the next
phase arrive in it. -/
def Group.barrierWake (g : Group) (n : Nat) (b : Barrier) (live : List Nat) : Group × Barrier :=
  (List.range g.lanes.length).foldl (fun (r : Group × Barrier) i =>
    let th := ((r.1.lane i).thread).getD 0
    let one := fun (m : LaneMode) (b : Barrier) => match m with
      | .atBarrier k p => if k = n ∧ p < b.phase then (LaneMode.running, b) else (m, b)
      | .barrierNext k p =>
        if k = n ∧ p < b.phase then
          let (b', w) := b.arrive n th false live
          (match w with
            | some (.atBarrier k' p') => if p' < b'.phase then (LaneMode.running, b') else (LaneMode.atBarrier k' p', b')
            | _ => (m, b))
        else (m, b)
      | _ => (m, b)
    let (m, b1) := one (r.1.lane i).mode r.2
    let g := r.1.modLane i fun l => { l with mode := m }
    match g.trapSave with
    | none => (g, b1)
    | some v => match v.seats[i]? with
      | some q => if q.inH then
          let (m', b2) := one q.mode b1
          ({ g with trapSave := some { v with seats := v.seats.set i { q with mode := m' } } }, b2)
        else (g, b1)
      | none => (g, b1)) (g, b)

/-- BARRIER_PHASE: a phase that is over completes, and its waiting lanes go on; each group's departure is an acquire at
.team (R254, R275). -/
def State.barrierSettle (s : State) (team n : Nat) : State :=
  match s.teams.get? team with
  | none => s
  | some t =>
    match t.barriers[n]? with
    | none => s
    | some b =>
      let live := s.liveThreads t
      let s := s.setBarrier team n (Barrier.settle live 2 b)
      -- twice: arrivals held over for the next phase may complete it for lanes looked at before
      [0, 1].foldl (fun (s : State) _ => (s.teamGroups t).foldl (fun (s : State) e =>
        match s.groups.get? e.1, (s.teams.get? team).bind fun t => t.barriers[n]? with
        | some g, some b =>
          let (g', b') := g.barrierWake n b live
          if g' = g then s else
          let moved := (List.range g.lanes.length).filter fun i => (g.lane i).mode != (g'.lane i).mode
          let s := (s.setBarrier team n b').setGroup (.grp e.1) (g.rouse s.now fun _ => g'.settlePaths moved)
          s.acquire (.grp e.1) 2
        | _, _ => s) s) s

def execBarrierPhase (team n : Nat) (s : State) : Result := .next (s.barrierSettle team n)

/-- Barriers that an exit may complete: those with CNT 0 whose every live thread has arrived. -/
def State.barriersOver (s : State) (team : Nat) : List Instr :=
  match s.teams.get? team with
  | none => []
  | some t => (List.range t.barriers.length).filterMap fun n =>
      (t.barriers[n]?).bind fun b => if b.cnt = 0 && b.isOver (s.liveThreads t) then some (.barrierPhase team n) else none

/-! ### The REGROUP meeting (R151, R277) -/

def Lane.atMeet (l : Lane) : Bool := match l.mode with | .atMeeting _ => true | _ => false
def Lane.inBar (l : Lane) : Bool := match l.mode with | .atBarrier _ _ | .barrierNext _ _ => true | _ => false

/-- How the meeting of a team stands: complete, failed (R277), or neither. -/
def State.meeting (s : State) (t : Team) : Option Bool :=
  let ls := (s.teamGroups t).flatMap fun e => e.2.live.map fun i => e.2.lane i
  if ls.isEmpty || !(ls.any Lane.atMeet) then none
  else if ls.all Lane.atMeet then some true
  else if ls.all fun l => l.atMeet || l.inBar then some false
  else none

def State.meetingDue (s : State) (team : Nat) : List Instr :=
  match s.teams.get? team with
  | none => []
  | some t => if (s.meeting t).isSome then [.regroupMeeting team] else []

/-- What the exit of lanes brings about for their team. -/
def State.afterExit (s : State) (k : Nat) (team : Nat) : State :=
  let s := s.retireGroup k
  { s with agenda := s.agenda ++ s.barriersOver team ++ s.meetingDue team }

/-- EXIT: the active lanes leave for good; what they have in flight is not cancelled (R54). -/
def execExit (h : Hdr) (s : State) : Result :=
  coreOp s (fun _ => []) fun s x =>
    let s := { s with reqs := s.reqs.map fun (e : Nat × Req) =>
      (e.1, if e.2.who == x.who then { e.2 with dest := if x.c.seats.contains e.2.seat then none else e.2.dest,
                                                latch := e.2.latch.filter fun p => !x.c.seats.contains p.1 } else e.2) }
    let g := x.g.leaveEntries x.c.seats
    let g := g.modLanes x.c.seats fun _ l => { l with mode := LaneMode.exited }
    let s := s.done x { g with holds := g.holds.filter fun q => !x.c.seats.contains q.2 } (h.b || true)
    match x.who with
    | .grp k => s.afterExit k x.g.team
    | .ctl _ => s

/-! ### BAR and BARCFG -/

/-- INDEX_BOUND for a barrier the team does not hold (R274). -/
def State.withBarrier (s : State) (x : Ctx) (n : Nat) (f : Team → Barrier → State) : State :=
  match s.teamOf x.g with
  | none => s.illegal x
  | some t => match t.barriers[n]? with
    | none => s.fault x .indexBound x.c.seats (BitVec.ofNat 64 n)
    | some b => f t b

/-- BAR: each active lane arrives, in logical lane order, once the group's matrix work has completed and its accesses are
performed (R210, R254, R275). -/
def execBar (h : Hdr) (arr : Bool) (g : BitVec 7) (s : State) : Result :=
  coreOp s (fun _ => []) fun s x =>
    s.withBarrier x g.toNat fun t b =>
      if s.matrixPending x.who then s.leave x x.g .bar else
      s.release x
        (let live := s.liveThreads t
         let r := (x.g.byLogical x.c.seats).foldl (fun (r : Barrier × Group) i =>
           let (b, w) := r.1.arrive g.toNat ((x.g.lane i).thread.getD 0) arr live
           (b, match w with
             | some m => r.2.modLane i fun l => { l with mode := m }
             | none => r.2)) (b, x.advance x.g)
         let s := s.modGroup x.who fun _ => r.2
         let s := (s.setBarrier x.g.team g.toNat r.1).barrierSettle x.g.team g.toNat
         let s := s.done x ((s.group? x.who).getD r.2) h.b
         { s with agenda := s.agenda ++ s.meetingDue x.g.team })

/-- BARCFG: the count applies to the current phase (R276). -/
def execBarcfg (h : Hdr) (k : BitVec 4) (g : BitVec 7) (s : State) : Result :=
  coreOp s (fun _ => [sOpd k .w32]) fun s x =>
    s.withBarrier x g.toNat fun t b =>
      let c := (x.sreg k).toNat
      if t.threads < c then s.fault x .indexBound x.c.seats (BitVec.ofNat 64 c)
      else
        let s := s.setBarrier x.g.team g.toNat { b with cnt := c }
        { s with agenda := s.agenda ++ [Instr.barrierPhase x.g.team g.toNat] }.retire x h x.g

/-! ### REGROUP -/

/-- REGROUP: each active lane comes to the meeting with its target; loads it has outstanding complete first. A lane whose
meeting has failed traps here (R151, R277). -/
def execRegroup (h : Hdr) (g : BitVec 7) (s : State) : Result :=
  coreOp s (fun _ => [opd g .w64]) (lanes := fun x => x.c.seats) fun s x =>
    let failed := x.c.seats.filter fun i => (x.g.lane i).meetFault.isSome
    match failed with
    | i :: _ =>
      let why := ((x.g.lane i).meetFault).getD .illegal
      let ls := failed.filter fun j => (x.g.lane j).meetFault == some why
      let x := x.put (x.g.modLanes ls fun _ l => { l with meetFault := none })
      (s.setGroup x.who x.g).fault x why ls (if why == .window then BitVec.ofNat 64 x.wb else 1)
    | [] =>
      let t := fun i => x.src64 i g
      let bad := x.c.seats.filter fun i => (t i).toNat % 4 != 0
      if !bad.isEmpty then s.fault x .misaligned bad (t (lowSeat bad))
      else if s.reqs.any fun r => r.2.who == x.who && ((x.c.seats.contains r.2.seat && r.2.dest.isSome) || r.2.latch.any fun p => x.c.seats.contains p.1) then s.stall x 2
      else
        let v := (x.g.leaveEntries x.c.seats).modLanes x.c.seats fun i l => { l with mode := LaneMode.atMeeting (t i) }
        let s := s.done x v h.b
        { s with agenda := s.agenda ++ s.meetingDue x.g.team }

/-- A thread at the meeting, with its target, its lane and the registers held in it. -/
structure Meeter where
  target : Dword
  thread : Nat
  lane   : Lane
  holds  : List Nat

/-- Orders threads by target address, then by logical thread index (R152). -/
def meetInsert (m : Meeter) : List Meeter → List Meeter
  | [] => [m]
  | n :: l =>
    if m.target.toNat < n.target.toNat ∨ (m.target = n.target ∧ m.thread < n.thread) then m :: n :: l else n :: meetInsert m l

def Group.meeters (g : Group) : List Meeter :=
  g.live.map fun i =>
    let l := g.lane i
    ⟨match l.mode with | .atMeeting t => t | _ => l.pc, l.thread.getD 0, l,
     (g.holds.filter fun q => q.2 = i ∧ q.1 < 0x10000).map (·.1)⟩

/-- A lane as it starts after the repack: at its target, latches cleared, loop buffer empty. -/
def Meeter.arrive (m : Meeter) : Lane := { m.lane.clearRun with pc := m.target, mode := LaneMode.running, loopBuf := none, held := false, replays := false, woke := false }

/-- A group after the repack with the threads it receives. -/
def Group.repack (g : Group) (ms : List Meeter) (now : Nat) : Group :=
  let g : Group := { g with
    lanes := (List.range g.lanes.length).map fun i => (ms[i]?).elim (Lane.fresh none 0 0) Meeter.arrive,
    holds := g.holds.filter (fun q => decide (0x10000 ≤ q.1)) ++
      (ms.zipIdx.flatMap fun p => p.1.holds.map fun r => (r, p.2)),
    rstack := [], bcast := none, holder := [], issueQ := [], snap := none, endPending := false, runOpen := false, served := [],
    steep := 0, steepAt := none, readySince := now }
  g.syncSteep now

/-- The repack of one role on one core (R152). A stop for a thread, due or in force, goes with the thread (R154). -/
def State.repackRole (s : State) (gs : List (Nat × Group)) : State :=
  let halts := gs.flatMap fun e => e.2.haltDue
  let stops := gs.flatMap fun e => if e.2.dbgStop then e.2.stopFor else []
  let ms := (gs.flatMap fun e => e.2.meeters).foldl (fun l m => meetInsert m l) []
  (gs.zipIdx).foldl (fun (s : State) p =>
    let mine := (ms.drop (32 * p.2)).take 32
    let g := p.1.2.phase 6 s.now
    let held := fun (l : List Nat) => l.filter fun t => mine.any fun m => m.thread == t
    let s := s.setGroup (.grp p.1.1) { g.repack mine s.now with
      haltDue := held halts, stopFor := held stops, dbgStop := !(held stops).isEmpty, skipStop := [], stopSeats := [],
      stopCause := if (held stops).isEmpty then g.stopCause else 4 }
    if mine.isEmpty then s.retireGroup p.1.1 else s) s

/-- GINFO.RG: whether a seat of a team's groups holds another thread than at launch, when seat i of group g held thread
32 * g + i (R132, R153). -/
def State.displaced (s : State) (t : Team) : Bool :=
  (s.teamGroups t).any fun e => (List.range e.2.lanes.length).any fun i =>
    let n := 32 * e.2.gix + i
    (e.2.lane i).thread != if n < t.threads then some n else none

/-- REGROUP_MEETING: every thread has come, and each core packs its threads by target; or the window bases differ, or the
rest of the team waits in BAR, and the lanes at the meeting trap at their REGROUP (R151, R152, R277). -/
def execRegroupMeeting (team : Nat) (s : State) : Result :=
  .next (match s.teams.get? team with
    | none => s
    | some t =>
      let gs := s.teamGroups t
      let refuse := fun (why : Cause) => gs.foldl (fun (s : State) e => s.modGroup (.grp e.1) fun g =>
        g.rouse s.now fun g => { g with lanes := g.lanes.map fun (l : Lane) =>
          if l.atMeet then { l with mode := LaneMode.running, meetFault := some why } else l }) s
      match s.meeting t with
      | none => s
      | some false => refuse .illegal
      | some true =>
        if gs.any fun e => gs.any fun f => e.2.wb != f.2.wb then refuse .window
        else
          -- the core a group sits on, which a migration may have changed
          let key := fun (g : Group) => (g.place.elim (t.base + g.tcore) (·.core)) * 8 + g.role
          let keys := (gs.map fun e => key e.2).foldl sInsert []
          keys.foldl (fun (s : State) k => s.repackRole (gs.filter fun e => key e.2 == k)) s)

/-! ### SPAWN and JOIN (R271, R273) -/

/-- An access of a group instruction made once for its path, at the cursor of a capability (R363). -/
def cursorAccess (c : Cap) (size : Nat) (perms : BitVec 8) (writes : Bool) : Access :=
  { cap := fun _ => c, e := fun _ => c.cursor, size, perms := fun _ => perms, reads := true, writes, ord := 2, scope := 9, whole := true, waits := true }

/-- The code a descriptor is refused with (R271): 1 INVALID, 2 NO_FIT, 3 CAPS, 0 accepted. -/
def State.spawnCode (s : State) (w : Who) (d : Desc) : Nat :=
  if !d.valid true then 1
  else if !((s.partOf w).any fun p => s.partFits p d) then 2
  else if !d.capsOk true then 3
  else 0

/-- An accepted SPAWN's grid enters its launch queue, with the caller's s0-s7; its launch id (R131, R271). -/
def State.launch (s : State) (w : Who) (args : List Word) (d : Desc) : Word × State :=
  match s.partOf w with
  | none => (0, s)
  | some p =>
    let (id, s) := s.launchId p
    (id, s.enqueue { launch := id, part := some p, desc := d, asn := BitVec.ofNat 16 (s.asnOf w), args := sregsOf args,
                     a0 := d.argcap, source := .spawn, teams := d.teams, next := 0, held := false, reported := false,
                     ended := false, order := 0 })

/-- Whether a partition's launch queue of a priority has room for another grid. -/
def State.queueRoom (s : State) (w : Who) (prio : Nat) : Bool := (s.partOf w).any fun p => decide (s.queueLen p prio < 256)

/-- The tags of granules in memory. -/
def State.tagsAt (s : State) (a n : Nat) : List Bool := (List.range (n / 16)).map fun j => s.tagAt (a + 16 * j)

/-- A descriptor of 256 bytes as it is read: its capabilities keep their tags through a capability with LC (R95, R271). -/
def descRead (bs : List Byte) (ts : List Bool) (lc : Bool) : Desc := descOf bs (ts.getD 3 false && lc) (ts.getD 4 false && lc)

def execSpawn (h : Hdr) (p k : BitVec 4) (s : State) : Result :=
  groupOp s (fun _ => [sOpd k .w64, (96#7, 8)]) fun s x =>
    match x.g.waitDone with
    | some id => s.retire x h ({ x with g := { x.g with waitDone := none } }.dstS h.n k.toNat .w64 id)
    | none =>
      let c := x.acap p.toNat
      let a := cursorAccess c 256 permR false
      withAccess s x a (poisonedReads a) fun s x addr =>
        let at_ := addr x.lowest
        let far := a.remote s x.lowest
        let got : Sum State FabricAnswer := if far then s.ask x x.lowest (a.key s x x.lowest) c.cursor (.loadTags 256)
          else .inr (.granules (s.bytes at_ 256) (s.tagsAt at_ 256))
        match got with
        | .inl t => t
        | .inr v =>
          let d := descRead (granuleData v).1 (granuleData v).2 (c.has permLC)
          let args := (List.range 8).map fun j => x.sr j
          let taken := fun (s : State) => (if far then s else (s.performLoad x.who at_).performLoad x.who (at_ + 128)).countLanes x a [x.lowest]
            |>.dropReads x.who x.c.addr
          let code := s.spawnCode x.who d
          if code ≠ 0 then (taken s).retire x h (x.dstS h.n k.toNat .w64 (code * 2 ^ 32))
          else s.release x
            (let s := taken s
             if s.queueRoom x.who d.priority then
              let (id, s) := s.launch x.who args d
              s.retire x h (x.dstS h.n k.toNat .w64 id.toNat)
            else s.leave x x.g (.spawnRoom d args))

/-- The descriptor and arguments that a SPAWN waits to launch. -/
def Wait.spawn : Wait → Option (Desc × List Word)
  | .spawnRoom d args => some (d, args)
  | _ => none

/-- SPAWN_QUEUE_ROOM: a waiting SPAWN's grid enters the queue, and the instruction takes the launch id. -/
def execSpawnQueueRoom (g : Who) (s : State) : Result :=
  .next (match s.group? g with
    | none => s
    | some v => match v.waits.findSome? Wait.spawn with
      | some (d, args) =>
        if !s.queueRoom g d.priority then s else
        let (id, s) := s.launch g args d
        s.modGroup g fun v => v.answer (.spawnRoom d args) id.toNat s.now
      | none => s)

/-- JOIN: the counter is read as an acquire at .sys until it reaches its target (R273). A group that waits leaves arbitration;
one whose counter lies in another package looks again when that package, or its own core, makes it: DESIGN CHOICE, for the spec
does not say how the wait ends there (log 88). -/
def execJoin (h : Hdr) (p : BitVec 4) (g : BitVec 7) (s : State) : Result :=
  groupOp s (fun _ => [opd g .w64]) fun s x =>
    let a := cursorAccess (x.acap p.toNat) 8 permR false
    withAccess s x a (poisonedReads a) fun s x addr =>
      let rs := (a.lanes x).filter fun i => a.remote s i
      match s.remoteReads x a rs (.load 8 3) with
      | some t => t
      | none =>
        let (far, s) := s.takeAnswers x rs
        let at_ := addr x.lowest
        let v := match far with
          | (_, bs, _) :: _ => leNat bs
          | [] => s.num at_ 8
        let s := if far.isEmpty then (s.performLoad x.who at_).countLanes x a [x.lowest] else s
        if (x.uni64 g).toNat ≤ v then (s.acquire x.who 9).retire x h x.g
        else s.leave x x.g (if far.isEmpty then .join (at_ / 128) else .joinFar)

/-- JOIN_RECHECK: the counter's line has been written, and the JOIN issues again. -/
def execJoinRecheck (g : Who) (s : State) : Result :=
  .next (s.modGroup g fun v => match v.wait with
    | some (.join _) | some .joinFar => v.endWait s.now
    | _ => v)

/-! ### The run limit (R22) -/

/-- RUN_LIMIT: a run whose count has come to 24 ends. -/
def execRunLimit (g : Who) (s : State) : Result :=
  .next (s.modGroup g fun v =>
    if v.runOpen && v.issueQ.isEmpty && v.limit then { v.closeRun s.now with readySince := s.now } else v)

end Sys2Proof.Machine
end

