-- ==== Sys2Proof/Machine/Queues.lean ====
section
/-! DEFINITION. Edge queues (R283, R284, R286): the header and its step, the slots, and the consumer teams. -/

namespace Sys2Proof.Machine

open Sys2Proof

/-! ### The header and its slots -/

/-- The header of an edge queue as 128 bytes with the tags of its capability fields. -/
structure QHeader where
  tail  : Nat
  head  : Nat
  free  : Nat
  slots : Nat
  mode  : Nat
  perm  : Nat
  items : Cap
  desc  : Cap
  args  : List Word

def qHeader (bs : List Byte) (ti td : Bool) : QHeader :=
  { tail := leAt bs 0 8, head := leAt bs 8 8, free := leAt bs 0x10 8, slots := leAt bs 0x18 4, mode := leAt bs 0x1C 1,
    perm := leAt bs 0x1D 1, items := ⟨BitVec.ofNat 128 (leAt bs 0x20 16), ti⟩, desc := ⟨BitVec.ofNat 128 (leAt bs 0x30 16), td⟩,
    args := (List.range 7).map fun i => BitVec.ofNat 32 (leAt bs (0x40 + 4 * i) 4) }

/-- The header's first words as they are written back. -/
def QHeader.counts (q : QHeader) : List Byte := leBytes 8 q.tail ++ leBytes 8 q.head ++ leBytes 8 q.free

def powerOf2 (n : Nat) : Bool := decide (1 ≤ n) && decide (n ≤ 2 ^ 20) && n == 2 ^ Nat.log2 n

/-- The traps of R284 that the header raises. -/
def QHeader.fails (q : QHeader) (m : Nat) (pop : Bool) : Option Cause :=
  if !q.items.tag || (q.mode == 0 && !q.desc.tag) then some .capTag
  else if !powerOf2 q.slots || decide (1 < q.mode) || decide ((q.items.limit : Int) - q.items.cursor < 16 * q.slots) then some .capBound
  else if q.slots < m then some .capBound
  else if pop && q.mode == 0 then some .capPerm
  else none

/-- Where 16 bytes at a capability's cursor plus an offset lie: a physical address, or an offset in another package. -/
inductive SlotAt where
  | here (a : Nat)
  | far (k : PageKey) (off : Nat)
  | absent (k : PageKey) (entryAt : Nat) (entry : Dword)
  | fails (c : Cause) (v : Dword)
  | held      -- its translation slice does not answer yet (R238, R265)
deriving DecidableEq, Repr

/-- An access of n bytes through a capability that memory holds, checked and translated for a thread (R87, R361). -/
def State.through (s : State) (w : Who) (team : Nat) (c : Cap) (off n : Nat) (perms : BitVec 8) : SlotAt × State :=
  let e := c.cursor + off
  match s.check w team c e n [1] perms true with
  | some (_, why) => (.fails why (BitVec.ofNat 64 e), s)
  | none =>
    let k : PageKey := ⟨c.pkg, s.asnOf w, c.index, e / 65536⟩
    if c.pkg ≠ s.regs.pkg then (.far k e, s) else
    match s.lookup (s.asnOf w) c.index (e / 65536) with
    | (.frame f, s) => (.here (f * 65536 + e % 65536), s)
    | (.absent at_ en, s) => (.absent k at_ en, s)
    | (.held, s) => (.held, s)
    | (.error, s) => (.fails .extentError (keyVal k), s)

/-- Slots of a queue in this package have been translated: each request is counted (R365). -/
def State.countSlots (s : State) (x : Ctx) (q : QHeader) (js : List Nat) : State :=
  if q.items.pkg ≠ s.regs.pkg then s else
  js.foldl (fun (s : State) j =>
    s.counted ⟨s.regs.pkg, s.asnOf x.who, q.items.index, (q.items.cursor + 16 * (j % q.slots)) / 65536⟩ s.regs.pkg) s

/-- The slots of a queue that an instruction takes, in order; the first that cannot be reached stops it. -/
def State.slotsAt (s : State) (x : Ctx) (q : QHeader) (perms : BitVec 8) : List Nat → List SlotAt × State
  | [] => ([], s)
  | j :: js =>
    let (r, s) := s.through x.who x.g.team q.items (16 * (j % q.slots)) 16 perms
    let (rs, s) := s.slotsAt x q perms js
    (r :: rs, s)

/-- An edge-queue instruction at work on a header (R284): the capability that names it, its fields and its place, and what its request
comes to once: the header is read, and its translation counted (R365). -/
structure QueueStep where
  cap  : Cap
  hdr  : QHeader
  home : SlotAt
  seen : State → State

/-- A path parks whole on a page that a queue's slot or descriptor lies in (R363), its instruction traps, or it waits for lines
that are held, or that its own earlier accesses come first to (R234, R249). -/
def State.slotStop (s : State) (x : Ctx) (q : QueueStep) (l : List SlotAt) (n : Nat) (writes : Bool) : Option State :=
  match l.findSome? fun r => match r with | .fails c v => some (c, v) | _ => none with
  | some (c, v) => some ((q.seen s).fault x c x.c.seats v)
  | none => match l.findSome? fun r => match r with | .absent k a e => some (k, a, e) | _ => none with
    | some (k, a, e) =>
      let (t, s) := (q.seen s).park x.who k s.regs.pkg a e x.c.seats.length
      some (s.parkAll x k t)
    | none =>
      let lines := l.flatMap fun r => match r with | .here a => blocks 128 a n | _ => []
      if l.contains .held || lines.any fun b => s.lineHeld x.who b writes then
        some ((lines.foldl (fun (s : State) b => s.summon b writes none) s).stall x 2)
      else none

/-- The request for a queue's descriptor in this package has been translated and is counted (R365). -/
def QueueStep.countDesc (q : QueueStep) (s : State) (x : Ctx) : State :=
  let d := q.hdr.desc
  if q.hdr.mode ≠ 0 ∨ d.pkg ≠ s.regs.pkg then s
  else s.counted ⟨d.pkg, s.asnOf x.who, d.index, d.cursor / 65536⟩ s.regs.pkg

/-- The consumer descriptor of a queue, checked as a SPAWN's (R286): `inl` is the state that stops or waits. The trap value of a
refused one is e, the header's address (R352). -/
def State.consumerDesc (s : State) (x : Ctx) (q : QueueStep) : Sum State (Option Desc × State) :=
  if q.hdr.mode ≠ 0 then .inr (none, s) else
  let lc := q.hdr.desc.has permLC
  let judge := fun (s : State) (bs : List Byte) (ts : List Bool) =>
    let d := descRead bs ts lc
    if d.valid false && ((s.partOf x.who).any fun p => s.partFits p d) && d.capsOk false then Sum.inr (some d, s)
    else Sum.inl ((q.countDesc (q.seen s) x).fault x .capPerm x.c.seats (BitVec.ofNat 64 q.cap.cursor))
  let (r, s) := s.through x.who x.g.team q.hdr.desc 0 256 permR
  match s.slotStop x q [r] 256 false with
  | some t => .inl t
  | none => match r with
    | .here a => judge ((s.performLoad x.who a).performLoad x.who (a + 128)) (s.bytes a 256) (s.tagsAt a 256)
    | .far k off => match s.ask x 64 k off (.loadTags 256) with
      | .inl t => .inl t
      | .inr v => judge s (granuleData v).1 (granuleData v).2
    | _ => .inr (none, s)

/-- A consumer team's argument capability: its slot, with the permissions the queue grants (R283, R284). -/
def slotCap (q : QHeader) (j : Nat) : Cap :=
  let a := q.items.cursor + 16 * (j % q.slots)
  match boundsOf a 16 with
  | some (g, lo, up) => ⟨capBits 1 q.perm q.items.obj g lo up a, true⟩
  | none => Cap.null

/-- One consumer team of an item (R133, R286). It is enqueued once its slot has been written (R254). -/
def State.consumer (s : State) (x : Ctx) (q : QueueStep) (d : Desc) (seq : Nat) : State :=
  match s.partOf x.who with
  | none => s
  | some p =>
    let (id, s) := s.launchId p
    s.enqueue { launch := id, part := some p, desc := d, asn := BitVec.ofNat 16 (s.asnOf x.who),
                args := sregsOf (q.hdr.args ++ [BitVec.ofNat 32 seq]), a0 := slotCap q.hdr seq,
                source := .edge q.cap.pkg (BitVec.ofNat 16 (s.asnOf x.who)) q.cap, teams := 1, next := 0, held := false,
                reported := false, ended := false, order := 0 }

/-- Whether a step on a header in this package has to reach another package: for its descriptor or its slots. -/
def QHeader.reaches (q : QHeader) (pkg : Nat) : Bool := q.items.pkg != pkg || (q.mode == 0 && q.desc.pkg != pkg)

/-- The step on a header of this package begins, with its line held to the step's end (R284); of one that has begun, nothing is
counted again. -/
def State.beginStep (s : State) (x : Ctx) (line : Nat) (q : QueueStep) : QueueStep × State :=
  let h : QueueHold := ⟨line, some x.who, x.c.addr, s.regs.pkg⟩
  ({ q with seen := id }, if s.qholds.contains h then s else { q.seen s with qholds := (q.seen s).qholds ++ [h] })

/-- An edge-queue instruction up to its step: the checks of R87 on the header, its bytes, and the header's own traps. The line of a
header whose step reaches another package, or lies there, is held from here to the step's end, so that the step stays one
indivisible step (R99, R284; log 88). -/
def queueOp (s : State) (p : BitVec 4) (g : Code) (pop : Bool) (f : State → Ctx → QueueStep → State) : Result :=
  groupOp s (fun _ => [opd g .w128]) (reads := fun _ => if pop then [] else [opd g .w128]) (lanes := fun x => x.c.seats) fun s x =>
    let c := x.acap p.toNat
    let a : Access := { cursorAccess c 128 (permR ||| permW ||| permA) true with ord := 0 }
    withAccess s x a (poisonedReads a) fun s x addr =>
      let k := a.key s x x.lowest
      let home := if a.remote s x.lowest then SlotAt.far k c.cursor else .here (addr x.lowest)
      let got : Sum State FabricAnswer := match home with
        | .here h => .inr (.granules (s.bytes h 128) (s.tagsAt h 128))
        | _ => s.ask x x.lowest k c.cursor .queueBegin
      match got with
      | .inl t => t
      | .inr v =>
        let (bs, ts) := granuleData v
        let lc := c.has permLC
        let hdr := qHeader bs (ts.getD 2 false && lc) (ts.getD 3 false && lc)
        let q : QueueStep := ⟨c, hdr, home, match home with
          | .here h => fun s => (s.performLoad x.who h).countLanes x a [x.lowest]
          | _ => id⟩
        match hdr.fails x.c.seats.length pop with
        | some why => (q.seen s).fault x why x.c.seats (BitVec.ofNat 64 c.cursor)
        | none => match home with
          | .here h => if hdr.reaches s.regs.pkg then f (s.beginStep x (h / 128) q).2 x (s.beginStep x (h / 128) q).1 else f s x q
          | _ => f s x q

/-- A queue instruction leaves its step and waits until its header is written; one whose header lies in another package looks again
(log 88). -/
def State.queueWait (s : State) (x : Ctx) (q : QueueStep) (pop : Bool) : State :=
  let s := (q.seen s).dropReads x.who x.c.addr
  match q.home with
  | .here a => s.leave x x.g (if pop then .eqpop (a / 128) else .eqpush (a / 128))
  | _ => s.leave x x.g (.eqFar pop)

/-- The header's change at its home slice, with which the step ends (R99, R284). `inl` is the state that waits for another
package. -/
def State.headerStep (s : State) (x : Ctx) (q : QueueStep) (counts : List Byte) : Sum State State :=
  match q.home with
  | .here a =>
    let s := match s.coreOf x.who with
      | some c => s.nearDrop c (a / 128)
      | none => s
    .inr (((q.seen s).engineWrite a (s.maxed a counts false) (some (s.dieOf x.who))))
  | .far k off => match s.ask x 65 k off (.queueEnd counts) with
    | .inl t => .inl t
    | .inr _ => .inr s
  | _ => .inr s

/-- The end of a step whose instruction retires: nothing of it is left. -/
def State.endStep (s : State) (x : Ctx) : State :=
  { s with qholds := s.qholds.filter fun h => !(h.who == some x.who && h.pc == x.c.addr)
           reqs := s.reqs.filter fun r => !(r.2.who == x.who && r.2.pc == x.c.addr && r.2.remote.isSome && r.2.kind.isRead) }

/-- A store of EQPUSH to a slot at its home slice, with the issuing core's near copy (R248). -/
def State.putSlot (s : State) (x : Ctx) (r : SlotAt) (bs : List Byte) : State :=
  match r with
  | .here a =>
    let s := match s.coreOf x.who with
      | some c => s.nearStore c a bs false
      | none => s
    s.performStore x.who a bs none
  | _ => s

/-- Requests to the slots that lie in another package: each is made once, then awaited (R398). `inl` is the state that waits or
stops. -/
def State.farSlots (s : State) (x : Ctx) (kind : Nat → ReqKind) : List (Nat × SlotAt) → Sum State (List (Nat × List Byte))
  | [] => .inr []
  | (i, .far k off) :: l => match s.ask x (32 + i) k off (kind i) with
    | .inl t => .inl t
    | .inr v => (s.farSlots x kind l).map id fun vs => (i, (FabricData v).1) :: vs
  | _ :: l => s.farSlots x kind l

/-- EQPUSH: each lane's item goes to its slot, the header's counts change, and under MODE 0 consumer teams are enqueued (R284). -/
def execEqpush (h : Hdr) (p : BitVec 4) (g : BitVec 7) (s : State) : Result :=
  queueOp s p g false fun s x q =>
    let seats := x.g.byLogical x.c.seats
    let m := seats.length
    match s.consumerDesc x q with
    | .inl t => t
    | .inr (d, s) =>
      if q.hdr.free < m then (q.countDesc s x).queueWait x q false else
      let seqs := (List.range m).map (q.hdr.tail + ·)
      let item := fun i => leBytes 16 (x.src128 i g).toNat
      let (at_, s) := s.slotsAt x q.hdr permW seqs
      match s.slotStop x q at_ 16 true with
      | some t => t
      | none => s.release x
        (match s.farSlots x (fun i => .slot (item i)) (seats.zip at_) with
         | .inl t => t
         | .inr _ => match s.headerStep x q
            { q.hdr with free := q.hdr.free - m, tail := q.hdr.tail + m, head := if d.isSome then q.hdr.head + m else q.hdr.head }.counts with
          | .inl t => t
          | .inr s =>
            let s := (seats.zip at_).foldl (fun (s : State) e => s.putSlot x e.2 (item e.1)) s
            let s := q.countDesc (s.countSlots x q.hdr seqs) x
            let s := match d with
              | some d => seqs.foldl (fun (s : State) n => s.consumer x q d n) s
              | none => s
            (s.endStep x).retire x h x.g)

/-- EQPOP: items go to lanes in logical order; a lane that receives none keeps its quad (R284). -/
def execEqpop (h : Hdr) (p : BitVec 4) (noWait : Bool) (g : BitVec 7) (s : State) : Result :=
  queueOp s p g true fun s x q =>
    let seats := x.g.byLogical x.c.seats
    let avail := (q.hdr.tail + 2 ^ 64 - q.hdr.head) % 2 ^ 64
    if !noWait && decide (avail < seats.length) then s.queueWait x q true else
    let takers := seats.take avail
    let n := takers.length
    let (at_, s) := s.slotsAt x q.hdr permR ((List.range n).map (q.hdr.head + ·))
    match s.slotStop x q at_ 16 false with
    | some t => t
    | none =>
      match s.farSlots x (fun _ => .load 16 0) (takers.zip at_) with
      | .inl t => t
      | .inr items =>
      let vals := (takers.zip at_).map fun e => (e.1, match e.2 with
        | .here a => s.bytes a 16
        | _ => (items.find? fun v => v.1 == e.1).elim [] (·.2))
      match s.headerStep x q (if n = 0 then [] else { q.hdr with head := q.hdr.head + n, free := q.hdr.free + n }.counts) with
      | .inl t => t
      | .inr s =>
      let s := s.countSlots x q.hdr ((List.range n).map (q.hdr.head + ·))
      let s := at_.foldl (fun (s : State) r => match r with
        | .here a => s.performLoad x.who a
        | _ => s) s
      let s := (s.endStep x).acquire x.who 9
      let got := x.g.modLanes takers fun i l =>
        let v := ((vals.find? fun e => e.1 == i).elim [] (·.2))
        let l := l.push (BitVec.ofNat 64 (leNat (v.take 8)))
        if h.n then l else l.setRegs (x.wb + g.toNat) (words 4 (leNat v)) false
      let got := if noWait then got.modLanes x.c.seats fun i l => l.setPred 6 (takers.contains i) else got
      s.retire x h got

/-- EQ_RECHECK: the header has been written, and the instruction issues again. -/
def execEqRecheck (g : Who) (s : State) : Result :=
  .next (s.modGroup g fun v => match v.wait with
    | some (.eqpush _) => v.endWait s.now
    | some (.eqpop _) => v.endWait s.now
    | some (.eqFar _) => v.endWait s.now
    | _ => v)

/-- Steps on headers in other packages that their threads have left: the header was answered, and the step's end has not been sent. -/
def State.leftSteps (s : State) : List Nat :=
  (s.reqs.filter fun r => r.2.kind == .queueBegin && r.2.answer.isSome && !s.stepOpen r.2.who r.2.pc &&
    !s.reqs.any fun q => q.2.who == r.2.who && q.2.pc == r.2.pc && (match q.2.kind with | .queueEnd _ => true | _ => false)).map (·.1)

/-- Such a header is let go, unchanged. -/
def State.letGo (s : State) (n : Nat) : State :=
  match s.reqs.get? n with
  | none => s
  | some r =>
    let s := { s with reqs := s.reqs.filter fun q => !(q.1 == n || (q.2.who == r.who && q.2.pc == r.pc && q.2.kind.isSlot)) }
    match r.answer with
    | some (.granules _ _) | some .unreachable | some .replayLost => (s.request r.who 0 r.key r.addr (.queueEnd []) false noPc).2
    | _ => s

end Sys2Proof.Machine
end

