-- ==== Sys2Proof/Machine/Messages.lean ====
section
/-! DEFINITION. Postcards, holds and names (R278-R282, R335-R337), active messages (R285, R286,
R407) and services (R287, R404-R406), with the events that carry them. -/

namespace Sys2Proof.Machine

open Sys2Proof

/-! ### POST, HOLD and NAME -/

/-- Statuses of POST and AMSG that have not landed (R280, R285). -/
def Group.outstanding (g : Group) : Nat := g.status.length

/-- The sender of a message that an instruction makes, whose status goes to sK. -/
def State.sender (s : State) (x : Ctx) (k : BitVec 4) : Sender := .here x.who k.toNat (s.cseqOf (s.dieOf x.who))

/-- Sends a message and holds its status register. -/
def State.sendMsg (s : State) (x : Ctx) (k : BitVec 4) (m : Msg) : Group × State :=
  let n := s.msgs.fresh
  ({ x.g with status := x.g.status ++ [(k.toNat, n)] }, { s with msgs := s.msgs.set n m })

/-- POST: registers read at issue, a status hold, and a release at the scope it names (R280). -/
def execPost (h : Hdr) (p q k : BitVec 4) (g : BitVec 7) (s : State) : Result :=
  let n := q.toNat % 4 + 1
  groupOp s (fun _ => [sOpd p .w64, sOpd k .w32, (g, n)]) (lanes := fun x => x.c.seats) fun s x =>
    if 16 ≤ x.g.outstanding then s.leave x x.g .postLimit else
    let seats := if q.getLsbD 2 then List.range 32 else x.c.seats
    let vals := fun i => (List.range n).map fun j => x.src32 i (g + BitVec.ofNat 7 j)
    let card : Postcard := ⟨h.ext % 1024, n, q.getLsbD 3, seats.map fun i => (i, vals i), h.sc⟩
    s.release x
      (let (v, s) := s.sendMsg x k (.post (s.sender x k) (x.spair p) card)
       s.retire x h v)

/-- Removes the holds that seats place on keys (R281, R282). -/
def Group.unhold (g : Group) (seats ks : List Nat) : Group :=
  { g with holds := g.holds.filter fun q => !(ks.contains q.1 && seats.contains q.2) }

/-- HOLD and HOLD.clr (R282). -/
def execHold (h : Hdr) (clr : Bool) (g : BitVec 7) (s : State) : Result :=
  coreOp s (fun _ => []) fun s x =>
    match x.windowFault [(g, 1)], x.keys (g, 1) with
    | some n, _ => s.fault x .window x.c.seats (BitVec.ofNat 64 n)
    | none, [] => s.illegal x
    | none, key :: _ =>
      if clr then s.retire x h (x.g.unhold x.c.seats [key])
      else
        let distinct := (x.g.holds.map (·.1)).foldl sInsert []
        if !distinct.contains key && decide (16 ≤ distinct.length) then s.fault x .indexBound x.c.seats (BitVec.ofNat 64 key)
        else s.retire x h { x.g with holds := x.c.seats.foldl (fun l i => if l.contains (key, i) then l else l ++ [(key, i)]) x.g.holds }

/-- NAME: the group's own name, or that of a group of the team (R279). -/
def execName (h : Hdr) (grp : Bool) (k : BitVec 4) (g : BitVec 7) (s : State) : Result :=
  withCtx s fun x =>
    if grp && x.solo then s.illegal x
    else (s.ready x (sOpd k .w64 :: (if grp then [opd g .w32] else [])) (lanes := x.readers)).getD
      (let name := if !grp then (if x.solo then 0 else x.g.name) else
        match s.teamOf x.g with
        | none => 0
        | some t => ((s.teamGroups t).find? fun e => e.2.gix == (x.uni32 g).toNat).elim 0 fun e => e.2.name
      s.retire x h (x.dstS h.n k.toNat .w64 name.toNat))

/-! ### Where a postcard lands (R281, R335-R337) -/

/-- A status on its way from a die to its sender, of this package or of another (R412). -/
def State.sendStatus (s : State) (die : Nat) (to_ : Sender) (code : Nat) : State :=
  match to_ with
  | .here w sreg _ => { s with msgs := s.msgs.set s.msgs.fresh (.status w sreg (BitVec.ofNat 32 code) die (s.cseqOf die)) }
  | .far pkg _ =>
    let s := s.cross die fabricDie
    { s with sent := s.sent ++ [Outbound.fabricReply pkg none (.status code) (s.cseqOf fabricDie)] }

/-- A message comes to a die from its sender's die, or from that of the fabric (R412). -/
def State.heardBy (s : State) (die : Nat) : Sender → State
  | .here w _ c => s.heard (s.dieOf w) die c
  | .far _ c => s.heard fabricDie die c

/-- A postcard's effect on its receiver: registers or s-registers, tags cleared, the listed seats' holds released; the
read that a hold kept waiting is an acquire at the POST scope (R254, R281). -/
def State.applyCard (s : State) (k : Nat) (c : Postcard) : State :=
  match s.groups.get? k with
  | none => s
  | some g =>
    let live := c.vals.filter fun v => (g.lane v.1).thread.isSome && (g.lane v.1).mode != LaneMode.exited && decide (v.1 < g.lanes.length)
    let keys := (List.range c.n).map fun j => if c.u then 0x10000 + c.d + j else c.d + j
    let held := g.holds.any fun q => keys.contains q.1 && (live.any fun v => v.1 == q.2)
    let g' := if c.u then g.putSregs c.d ((c.vals.headD (0, [])).2)
      else live.foldl (fun (g : Group) v => g.modLane v.1 fun l => l.setRegs c.d v.2 false) g
    let s := s.setGroup (.grp k) (g'.unhold (live.map (·.1)) keys)
    if held then s.acquire (.grp k) c.scope else s

def State.forwardedTo (s : State) (k : Nat) (below : Option Nat) : Bool :=
  s.msgs.any fun e => (below.all fun n => decide (e.1 < n)) && (match e.2 with
    | .forwarded g _ _ _ _ => g == k
    | _ => false)

/-- A postcard for a name of another package crosses the fabric; its home core there answers with its status (R335). -/
def State.postFar (s : State) (w : Sender) (name : Dword) (c : Postcard) : State :=
  match w with
  | .here v sreg _ => s.sendFar v (namePkg name) (.message sreg (.post c.d c.n c.u c.vals c.scope name))
  | .far _ _ => s.sendStatus fabricDie w 2

/-- The die of a name's home core. -/
def nameDie (name : Dword) : Nat := (nameCore name).elim 0 coreDie

/-- A postcard goes into the post box of a group that is pre-empted, or a full one bounces it (R336). -/
def State.intoBox (s : State) (die : Nat) (w : Sender) (k : Nat) (g : Group) (c : Postcard) : State :=
  if 32 ≤ g.postBox.length then s.sendStatus die w 1
  else (s.setGroup (.grp k) { g with postBox := g.postBox ++ [c] }).sendStatus die w 0

/-- POSTCARD_ROUTE: the home core looks the name up and forwards, stores or bounces (R335, R336). -/
def execPostcardRoute (msg : Nat) (s : State) : Result :=
  .next (match s.msgs.get? msg with
    | some (.post w name c) =>
      if s.unrouted w name (some msg) then s else
      let drop := { s with msgs := s.msgs.erase msg }
      if !s.nameHere name then drop.postFar w name c
      else
        let die := nameDie name
        let drop := drop.heardBy die w
        match s.lookupName name with
        | none => drop.sendStatus die w 2
        | some (k, e) =>
          if !c.u && decide (e.alloc ≤ c.d + c.n - 1) then drop.sendStatus die w 3
          else match s.groups.get? k with
            | none => drop.sendStatus die w 2
            | some g =>
              if g.ended then drop.sendStatus die w 2
              else if g.preempted then (if s.forwardedTo k none then s else drop.intoBox die w k g c)
              else { drop with msgs := drop.msgs.set s.msgs.fresh (.forwarded k w c die (drop.cseqOf die)) }
    | _ => s)

/-- Whether a group is between two issues (R281). -/
def Group.betweenIssues (g : Group) : Bool := g.issueQ.isEmpty || g.stalled

/-- POSTCARD_DELIVER: a resident receiver's registers are written between two issues; a group that has been saved in the
meantime takes it into its post box, and one that has retired bounces it (R281, R336). -/
def execPostcardDeliver (msg : Nat) (s : State) : Result :=
  .next (match s.msgs.get? msg with
    | some (.forwarded k w c die seq) =>
      let drop := { s with msgs := s.msgs.erase msg }
      match s.groups.get? k with
      | none => drop.sendStatus die w 2
      | some g =>
        if s.forwardedTo k (some msg) then s
        else if g.ended then drop.sendStatus die w 2
        else if g.preempted then drop.intoBox die w k g c
        else if !g.betweenIssues then s
        else
          let here := s.dieOf (.grp k)
          ((drop.heard die here seq).applyCard k c).sendStatus here w 0
    | _ => s)

/-- STATUS_LAND: the status word lands in the sender's s-register and clears its hold; a POST at the limit looks again
(R280). -/
def execStatusLand (msg : Nat) (s : State) : Result :=
  .next (match s.msgs.get? msg with
    | some (.status w sreg code die seq) =>
      ({ s with msgs := s.msgs.erase msg }.heard die (s.dieOf w) seq).modGroup w fun g =>
        if g.ended then g else
        let g := { g.putSregs sreg [code] with status := g.status.filter fun q => q.1 != sreg }
        if g.wait == some Wait.postLimit then g.endWait s.now else g
    | _ => s)

/-! ### Active messages (R285, R286, R407) -/

def execAmsg (h : Hdr) (p q k : BitVec 4) (g : BitVec 7) (s : State) : Result :=
  groupOp s (fun _ => [sOpd p .w64, sOpd k .w32, (g, 8)]) fun s x =>
    let carry := h.ext / 2 ^ 8 % 2 = 1
    let c := if carry then x.acap q.toNat else Cap.null
    if carry && !c.tag then s.fault x .capTag x.c.seats (BitVec.ofNat 64 c.cursor)
    else if 16 ≤ x.g.outstanding then s.leave x x.g .postLimit
    else s.release x
      (let ws := (List.range 8).map fun j => x.sr (g.toNat - 96 + j)
       let (v, s) := s.sendMsg x k (.amsg (s.sender x k) (x.spair p) (h.ext % 256) ws c (if x.solo then 0 else x.g.name))
       s.retire x h v)

/-- The partition of a core's cluster, when it is enabled and the core is no service core (R286, R330). -/
def State.partOfCore (s : State) (c : Nat) : Option Nat :=
  if serviceCore c then none else
  (List.range 64).find? fun p => (s.part p).enabled && (s.part p).clusters.getLsbD (coreCluster c)

/-- A handler's descriptor through the capability of its table entry, in the entry's address space: `inl` is the state that
waits for its page, its lines or another package; `none` when it cannot be read (R286, R407). -/
def State.handlerDesc (s : State) (msg : Nat) (w : Who) (c : Cap) (asn : Nat) : Sum State (Option Desc × State) :=
  let k : PageKey := ⟨c.pkg, asn, c.index, c.cursor / 65536⟩
  let here := c.pkg == s.regs.pkg
  if c.kind ≠ 1 ∨ !c.has permR ∨ !(here || c.has permQ) ∨ c.cursor % 256 ≠ 0 ∨ c.cursor < c.base ∨ c.limit < c.cursor + 256 ∨
    (if here then s.revBit asn c.index else s.farRevoked.contains (c.pkg, asn, c.index)) then .inr (none, s)
  else if here then
    match s.engineLookup asn c.index (c.cursor / 65536) with
    | (.frame f, s) =>
      let a := f * 65536 + c.cursor % 65536
      let (ready, s) := s.engineReady a 256 false none
      if ready then .inr (some (descRead (s.bytes a 256) (s.tagsAt a 256) (c.has permLC)), (s.engineRead a 256).counted k s.regs.pkg)
      else .inl s
    | (.absent _ _, s) => .inl s
    | (.held, s) => .inl s
    | (.error, s) => .inr (none, s)
  else match s.reqs.find? fun r => r.2.kind == .handler msg with
    | none => .inl (s.request w 0 k c.cursor (.handler msg) false noPc).2
    | some (n, r) => match r.answer with
      | none => .inl s
      | some (.granules bs ts) => .inr (some (descRead bs ts (c.has permLC)), s.dropReq n)
      | some v => if isAbsent v then .inl (s.dropReq n) else .inr (none, s.dropReq n)

/-- AMSG_ARRIVAL: the target's handler table answers, or a one-group team is queued (R285, R286, R407). -/
def execAmsgArrival (msg : Nat) (s : State) : Result :=
  .next (match s.msgs.get? msg with
    | some (.amsg w target hn ws c name) =>
      let drop := { s with msgs := s.msgs.erase msg }
      if !s.nameHere target then
        match w with
        | .here v sreg _ =>
          drop.sendFar v (namePkg target) (.message sreg (.amsg hn ws c.bits c.tag name target))
        | .far _ _ => drop.sendStatus fabricDie w 3
      else match nameCore target with
        | none => drop.sendStatus fabricDie w 3
        | some core =>
          let die := coreDie core
          let drop := drop.heardBy die w
          match s.partOfCore core with
          | none => drop.sendStatus die w 1
          | some p =>
            let a := (s.part p).amBase + 32 * hn
            let dc := s.capAt a
            let asn := s.num (a + 0x10) 2
            let depth := s.num (a + 0x12) 2
            if depth = 0 ∨ !dc.tag then drop.sendStatus die w 1 else
            let queued := (s.grids.filter fun e => e.2.part == some p && !e.2.ended && decide (e.2.next < e.2.teams) &&
              (match e.2.source with | .amsg h _ => h == hn | _ => false)).length
            if depth ≤ queued then drop.sendStatus die w 2 else
            match drop.handlerDesc msg (match w with | .here v _ _ => v | .far _ _ => .ctl 0) dc asn with
            | .inl t => { t with msgs := s.msgs, cseq := s.cseq }
            | .inr (none, drop) => drop.sendStatus die w 4
            | .inr (some d, drop) =>
              if !(d.valid false && decide (d.threads ≤ 32) && s.partFits p d && d.capsOk false) then drop.sendStatus die w 4 else
              let (id, s) := drop.launchId p
              (s.enqueue { launch := id, part := some p, desc := d, asn := BitVec.ofNat 16 asn,
                           args := sregsOf (ws ++ words 2 name.toNat), a0 := c, source := .amsg hn (coreDie core), teams := 1,
                           next := 0, held := false, reported := false, ended := false, order := 0 }).sendStatus die w 0
    | _ => s)

/-! ### Services (R287, R300, R404-R406) -/

/-- The die's service team takes batches while one of its groups is alive. -/
def State.serviceUp (s : State) (die : Nat) : Bool :=
  match (s.service.get? die).bind s.teams.get? with
  | some t => t.phase == .resident
  | none => false

/-- SVC: a batch of the active lanes' request quads, or SERVICE_ERROR; on a control core the exception of R296. -/
def execSvc (h : Hdr) (n : BitVec 8) (k : BitVec 4) (g : BitVec 7) (s : State) : Result :=
  withCtx s fun x =>
    match x.who with
    | .ctl c =>
      if (x.g.lane 0).tx.isSome then (let s := s.abort x.who [0] .illegal; s.lapse (s.rest x [0]) x.c.endsRun)
      else { s with cur := none }.exception c (x.c.addr + BitVec.ofNat 64 x.c.len) 0x40 (n.setWidth 64)
    | .grp gn => outsideTx s x fun s x => (s.ready x [opd g .w128, sOpd k .w32]).getD
      (match x.g.waitDone with
       | some v => (s.acquire x.who 9).retire x h ({ x with g := { x.g with waitDone := none } }.dstS h.n k.toNat .w32 v)
       | none =>
         let die := s.dieOf x.who
         if !s.services.contains n.toNat || !s.serviceUp die then s.fault x .serviceError x.c.seats (n.setWidth 64)
         else s.release x
           (let b : Batch :=
              { group := gn, part := (s.partOf x.who).getD 0, die, name := x.g.name, launch := x.g.launch,
                team := x.teamix.toNat, threads := (x.g.byLogical x.c.seats).map fun i => (x.g.lane i).thread.getD 0,
                n := n.toNat, keep := h.n, a0 := x.acap 0, asn := x.g.asn, seats := x.g.byLogical x.c.seats,
                quads := (x.g.byLogical x.c.seats).map fun i => x.src128 i g, dest := x.wb + g.toNat, sreg := k.toNat,
                taken := false, replies := [], freeing := [], issued := s.tick, asked := [], answers := [] }
            let i := s.batches.fresh
            { s with batches := s.batches.set i b }.leave x x.g (.svc i)))

/-- SVC_BATCH: batches of one die are taken in their order of arrival (R404). -/
def execSvcBatch (batch : Nat) (s : State) : Result :=
  .next (match s.batches.get? batch with
    | none => s
    | some b =>
      if b.taken || (s.batches.any fun e => decide (e.1 < batch) && e.2.die == b.die && !e.2.taken) then s
      else { s with batches := s.batches.set batch { b with taken := true } })

/-- Whether a batch is the first of its die: batches are served, and answered, in their order of arrival (R404). -/
def State.firstBatch (s : State) (batch : Nat) (b : Batch) : Bool := !s.batches.any fun e => decide (e.1 < batch) && e.2.die == b.die

/-- Request word j of a lane of a batch. -/
def Batch.word (b : Batch) (lane j : Nat) : Nat := (b.quads.getD lane 0).toNat / 2 ^ (32 * j) % 2 ^ 32

/-- The handle, the block and the number of blocks of a lane's storage request (R404). -/
def Batch.handle (b : Batch) (lane : Nat) : Nat := b.word lane 0 / 65536
def Batch.lba (b : Batch) (lane : Nat) : Nat := b.word lane 1 + 2 ^ 32 * b.word lane 2
def Batch.blocks (b : Batch) (lane : Nat) : Nat := b.word lane 0 % 65536

/-- The writes of an SWRITE batch that the drive has accepted (R406). -/
def State.storedBy (s : State) (b : Batch) : List (Nat × Nat × Nat × Nat) :=
  if b.n ≠ 17 then [] else
  (b.replies.filter fun r => r.2.toNat % 2 ^ 32 == 0).map fun (r : Nat × Quad) => (s.tick, b.handle r.1, b.lba r.1, b.blocks r.1)

/-- SVC_REPLY: every lane's reply quad, tags cleared, and 0 in sK unless N keeps it, as one step (R21, R287). The replies of a service that R404
lists are those its lanes were given; those of any other are the kernel's. -/
def execSvcReply (batch : Nat) (replies : List Quad) (s : State) : Result :=
  .next (match s.batches.get? batch with
    | none => s
    | some b =>
      let known := [1, 2, 16, 17, 18].contains b.n
      if !b.taken || !s.firstBatch batch b || (known && decide (b.replies.length < b.seats.length)) then s else
      let quad := fun (j : Nat) => if known then b.replies.getD j 0 else replies.getD j 0
      { s with batches := s.batches.erase batch, acked := s.acked ++ s.storedBy b }.modGroup (.grp b.group) fun g =>
        if !g.waits.contains (.svc batch) then g else
          let g := (b.seats.zipIdx).foldl (fun (g : Group) (p : Nat × Nat) => g.modLane p.1 fun l => l.setRegs b.dest (words 4 (quad p.2).toNat) false) g
          (if b.keep then g else g.putSregs b.sreg [0]).answer (.svc batch) 0 s.now)

/-- A reply quad: status and results. -/
def replyOf (status r1 : Nat) : Quad := BitVec.ofNat 128 (status + r1 * 2 ^ 32)

/-- A service's effect for one lane of the first batch of its die, once the service team has it: its reply, or none while it waits,
and the state after it. A lane whose a0 lacks what the service needs gets PERM. -/
def State.serveLane (s : State) (batch lane n : Nat) (perms : BitVec 8) (f : Batch → Option Quad × State) : State :=
  match s.batches.get? batch with
  | none => s
  | some b =>
    if !b.taken || !s.firstBatch batch b || b.n ≠ n || (b.replies.get? lane).isSome || decide (b.seats.length ≤ lane) then s else
    match (if b.a0.has perms then f b else (some (replyOf 4 0), s)) with
    | (none, s) => s
    | (some v, s) => { s with batches := s.batches.modify batch fun b => { b with replies := b.replies.set lane v } }

/-- A service that reads or writes ranges of memory waits until it can have them (R256, R257). -/
def State.served (s : State) (rs : List (Nat × Nat × Bool)) (go : State → Option Quad × State) : Option Quad × State :=
  if (s.allReady rs).1 then go s else (none, (s.allReady rs).2)

/-- A range of a batch's a0, by offset from its cursor: its physical pieces, when it can be reached; INVALID when it cannot (log 37).
A page that is not resident only delays it. -/
def State.reach (s : State) (b : Batch) (off n : Nat) (perms : BitVec 8) (align : Bool)
    (go : List (Nat × Nat) → State → Option Quad × State) : Option Quad × State :=
  let e := b.a0.cursor + off
  if (s.check (.grp b.group) 0 b.a0 e (if align then n else 0) [1] perms align).isSome ∨ b.a0.limit < e + n ∨ b.a0.pkg ≠ s.regs.pkg then
    (some (replyOf 1 0), s)
  else match s.findObject b.asn.toNat b.a0.index e n with
    | (.places l, s) => go l s
    | (.error, s) => (some (replyOf 1 0), s)
    | (.absent, s) => (none, s)
    | (.held, s) => (none, s)

/-- Writes a capability to memory as the service team does. -/
def State.engineWriteCap (s : State) (a : Nat) (c : Cap) : State :=
  let s := (s.txConflict none (a / 128) true).dirWrite (a / 128) none
  (s.putCap a (leBytes 16 c.bits.toNat) c.tag).lineWritten (a / 128)

/-- What the hardware's tables take up of memory, and what they say objects do (R357-R359, R366, R384, R390, R403, R407, R410). -/
def State.usedRanges (s : State) : List (Nat × Nat) :=
  let r := s.regs
  let ring := fun (base log2 n : Nat) => if log2 = 0 then [] else [(base, n * 2 ^ log2)]
  [(r.astBase, 32 * r.astLen), (r.rpBase, r.rpSize * 2 ^ 20), (r.rtBase, 64 * 4096), (r.ttBase, 64 * 1024), (r.psBase, 128 * 16),
   (r.ivBase, 8 * 2048)] ++ ring r.nqBase r.nqLog2 32 ++
  (s.parts.flatMap fun (p : Nat × Part) => ring p.2.tq.base p.2.tq.log2 64 ++ ring p.2.oq.base p.2.oq.log2 128 ++
    [(p.2.fkd, 256), (p.2.amBase, 32 * 256)]) ++
  (List.range r.astLen).flatMap fun asn =>
    let ast := r.astBase + 32 * asn
    if s.num (ast + 0xC) 4 % 2 = 0 then [] else
    let n := s.num (ast + 8) 4
    (s.num ast 8, 16 * n) :: (s.num (ast + 0x10) 8, (n + 7) / 8) :: (List.range n).flatMap fun obj =>
      let o := s.num (s.num ast 8 + 16 * obj) 16
      if o / 2 ^ 127 = 0 then [] else
      let at_ := o / 2 ^ 7 % 2 ^ 35 * 128
      let pages := o / 2 ^ 100 % 2 ^ 26
      (at_, 8 * pages) :: (List.range pages).filterMap fun p =>
        let e := s.num (at_ + 8 * p) 8
        if e / 2 ^ 63 = 0 then none else some (e / 2 ^ 16 % 2 ^ 26 * 65536, 65536)

/-- Whether [a, a + n) lies in memory that nothing of those takes up. -/
def State.freeRange (s : State) (a n : Nat) : Bool :=
  ((blocks 128 a n).all fun l => s.hasMem (128 * l)) && s.usedRanges.all fun r => decide (r.1 + r.2 ≤ a) || decide (a + n ≤ r.1)

/-- ALLOC: an object of the issuing package, and a capability to it at the slot (R405). The hardware's choices stand for
system software's: the object index, the place of its extent array and its first frame, or none; NOMEM where what is chosen is in
use, an index that has been freed until step 5 of R369 among it (log 36). -/
def execAlloc (batch lane : Nat) (s : State) : Result :=
  .next (s.serveLane batch lane 1 (permW ||| permSC) fun b =>
    let len := b.word lane 0 + 2 ^ 32 * b.word lane 1
    let perm := b.word lane 2 % 256
    let pages := (len + 65535) / 65536
    let asn := b.asn.toNat
    match boundsOf 0 len with
    | none => (some (replyOf 1 0), s)
    | some (ge, lo, up) =>
      if len = 0 ∨ 2 ^ 26 ≤ pages then (some (replyOf 1 0), s) else
      s.reach b (b.word lane 3) 16 (permW ||| permSC) true fun l s =>
        let slot := (l.headD (0, 0)).1
        let (obj, t) := s.pick
        let (line, t) := t.pick
        let (frame, t) := t.pick
        let ot := s.num (s.regs.astBase + 32 * asn) 8 + 16 * obj
        let busy : Bool := match s.objectEntry asn obj with
          | some o => o / 2 ^ 127 == 1
          | none => true
        let apart := decide (128 * line + 8 * pages ≤ 65536 * frame) || decide (65536 * (frame + pages) ≤ 128 * line)
        if line = 0 ∨ busy ∨ s.revBit asn obj ∨ (s.freed.any fun f => f.1 == asn && f.2.1 == obj) ∨ 2 ^ 35 ≤ line ∨
            !s.freeRange (128 * line) (8 * pages) ∨
            (frame ≠ 0 ∧ (2 ^ 26 < frame + pages ∨ !apart ∨ !s.freeRange (65536 * frame) (65536 * pages))) then (some (replyOf 2 0), t) else
        s.served [(128 * line, 8 * pages, true), (ot, 16, true), (slot, 16, true)] fun _ =>
          let s := t.countRange asn b.a0.index (b.a0.cursor + b.word lane 3) 16
          let code := perm / 4 % 2
          let s := (List.range pages).foldl (fun (s : State) i => s.engineWrite (128 * line + 8 * i)
            (leBytes 8 (if frame = 0 then 0 else 2 ^ 63 + (frame + i) * 2 ^ 16))) s
          let s := s.engineWrite ot (leBytes 16 (2 ^ 127 + code * 2 ^ 126 + pages * 2 ^ 100 + line * 2 ^ 7))
          let s := s.engineWriteCap slot ⟨capBits 1 perm (s.regs.pkg * 2 ^ 20 + obj) ge lo up 0, true⟩
          (some (replyOf 0 obj), s))

/-- Every core of the package drops its revocation-cache lines of an address space (R367). -/
def State.dropRevoked (s : State) (asn : Nat) : State :=
  let drop := fun m : FMap Word => m.filter fun r => r.1 / 2 ^ 15 != asn
  { s with cores := s.cores.map fun (e : Nat × Core) => (e.1, { e.2 with revoked := drop e.2.revoked })
           ctls := s.ctls.map fun (e : Nat × Ctl) => (e.1, { e.2 with revoked := drop e.2.revoked }) }

/-- Transactions of some threads whose buffered writes wait for their commit. -/
def State.buffers (s : State) (p : Who → Bool) : List (Who × Nat × Nat) :=
  (s.threads.filter p).flatMap fun w => (s.group? w).elim [] fun g =>
    (List.range g.lanes.length).filterMap fun i => (g.lane i).tx.bind fun t => if t.buf.isEmpty then none else some (w, i, t.born)

/-- What has passed a revocation check for an address space and is neither performed nor over (R367). -/
def State.checked (s : State) (asn : Nat) : OpenWork :=
  { reqs := (s.reqs.filter fun r => r.2.asn == asn && !r.2.done).map (·.1)
    txs := s.buffers fun w => s.asnOf w == asn
    copies := s.cores.flatMap fun (c : Nat × Core) => c.2.copies.filterMap fun (e : Nat × CopySlot) =>
      if e.2.state == .running && ((s.groups.get? e.2.group).any fun g => g.asn.toNat == asn) then some (c.1, e.1, e.2.seq) else none }

/-- Whether requests of a list are still unanswered. -/
def State.anyOpen (s : State) (l : List Nat) : Bool := l.any fun n => (s.reqs.get? n).any fun r => !r.done

/-- Whether any of some work is still open. -/
def State.workOpen (s : State) (v : OpenWork) : Bool :=
  s.anyOpen v.reqs ||
  (v.txs.any fun q => ((s.group? q.1).bind fun g => (g.lane q.2.1).tx).any fun t => t.born == q.2.2) ||
  (v.copies.any fun c => ((s.core c.1).copies.get? c.2.1).any fun e => e.state == .running && e.seq == c.2.2)

/-- Packages that have taken translations of an address space (R395). -/
def State.takersOf (s : State) (asn : Nat) : List Nat := (s.takers.filter fun t => t.1 == asn).map (·.2)

/-- Invalidations sent to takers: one request each, whose answer is the acknowledgement (R395). Their numbers follow. -/
def State.tellTakers (s : State) (w : Who) (mode : Nat) (k : PageKey) : List Nat × State :=
  (s.takersOf k.asn).foldl (fun (r : List Nat × State) p =>
    let s := r.2.cross (r.2.dieOf w) fabricDie
    let n := s.reqs.fresh
    let q : Req := { who := w, seat := 0, kind := .invalidate mode, strong := false, addr := 0, key := { k with pkg := p }, asn := k.asn, dest := none,
                     latch := [], done := false, answer := none, value := [], tag := false, gen := s.smGen.toNat, rehome := false, bounced := false,
                     remote := some p, num := none, sends := 1, sentAt := s.now, pc := noPc }
    (r.1 ++ [n], { s with reqs := s.reqs.set n q, sent := s.sent ++ [Outbound.invalidate p mode k.asn k.obj k.page (s.cseqOf fabricDie)] })) ([], s)

/-- FREE: the object's revocation bit is set, and the address space is synchronised before the reply: every core has dropped its
revocation-cache lines, and what passed a check before has ended, here and at every taker (R369, R395, R405). -/
def execFree (batch lane : Nat) (s : State) : Result :=
  .next (s.serveLane batch lane 2 (permW ||| permSC) fun b =>
    let asn := b.asn.toNat
    s.reach b (b.word lane 0) 16 (permW ||| permSC) true fun l s =>
      let slot := (l.headD (0, 0)).1
      let c := s.capAt slot
      match b.freeing.get? lane with
      | some v => if s.workOpen v.2 then (none, s) else (some (replyOf 0 0), { s with freed := s.freed ++ [(asn, v.1, false)] })
      | none =>
        if !c.tag ∨ c.kind ≠ 1 ∨ c.pkg ≠ s.regs.pkg then (some (replyOf 1 0), s)
        else
          let a := s.num (s.regs.astBase + 32 * asn + 0x10) 8 + c.index / 8
          s.served [(slot, 16, false), (a, 1, true)] fun s =>
            let s := s.countRange asn b.a0.index (b.a0.cursor + b.word lane 0) 16
            let s := ((s.engineRead slot 16).engineWrite a [s.byte a ||| (1#8 <<< (c.index % 8))]).dropRevoked asn
            let v := s.checked asn
            let (pend, s) := s.tellTakers (.grp b.group) 3 ⟨0, asn, 0, 0⟩
            (none, { s with batches := s.batches.modify batch fun b =>
              { b with freeing := b.freeing.set lane (c.index, { v with reqs := v.reqs ++ pend }) } }))

/-! ### Storage (R406) -/

/-- The service team's request to the drive: an SWRITE's blocks, read at their home slices, go with it. -/
def State.askDrive (s : State) (batch lane : Nat) : State :=
  match s.batches.get? batch with
  | none => s
  | some b =>
    if b.asked.contains lane then s else
    let send := fun (s : State) (data : List Byte) =>
      { s with sent := s.sent ++ [Outbound.drive b.n batch lane (b.handle lane) (b.lba lane) data]
               batches := s.batches.modify batch fun b => { b with asked := b.asked ++ [lane] } }
    let n := b.blocks lane * 4096
    if b.n = 16 then s.serveLane batch lane 16 (permW ||| permE) fun b => s.reach b (b.word lane 3) n permW false fun _ s => (none, send s [])
    else if b.n = 17 then
      s.serveLane batch lane 17 (permR ||| permE) fun b => s.reach b (b.word lane 3) n permR false fun l s =>
        s.served (l.map fun p => (p.1, p.2, false)) fun s =>
          let r := (s.countRange b.asn.toNat b.a0.index (b.a0.cursor + b.word lane 3) n).readPlaces l (some fabricDie)
          (none, send r.2 r.1)
    else s.serveLane batch lane 18 0 fun _ => (none, send s [])

/-- The drive's answer has come, and the lane has its reply once every byte of its buffer has been performed. An SFLUSH that the drive
reports done covers every write to the handle whose reply had landed before it was issued. -/
def State.fromDrive (s : State) (batch lane : Nat) : State :=
  match (s.batches.get? batch).bind fun b => (b.answers.get? lane).map fun v => (b, v) with
  | none => s
  | some (b, ok, bs) =>
    let perms := if b.n = 16 then permW ||| permE else if b.n = 17 then permR ||| permE else 0
    s.serveLane batch lane b.n perms fun b =>
      if !ok then (some (replyOf 3 0), s)
      else if b.n = 16 then
        let n := b.blocks lane * 4096
        s.reach b (b.word lane 3) n permW false fun l s =>
          s.served (l.map fun p => (p.1, p.2, true)) fun s =>
            (some (replyOf 0 0), (s.countRange b.asn.toNat b.a0.index (b.a0.cursor + b.word lane 3) n).writePlaces l
              ((bs ++ List.replicate n 0).take n) (some fabricDie))
      else if b.n = 18 then
        (some (replyOf 0 0), { s with acked := s.acked.filter fun w => !(w.2.1 == b.handle lane && decide (w.1 < b.issued)) })
      else (some (replyOf 0 0), s)

/-- The drive answers a request that it has been sent. -/
def State.driveSays (s : State) (n batch lane : Nat) (ok : Bool) (bs : List Byte) : State :=
  match s.batches.get? batch with
  | none => s
  | some b =>
    if b.n ≠ n || !b.asked.contains lane || (b.answers.get? lane).isSome then s
    else { s with batches := s.batches.set batch { b with answers := b.answers.set lane (ok, bs) } }.fromDrive batch lane

/-- SREAD: the drive's blocks go to the buffer before the reply. -/
def execSread (batch lane : Nat) (blocks : List Byte) (ok : Bool) (s : State) : Result := .next (s.driveSays 16 batch lane ok blocks)

/-- SWRITE: the drive has accepted the blocks it was sent, or not. -/
def execSwrite (batch lane : Nat) (ok : Bool) (s : State) : Result := .next (s.driveSays 17 batch lane ok [])

/-- SFLUSH: the drive reports earlier acknowledged writes durable. -/
def execSflush (batch lane : Nat) (ok : Bool) (s : State) : Result := .next (s.driveSays 18 batch lane ok [])

end Sys2Proof.Machine
end

