-- ==== Sys2Proof/Machine/Transactions.lean ====
section
/-! DEFINITION. TBEGIN, TEND, TABORT and TSTAT (R288-R290), the caddy's tickets (R306, R315-R317), control-core commits
(R318), revalidation (R313) and the cosy lock (R321). -/

namespace Sys2Proof.Machine

open Sys2Proof

/-! ### TBEGIN -/

/-- A transaction as TBEGIN opens it (R289). -/
def newTx (reg : Nat) (next : Dword) (cosy : Bool) (now tick valp : Nat) : Tx :=
  { depth := 1, retryPc := next, reg, cosy, log := [], buf := [], rset := [], wset := [], since := now, born := tick, valp, ticket := none }

/-- A lane opens its transaction: its status word is the TBEGIN's result. -/
def Group.openTx (g : Group) (i reg : Nat) (next : Dword) (cosy n : Bool) (now tick valp : Nat) : Group :=
  let v := statusWord 0 (g.lane i).tries cosy 0
  g.modLane i fun l =>
    let l := { l.push (v.setWidth 64) with tx := some (newTx reg next cosy now tick valp) }
    if n then l else l.setReg reg v false

/-- TBEGIN in each active lane: it opens, deepens, aborts at depth 15, or waits for the cosy lock (R289, R321). -/
def execTbegin (h : Hdr) (g : BitVec 7) (s : State) : Result :=
  withOps s (fun _ => [opd g .w32]) (reads := fun _ => []) fun x =>
    let reg := x.wb + g.toNat
    let next := x.c.addr + BitVec.ofNat 64 x.c.len
    let fresh := fun i => (x.g.lane i).tx.isNone
    let full := x.c.seats.filter fun i => ((x.g.lane i).tx).any fun t => t.depth == 15
    let waits := (x.g.byLogical x.c.seats).filter fun i => fresh i && x.seen.cosyNext (x.g.lane i).tries
    let opens := x.c.seats.filter fun i => fresh i && !waits.contains i
    let g1 := opens.foldl (fun (v : Group) i => v.openTx i reg next false h.n s.now s.tick x.u.txValp) x.g
    let g1 := g1.modLanes (x.c.seats.filter fun i => !fresh i && !full.contains i) fun _ l =>
      { l with tx := l.tx.map fun t => { t with depth := t.depth + 1 } }
    let g1 := g1.modLanes waits fun _ l => { l with mode := LaneMode.cosyWait }
    let s := { s with cosyQ := s.cosyQ ++ waits.map fun i => (⟨x.who, i, reg, next, h.n⟩ : CosyWait) }
    let s := ((s.setGroup x.who (g1.executed waits s.now)).abort x.who full .nest).modGroup x.who fun g => g.executed full s.now
    let x' := s.rest x (waits ++ full)
    if x'.c.seats.isEmpty then s.lapse x' h.b else s.retire x' h x'.g

/-- COSY_LOCK_GRANT: the first waiting lane takes the lock and its transaction opens; if its group is in a handler that
the lane runs, its saved state records it (R321, R355). -/
def execCosyLockGrant (s : State) : Result :=
  .next (match s.cosy, s.cosyQ with
    | none, q :: rest =>
      { (s.count 10 1) with cosy := some (q.who, q.seat), cosyQ := rest }.modGroup q.who fun g =>
        g.rouse s.now fun g =>
          let g := g.openTx q.seat q.reg q.next true q.n s.now s.tick g.txValp
          match g.trapSave with
          | some v => match v.seats[q.seat]? with
            | some w => if w.inH then
                { g with trapSave := some { v with seats := v.seats.set q.seat { w with mode := .running, pc := q.next } } }
              else (g.modLane q.seat fun l => { l with mode := LaneMode.running, pc := q.next }).settlePaths [q.seat]
            | none => g
          | none => (g.modLane q.seat fun l => { l with mode := LaneMode.running, pc := q.next }).settlePaths [q.seat]
    | _, _ => s)

/-! ### TEND -/

/-- The lines that a lane's log and buffer name, each with whether it is written (R315). -/
def Tx.lines (t : Tx) : List (Nat × Bool) :=
  let w := (t.buf.map fun e => e.granule / 8).foldl sInsert []
  let r := ((t.log.map fun e => e.granule / 8).foldl sInsert []).filter fun l => !w.contains l
  w.map (fun l => (l, true)) ++ r.map fun l => (l, false)

/-- Whether the cosy lock lets a control core commit now (R321). -/
def State.cosyLets (s : State) (w : Who) (i : Nat) : Bool :=
  match s.cosy with
  | none => true
  | some (v, j) => v == w && j == i

/-- Whether the cosy lock lets a ticket take its lock step: it is free, the ticket is its holder's, or the ticket is a lower one
of the holder's own TEND (R315, R321). -/
def State.ticketLets (s : State) (k : Ticket) : Bool :=
  s.cosyLets (.grp k.who) k.seat ||
  s.tickets.any fun q => s.cosy == some (Who.grp q.who, q.seat) && q.tend == k.tend && decide (k.num < q.num)

/-- A lane's transaction has committed: TRIES is 0 and the lock is free again (R290, R317). -/
def State.committed (s : State) (w : Who) (i : Nat) : State :=
  (s.dropCosy w i).modGroup w fun g => g.modLane i fun l => { l with tx := none, tries := 0 }

/-- A control core's TEND at depth 1 (R318): its write set becomes visible at once. -/
def State.soloCommit (s : State) (x : Ctx) (n : Nat) (h : Hdr) (t : Tx) : State :=
  let ls := (t.buf.map fun e => e.granule / 8).foldl sInsert []
  if s.change.isSome || !s.cosyLets x.who 0 then s.stall x 2
  else if !ls.all fun l => s.mayTake l true (some n) then (ls.foldl (fun (s : State) l => s.summon l true (some n)) s).stall x 2
  else
    let s := s.publish x.who t
    let s := s.setCtl n { s.ctl n with signature := [] }
    let s := s.committed x.who 0
    s.retire x h ((s.group? x.who).getD x.g)

/-- TEND: lanes at depth 1 take consecutive tickets in ascending logical lane order and wait for them; then deeper lanes
lower their depth (R290, R306). -/
def execTend (h : Hdr) (s : State) : Result :=
  withCtx s fun x =>
    let depth := fun i => ((x.g.lane i).tx).elim 0 fun t => t.depth
    let last := (x.g.byLogical x.c.seats).filter fun i => depth i == 1
    let finish : State := s.retire x h (x.g.modLanes x.c.seats fun _ l =>
      { l with tx := l.tx.map fun t => { t with depth := t.depth - 1 } })
    if last.isEmpty then finish
    else s.release x
      (match ctlOf x.who with
       | some n => match (x.g.lane 0).tx with
         | some t => s.soloCommit x n h t
         | none => finish
       | none =>
         let gn := match x.who with | .grp k => k | .ctl k => k
         let new := last.filter fun i => ((x.g.lane i).tx).any fun t => t.ticket.isNone
         let g := new.zipIdx.foldl (fun (g : Group) (p : Nat × Nat) => g.modLane p.1 fun l =>
           { l with tx := l.tx.map fun t => { t with ticket := some (s.nextTicket + p.2) } }) x.g
         let s := { s with tickets := s.tickets ++ new.zipIdx.map fun (p : Nat × Nat) => (⟨s.nextTicket + p.2, s.nextTicket, gn, p.1⟩ : Ticket)
                           nextTicket := s.nextTicket + new.length }
         (s.count 8 new.length).stall (x.put g) 2)

/-- Whether a ticket has marked its lines. -/
def State.locked (s : State) (k : Ticket) : Bool := s.marks.any fun m => m.ticket == k.num

/-- The lock step of a ticket (R315): every line is marked at its home slice, as a write or a read that control cores and other
agents see (R318), once no other hold is on it. -/
def State.lockLines (s : State) (k : Ticket) (ls : List (Nat × Bool)) : State :=
  if !ls.all fun l => !s.blocked l.1 true && s.mayTake l.1 l.2 none then
    ls.foldl (fun (s : State) l => s.summon l.1 l.2 none) s
  else
    let s := ls.foldl (fun (s : State) l =>
      let s := s.txConflict none l.1 l.2
      if l.2 then s.dirWrite l.1 none else s.dirRead l.1 none) s
    { s with marks := s.marks ++ ls.map fun l => (⟨l.1, k.num, l.2⟩ : Mark) }

/-- The end of a ticket (R315, R317): its lane is validated against the marked lines, then publishes and commits, or aborts. -/
def State.endTicket (s : State) (k : Ticket) (t : Tx) : State :=
  let w := Who.grp k.who
  let s := { s with marks := s.marks.filter fun m => m.ticket != k.num }
  if s.validate t then
    let s := s.publish w t
    let s := { s with tickets := s.tickets.filter fun q => q.num != k.num }
    (s.committed w k.seat).acquire w 9
  else (s.count 9 1).abort w [k.seat] .validation

/-- The ticket that the caddy carries out next: the lowest that has marked its lines or may. A ticket that waits for the cosy
lock would hold back its holder's for ever, and is passed (log 89). -/
def State.nextTicketOf (s : State) : Option Ticket := s.tickets.find? fun k => s.locked k || s.ticketLets k

/-- CADDY_TICKET: a ticket marks its lines, then is carried out (R315-R317). -/
def execCaddyTicket (s : State) : Result :=
  .next (match s.nextTicketOf with
    | none => s
    | some k =>
      match (s.group? (.grp k.who)).bind fun g => (g.lane k.seat).tx with
      | none => { s with tickets := s.tickets.filter fun q => q.num != k.num }
      | some t =>
        if s.locked k then s.endTicket k t
        else if s.change.isSome || !s.leaving.isEmpty then s
        else if t.lines.isEmpty then s.endTicket k t
        else s.lockLines k t.lines)

/-! ### TABORT, TSTAT and the revalidation timer -/

/-- TABORT: every active lane with an open transaction aborts with EXPLICIT and its code; the run ends with B even where no
active lane is left (R22, R290). -/
def execTabort (h : Hdr) (c : BitVec 8) (s : State) : Result :=
  withCtx s fun x =>
    let txs := x.c.seats.filter fun i => (x.g.lane i).tx.isSome
    let s := (s.abort x.who txs .explicit c.toNat).modGroup x.who fun g => g.executed txs s.now
    let x' := s.rest x txs
    if x'.c.seats.isEmpty then s.lapse x' h.b else s.retire x' h x'.g

/-- The current state of a lane as TSTAT writes it (R290). -/
def Group.txState (g : Group) (i : Nat) : Word :=
  let l := g.lane i
  match l.tx with
  | some t => statusWord 0 l.tries t.cosy t.depth
  | none => statusWord 0 l.tries (g.cosyNext l.tries) 0

def execTstat (h : Hdr) (g : BitVec 7) (s : State) : Result :=
  compute s h g .w32 [] fun x i => (x.seen.txState i).toNat

/-- REVALIDATION_TIMER: a period of the open transaction has passed (R313). -/
def execRevalidationTimer (g seat : Nat) (s : State) : Result :=
  .next (match (s.groups.get? g).bind fun v => (v.lane seat).tx with
    | none => s
    | some t =>
      if s.now - t.since < 2 ^ (t.valp + 10) then s
      else if s.validate t then s.modGroup (.grp g) fun v => v.modLane seat fun l => { l with tx := l.tx.map fun t => { t with since := s.now } }
      else s.abort (.grp g) [seat] .validation)

end Sys2Proof.Machine
end

