-- ==== Sys2Proof/Machine/Slices.lean ====
section
/-! DEFINITION. The home slices at work: requests in flight performed and answered (R99, R234, R264, R265), invalidations,
recalls, notices and write-backs (R265, R266), node copies (R260), the change of the slice map (R238, R239), the walker,
park retries, counters and notices (R361-R366), prefetch and evictions (R231, R233), and the report of a unit mapped out
(R420, R423). -/

namespace Sys2Proof.Machine

open Sys2Proof

/-! ### Measurement registers and map-outs (R420, R423) -/

/-- Extends a measurement register by a 64-byte event record: MRk becomes SHA-384(MRk, E). -/
def State.extendMr (s : State) (k : Nat) (e : List Byte) : State :=
  { s with trust := { s.trust with mrs := s.trust.mrs.modify k fun m => sha384 (m ++ e) } }

/-- The record of a health event: the unit's kind and number (R423). -/
def healthRecord (kind unit : Nat) : List Byte := leBytes 48 0 ++ leBytes 4 kind ++ leBytes 4 unit ++ leBytes 8 0

/-- A unit has been mapped out: measured, REPLACE set, vector 0x082 raised, and reported to management. -/
def State.reportOut (s : State) (kind unit : Nat) : State :=
  let s := s.extendMr 4 (healthRecord kind unit)
  let h := s.health
  let h := { h with
    replace := true
    cores := if kind ≤ 2 then min (h.cores + 1) 255 else h.cores
    slices := if kind = 3 then min (h.slices + 1) 255 else h.slices
    channels := if kind = 4 then min (h.channels + 1) 63 else h.channels
    links := if kind = 5 then min (h.links + 1) 63 else h.links }
  ({ s with health := h, sent := s.sent ++ [Outbound.report kind unit] }).raise 0x082

/-! ### Requests in flight -/

/-- No earlier request to the line is still to be performed before it: of the same thread (R234), or one that its injector
has had answered with RE-HOME or hashed under another map (R239). -/
def State.oldest (s : State) (n : Nat) (r : Req) : Bool :=
  !(s.reqs.any fun q => decide (q.1 < n) && !q.2.done && q.2.remote.isNone && q.2.addr / 128 == r.addr / 128 &&
    (q.2.who == r.who || (s.injectors q.2.who == s.injectors r.who && (q.2.bounced || q.2.rehome || q.2.gen != r.gen))))

/-- A request that was hashed under the old map reaches the stub of a slice that has left it (R238). -/
def State.atStub (s : State) (r : Req) : Bool :=
  s.change.any fun c => c.step == 5 && r.gen != s.smGen.toNat && c.moved.contains (hash12 6 (r.addr / 128))

/-- The request is performed at its home slice, to which its translation slice has passed it on; its reply is then on its way (R412). -/
def State.performReq (s : State) (n : Nat) (r : Req) : State :=
  let home := sliceDie (s.homeSlice r.addr)
  let s := s.heard (sliceDie (s.translationSlice r.key)) home r.cseq
  let p : List Byte × Bool × State := match r.kind with
    | .load size _ => let s := s.loadAt r.who r.addr; (s.bytes r.addr size, false, s)
    | .loadCap lc => let s := s.loadAt r.who r.addr; (s.bytes r.addr 16, s.tagAt r.addr && lc, s)
    | .store bs => ([], false, s.storeAt r.who r.addr bs none)
    | .storeCap bs t => ([], false, s.storeAt r.who r.addr bs (some t))
    | .atomic op size v cmp _ => let q := s.atomicAt r.who r.addr op size v cmp; (leBytes size q.1, false, q.2)
    | _ => ([], false, s)
  { p.2.2 with reqs := p.2.2.reqs.set n { r with done := true, value := p.1, tag := p.2.1, cseq := p.2.2.cseqOf home } }

/-- Atomics of one instruction whose addresses coincide: those of the other lanes, in order of request (R99). -/
def State.coinciding (s : State) (n : Nat) (r : Req) : List (Nat × Req) :=
  match r.kind with
  | .atomic _ _ _ _ _ => s.reqs.filter fun q => decide (n < q.1) && q.2.who == r.who && q.2.pc == r.pc && q.2.sentAt == r.sentAt &&
      q.2.addr == r.addr && !q.2.done && q.2.remote.isNone && !q.2.rehome && q.2.gen == r.gen &&
      (match q.2.kind with | .atomic _ _ _ _ _ => true | _ => false)
  | _ => []

/-- A request is performed, and with an atomic those that coincide with it: no other access comes between them (R99). -/
def State.performAll (s : State) (n : Nat) (r : Req) : State :=
  (s.coinciding n r).foldl (fun (s : State) q => s.performReq q.1 q.2) (s.performReq n r)

/-- The agent whose own copy a request's write keeps: a control core, but for an atomic, which its home slice performs. -/
def Req.agent (r : Req) : Option Nat :=
  match r.kind with
  | .atomic _ _ _ _ _ => none
  | _ => ctlOf r.who

/-- A request reaches its home slice (R264, R265): it is turned away by a stub, held, performed, or waits, with the line
BUSY, for the agents it must reach. -/
def State.serve (s : State) (n : Nat) (r : Req) : State :=
  let line := r.addr / 128
  let writes := r.kind.changes
  if r.done || r.remote.isSome || r.rehome || !s.oldest n r then s
  else if s.atStub r then { (s.count 4 1) with reqs := s.reqs.set n { r with rehome := true, bounced := true } }
  else if s.blocked line writes then s
  else
    let s := s.txConflict (ctlOf r.who) line writes
    if (s.toTell line writes r.agent).isEmpty then s.performAll n r else s.startTell line writes r.agent (some n)

def execSliceRead (req : Nat) (s : State) : Result :=
  .next (match s.reqs.get? req with
    | some r => match r.kind with
      | .load _ _ | .loadCap _ => s.serve req r
      | _ => s
    | none => s)

def execSliceWrite (req : Nat) (s : State) : Result :=
  .next (match s.reqs.get? req with
    | some r => match r.kind with
      | .store _ | .storeCap _ _ => s.serve req r
      | _ => s
    | none => s)

def execAtomicPerform (req : Nat) (s : State) : Result :=
  .next (match s.reqs.get? req with
    | some r => match r.kind with
      | .atomic _ _ _ _ _ => s.serve req r
      | _ => s
    | none => s)

/-- MEMORY_REPLY: replies of one line complete in program order; a load's value and tag reach the lane (R234). -/
def execMemoryReply (req : Nat) (s : State) : Result :=
  .next (match s.reqs.get? req with
    | none => s
    | some r =>
      if !r.done || r.remote.isSome || (s.reqs.any fun q => decide (q.1 < req) && q.2.who == r.who && q.2.remote.isNone &&
          !q.2.ofCopy && q.2.addr / 128 == r.addr / 128) then s
      else
        let s := (s.dropReq req).heard (sliceDie (s.homeSlice r.addr)) (s.dieOf r.who) r.cseq |>.trailEnds r none
        match r.kind with
        | .load size code => s.modGroup r.who fun g => g.land r.seat r.dest r.latch (widthOfBytes size) (loadValue code r.value) false
        | .loadCap _ => s.modGroup r.who fun g => g.land r.seat r.dest r.latch .w128 (leNat r.value) r.tag
        | .atomic _ size _ _ true => s.modGroup r.who fun g => g.land r.seat r.dest r.latch (widthOfBytes size) (leNat r.value) false
        | _ => s)

/-! ### Invalidations, recalls and acknowledgements (R265) -/

/-- A package of the node, whose acknowledgement comes over the fabric (R260). -/
def nodeAgent (a : Nat) : Bool := decide (128 ≤ a) && decide (a < 136)

/-- The package at a position of the node. -/
def State.packageAt (s : State) (pos : Nat) : Nat :=
  s.regs.pkg / 16 * 16 + ((List.range 16).filter fun c => s.regs.node.getLsbD c).getD pos 0

/-- The agent discards any copy and acknowledges; without one the message was not needed. -/
def execInvalidation (agent line : Nat) (s : State) : Result :=
  .next (
    let d := s.dirAt line
    if !d.busy || d.recalls || !d.owed.contains agent then s
    else
      let s := if s.copies.contains (agent, line) then s else s.count 2 1
      let s := s.heard (s.lineDie line) (agentDie agent) d.cseq
      let c := s.cseqOf (agentDie agent)
      let s := if nodeAgent agent then { s with sent := s.sent ++ [Outbound.nodeInvalidate (s.packageAt (agent - 128)) line c] } else s
      (s.dropCopy agent line).setDir line { d with owed := d.owed.filter (· != agent), acked := d.acked ++ [(agent, c)] })

/-- The owner returns data and ownership: a sharer agent recalled for a read keeps a copy (R264), and an engine answers when it
has no more to write in the line (R256). -/
def execRecall (agent line : Nat) (s : State) : Result :=
  .next (
    let d := s.dirAt line
    if !d.busy || !d.recalls || !d.owed.contains agent || s.stillWrites agent line then s
    else
      let s := s.heard (s.lineDie line) (agentDie agent) d.cseq
      let s := if d.reads then { s with dirty := s.dirty.filter (· != (agent, line)) } else s.dropCopy agent line
      s.setDir line { d with owed := d.owed.filter (· != agent), acked := d.acked ++ [(agent, s.cseqOf (agentDie agent))] })

/-- An acknowledgement comes to the home slice: ACKS falls by one; at zero BUSY clears and the request that waits goes on. An owner whose write-back is still on its
way has it taken as the recall's data first (R266). -/
def execInvalidationAck (agent line : Nat) (s : State) : Result :=
  .next (s.unlessDown fun s =>
    let d := s.dirAt line
    if !d.busy || !(d.acked.any fun a => a.1 == agent) || (d.recalls && s.notes.contains ⟨agent, line, true⟩) then s
    else
    let s := (if nodeAgent agent then s.heardFar.cross fabricDie (s.lineDie line)
      else s.heard (agentDie agent) (s.lineDie line) ((d.acked.find? fun a => a.1 == agent).elim 0 (·.2)))
    if 1 < d.acks then s.setDir line { d with acks := d.acks - 1, acked := d.acked.filter (·.1 != agent) }
    else
      let keep := (s.copies.filter fun c => c.2 == line).map (·.1)
      let s := s.setDir line (keep.foldl DirEntry.addSharer DirEntry.reset)
      match d.wait with
      | none => s
      | some n => match s.reqs.get? n with
        | none => s
        | some r => if r.done then s else s.performAll n r)

/-- EVICTION_NOTICE: the agent's pointer is removed, or an owner's entry goes to I; a coarse or BUSY entry ignores it. A notice
of another package of the node comes over the fabric. -/
def execEvictionNotice (agent line : Nat) (s : State) : Result :=
  .next (s.unlessDown fun s =>
    if !s.notes.contains ⟨agent, line, false⟩ && !nodeAgent agent then s else
    let s := if nodeAgent agent then s.heardFar.dropCopy agent line else { s with notes := s.notes.erase ⟨agent, line, false⟩ }
    let s := s.cross (agentDie agent) (s.lineDie line)
    let d := s.dirAt line
    if d.busy then s
    else match d.st with
      | .P =>
        let ps := d.ptrs.filter (· != agent)
        s.setDir line (if ps.isEmpty then DirEntry.reset else { d with ptrs := ps })
      | .O => if d.ptrs.head? = some agent then s.setDir line DirEntry.reset else s
      | .I => s
      | .C => s)

/-- WRITE_BACK: the owner's entry goes to I; of a BUSY entry it is the recall's data. -/
def execWriteBack (agent line : Nat) (s : State) : Result :=
  .next (
    if !s.notes.contains ⟨agent, line, true⟩ then s else
    let s := { s with notes := s.notes.erase ⟨agent, line, true⟩ }.cross (agentDie agent) (s.lineDie line)
    let d := s.dirAt line
    if !d.busy && d.st == .O && d.ptrs.head? == some agent then s.setDir line DirEntry.reset else s)

/-- NODE_COPY_INVALIDATE: the control cores' copies of the line go first, as this package's directory tracks them, then the
node copy, then the acknowledgement (R260). -/
def execNodeCopyInvalidate (line : Nat) (s : State) : Result :=
  .next (s.unlessDown fun s =>
    let s := s.heardFar.dirWrite line none
    { s with nodeCopies := s.nodeCopies.filter (· != line), sent := s.sent ++ [Outbound.nodeAck line (s.cseqOf fabricDie)] })

/-! ### The slice map (R236-R239) -/

/-- The entries of the map that name a slice. -/
def State.entriesOf (s : State) (sl : Nat) : List Nat := (List.range 4096).filter fun i => s.smap.getD i (i % 512) == sl

/-- The injectors of R238 that are in use: control cores, copy engines, stream ports, the fabric router, compute cores. -/
def State.allInjectors (s : State) : List Nat :=
  ((List.range 128).filter fun n => !(s.ctl n).mappedOut) ++
  ((List.range 1280).filter fun c => !(s.core c).mappedOut).map (136 + ·) ++ (List.range 16).map (1416 + ·) ++ [1436, 1437] ++
  ((List.range 1280).filter fun c => !(s.core c).mappedOut).map (2048 + ·)

/-- Each moved entry names a slice that stays, at the management controller's choice. -/
def State.moveEntries (s : State) (stay : List Nat) (moved : List Nat) : State :=
  moved.foldl (fun (s : State) i =>
    let (k, s) := s.pick
    { s with smap := s.smap.set i (stay.getD (k % stay.length) 0) }) s

/-- Step 2 of R238: the leaving slice recalls what its directory records: every cached copy, and what engines own (R264, R265). -/
def State.recallAll (s : State) (slice : Nat) : State :=
  (s.dir.filter fun e => s.sliceOf e.1 == slice && !e.2.busy).foldl (fun (s : State) (e : Nat × DirEntry) =>
    if (s.toTell e.1 true none).isEmpty then s.setDir e.1 DirEntry.reset else s.startTell e.1 true none none) s

/-- Steps 3 and 4 of R238: the new map and its generation are adopted, and the requests held are answered RE-HOME. -/
def State.adoptMap (s : State) (c : MapChange) : State :=
  let moved := s.entriesOf c.slice
  let gone := c.slice :: s.stubs
  let s := (s.extents.filter fun e => s.translationSlice e.key == c.slice).foldl (fun (s : State) e =>
    { s.countBack e with extents := s.extents.filter fun q => q.key != e.key }) s
  let held := fun (r : Req) => r.remote.isNone && !r.done && moved.contains (hash12 6 (r.addr / 128))
  let s := s.count 4 (s.reqs.filter fun e => held e.2).length
  let s := s.moveEntries ((List.range 512).filter fun k => !gone.contains k) moved
  { s with
    smGen := s.smGen + 1, stubs := gone
    reqs := s.reqs.map fun (e : Nat × Req) => (e.1, if held e.2 then { e.2 with rehome := true, bounced := true } else e.2)
    change := some { c with step := 5, moved, acks := s.allInjectors } }

/-- Steps 2 to 4 of R238: the map is adopted once every recall and invalidation has been acknowledged. -/
def State.changeMap (s : State) (c : MapChange) : State :=
  let s := s.recallAll c.slice
  if s.dir.any fun e => s.sliceOf e.1 == c.slice then s else s.adoptMap c

/-- Whether a change may start: none is in progress, and no ticket is between its lock step and its end, for transactions and a
change wait for one another (R238, R323). -/
def State.mayChange (s : State) : Bool := s.change.isNone && s.marks.isEmpty

/-- SLICE_MAP_CHANGE: one at a time; the last slice does not leave. A change that cannot start yet waits its turn. -/
def execSliceMapChange (slice : Nat) (s : State) : Result :=
  .next (match s.change.filter fun c => c.slice == slice with
    | some c => if c.step = 1 then s.changeMap c else s
    | none =>
      if 512 ≤ slice ∨ s.stubs.contains slice ∨ 511 ≤ s.stubs.length then s
      else if !s.mayChange then
        (if s.leaving.contains slice then s else { s with leaving := s.leaving ++ [slice] })
      else
        let c : MapChange := ⟨slice, 1, [], []⟩
        ({ s with change := some c, leaving := s.leaving.filter (· != slice) }).changeMap c)

/-- INJECTOR_ACK: an injector hashes under the new map from now on. -/
def execInjectorAck (injector : Nat) (s : State) : Result :=
  .next { s with change := s.change.map fun c => { c with acks := c.acks.filter (· != injector) } }

/-- A request hashed under the old map has still to reach the stub. -/
def State.forStub (s : State) : Bool := s.reqs.any fun r => !r.2.done && r.2.remote.isNone && !r.2.rehome && s.atStub r.2

/-- STUB_RETIRE: CHG becomes 0 and the slice is reported. -/
def execStubRetire (s : State) : Result :=
  .next (match s.change with
    | none => s
    | some c =>
      if c.step ≠ 5 ∨ !c.acks.isEmpty || s.forStub then s
      else { s with change := none }.reportOut 3 c.slice)

/-- REHOME_ANSWER: the request is hashed again under the new generation and sent again, in its place (R239). -/
def execRehomeAnswer (req : Nat) (s : State) : Result :=
  .next (match s.reqs.get? req with
    | some r => if r.rehome then { s with reqs := s.reqs.set req { r with rehome := false, gen := s.smGen.toNat } } else s
    | none => s)

/-! ### Translation -/

/-- EXTENT_WALK: a request is answered from the extent cache or by a walk, and counted; a package that takes a translation
is recorded (R361, R365, R395). -/
def execExtentWalk (asn : BitVec 16) (obj page src : Nat) (s : State) : Result :=
  .next (
    let (a, s) := s.translate asn.toNat obj page src
    match a with
    | .frame _ =>
      if src = s.regs.pkg ∨ s.takers.contains (asn.toNat, src) then s else { s with takers := s.takers ++ [(asn.toNat, src)] }
    | _ => s)

/-- PARK_RETRY: lanes that no monitor records replay once 4,096 clocks have passed (R364). -/
def execParkRetry (g : Who) (s : State) : Result :=
  .next (s.wakeThose g fun _ t => t.any fun t => decide (t ≤ s.now))

/-- COUNTER_THRESHOLD: a counted page at its threshold (R365). -/
def execCounterThreshold (asn : BitVec 16) (obj page : Nat) (s : State) : Result :=
  .next (match s.cachedExtent ⟨s.regs.pkg, asn.toNat, obj, page⟩ with
    | none => s
    | some e =>
      if s.regs.thresh = 0 ∨ e.entry.toNat / 2 ^ 60 % 4 = 0 ∨ e.entry.toNat / 2 ^ 42 % 2 ^ 14 < s.regs.thresh then s
      else s.thresholdAct e s.regs.pkg)

/-- NOTICE_WRITE: the oldest waiting notice is written once there is room (R366). -/
def execNoticeWrite (s : State) : Result := .next s.drainNotice

/-! ### Prefetch and evictions -/

/-- The lines that a stream may fetch ahead: up to DIST lines on, within the capability's bounds (R233). -/
def Stream.ahead (v : Stream) (dist : Nat) : List Nat :=
  (List.range dist).filterMap fun (k : Nat) =>
    let n : Int := v.line + v.stride * (k + 1)
    if v.stride ≠ 0 ∧ (v.base : Int) ≤ 128 * n ∧ 128 * n + 128 ≤ (v.limit : Int) then some n.toNat else none

/-- The partition a core's streams prefetch for, by the group that started them. -/
def State.prefetches (s : State) (v : Stream) (line : Nat) : Bool :=
  (s.partOf (.grp v.group)).any fun p =>
    (s.part p).pfMode == 2 && (v.ahead (s.part p).pfDist).any fun l =>
      (s.peek { v.key with page := 128 * l / 65536 } (128 * l)).any fun a => a / 128 == line

/-- STREAM_PREFETCH: a line ahead of a stream enters the near cache (R233). -/
def execStreamPrefetch (core line : Nat) (s : State) : Result :=
  .next (
    if !(s.core core).streams.any fun v => s.prefetches v line then s
    else (List.range 4).foldl (fun (s : State) j => s.prefetch core (4 * line + j)) s)

/-- A line leaves a control core's caches (R266, R318): a written line of an open transaction aborts it, a read one goes
into the signature; from the L1 it is kept in the L2. -/
def State.evictControl (s : State) (n line : Nat) (fromL2 : Bool) : State :=
  if !fromL2 || !s.copies.contains (n, line) then s else
  match ((s.ctl n).thread.lane 0).tx with
  | none => s.evict n line
  | some t =>
    if t.wset.contains line then (s.abort (.ctl n) [0] .capacity).evict n line
    else
      let s := s.evict n line
      if t.rset.contains line then s.setCtl n { s.ctl n with signature := sInsert (s.ctl n).signature line } else s

/-- CACHE_EVICTION: at the hardware's choice a cache drops a line or an entry. -/
def execCacheEviction (what : Evictee) (s : State) : Result :=
  .next (s.unlessDown fun s => match what with
    | .nearLine core line => s.nearDrop core line
    | .controlLine n line fromL2 => s.evictControl n line fromL2
    | .extentEntry asn obj page => match s.cachedExtent ⟨s.regs.pkg, asn.toNat, obj, page⟩ with
      | none => s
      | some e => { s.countBack e with extents := s.extents.filter fun q => q.key != e.key }
    | .remoteEntry pkg asn obj page => { s with remotes := s.remotes.filter fun e => e.key != ⟨pkg, asn.toNat, obj, page⟩ })

end Sys2Proof.Machine
end

