-- ==== Sys2Proof/Machine/Ports.lean ====
section
/-! DEFINITION. The stream ports: arrival, fate and placement of messages (R381-R388), transmit rings (R390, R391), and PEN
(R389). -/

namespace Sys2Proof.Machine

open Sys2Proof

/-- The die of a stream port (R381). -/
def portDie (port : Nat) : Nat := 16 + port / 8

/-! ### Words that a port writes -/

/-- Adds to a 64-bit word. -/
def State.addWord (s : State) (a n : Nat) (die : Option Nat := none) : State := s.engineWrite a (leBytes 8 (s.num a 8 + n)) die

def State.statusBlock (s : State) (port : Nat) : Nat := s.regs.psBase + 128 * port

/-- Counters of a port's status block: messages, or those and their bytes; its vector is raised at most once in a microsecond
(R388, R403). -/
def State.portCount (s : State) (port off : Nat) (bytes : Option Nat) : State :=
  let s := s.addWord (s.statusBlock port + off) 1 (some (portDie port))
  let s := bytes.elim s fun n => s.addWord (s.statusBlock port + off + 8) n (some (portDie port))
  if s.psRaised.get? port = some (s.now / usec 1) then s
  else { s with psRaised := s.psRaised.set port (s.now / usec 1) }.raise (0x090 + port)

/-- The same once the line can be had. -/
def State.portCountGo (port off : Nat) (bytes : Option Nat) (s : State) : Bool × State :=
  let rs := [(s.statusBlock port, 128, true)]
  if (s.allReady rs).1 then (true, s.portCount port off bytes) else (false, (s.allReady rs).2)

/-- Something that a port has to count by itself. -/
def State.portCounts (s : State) (port off : Nat) (bytes : Option Nat) : State :=
  s.hwWrite (.portCount port off bytes) (State.portCountGo port off bytes)

def State.portOn (s : State) (port : Nat) : Bool := decide (port < 16) && s.regs.pen.getLsbD port

/-! ### Receive rings (R384) -/

namespace RxRing
def slot (r : RxRing) (n : Nat) : Nat := r.base + 2 ^ r.lsz * (n % 2 ^ r.lnum)
end RxRing

def State.rxTail (s : State) (r : RxRing) : Nat := s.num (r.desc + 0x10) 8
def State.rxHead (s : State) (r : RxRing) : Nat := s.num (r.desc + 0x18) 8
/-- TAIL - HEAD ≥ 2^LNUM (R386). -/
def State.rxFull (s : State) (r : RxRing) : Bool := decide (2 ^ r.lnum ≤ (s.rxTail r + 2 ^ 64 - s.rxHead r) % 2 ^ 64)

/-! ### Fates (R382) -/

inductive Fate where
  | malformed | auth | noRing | full | placed
deriving DecidableEq, Repr

def Fate.code : Fate → Nat
  | .placed => 0 | .malformed => 1 | .auth => 2 | .noRing => 3 | .full => 4

/-- The fate of a message: the first check that fails decides. -/
def State.fate (s : State) (m : PortMsg) : Fate :=
  if !m.parses then .malformed
  else if m.secure.any fun d => (s.trust.portKeys.get? d).isNone || !m.tagOk then .auth
  else match s.rxRing m.ring with
    | none => .noRing
    | some r =>
      if (if r.enc then m.secure != some r.sd else m.secure.isSome) then .auth
      else if 2 ^ r.lsz < m.len + 16 then .malformed
      else if s.rxFull r && !r.dold then .full
      else .placed

/-- The bytes a message counts for. -/
def countedBytes (m : PortMsg) : Nat := if m.parses then m.len else m.payload.length

/-- The port acknowledges a ROD or RUD message once its fate is decided (R381). -/
def State.ackMsg (s : State) (port : Nat) (m : PortMsg) (f : Fate) : State :=
  if m.mode = 2 then s else { s with sent := s.sent ++ [Outbound.portAck port m.conn f.code] }

/-- A message that is not placed is counted in its port, or in its full ring. -/
def State.dropMsg (s : State) (port : Nat) (m : PortMsg) (f : Fate) : State :=
  let die := some (portDie port)
  match f with
  | .malformed => s.portCount port 0x20 (some (countedBytes m))
  | .auth => s.portCount port 0x10 (some (countedBytes m))
  | .noRing => s.portCount port 0x30 (some (countedBytes m))
  | .full => match s.rxRing m.ring with
    | some r => (s.addWord (r.desc + 0x30) 1 die).addWord (r.desc + 0x38) m.len die
    | none => s
  | .placed => s

/-- DROP_OLD makes room: HEAD is raised and the overwritten message counted lost (R386). -/
def State.dropOld (s : State) (r : RxRing) (die : Option Nat) : State :=
  if !s.rxFull r then s else
  let h := s.rxHead r
  let old := s.num (r.slot h + 8) 4
  ((s.engineWrite (r.desc + 0x18) (leBytes 8 (h + 1)) die).addWord (r.desc + 0x30) 1 die).addWord (r.desc + 0x38) old die

/-- The lines a step of a message writes (R256): status block and descriptor, or the slot. The ring is the one that was read for the
message, or at its fate the one that its index names. -/
def State.placeLines (s : State) (p : Placing) : List (Nat × Nat × Bool) :=
  (s.statusBlock p.port, 128, true) ::
  match p.ring.or ((s.rxRing p.msg.ring).map fun r => (r, s.rxTail r)) with
  | none => [(s.regs.rtBase + 64 * p.msg.ring, 64, false)]
  | some (r, n) => [(r.desc, 64, true), (r.slot n, 16 + p.msg.len, true)]

/-- The bytes of a slot after SEQ (R385): LEN, SD, PORT, MODE and the payload. -/
def slotBytes (port : Nat) (m : PortMsg) : List Byte :=
  leBytes 4 m.len ++ leBytes 2 (m.secure.getD 0) ++ leBytes 1 port ++ leBytes 1 m.mode ++
  (m.payload ++ List.replicate m.len 0).take m.len

/-- The message is placed or dropped. -/
def State.unplace (s : State) (p : Placing) : State := { s with placing := s.placing.erase p }

/-- The message goes on to its next step, in its place. -/
def State.nextPlace (s : State) (p : Placing) (ring : Option (RxRing × Nat)) : State :=
  { s with placing := s.placing.set (s.placing.findIdx (· == p)) { p with step := p.step + 1, ring } }

/-- The fate of a message (R382): it is counted as arrived, acknowledged, and placed in the ring as it has been read, with n = TAIL; or
dropped and counted. -/
def State.decide_ (s : State) (p : Placing) : State :=
  let die := some (portDie p.port)
  let s := (s.engineRead (s.regs.rtBase + 64 * p.msg.ring) 64 die).portCount p.port 0x00 (some (countedBytes p.msg))
  let f := s.fate p.msg
  let s := s.ackMsg p.port p.msg f
  match f, s.rxRing p.msg.ring with
  | .placed, some r => (s.dropOld r die).nextPlace p (some (r, s.rxTail r))
  | _, _ => (s.dropMsg p.port p.msg f).unplace p

/-- One step of a message: its fate, then the four steps of R385, each performed before the next. -/
def State.placeStep (s : State) (p : Placing) : State :=
  s.whenReady (s.placeLines p) fun s =>
  let die := some (portDie p.port)
  match p.ring with
  | none => s.decide_ p
  | some (r, n) =>
    if p.step = 1 then (s.engineWrite (r.slot n) (leBytes 8 (2 ^ 64 - 1)) die).nextPlace p p.ring
    else if p.step = 2 then (s.engineWrite (r.slot n + 8) (slotBytes p.port p.msg) die).nextPlace p p.ring
    else if p.step = 3 then (s.engineWrite (r.slot n) (leBytes 8 n) die).nextPlace p p.ring
    else (((s.engineWrite (r.desc + 0x10) (leBytes 8 (n + 1)) die).addWord (r.desc + 0x20) 1 die).addWord (r.desc + 0x28) p.msg.len die).unplace p

/-- Whether a message must wait for another before its fate: the one before it in its ROD connection (R385), or the bound of R388
on the messages of a port that have been counted as arrived alone. -/
def State.placeHeld (s : State) (p : Placing) : Bool :=
  p.ring.isNone &&
  ((p.msg.mode == 0 && s.placing.any fun q => q.port == p.port && q.msg.mode == 0 && some q.msg.conn == p.msg.after) ||
   decide (64 ≤ (s.placing.filter fun q => q.port == p.port && q.ring.isSome).length))

/-- The messages of one ring go one after another: the first of them takes its next step. -/
def State.placeNext (s : State) (ring : Nat) : State :=
  match s.placing.find? fun q => q.msg.ring == ring with
  | some q => if s.placeHeld q then s else s.placeStep q
  | none => s

/-- MESSAGE_ARRIVAL: a message arrives at an enabled port. -/
def State.message (s : State) (port : Nat) (m : PortMsg) : State :=
  if !s.portOn port then s
  else
    let first := !s.placing.any fun q => q.msg.ring == m.ring
    let s := { s with placing := s.placing ++ [(⟨port, m, 0, none⟩ : Placing)] }
    if first then s.placeNext m.ring else s

def execMessageArrival (port : Nat) (msg : PortMsg) (s : State) : Result := .next (s.unlessDown fun s => s.message port msg)

/-- FRAME_FCS_DISCARD (R381). -/
def execFrameFcsDiscard (port : Nat) (s : State) : Result :=
  .next (s.unlessDown fun s => if s.portOn port then s.portCounts port 0x40 none else s)

/-! ### Packets (R381) -/

/-- Whether a UUD message's 100 µs are over. -/
def Partial.late (p : Partial) (now : Nat) : Bool := p.msg.mode == 2 && decide (p.since + usec 100 ≤ now)

/-- A UUD message that is not complete in time counts as malformed, and no later packet of it counts again. -/
def State.uudOver (s : State) (p : Partial) : State :=
  let s := { s with partials := s.partials.erase p, arrived := s.arrived ++ [(p.port, p.conn)] }
  (s.portCounts p.port 0x00 (some (countedBytes p.msg))).portCounts p.port 0x20 (some (countedBytes p.msg))

/-- Whether every packet of a message has come, and of a ROD message its predecessor too. -/
def State.whole (s : State) (p : Partial) : Bool :=
  ((List.range p.total).all p.got.contains) &&
  (p.msg.mode != 0 || p.msg.after.all fun n => s.arrived.contains (p.port, n))

/-- Messages that are whole arrive, in the transport order of their connection. -/
def State.deliver : Nat → State → State
  | 0, s => s
  | n + 1, s =>
    match s.partials.find? s.whole with
    | none => s
    | some p => State.deliver n ({ s with partials := s.partials.erase p, arrived := s.arrived ++ [(p.port, p.conn)] }.message p.port p.msg)

/-- A packet joins its message once; with the last one the message has arrived. A packet of a message that has arrived already, or
whose time is over, is not counted again. -/
def State.packet (s : State) (port : Nat) (pkt : PortPacket) : State :=
  if !s.portOn port || s.arrived.contains (port, pkt.msg.conn) then s else
  let same := fun q : Partial => q.port == port && q.conn == pkt.msg.conn
  let p := (s.partials.find? same).getD ⟨port, pkt.msg.conn, [], pkt.total, s.now, pkt.msg⟩
  if p.late s.now then s.uudOver p else
  let s := { s with partials := (s.partials.filter fun q => !same q) ++ [{ p with got := sInsert p.got pkt.index }] }
  s.deliver s.partials.length

/-- STREAM_PACKET_ARRIVAL. -/
def execStreamPacketArrival (port : Nat) (pkt : PortPacket) (s : State) : Result := .next (s.unlessDown fun s => s.packet port pkt)

/-- UUD_TIMEOUT: 100 µs after its first packet an incomplete UUD message counts as malformed (R381). -/
def execUudTimeout (port conn : Nat) (s : State) : Result :=
  .next (s.unlessDown fun s => match s.partials.find? fun q => q.port == port && q.conn == conn with
    | none => s
    | some p => if p.late s.now then s.uudOver p else s)

/-! ### Transmit rings (R390, R391) -/

/-- A transmit ring as its port reads it: none when it is not served. -/
def State.txRing (s : State) (r : Nat) : Option TxRing :=
  let d := s.regs.ttBase + 64 * r
  let c := BitVec.ofNat 32 (s.num d 4)
  let lnum := c.toNat / 2 ^ 15 % 32
  let mode := c.toNat / 2 ^ 13 % 4
  let port := c.toNat / 2 ^ 20 % 16
  if 1024 ≤ r ∨ !c.getLsbD 31 ∨ 16 < lnum ∨ mode = 3 ∨ !s.portOn port then none
  else some ⟨d, c.getLsbD 30, port, lnum, mode, c.toNat % 2 ^ 13, s.num (d + 4) 2, s.num (d + 8) 8⟩

/-- An entry ends with a status, whatever has become of its ring: STATUS, the port's counters and then DONE are written. -/
def State.txEnd (s : State) (ring : Nat) (b : TxBusy) (status : Nat) : State :=
  let t := b.ring
  let die := some (portDie t.port)
  let s := s.engineWrite (b.addr + 0xC) (leBytes 4 status) die
  let s := if status = 1 then s.portCount t.port 0x48 (some b.len) else s.portCount t.port 0x58 none
  let s := s.addWord (t.desc + 0x20) 1 die
  { s with txBusy := s.txBusy.erase ring }

/-- The lines that the end of an entry writes. -/
def State.txLines (s : State) (b : TxBusy) : List (Nat × Nat × Bool) :=
  [(b.addr, 32, true), (b.ring.desc, 64, true), (s.statusBlock b.ring.port, 128, true)]

/-- Steps 1, 2, 3 and 5 of R87 for a transmit buffer. -/
def State.bufOk (s : State) (asn len : Nat) (c : Cap) : Bool :=
  c.tag && c.kind == 1 && c.has (permR ||| permE) && (c.pkg == s.regs.pkg || c.has permQ) &&
  decide (c.base ≤ c.cursor) && decide (c.cursor + len ≤ c.limit) && decide (len ≤ 65520) &&
  !(if c.pkg = s.regs.pkg then s.revBit asn c.index else s.farRevoked.contains (c.pkg, asn, c.index))

/-- The message goes out, under the ring's key slot where ENC is 1: an unreliable one is SENT at once, the others wait for the
transport's word. -/
def State.txSend (s : State) (ring : Nat) (b : TxBusy) (bs : List Byte) : State :=
  let t := b.ring
  let s := { s with sent := s.sent ++ [Outbound.portSend ring t.port t.mode (if t.enc then some t.sd else none) b.dest b.ringx bs] }
  if t.mode = 2 then s.txEnd ring b 1 else { s with txBusy := s.txBusy.set ring { b with sent := true } }

/-- The port reads the buffer of the entry it has consumed, and sends it. -/
def State.txRead (s : State) (ring : Nat) (b : TxBusy) : State :=
  s.whenReady (s.txLines b) fun s =>
  let asn := b.ring.asn
  if !s.bufOk asn b.len b.buf then s.txEnd ring b 2
  else if b.buf.pkg = s.regs.pkg then
    match s.findObject asn b.buf.index b.buf.cursor b.len with
    | (.places l, s) => s.engineRange asn b.buf.index b.buf.cursor b.len l false fun s =>
      let r := s.readPlaces l (some (portDie b.ring.port))
      r.2.txSend ring b r.1
    | (.absent, s) => s
    | (.held, s) => s
    | (.error, s) => s.txEnd ring b 2
  else
    match s.reqs.find? fun q => q.2.kind == .portRead ring b.len with
    | none =>
      let k : PageKey := ⟨b.buf.pkg, asn, b.buf.index, b.buf.cursor / 65536⟩
      (s.request (.ctl 0) 0 k b.buf.cursor (.portRead ring b.len) false noPc).2
    | some (n, q) => match q.answer with
      | none => s
      | some (.data l _) => (s.dropReq n).txSend ring b l
      | some .notResident | some .unmonitored => s.dropReq n
      | some _ => (s.dropReq n).txEnd ring b 2

/-- The transport's word on an entry is carried out once its lines can be had. -/
def State.txFinish (s : State) (ring : Nat) (b : TxBusy) : State :=
  match b.outcome with
  | none => s
  | some ok => s.whenReady (s.txLines b) fun s => s.txEnd ring b (if ok then 1 else 3)

/-- The port looks at entry HEAD of a ring: SEQ first, then the rest of it; HEAD is raised once it has been read (R391). -/
def State.txEntry (s : State) (ring : Nat) (t : TxRing) : State :=
  let h := s.num (t.desc + 0x18) 8
  if h = s.num (t.desc + 0x10) 8 then s else
  let e := t.base + 32 * (h % 2 ^ t.lnum)
  let die := some (portDie t.port)
  s.whenReady [(t.desc, 64, true), (e, 32, false)] fun s =>
  let s := (s.engineRead t.desc 64 die).engineRead e 32 die
  if s.num e 4 ≠ h % 2 ^ 32 then { s with txWait := s.txWait.set ring (s.now + usec 10) }
  else
    let b : TxBusy := ⟨h, t, s.bytes (t.desc + 0x28) 16, e, s.num (e + 4) 4, s.num (e + 8) 4, s.capAt (e + 16), false, none⟩
    let s := s.engineWrite (t.desc + 0x18) (leBytes 8 (h + 1)) die
    { s with txBusy := s.txBusy.set ring b, txWait := s.txWait.erase ring }

/-- What a port does next for a ring: the entry that it has consumed, to its end, else the next one of a ring that it serves. -/
def State.txLook (s : State) (ring : Nat) : State :=
  match s.txBusy.get? ring, s.txRing ring with
  | some b, _ => if b.sent then s.txFinish ring b else s.txRead ring b
  | none, some t => s.txEntry ring t
  | none, none => s

/-- Whether a ring that waits for an entry reads it again now: TAIL has been stored to, or 10 µs have passed. -/
def State.txAgain (s : State) (ring : Nat) : Bool := (s.txWait.get? ring).all fun t => decide (t ≤ s.now)

def execTxEntryServe (ring : Nat) (s : State) : Result := .next (if s.txAgain ring then s.txLook ring else s)

/-- TX_RING_RECHECK: the entry is read again. -/
def execTxRingRecheck (ring : Nat) (s : State) : Result :=
  .next (if (s.txWait.get? ring).isSome && s.txAgain ring then { s with txWait := s.txWait.erase ring }.txLook ring else s)

/-- TX_DELIVERY_OUTCOME: the transport's word on a ROD or RUD entry (R391). -/
def execTxDeliveryOutcome (ring entry : Nat) (delivered : Bool) (s : State) : Result :=
  .next (s.unlessDown fun s => match s.txBusy.get? ring with
    | some b =>
      if b.sent && b.entry == entry && b.outcome.isNone then
        let b := { b with outcome := some delivered }
        { s with txBusy := s.txBusy.set ring b }.txFinish ring b
      else s
    | none => s)

/-- PEN (R389). -/
def State.writePen (s : State) (v : Word) : State := { s with regs := { s.regs with pen := v.setWidth 16 } }

def execPenWrite (v : Word) (s : State) : Result := .next (s.writePen v)

end Sys2Proof.Machine
end

