-- ==== Sys2Proof/Machine/System.lean ====
section
/-! DEFINITION. Traps and returns from them (R291-R294), control-core exceptions, ERET, WFI and interrupts (R295-R297,
R310, R403), the line watch (R299), EXTINV, XDRAIN and RVSYNC (R301, R367, R395), IFENCE and CYC (R302, R303), the steep
timer (R148, R149), and what an encoding or a fetch that fails raises (R32, R354). -/

namespace Sys2Proof.Machine

open Sys2Proof

/-! ### TRAP, TRET, PDONE and DBRK -/

/-- TRAP: BREAK with the code as trap value, or the exception 0x41 of a control core (R291, R296). -/
def execTrap (_h : Hdr) (c : BitVec 8) (s : State) : Result :=
  withCtx s fun x => outsideTx s x fun s x =>
    match x.who with
    | .ctl n => { s with cur := none }.exception n (x.c.addr + BitVec.ofNat 64 x.c.len) 0x41 (c.setWidth 64)
    | .grp _ => s.fault x .break_ x.c.seats (c.setWidth 64)

/-- TRET: the saved structure comes back, and the trapping path goes on at TPC or after the word there (R292, R355). Lanes
that it brings back to a REGROUP may be the last that the meeting waited for (R151). -/
def execTret (_h : Hdr) (next : Bool) (s : State) : Result :=
  withCtx s fun x => outsideTx s x fun s x =>
    if x.solo || !x.g.trap.inHandler then s.illegal x
    else
      let tpc := x.g.trap.tpc
      let boundary := x.g.trapSave.any fun v => v.boundary
      let step : Dword := if !next || boundary then 0
        else if isPfxWord (s.instrWord x.who tpc).toNat then 8 else 4
      let g := (x.g.trapReturn (tpc + step) s.now).settle
      let g := { g with lastIssue := s.now, skipStop := g.skipStop.filter fun p => !x.c.seats.contains p.2 }
      let s := { s with cur := none }.setGroup x.who g
      { s with agenda := s.agenda ++ g.boundaryEvents x.who ++ s.meetingDue x.g.team }

/-- PDONE: in a PREEMPT handler, the group is saved at the end of the run (R293). -/
def execPdone (h : Hdr) (s : State) : Result :=
  withCtx s fun x => outsideTx s x fun s x =>
    if x.solo || !x.g.trap.inHandler || !x.g.inPreempt then s.illegal x
    else s.retire x h { x.g with pdone := true }

/-- Whether a debugger has armed stops for the thread's grid or control-core thread (R294). -/
def State.armedFor (s : State) (x : Ctx) : Bool :=
  s.trust.dbg && (s.partOf x.who).any fun p => (s.part p).breaks.any fun b => b.names x.who x.g

/-- DBRK: a stop for the debugger, or BREAK, or the exception 0x42 (R294, R296). Released from its own stop it goes on. -/
def execDbrk (h : Hdr) (c : BitVec 8) (s : State) : Result :=
  withCtx s fun x => outsideTx s x fun s x =>
    if x.c.seats.all fun i => x.g.skipStop.contains (3, i) then s.retire x h x.g
    else if s.armedFor x then s.debugStop x 3 x.c.seats c.toNat
    else match x.who with
      | .ctl n => { s with cur := none }.exception n (x.c.addr + BitVec.ofNat 64 x.c.len) 0x42
          (BitVec.ofNat 64 (0x100 + c.toNat))
      | .grp _ => s.fault x .break_ x.c.seats (BitVec.ofNat 64 (0x100 + c.toNat))

def execIllegalEncoding (s : State) : Result := withCtx s fun x => s.illegal x

/-- A fetch that fails its checks, or code that is poisoned (R243, R354). -/
def execInstructionFetchFault (cause : Cause) (value : Dword) (s : State) : Result :=
  withCtx s fun x => s.fault x cause x.c.seats value

/-! ### ERET, WFI and interrupts (R297, R310, R403) -/

/-- The pending vectors that the table at IVBASE enables and routes to a control core, lowest first. -/
def State.pendingFor (s : State) (n : Nat) : List Nat :=
  s.vectors.filter fun v =>
    let e := s.num (s.regs.ivBase + 8 * v) 8
    e % 2 == 1 && e / 2 ^ 8 % 128 == n

/-- A read of IVCLAIM: the lowest pending enabled vector of the core is claimed, or all ones (R403). -/
def State.claim (s : State) (n : Nat) : Word × State :=
  match s.pendingFor n with
  | [] => (0xFFFFFFFF, s)
  | v :: _ => (BitVec.ofNat 32 v, { s with vectors := sErase s.vectors v })

def execIvclaim (n : Nat) (s : State) : Result := .next (s.claim n).2

/-- ERET: the pc from EPC, the mode from PPRV and IE from PIE (R297). -/
def execEret (h : Hdr) (s : State) : Result :=
  withCtx s fun x =>
    match x.who with
    | .grp _ => s.illegal x
    | .ctl n =>
      if !(s.ctl n).kernel then s.illegal x
      else outsideTx s x fun s x =>
        let epc := (s.ctl n).epc
        if epc.toNat % 4 ≠ 0 then s.fault x .misaligned x.c.seats epc
        else (s.done x x.g (h.b || epc != x.c.addr + BitVec.ofNat 64 x.c.len)).exceptionReturn n

/-- WFI: waits until an interrupt is pending for the core, enabled or not; with IE set the interrupt is then taken before the
core issues again, with EPC at the instruction after WFI (R297). -/
def execWfi (h : Hdr) (s : State) : Result :=
  withCtx s fun x =>
    match x.who with
    | .grp _ => s.illegal x
    | .ctl n =>
      if !(s.ctl n).kernel then s.illegal x
      else outsideTx s x fun s x =>
        if x.g.waitDone.isSome || !(s.pendingFor n).isEmpty then
          let t := s.retire x h { x.g with waitDone := none }
          if (s.ctl n).ie then { t with agenda := t.agenda ++ [Instr.interruptTake n] } else t
        else s.leave x x.g .wfi

/-- Whether an interrupt can be taken on a control core now: enabled and pending, with no instruction between its wait
and its result, and no atomic of another package whose answer its instruction has still to take. -/
def State.canInterrupt (s : State) (n : Nat) : Bool :=
  let k := s.ctl n
  k.started && !k.mappedOut && k.ie && !k.thread.dbgStop && k.thread.waitDone.isNone && !(s.pendingFor n).isEmpty &&
  !(s.reqs.any fun r => r.2.who == Who.ctl n && r.2.kind.isRead && r.2.num.isSome)

/-- INTERRUPT_TAKE: a waiting WFI or LWAIT ends; else the interrupt is taken: an open transaction aborts with PREEMPT, a
wait for the cosy lock ends, and a waiting or parked instruction issues again after ERET (R271, R296, R299, R310, R364). -/
def execInterruptTake (n : Nat) (s : State) : Result :=
  .next (
    let g := (s.ctl n).thread
    if (s.pendingFor n).isEmpty then s
    else if g.wait == some Wait.wfi then s.modGroup (.ctl n) fun g => { g.endWait s.now with waitDone := some 0 }
    else if !s.canInterrupt n then s
    else match g.wait with
      | some (.lwait _ _ _) => s.modGroup (.ctl n) fun g => g.endLwait s.now 2
      | _ =>
        let s := (s.dropReads (.ctl n) (g.lane 0).pc).dropCosy (.ctl n) 0
        let s := s.abort (.ctl n) [0] .preempt
        s.exception n ((s.ctl n).thread.lane 0).pc 0x43 0)

/-! ### LARM and LWAIT (R299) -/

/-- LARM: arms the watch on the word's line and reads the word, as one step at the line's home slice, of this package or another,
from where it fires through the fabric. -/
def execLarm (h : Hdr) (p k : BitVec 4) (g : BitVec 7) (s : State) : Result :=
  groupOp s (fun _ => [opd g .w32, sOpd k .w32]) fun s x =>
    let c := x.acap p.toNat
    let e := x.address x.lowest c g 0
    let a : Access := { cursorAccess c 4 permR false with e := fun _ => e }
    withAccess s x a (poisonedReads a) fun s x addr =>
      let rs := (a.lanes x).filter fun i => a.remote s i
      match s.remoteReads x a rs (.watch x.who) with
      | some t => t
      | none =>
        let gone := (s.remoteReq x x.lowest).any fun r => r.2.tag
        let (far, s) := s.takeAnswers x rs
        let at_ := addr x.lowest
        let v := match far with
          | (_, bs, _) :: _ => leNat bs
          | [] => s.num at_ 4
        let watch : Watch := if far.isEmpty then ⟨s.regs.pkg, at_ / 128, false⟩ else ⟨c.pkg, e.toNat / 128, gone⟩
        let s := if far.isEmpty then (s.performLoad x.who at_).countLanes x a [x.lowest] else s
        (s.acquire x.who 9).retire x h ({ x with g := { x.g with watch := some watch } }.dstS h.n k.toNat .w32 v)

/-- LWAIT: its reason goes to sK and the watch is disarmed. -/
def execLwait (h : Hdr) (k : BitVec 4) (g : BitVec 7) (s : State) : Result :=
  groupOp s (fun _ => [opd g .w32, sOpd k .w32]) fun s x =>
    let ends := fun reason : Nat =>
      s.retire x h ({ x with g := { x.g with watch := none, waitDone := none } }.dstS h.n k.toNat .w32 reason)
    match x.g.waitDone, x.g.watch with
    | some r, _ => ends r
    | none, none => ends 3
    | none, some v => if v.fired then ends 0 else s.leave x x.g (.lwait s.now (x.uni32 g).toNat k.toNat)

/-- LWAIT_TIMEOUT: the clocks of a limit have passed (R299). -/
def execLwaitTimeout (g : Who) (s : State) : Result :=
  .next (s.modGroup g fun v => match v.wait with
    | some (.lwait since limit _) => if limit ≠ 0 ∧ since + limit ≤ s.now then v.endLwait s.now 1 else v
    | _ => v)

/-- WATCH_FIRE_NO_WRITE: a slice gives a watch up (R299). -/
def execWatchFireNoWrite (g : Who) (s : State) : Result :=
  .next (s.unlessDown fun s => s.modGroup g fun v => match v.watch with
    | some w => { v with watch := some { w with fired := true } }.endLwait s.now 0
    | none => v)

/-! ### EXTINV, XDRAIN and RVSYNC -/

/-- Whether an invalidation of a mode covers a key: 0 the page, 1 the object, 2 the address space. -/
def covers (mode asn obj page : Nat) (k : PageKey) : Bool :=
  k.asn == asn && (mode == 2 || (k.obj == obj && (mode == 1 || k.page == page)))

/-- The extent caches of the package discard what an EXTINV covers, with no write-back of counts (R361). -/
def State.discardExtents (s : State) (mode asn obj page : Nat) : State :=
  { s with extents := s.extents.filter fun e => !covers mode asn obj page e.key }

/-- EXTINV: privileged code discards cached translations here and at every taker (R301, R395). -/
def execExtinv (h : Hdr) (p : BitVec 4) (g : BitVec 7) (s : State) : Result :=
  withCtx s fun x =>
    if !s.privileged x.who then s.illegal x
    else outsideTx s x fun s x => (s.ready x [opd g .w64] (lanes := x.readers)).getD
      (if x.g.waitDone.isSome then s.retire x h { x.g with waitDone := none }
       else
        let v := (x.uni64 g).toNat
        let mode := p.toNat
        let (asn, obj, page) := (v % 2 ^ 16, v / 2 ^ 16 % 2 ^ 20, v / 2 ^ 36 % 2 ^ 26)
        if v / 2 ^ 62 ≠ 0 ∨ (mode = 1 ∧ page ≠ 0) ∨ (mode = 2 ∧ (obj ≠ 0 ∨ page ≠ 0)) then s.illegal x
        else
          let s := s.discardExtents mode asn obj page
          let (pend, s) := s.tellTakers x.who mode ⟨0, asn, obj, page⟩
          if pend.isEmpty then s.retire x h x.g
          else { s with extinvs := s.extinvs ++ [(⟨x.who, mode, asn, obj, page, pend⟩ : ExtInv)] }.leave x x.g .extinv)

/-- EXTINV_COMPLETE: every taker has acknowledged; the extent caches hold no entry that matches (R301). -/
def execExtinvComplete (s : State) : Result :=
  .next (match s.extinvs.find? fun e => !s.anyOpen e.pend with
    | none => s
    | some e =>
      let s := { s with extinvs := s.extinvs.erase e, reqs := s.reqs.filter fun r => !e.pend.contains r.1 }
      (s.discardExtents e.mode e.asn e.obj e.page).modGroup e.who fun g =>
        if g.wait == some Wait.extinv then { g.endWait s.now with waitDone := some 0 } else g)

/-- What goes out under translations of another package, or has passed a check of its revocation bits (R395): an invalidation of
translations waits for requests; one of revocation bits (mode 3) for copies too, which are checked once. -/
def State.takenWork (s : State) (pkg mode asn obj page : Nat) : OpenWork :=
  let far := fun d : CopyEnd => match d with
    | .mem p a _ _ => p == pkg && a == asn
    | .hamper _ _ _ => false
  { reqs := (s.reqs.filter fun r => r.2.remote == some pkg && !r.2.done && r.2.answer.isNone && !r.2.kind.isTranslate &&
      (match r.2.kind with | .invalidate _ | .parked => false | _ => true) &&
      (if mode = 3 then r.2.key.asn == asn else covers mode asn obj page r.2.key)).map (·.1)
    txs := []
    copies := if mode ≠ 3 then [] else s.cores.flatMap fun (c : Nat × Core) => c.2.copies.filterMap fun (e : Nat × CopySlot) =>
      if e.2.state == .running && (e.2.src.toList ++ e.2.dsts).any far then some (c.1, e.1, e.2.seq) else none }

/-- TAKER_INVALIDATE: this package drops its translations of another package, or its revocation lines, and acknowledges once what
went out under them has been performed or has ended (R395). -/
def execTakerInvalidate (pkg : Nat) (what : Revocation) (s : State) : Result :=
  .next (s.unlessDown fun s =>
    let a := what.asn.toNat
    let s := s.heardFar
    let s := if what.mode = 3 then s.dropRevoked a
      else { s with remotes := s.remotes.filter fun e => !(e.key.pkg == pkg && covers what.mode a what.obj what.page e.key) }
    { s with acks := s.acks ++ [(⟨pkg, what.asn, s.takenWork pkg what.mode a what.obj what.page⟩ : TakerAck)] })

/-- An acknowledgement goes out when nothing that it waits for is left: one for each invalidation (R395). -/
def State.acknowledge (s : State) (v : TakerAck) : State :=
  if s.workOpen v.work then s else { s with acks := s.acks.erase v, sent := s.sent ++ [Outbound.invalidateAck v.pkg v.asn (s.cseqOf fabricDie)] }

/-- What has been translated here and not performed (R367): requests at home, and what transactions have buffered, those of
parked lanes too: DEDUCED, for their stores were translated before the write (log 99). -/
def State.translatedOpen (s : State) : OpenWork :=
  { reqs := (s.reqs.filter fun r => r.2.remote.isNone && !r.2.done).map (·.1), txs := s.buffers fun _ => true, copies := [] }

/-- XDRAIN.GO; ignored while a drain is in progress (R367). -/
def State.startDrain (s : State) : State := if s.xdrain.isSome then s else { s with xdrain := some s.translatedOpen }

def execXdrain (s : State) : Result := .next s.startDrain

def execXdrainDone (s : State) : Result :=
  .next (match s.xdrain with
    | some v => if s.workOpen v then s else { s with xdrain := none }
    | none => s)

/-- RVSYNC.GO for an address space; ignored while a sync is in progress (R367). -/
def State.startSync (s : State) (asn : Nat) : State :=
  if s.rvsync.isSome then s else
  let s := s.dropRevoked asn
  -- of freed objects, those whose bit is clear are at step 5 of R369 (R405)
  let s := { s with freed := s.freed.map fun (f : Nat × Nat × Bool) =>
    if f.1 = asn ∧ !s.revBit asn f.2.1 then (f.1, f.2.1, true) else f }
  let v := s.checked asn
  let (pend, s) := s.tellTakers (.ctl 0) 3 ⟨0, asn, 0, 0⟩
  { s with rvsync := some ⟨asn, { v with reqs := v.reqs ++ pend }⟩ }

def execRvsync (asn : BitVec 16) (s : State) : Result := .next (s.startSync asn.toNat)

/-- RVSYNC_DONE: what passed a check before the write has been performed or has ended, and every taker has answered. -/
def execRvsyncDone (s : State) : Result :=
  .next (match s.rvsync with
    | none => s
    | some v => if s.workOpen v.work then s
      else { s with rvsync := none, freed := s.freed.filter fun f => !(f.1 == v.asn && f.2.2) })

/-! ### IFENCE and CYC -/

/-- IFENCE: the group's loop buffers are emptied and the core's instruction-cache lines discarded (R302). -/
def execIfence (h : Hdr) (s : State) : Result :=
  groupOp s (fun _ => []) fun s x =>
    (s.setIcache x.who []).retire x h { x.g with lanes := x.g.lanes.map fun (l : Lane) => { l with loopBuf := none } }

/-- CYC: the clock count of the issuing core's die, read at issue (R303). -/
def execCyc (h : Hdr) (g : BitVec 7) (s : State) : Result :=
  withOps s (fun _ => [opd g .w64]) (reads := fun _ => []) fun x =>
    s.retire x h (x.dst h.n g .w64 fun _ => s.cyc.getD (s.dieOf x.who) 0 % 2 ^ 64)

/-! ### The steep timer (R148, R149) -/

/-- The broadcast moves, or stopped lanes are released, at the end of the run: at once where no run is open. -/
def Group.steepExpire (g : Group) (now : Nat) : Group :=
  let g := { g with expired := true, steep := 0, steepAt := some now, steepDue := true }
  if g.runOpen then g
  else match g.wait with
    | some (.lwait _ _ _) => g.endLwait now 2
    | some _ => g
    | none => (g.moveBroadcast.takeBroadcast now).syncSteep now

def execSteepExpiry (g : Nat) (s : State) : Result :=
  .next (s.modGroup (.grp g) fun v => if v.steepReached s.now then v.steepExpire s.now else v)

/-- A write to STEEP: W1C of EXP, PERIOD at least 64, and the timer restarts. -/
def Group.writeSteep (g : Group) (v : Word) (now : Nat) : Group :=
  { g with expired := g.expired && !v.getLsbD 31, period := max 64 (v.toNat % 2 ^ 20), steep := 0,
           steepAt := g.steepAt.map fun _ => now }

def execSteepWrite (g : Nat) (v : Word) (s : State) : Result := .next (s.modGroup (.grp g) fun q => q.writeSteep v s.now)

end Sys2Proof.Machine
end

