-- ==== Sys2Proof/Machine/Scheduling.lean ====
section
/-! DEFINITION. From launch queue to seat (R338-R340), team retirement (R230, R272), pre-emption (R343-R345), partition
swap (R346-R348), the stall watch (R349-R351), partitions (R330) and migration (R138). -/

namespace Sys2Proof.Machine

open Sys2Proof

/-! ### Room (R135, R339) -/

/-- Whether a team holds seats now: placed, and its context not in shadow storage. -/
def Team.here (t : Team) : Bool := t.seated && !t.swapped

/-- The groups that hold a seat on a core. -/
def State.onCore (s : State) (c : Nat) : List Group :=
  (s.groups.map (·.2)).filter fun g => (g.place.any fun p => p.core == c) && !g.ended && (s.teamOf g).any Team.here

/-- Seats and registers in use on each slot of a core. -/
def State.slotUse (s : State) (c : Nat) : List (Nat × Nat) :=
  (List.range 4).map fun i =>
    let gs := (s.onCore c).filter fun g => g.place.any fun p => p.slot == i
    (gs.length, (gs.map fun g => 32 * g.alloc).sum)

/-- The teams that hold seats on a core. -/
def State.teamsOn (s : State) (c : Nat) : List Team :=
  (s.teams.map (·.2)).filter fun t => t.here && decide (t.base ≤ c) && decide (c < t.base + t.span)

/-- Barriers in use on a core by teams of span 1, or in a cluster's unit by wider ones. -/
def State.barriersUsed (s : State) (c : Nat) (wide : Bool) : Nat :=
  (((s.teams.map (·.2)).filter fun t => t.here && (if wide then decide (1 < t.span) && t.cluster == c / 8
      else t.span == 1 && t.base == c)).map fun t => t.barriers.length).sum

/-- Free entries of a core's name table (R334). -/
def Core.freeNames (c : Core) : List Nat :=
  (List.range 1024).filter fun e => (c.nameAt e).group.isNone && !(c.nameAt e).withdrawn

/-- Free hampers of a cluster's pool. -/
def State.pool (s : State) (cl : Nat) : List Nat := (List.range 32).filter fun n => (s.hamper cl n).team.isNone

/-- What a team needs of a block of cores (R339). -/
structure Need where
  span     : Nat
  groups   : List (Nat × Nat)   -- team core and registers per thread of each group
  entries  : Nat
  hampers  : Nat
  barriers : Nat
  names    : Bool
  cluster  : Option Nat
  die      : Option Nat         -- of an active message's team (R285)
  claims   : List Nat           -- team cores on which it brings matrix state back

def Desc.need (d : Desc) : Need :=
  { span := d.span, groups := (List.range d.groups).map fun g => (g % d.span, d.allocOf g), entries := d.entries,
    hampers := d.hampers, barriers := d.barriers, names := true, cluster := none, die := none, claims := [] }

def State.teamNeed (s : State) (t : Team) : Need :=
  { span := t.span, groups := (s.teamGroups t).map fun e => (e.2.tcore, e.2.alloc), entries := (t.maps.headD []).length, hampers := 0,
    barriers := t.barriers.length, names := false, cluster := some t.cluster, die := none,
    claims := (List.range t.span).filter fun j => (t.matrix.getD j none).isSome }

/-- Whether a core can be team core j. -/
def State.coreFits (s : State) (n : Need) (c j : Nat) : Bool :=
  let mine := (n.groups.filter fun g => g.1 == j).map (·.2)
  !serviceCore c && !(s.core c).mappedOut && slotFits (s.slotUse c) mine &&
  (n.entries == 0 || (s.teamsOn c).all fun t => (t.maps.headD []).isEmpty) &&
  (!n.names || decide (mine.length ≤ (s.core c).freeNames.length)) &&
  (!n.claims.contains j || (s.core c).matrix.claim.isNone) &&
  (n.span != 1 || decide (s.barriersUsed c false + n.barriers ≤ 128))

/-- The blocks of a partition on which a team fits, by their first core. -/
def State.blocksFor (s : State) (p : Nat) (n : Need) : List Nat :=
  (List.range 160).flatMap fun cl =>
    if !(s.part p).clusters.getLsbD cl || !(n.cluster.all (· == cl)) || !(n.die.all (· == cl / 20)) || decide ((s.pool cl).length < n.hampers) ||
      (decide (1 < n.span) && decide (128 < s.barriersUsed (8 * cl) true + n.barriers)) then []
    else ((List.range (8 / n.span)).map fun b => 8 * cl + b * n.span).filter fun c =>
      (List.range n.span).all fun j => s.coreFits n (c + j) j

/-! ### Placing a team (R332, R338-R340) -/

/-- Seats groups on the slots of a core, each where the rest still fit; which slot and seat is the hardware's choice. -/
def State.seatGroups (s : State) (c : Nat) : List (Nat × Nat) → State
  | [] => s
  | (k, a) :: rest =>
    let used := s.slotUse c
    let ok := (List.range 4).filter fun i =>
      let u := used.getD i (0, 0)
      decide (u.1 < 16) && decide (u.2 + 32 * a ≤ 65536) && slotFits (used.set i (u.1 + 1, u.2 + 32 * a)) (rest.map (·.2))
    let (v, s) := s.pick
    let slot := ok.getD (v % max 1 ok.length) 0
    let taken := (s.onCore c).filterMap fun g => g.place.bind fun p => if p.slot = slot then some p.seat else none
    let free := (List.range 16).filter fun i => !taken.contains i
    let (w, s) := s.pick
    let seat := free.getD (w % max 1 free.length) 0
    (s.modGroup (.grp k) fun g => { g with place := some ⟨c, slot, seat⟩ }).seatGroups c rest

/-- A group receives its name from the table of the core it is first placed on (R332). -/
def State.giveName (s : State) (k c : Nat) : State :=
  let free := (s.core c).freeNames
  let (v, s) := s.pick
  let e := free.getD (v % max 1 free.length) 0
  let q := (s.core c).nameAt e
  let s := s.setCore c { s.core c with names := (s.core c).names.set e { q with group := some k, alloc := (s.groups.get? k).elim 0 (·.alloc) } }
  s.modGroup (.grp k) fun g => { g with name := nameOf s.regs.pkg c e q.gen }

/-- A group at entry (R23, R42, R128, R130, R133). -/
def Grid.entryGroup (e : Grid) (team g : Nat) (now : Nat) : Group :=
  let d := e.desc
  let alloc := d.allocOf g
  let lanes := (List.range 32).map fun i => Lane.fresh (if 32 * g + i < d.threads then some (32 * g + i) else none) alloc d.entry
  { Group.fresh lanes alloc with
    sregs := e.args, acaps := e.a0 :: List.replicate 15 Cap.null, laneProg := d.progress == 0, role := d.roleOf g, tcore := g % d.span,
    team, gix := g, launch := e.launch, asn := e.asn, readySince := now, lastIssue := now, paid := now }

/-- A free hamper of the pool goes to a team; which one is the hardware's choice (R207). -/
def State.takeHamper (s : State) (cl team : Nat) : Nat × State :=
  let l := s.pool cl
  let (v, s) := s.pick
  let n := l.getD (v % max 1 l.length) 0
  (n, s.setHamper cl n { Hamper.reset with team := some team })

def State.takeHampers (s : State) (cl team : Nat) : Nat → List Nat × State
  | 0 => ([], s)
  | k + 1 =>
    let (n, s) := s.takeHamper cl team
    let (ns, s) := s.takeHampers cl team k
    (n :: ns, s)

/-- The near caches of cores are emptied: what a group that comes to them has seen, or was launched after, is not older than
what their copies hold (R247, R254). -/
def State.nearClearAll (s : State) (cs : List Nat) : State := cs.foldl (fun (s : State) c => s.nearClear c) s

/-- The next team of a grid is dispatched on a block of cores: state at entry, seats, names, hampers, barriers (R42, R207,
R324, R332). Its entry is an acquire on its cores (R254). -/
def State.dispatch (s : State) (grid : Nat) (e : Grid) (base : Nat) : State :=
  let d := e.desc
  let cl := base / 8
  let tn := max 1 s.teams.fresh
  let g0 := s.groups.fresh
  let (hs, s) := s.takeHampers cl tn d.hampers
  let maps := (List.range d.span).map fun c => (List.range d.entries).map fun q => (⟨q, hs[q * d.span + c]?, false⟩ : MapEntry)
  let t : Team :=
    { grid, index := e.next, launch := e.launch, part := e.part, phase := .resident, cluster := cl, base, span := d.span,
      threads := d.threads, groups := (List.range d.groups).map (g0 + ·), fmts := d.fmtTab.map fmtFields,
      barriers := List.replicate d.barriers ⟨0, 0, 0, [], []⟩, maps, matrix := List.replicate d.span none, copies := [], evicted := false,
      savedAt := 0, swapped := false, seated := true, advances := 1 }
  let s := { s with
    teams := s.teams.set tn t
    grids := s.grids.set grid { e with next := e.next + 1, reported := false }
    groups := (List.range d.groups).foldl (fun (m : FMap Group) g => m.set (g0 + g) (e.entryGroup tn g s.now)) s.groups }
  let s := (List.range d.span).foldl (fun (s : State) j =>
    s.seatGroups (base + j) (((List.range d.groups).filter fun g => g % d.span == j).map fun g => (g0 + g, d.allocOf g))) s
  let s := (List.range d.groups).foldl (fun (s : State) g => s.giveName (g0 + g) (base + g % d.span)) s
  s.nearClearAll ((List.range d.span).map (base + ·))

/-- A group goes on after a save or a halt: its post box takes effect first, parked lanes replay, and the steep timer
restarts (R327, R345, R364). -/
def State.resume (s : State) (k : Nat) : State :=
  match s.groups.get? k with
  | none => s
  | some g =>
    let s := g.postBox.foldl (fun (s : State) c => s.applyCard k c) s
    s.modGroup (.grp k) fun g =>
      let g : Group := { g with
        lanes := g.lanes.map fun (l : Lane) => match l.mode with
          | .parked _ _ => { l with mode := LaneMode.running, replays := true, woke := true }
          | _ => l
        postBox := [], steep := 0, steepAt := none, readySince := s.now, paid := s.now, saved := false, halted := false }
      { g with cls := g.restClass }.syncSteep s.now

/-- A saved team is restored on a block of its cluster: seats, map entries, barriers and matrix claims (R189, R324, R339). -/
def State.restore (s : State) (tn : Nat) (t : Team) (base : Nat) : State :=
  let gs := s.teamGroups t
  let s := { s with teams := s.teams.set tn { t with phase := .resident, base, seated := true, evicted := false, matrix := t.matrix.map (fun _ => none) } }
  let s := (List.range t.span).foldl (fun (s : State) j =>
    let s := s.seatGroups (base + j) ((gs.filter fun e => e.2.tcore == j).map fun e => (e.1, e.2.alloc))
    match t.matrix.getD j none with
    | some m => s.setCore (base + j) { s.core (base + j) with matrix := { m with incoming := (s.core (base + j)).matrix.incoming } }
    | none => s) s
  gs.foldl (fun (s : State) e => s.resume e.1) (s.nearClearAll ((List.range t.span).map (base + ·)))

/-- The next team to place. -/
inductive Candidate where
  | saved (team : Nat) (t : Team)
  | fresh (grid : Nat) (e : Grid)
deriving DecidableEq, Repr

/-- A grid whose teams may be placed. -/
def Grid.open (e : Grid) (p : Nat) : Bool := e.part == some p && !e.held && !e.ended

/-- The next team of a priority: the saved team first saved, else the next of the oldest grid (R338, R340). -/
def State.candidate (s : State) (p prio : Nat) : Option Candidate :=
  let saved := s.teams.filter fun t => t.2.phase == .saved && !t.2.evicted && !t.2.swapped &&
    ((s.grids.get? t.2.grid).any fun e => e.open p && e.desc.priority == prio)
  match saved.foldl (fun (b : Option (Nat × Team)) t => match b with
      | none => some t
      | some v => if t.2.savedAt < v.2.savedAt then some t else b) none with
  | some t => some (.saved t.1 t.2)
  | none =>
    let grids := s.grids.filter fun e => e.2.open p && e.2.desc.priority == prio && decide (e.2.next < e.2.teams)
    (grids.foldl (fun (b : Option (Nat × Grid)) e => match b with
      | none => some e
      | some v => if e.2.order < v.2.order then some e else b) none).map fun e => .fresh e.1 e.2

def State.needOf (s : State) : Candidate → Need
  | .saved _ t => s.teamNeed t
  | .fresh _ e => { e.desc.need with die := match e.source with
      | .amsg _ d => some d
      | _ => none }

/-- A candidate's grid and team linear index. -/
def Candidate.key : Candidate → Nat × Nat
  | .saved _ t => (t.grid, t.index)
  | .fresh g e => (g, e.next)

/-- A grid's head team is placed: an eviction that makes room for it keeps its victim out no longer (R350). -/
def State.headPlaced (s : State) (grid : Nat) : State :=
  { s with
    teams := s.teams.map fun (v : Nat × Team) => (v.1, if v.2.grid = grid then { v.2 with evicted := false } else v.2)
    parts := s.parts.map fun (p : Nat × Part) => (p.1, { p.2 with evicting := p.2.evicting.map fun v =>
      { v with eased := v.eased || v.teams.any fun t => (s.teams.get? t).any fun u => u.grid == grid } }) }

def State.place (s : State) (base : Nat) (c : Candidate) : State :=
  match c with
  | .saved n t => (s.headPlaced t.grid).restore n { t with evicted := false } base
  | .fresh g e => (s.headPlaced g).dispatch g e base

/-- Whether the partition places teams at all: enabled, no swap in progress, its context not in shadow storage (R346,
R347), and no slice-map change (R238). -/
def State.places (s : State) (p : Nat) : Bool :=
  (s.part p).enabled && (s.part p).swap.isNone && (s.shadows.get? p).all (·.empty)

/-- Looks at priorities in descending order: the first head team that fits is placed; others start to wait (R340). -/
def State.scheduleAt (s : State) (p : Nat) : List Nat → State
  | [] => s
  | prio :: rest =>
    if (s.part p).holdoff ≠ 0 && (s.part p).heads.any fun h => h.held && decide (prio < h.prio) then s else
    match s.candidate p prio with
    | none => s.scheduleAt p rest
    | some c =>
      let (g, i) := c.key
      match s.blocksFor p (s.needOf c) with
      | [] =>
        let q := s.part p
        let known := q.heads.any fun h => h.grid == g && h.index == i
        let s := if known then s else s.setPart p { q with heads := q.heads ++ [(⟨prio, g, i, s.now, false⟩ : HeadWait)] }
        s.scheduleAt p rest
      | b :: bs =>
        let (v, s) := s.pick
        let s := s.place ((b :: bs).getD (v % (bs.length + 1)) b) c
        let q := s.part p
        let s := s.setPart p { q with heads := q.heads.filter fun h => !(h.grid == g && h.index == i) }
        { s with agenda := s.agenda ++ [Instr.schedule p] }

/-- SCHEDULE: the partition's scheduler looks, and places at most one team; then it looks again (R340). Head teams of
grids that are held or have ended no longer wait. -/
def execSchedule (part : Nat) (s : State) : Result :=
  .next (
    let q := s.part part
    let s := s.setPart part { q with heads := q.heads.filter fun h => (s.grids.get? h.grid).any fun e => e.open part }
    if s.places part then s.scheduleAt part [7, 6, 5, 4, 3, 2, 1, 0] else s)

/-- HOLDOFF_EXPIRY: head teams that have waited HOLDOFF hold lower priorities back (R340). -/
def execHoldoffExpiry (part : Nat) (s : State) : Result :=
  .next (
    let q := s.part part
    s.setPart part { q with heads := q.heads.map fun (h : HeadWait) =>
      if q.holdoff ≠ 0 ∧ h.since + usec q.holdoff ≤ s.now then { h with held := true } else h })

/-! ### Saving a group (R343-R345) -/

/-- A wait of a group that is saved: LWAIT has its reason, a give or a batch finds its answer later, and every other
instruction issues again. -/
def Group.saveWait (g : Group) : Group :=
  match g.wait with
  | some (.lwait _ _ _) => { g with wait := none, waitDone := some 2 }
  | some (.hgive _) => g
  | some (.svc _) => g
  | _ => { g with wait := none }

def unwaitCosy (m : LaneMode) : LaneMode := if m == LaneMode.cosyWait then LaneMode.running else m

/-- A group's transactions abort with PREEMPT, and its lanes wait for the cosy lock no more (R322). -/
def State.preemptTx (s : State) (k : Nat) (g : Group) : State :=
  let s := g.live.foldl (fun (s : State) i => s.dropCosy (.grp k) i) s
  (s.abort (.grp k) g.live .preempt).modGroup (.grp k) fun g => { g with
    lanes := g.lanes.map fun (l : Lane) => { l with mode := unwaitCosy l.mode }
    trapSave := g.trapSave.map fun v => { v with seats := v.seats.map fun (q : SeatSave) => { q with mode := unwaitCosy q.mode } } }

/-- A group is saved, or halted for a swap: its transactions abort with PREEMPT, its loop buffers are emptied and its
watch is disarmed; the latches and count of a run that is cut stay (R322, R344, R345). A command's mark outlasts a halt. -/
def State.saveGroup (s : State) (k : Nat) (halt : Bool) : State :=
  match s.groups.get? k with
  | none => s
  | some g =>
    if g.ended || g.away then s else
    (s.preemptTx k g).modGroup (.grp k) fun g =>
      let g := ((g.cutIssue s.now).phase 6 s.now).settle
      { g.saveWait with
        lanes := g.lanes.map fun (l : Lane) => { l with loopBuf := none }
        watch := none, marked := halt && g.marked, trapDue := false, cut := false, pdone := false, runOpen := false, issueQ := [],
        snap := none, crossing := [], stalled := false, endPending := false, steep := 0, steepAt := none, saved := !halt, halted := halt }

/-- Whether a partition is being swapped. -/
def State.swapping (s : State) (w : Who) : Bool := (s.partOf w).any fun p => (s.part p).swap.isSome

/-- Lanes that a PREEMPT trap would take into the handler (R355). -/
def Group.preemptLanes (g : Group) : List Nat :=
  g.seatsWhere fun l => l.thread.isSome && (match l.mode with | LaneMode.exited => false | LaneMode.parked _ _ => false | _ => true)

/-- A group that waits, or whose every lane waits: it is saved without a handler (R343, R416). -/
def Group.quiet (g : Group) : Bool :=
  g.dbgStop || g.wait.isSome || (!g.runOpen && g.waitDone.isNone && g.nextSets.isEmpty)

/-- Whether a resident group can take a seat: free, with registers, on its team core; or, where it is its team's only group, on
another core of the cluster that fits its team (R130, R135). No matrix work or claim stays behind. -/
def State.seatFor (s : State) (k : Nat) (g : Group) (to_ : Place) : Bool :=
  match s.teamOf g, g.place with
  | some t, some at_ =>
    let u := (s.slotUse to_.core).getD to_.slot (0, 0)
    t.part.isSome && t.here && !g.ended && !g.away && decide (to_.slot < 4) && decide (to_.seat < 16) &&
    (to_.core == at_.core ||
      (t.groups == [k] && to_.core / 8 == t.cluster && s.coreFits (s.teamNeed t) to_.core 0 && !s.matrixPending (.grp k) &&
        (s.core at_.core).matrix.claim != some g.team)) &&
    !((s.onCore to_.core).any fun v => v.place == some to_) &&
    ((at_.core == to_.core && at_.slot == to_.slot) || (decide (u.1 < 16) && decide (u.2 + 32 * g.alloc ≤ 65536)))
  | _, _ => false

/-- A wait on what its core holds: on another core the instruction issues again. -/
def Wait.onCore : Wait → Bool
  | .claim | .copySlot => true
  | _ => false

/-- A migrating group moves, where the seat still takes it: its transactions abort with PREEMPT, its LWAIT ends with reason 2, and
the scheduler looks at the room it leaves (R135, R138, R299, R322, R340). A team that moves with its only group occupies the new
core (R130). -/
def State.move (s : State) (k : Nat) (to_ : Place) : State :=
  match s.groups.get? k with
  | none => s
  | some g =>
    if !s.seatFor k g to_ then s.modGroup (.grp k) fun g => { g with moveDue := none } else
    let s := (s.preemptTx k g).nearClear to_.core
    let other := g.place.any fun p => p.core != to_.core
    let s := s.modGroup (.grp k) fun g =>
      let g := g.endLwait s.now 2
      let g := if other && g.wait.any Wait.onCore then g.endWait s.now else g
      { g with place := some to_, moveDue := none }
    let s := if other then { s with teams := s.teams.modify g.team fun t => { t with base := to_.core } } else s
    { s with agenda := s.agenda ++ (s.partOf (.grp k)).toList.map Instr.schedule }

/-- Whether something is due for a group that its run boundary lets happen now (R138). Pre-emption waits while the slice map
changes (R238). -/
def State.boundaryDue (s : State) (g : Group) : Bool :=
  !g.ended && !g.away &&
  (if g.runOpen then s.change.isNone && g.cut && g.stalled
   else g.moveDue.isSome || (s.change.isNone && (g.cut || g.pdone || (g.trapDue && !g.trap.inHandler && g.waitDone.isNone))))

/-- The PREEMPT trap (R343): taken once, outside any handler; transactions abort (R322). A wait for an answer goes on while the
handler runs; any other instruction that waits issues again after it. -/
def State.preemptTrap (s : State) (k : Nat) (g : Group) : State :=
  let s := (s.preemptTx k g).modGroup (.grp k) fun v =>
    { v.endWait s.now with trapDue := false, wait := g.wait.filter fun w => w.answers }
  s.boundaryTrap k .preempt none 0 none none

/-- PREEMPT_TRAP: what falls due for a group at a run boundary (R138, R343, R344): it is saved after PDONE, at the
deadline or for a swap; it moves; or it takes the PREEMPT trap. -/
def State.boundary (s : State) (k : Nat) : State :=
  match s.groups.get? k with
  | none => s
  | some g =>
    if !s.boundaryDue g then s
    else if g.cut && s.change.isNone then s.saveGroup k (s.swapping (.grp k))
    else if g.pdone && s.change.isNone then s.saveGroup k false
    else match g.moveDue, g.wait with
      | some to_, _ => s.move k to_
      | none, some (.lwait _ _ _) => s.modGroup (.grp k) fun g => g.endLwait s.now 2
      | none, _ => if s.traphOf g = 0 || g.preemptLanes.isEmpty then s.saveGroup k false else s.preemptTrap k g

def execPreemptTrap (g : Nat) (s : State) : Result := .next (s.boundary g)

/-- A resident group is marked: a group that waits is saved at once; one that issues takes its trap at its next run
boundary (R343). -/
def State.mark (s : State) (k : Nat) : State :=
  match s.groups.get? k with
  | none => s
  | some g =>
    if g.ended || g.away || g.marked then s
    else if g.quiet then
      (if s.change.isNone then s.saveGroup k false else s.modGroup (.grp k) fun g => { g with marked := true, cut := true })
    else
      let s := s.modGroup (.grp k) fun g => { g with marked := true, trapDue := true }
      if g.runOpen then s else { s with agenda := s.agenda ++ [.preemptTrap k] }

def State.markTeam (s : State) (t : Nat) : State :=
  ((s.teams.get? t).elim [] (·.groups)).foldl (fun (s : State) k => s.mark k) s

/-! ### PRQCMD (R341) -/

/-- The grid of a launch id in a partition, while it has a team that has not retired. -/
def State.gridNamed (s : State) (p : Nat) (launch : Word) : Option (Nat × Grid) :=
  s.grids.find? fun e => e.2.part == some p && e.2.launch == launch &&
    (decide (e.2.next < e.2.teams) || s.teams.any fun t => t.2.grid == e.1 && t.2.phase != .retired)

def State.setRes (s : State) (p res : Nat) : State := s.setPart p { s.part p with prqRes := res }

/-- Commands 1 and 2 mark the teams named. -/
def State.startPreempt (s : State) (p : Nat) (ts : List Nat) : State :=
  let s := s.setPart p { s.part p with preempt := some ⟨ts, s.now, false⟩, prqRes := 0 }
  ts.foldl (fun (s : State) t => s.markTeam t) s

/-- Command 1: pre-empt team PRQTEAM of grid PRQID. A team whose context lies in shadow storage is not resident (R346). -/
def State.preemptTeam (s : State) (p : Nat) : State :=
  let q := s.part p
  if q.preempt.isSome then s else
  match s.gridNamed p q.prqid with
  | none => s.setRes p 1
  | some (g, e) =>
    let i := q.prqteam.toNat
    if e.teams ≤ i then s.setRes p 2
    else match s.teams.find? fun t => t.2.grid == g && t.2.index == i && t.2.seated with
      | some (n, t) => if t.swapped then s.setRes p 3 else if t.phase == .resident then s.startPreempt p [n] else s.setRes p 2
      | none =>
        if e.next ≤ i || s.teams.any fun t => t.2.grid == g && t.2.index == i && t.2.phase == .saved then s.setRes p 3
        else s.setRes p 2

/-- Command 2: pre-empt every resident team of the grid. -/
def State.preemptGrid (s : State) (p : Nat) : State :=
  let q := s.part p
  if q.preempt.isSome then s else
  match s.gridNamed p q.prqid with
  | none => s.setRes p 1
  | some (g, _) =>
    let ts := (s.teams.filter fun t => t.2.grid == g && t.2.phase == .resident && !t.2.swapped).map (·.1)
    if ts.isEmpty then s.setRes p 3 else s.startPreempt p ts

/-- Commands 3 and 4: hold and release the grid. -/
def State.holdGrid (s : State) (p : Nat) (held : Bool) : State :=
  let q := s.part p
  if q.preempt.isSome then s else
  match s.gridNamed p q.prqid with
  | none => s.setRes p 1
  | some (g, e) =>
    let s := ({ s with grids := s.grids.set g { e with held } }).setRes p 0
    if held then s else { s with agenda := s.agenda ++ [Instr.schedule p] }

def execPreemptTeam (part : Nat) (s : State) : Result := .next (s.preemptTeam part)
def execPreemptGrid (part : Nat) (s : State) : Result := .next (s.preemptGrid part)
def execHoldGrid (part : Nat) (s : State) : Result := .next (s.holdGrid part true)
def execReleaseGrid (part : Nat) (s : State) : Result := .next (s.holdGrid part false)

/-- A command finishes when every team it names has been saved or has retired, each at its own time (R341). -/
def State.prqCheck (s : State) (p : Nat) : State :=
  let q := s.part p
  match q.preempt with
  | none => s
  | some v =>
    let left := v.teams.filter fun t => (s.teams.get? t).any fun u => u.phase != .saved && u.phase != .retired
    if left.isEmpty then (s.setPart p { q with preempt := none, prqRes := 0 }).raise p
    else s.setPart p { q with preempt := some { v with teams := left } }

/-- The marked groups of a partition's commands whose deadline has passed and which no save is due for yet (R344). -/
def State.lateGroups (s : State) (p : Nat) : List Nat :=
  let q := s.part p
  ((q.preempt.toList ++ q.evicting.toList).filter fun v => decide (v.since + usec q.deadline ≤ s.now)).flatMap fun v =>
    (v.teams.flatMap fun t => (s.teams.get? t).elim [] (·.groups)).filter fun k =>
      (s.groups.get? k).any fun g => g.marked && !g.away && !g.ended && !g.cut

/-- PREEMPT_DEADLINE: the hardware saves them, each at its next run boundary or where its run stalls. -/
def execPreemptDeadline (part : Nat) (s : State) : Result :=
  .next ((s.lateGroups part).foldl (fun (s : State) k => s.modGroup (.grp k) fun g => { g with cut := true }) s)

/-! ### Saving a team (R345) -/

/-- Whether a team can be saved: every group is saved, its matrix work has completed, and no swap runs. -/
def State.teamSavable (s : State) (t : Team) : Bool :=
  let gs := s.teamGroups t
  t.phase == .resident && t.seated && !t.swapped && !gs.isEmpty && (gs.all fun e => e.2.saved) &&
  (t.groups.all fun k => !s.matrixPending (.grp k)) &&
  s.change.isNone && t.part.all fun p => (s.part p).swap.isNone

/-- TEAM_SAVE: matrix state goes with the team, and seats, map entries and barriers are freed. -/
def execTeamSave (team : Nat) (s : State) : Result :=
  .next (match s.teams.get? team with
    | none => s
    | some t =>
      if !s.teamSavable t then s else
      let mats := (List.range t.span).map fun j =>
        let m := (s.core (t.base + j)).matrix
        if m.claim = some team then some m else none
      let s := (List.range t.span).foldl (fun (s : State) j =>
        if (mats.getD j none).isSome then s.releaseClaim (t.base + j) else s) s
      let s := (s.teamGroups t).foldl (fun (s : State) e => s.modGroup (.grp e.1) fun g => { g with place := none }) s
      match t.part with
      | none => s
      | some p =>
        let q := s.part p
        let out := q.evicting.any fun v => v.teams.contains team
        let kept := q.evicting.any fun v => v.teams.contains team && !v.eased
        let s := { s with
          teams := s.teams.set team { t with phase := .saved, seated := false, matrix := mats, savedAt := s.queued, evicted := kept }
          queued := s.queued + 1, agenda := s.agenda ++ [Instr.schedule p] }
        let s := if out then s.setPart p { s.part p with evicting := none } else s
        s.prqCheck p)

/-! ### Retirement of a team (R230, R272, R284) -/

/-- Whether the work of a retiring team has settled (R230 step 2). -/
def State.settled (s : State) (t : Team) : Bool :=
  let mine := fun (w : Who) => match w with
    | .grp k => t.groups.contains k
    | .ctl _ => false
  t.copies.isEmpty && !(s.reqs.any fun r => mine r.2.who && !r.2.done) &&
  !(s.msgs.any fun m => match m.2 with
    | .post (.here w _ _) _ _ => mine w
    | .forwarded _ (.here w _ _) _ _ _ => mine w
    | _ => false) &&
  t.groups.all fun k => !s.matrixPending (.grp k)

/-- A failed advance leaves a record of kind 3, with the trap value of its cause (R272, R352, R357). -/
def State.joinFailed (s : State) (t : Team) (cause : Cause) (val : Dword) : State :=
  match t.part with
  | none => s
  | some p => s.trapRecord p 3 (causeNum cause) t.launch
      (Machine.trapRecord 3 (causeNum cause) t.launch.toNat t.index 0 0 0 val 0 0)

/-- Steps 1 to 5 of R87 for the advance of a counter. -/
def State.joinCheck (s : State) (asn : Nat) (c : Cap) (perms : BitVec 8) : Option Cause :=
  if !c.tag || c.kind == 0 then some .capTag
  else if !(c.kind == 1 && c.has perms && (c.pkg == s.regs.pkg || c.has permQ)) then some .capPerm
  else if c.cursor < c.base ∨ c.limit < c.cursor + 8 then some .capBound
  else if c.cursor % 8 ≠ 0 then some .misaligned
  else if (if c.pkg = s.regs.pkg then s.revBit asn c.index else s.farRevoked.contains (c.pkg, asn, c.index)) then some .capRevoked
  else none

/-- Adds 1 to a 64-bit word at its home slice, once nothing holds its line back: whether it has, and the state (R265). -/
def State.bump (s : State) (a : Nat) : Bool × State :=
  let (ready, s) := s.engineReady a 8 true none
  (ready, if ready then s.engineWrite a (s.maxed a (leBytes 8 (s.num a 8 + 1)) false) else s)

/-- An addition of 1 to a word of another package: its request and its number. -/
def State.bumpFar (s : State) (w : Who) (k : PageKey) (off : Nat) (returns : Bool) : Nat × State :=
  s.request w 0 k off (.atomic 0 8 1 0 returns) false noPc

def State.setPhase (s : State) (tn : Nat) (n : Nat) : State :=
  match s.teams.get? tn with
  | none => s
  | some t => { s with teams := s.teams.set tn { t with phase := .retiring n } }

/-- One advance is over: the next one of the teams that never ran, or the team goes on to its edge queue. -/
def State.advanced (s : State) (tn : Nat) : State :=
  match s.teams.get? tn with
  | none => s
  | some t =>
    if 1 < t.advances then
      { s with teams := s.teams.set tn { t with advances := t.advances - 1, index := t.index + 1, phase := .retiring 6 } }
    else s.setPhase tn 8

/-- The advance of step 6: made, failed, or waiting for its page or for another package (phase 10 and on). -/
def State.joinAdvance (s : State) (tn : Nat) (t : Team) (e : Grid) : State :=
  let c := e.desc.joincap
  let w := Who.grp (t.groups.headD 0)
  let k : PageKey := ⟨c.pkg, e.asn.toNat, c.index, c.cursor / 65536⟩
  if !c.tag then s.advanced tn else
  match s.joinCheck e.asn.toNat c (permW ||| permA) with
  | some why => (s.joinFailed t why (BitVec.ofNat 64 c.cursor)).advanced tn
  | none =>
    if c.pkg ≠ s.regs.pkg then
      let (n, s) := s.bumpFar w k c.cursor true
      s.setPhase tn (10 + n)
    else match s.engineLookup e.asn.toNat c.index (c.cursor / 65536) with
      | (.frame f, s) =>
        let (made, s) := s.bump (f * 65536 + c.cursor % 65536)
        if made then (s.counted k s.regs.pkg).advanced tn else s
      | (.absent _ _, s) => s
      | (.held, s) => s
      | (.error, s) => (s.joinFailed t .extentError (BitVec.ofNat 64 k.num)).advanced tn

/-- The answer to an advance in another package. -/
def State.joinAnswer (s : State) (tn n : Nat) (t : Team) (e : Grid) : State :=
  let c := e.desc.joincap
  let k : PageKey := ⟨c.pkg, e.asn.toNat, c.index, c.cursor / 65536⟩
  match s.reqs.get? n with
  | none => s
  | some r => match r.answer with
    | none => s
    | some a =>
      let s := s.dropReq n
      match a with
      | .notResident | .unmonitored => s.setPhase tn 6
      | .extentError => (s.joinFailed t .extentError (BitVec.ofNat 64 k.num)).advanced tn
      | .poisoned => (s.joinFailed t .poison (BitVec.ofNat 64 (c.cursor / 32 * 32))).advanced tn
      | .data _ _ | .granules _ _ | .done | .status _ => s.advanced tn
      | .unreachable | .replayLost | .noAsn =>
        (s.joinFailed t .fabric (fabricVal ((fabricReason a).getD 1) c.pkg (r.num.getD 0))).advanced tn

/-- FREE of the edge queue that created the team rises by 1 (R284); then the team has retired. -/
def State.teamRetired (s : State) (tn : Nat) (t : Team) : State :=
  let s := { s with teams := s.teams.set tn { t with phase := .retired } }
  match t.part with
  | none => s
  | some p =>
    let q := s.part p
    let s := if q.evicting.any fun v => v.teams.contains tn then s.setPart p { q with evicting := none } else s
    { s with agenda := s.agenda ++ [Instr.schedule p] }.prqCheck p

/-- The slot of an edge item is free again, once its header's page is resident. -/
def State.freeSlot (s : State) (tn : Nat) (t : Team) (asn : Nat) (header : Cap) : State :=
  let off := header.cursor + 0x10
  let w := Who.grp (t.groups.headD 0)
  let k : PageKey := ⟨header.pkg, asn, header.index, off / 65536⟩
  if header.pkg ≠ s.regs.pkg then (s.bumpFar w k off false).2.teamRetired tn t
  else match s.engineLookup asn header.index (off / 65536) with
    | (.frame f, s) =>
      let (made, s) := s.bump (f * 65536 + off % 65536)
      if made then (s.counted k s.regs.pkg).teamRetired tn t else s
    | (.absent _ _, s) => s
    | (.held, s) => s
    | (.error, s) => s.teamRetired tn t

/-- The hampers a team holds in its cluster. -/
def State.heldBy (s : State) (tn : Nat) (t : Team) : List Nat :=
  (List.range 32).filter fun n => (s.hamper t.cluster n).team == some tn

/-- Copies in flight with a destination in a hamper that a team holds (R230 step 1). -/
def State.copiesInto (s : State) (tn : Nat) (t : Team) : List (Nat × Nat) :=
  let hs := s.heldBy tn t
  s.cores.flatMap fun (c : Nat × Core) => c.2.copies.filterMap fun (e : Nat × CopySlot) =>
    if e.2.state == .running && (e.2.dsts.any fun d => match d with
        | .hamper cl n _ => cl == t.cluster && hs.contains n
        | .mem _ _ _ _ => false) then some (c.1, e.1) else none

/-- One step of R230 for a retiring team, when the one before it has ended. -/
def State.retireStep (s : State) (tn : Nat) (t : Team) (n : Nat) : State :=
  match n with
  | 1 =>
    let s := (s.copiesInto tn t).foldl (fun (s : State) c => s.stopCopy c.1 c.2 .cancelled) s
    if (s.copiesInto tn t).isEmpty then s.setPhase tn 2 else s
  | 2 => if s.settled t then s.setPhase tn 3 else s
  | 3 => ((List.range t.span).foldl (fun (s : State) j =>
      if (s.core (t.base + j)).matrix.claim = some tn then s.releaseClaim (t.base + j) else s) s).setPhase tn 4
  | 4 => ((s.heldBy tn t).foldl (fun (s : State) n => s.setHamper t.cluster n { Hamper.reset with team := some tn }) s).setPhase tn 5
  | 5 =>
    let s := (s.heldBy tn t).foldl (fun (s : State) n => s.setHamper t.cluster n Hamper.reset) s
    let s := (t.groups.filter fun k => (s.groups.get? k).any fun g => g.name != 0 && (g.place.isSome || g.saved) ).foldl
      (fun (s : State) k => match s.groups.get? k with
        | some g => (s.retireRecord k (g.phase 7 s.now).settle).freeGroup k
        | none => s) s
    match s.teams.get? tn with
    | none => s
    | some t =>
      let t : Team := { t with seated := false, maps := t.maps.map (fun _ => []), barriers := [], matrix := t.matrix.map (fun _ => none),
                               phase := .retiring 6 }
      { s with teams := s.teams.set tn t, agenda := s.agenda ++ t.part.toList.map Instr.schedule }
  | n => match s.grids.get? t.grid with
    | none => s.teamRetired tn t
    | some e =>
      if 10 ≤ n then s.joinAnswer tn (n - 10) t e
      else if n < 8 then s.joinAdvance tn t e
      else match e.source with
        | .edge _ asn h => s.freeSlot tn t asn.toNat h
        | _ => s.teamRetired tn t

/-- TEAM_RETIRE: the next step of a team's retirement. -/
def execTeamRetire (team : Nat) (s : State) : Result :=
  .next (match s.teams.get? team with
    | none => s
    | some t => match t.phase with
      | .retiring n => if t.swapped then s else s.retireStep team t n
      | _ => s)

/-- Whether the next step of a retirement can be taken. -/
def State.retireDue (s : State) (t : Team) : Bool :=
  match t.phase with
  | .retiring n =>
    if t.swapped then false
    else match n with
      | 2 => s.settled t
      | n => if 10 ≤ n then ((s.reqs.get? (n - 10)).bind (·.answer)).isSome else true
  | _ => false

/-! ### Partition swap (R346, R347) -/

/-- The teams of a partition that hold seats, in its clusters or in shadow storage. -/
def State.partTeams (s : State) (p : Nat) : List (Nat × Team) := s.teams.filter fun t => t.2.part == some p && t.2.seated

/-- SWAPCMD.GO: placement stops, and every group is halted at its next run boundary or where its run stalls. -/
def State.startSwap (s : State) (p : Nat) : State :=
  let q := s.part p
  if q.swap.isSome then s else
  let s := s.setPart p { q with swap := some 1 }
  ((s.partTeams p).flatMap fun t => t.2.groups).foldl (fun (s : State) k =>
    s.modGroup (.grp k) fun g => if g.ended || g.away then g else { g with cut := true }) s

def execPartitionSwap (part : Nat) (s : State) : Result := .next (s.startSwap part)

/-- Whether steps 1 to 3 have ended: groups halted, gives, matrix work, copies, accesses and postcards at their end, and
no slice-map change. -/
def State.swapDrained (s : State) (p : Nat) : Bool :=
  let ts := s.partTeams p
  let ks := ts.flatMap fun t => t.2.groups
  let all := s.teams.filter fun t => t.2.part == some p && t.2.phase != .retired
  s.change.isNone &&
  (ts.all fun t => s.settled t.2) &&
  -- pre-empted teams' copies and gives too: every hamper leaves (R348)
  (all.all fun t => t.2.copies.isEmpty && t.2.groups.all fun k => (s.groups.get? k).all fun g => g.waits.all fun w => w.give.isNone) &&
  ks.all fun k => (s.groups.get? k).all fun g => g.ended ||
    (g.away && g.status.isEmpty)

/-- The partition CSRs 0x800-0xBFF of one context, the command in progress that PRQCMD shows among them, with the rest of
another. -/
def Part.exchange (mine other : Part) : Part :=
  { other with enabled := mine.enabled, clusters := mine.clusters, nextId := mine.nextId, swap := mine.swap, breaks := mine.breaks,
               heads := mine.heads, stalls := mine.stalls }

/-- Step 4 for one cluster: all 32 hampers. -/
def Cluster.exchange (c : Cluster) (p : Nat) : Cluster :=
  { hampers := c.shadowHampers, shadow := if c.shadow.isSome then none else some p, shadowHampers := c.hampers }

/-- SWAP_EXCHANGE: contexts change places, and the incoming groups go on, their post boxes first (R347 steps 4 and 5). -/
def execSwapExchange (part : Nat) (s : State) : Result :=
  .next (
    let q := s.part part
    if q.swap.isNone || !s.swapDrained part then s else
    let sh := s.shadows.getD part ⟨Part.reset, true⟩
    let ts := s.partTeams part
    -- matrix state leaves with its teams before any returns
    let mats := fun (e : Nat × Team) => (List.range e.2.span).map fun j =>
      let m := (s.core (e.2.base + j)).matrix
      if !e.2.swapped && m.claim == some e.1 then some m else none
    let out := ts.map fun e => (e.1, { e.2 with swapped := !e.2.swapped, matrix := mats e })
    let s := (ts.filter fun e => !e.2.swapped).foldl (fun (s : State) e => (List.range e.2.span).foldl (fun (s : State) j =>
      if ((mats e).getD j none).isSome then s.releaseClaim (e.2.base + j) else s) s) s
    let s := (ts.filter fun e => e.2.swapped).foldl (fun (s : State) e => (List.range e.2.span).foldl (fun (s : State) j =>
      match e.2.matrix.getD j none with
      | some m => s.setCore (e.2.base + j) { s.core (e.2.base + j) with matrix := m }
      | none => s) s) s
    let s := { s with teams := out.foldl (fun (m : FMap Team) e => m.set e.1 e.2) s.teams }
    let s := (List.range 160).foldl (fun (s : State) cl =>
      if q.clusters.getLsbD cl then s.setCluster cl ((s.cluster cl).exchange part) else s) s
    let s := { s with shadows := s.shadows.set part ⟨q, !sh.empty⟩ }
    let s := (s.setPart part { (if sh.empty && sh.part == Part.reset then q.exchange Part.reset else q.exchange sh.part) with swap := none }).raise part
    let s := s.nearClearAll ((ts.filter fun t => t.2.swapped).flatMap fun t => (List.range t.2.span).map (t.2.base + ·))
    let back := ts.flatMap fun t => if t.2.swapped then t.2.groups else []
    let s := back.foldl (fun (s : State) k => if (s.groups.get? k).any fun g => g.halted && !g.ended then s.resume k else s) s
    { s with agenda := s.agenda ++ [Instr.schedule part] })

/-! ### The stall watch (R349-R351) -/

/-- A run stalled on a held register or a status hold, whose clocks are of class 3. -/
def Group.onHold (g : Group) : Bool := g.stalled && g.cls == 3

/-- No lane of a group can be served, in the sense of R349. -/
def Group.unserved (g : Group) : Bool :=
  let waits := match g.wait with
    | some (.kwait _ _ _) => true
    | some .bar => true
    | some (.join _) => true
    | some (.lwait _ _ _) => true
    | some (.eqpop _) => true
    | some .joinFar => true
    | some (.eqFar pop) => pop
    | some (.svc _) => true
    | some (.hgive _) => true
    | _ => false
  g.ended || waits || (g.wait.isNone && g.onHold) ||
  (g.wait.isNone && g.lanes.all fun l => l.thread.isNone || l.held || (match l.mode with
    | LaneMode.stopped => true
    | LaneMode.parked _ _ => true
    | LaneMode.exited => true
    | LaneMode.atBarrier _ _ => true
    | LaneMode.barrierNext _ _ => true
    | _ => false))

/-- The next team of a grid that is to be placed. -/
def State.gridNext (s : State) (g : Nat) (e : Grid) : Option Candidate :=
  match (s.teams.filter fun t => t.2.grid == g && t.2.phase == .saved && !t.2.evicted).head? with
  | some t => some (.saved t.1 t.2)
  | none => if e.next < e.teams then some (.fresh g e) else none

/-- The teams in a grid's queue: those saved, and the next of those that have not been dispatched, which are alike. -/
def State.gridQueue (s : State) (g : Nat) (e : Grid) : List Candidate :=
  ((s.teams.filter fun t => t.2.grid == g && t.2.phase == .saved).map fun (t : Nat × Team) => Candidate.saved t.1 t.2) ++
  (if e.next < e.teams then [.fresh g e] else [])

def State.residents (s : State) (g : Nat) : List (Nat × Team) := s.teams.filter fun t => t.2.grid == g && t.2.phase == .resident

/-- Whether a grid stalls now: a team in its queue does not fit, it has resident teams, and none of their lanes can be
served. -/
def State.stallsNow (s : State) (g : Nat) (e : Grid) : Bool :=
  match e.part with
  | none => false
  | some p =>
    if e.ended || (s.part p).stallw == 0 || !s.places p then false else
    let rs := s.residents g
    !rs.isEmpty && (rs.all fun t => (s.teamGroups t.2).all fun k => k.2.unserved) &&
    (s.gridQueue g e).any fun c => (s.blocksFor p (s.needOf c)).isEmpty

/-- Since when a stall that the watch has begun to count has lasted: an instruction of the grid breaks it. -/
def State.stalledSince (s : State) (g since : Nat) : Nat :=
  (s.residents g).foldl (fun m t => (s.teamGroups t.2).foldl (fun m k => max m k.2.lastIssue) m) since

/-- Whether the watch has something to do for a grid: its stall begins or ends, or has lasted STALLW. -/
def State.watchDue (s : State) (g : Nat) (e : Grid) : Bool :=
  match e.part with
  | none => false
  | some p =>
    let q := s.part p
    match q.stalls.get? g with
    | none => s.stallsNow g e
    | some since => !s.stallsNow g e ||
        (decide (s.stalledSince g since + usec q.stallw ≤ s.now) && (if e.desc.residency = 0 then !e.reported else q.evicting.isNone))

/-- The team that an eviction would take: the resident one of the highest linear index. A single resident team is taken
only when the head team would fit in the room it frees (R350). -/
def State.victim (s : State) (p g : Nat) (e : Grid) : Option Nat :=
  let rs := s.residents g
  match rs.foldl (fun (b : Option (Nat × Team)) t => match b with
      | none => some t
      | some v => if v.2.index < t.2.index then some t else b) none with
  | none => none
  | some (n, t) =>
    if 1 < rs.length then some n else
    let after := { s with teams := s.teams.set n { t with seated := false } }
    if (s.gridNext g e).any fun c => !(after.blocksFor p (after.needOf c)).isEmpty then some n else none

/-- STALL_WATCH: the stall of a grid begins, ends or has lasted STALLW: an eventual grid has a team evicted, a strict one
is reported (R349-R351). -/
def execStallWatch (grid : Nat) (s : State) : Result :=
  .next (match s.grids.get? grid with
    | none => s
    | some e => match e.part with
      | none => s
      | some p =>
        let q := s.part p
        if !s.stallsNow grid e then s.setPart p { q with stalls := q.stalls.erase grid }
        else match q.stalls.get? grid with
          | none => s.setPart p { q with stalls := q.stalls.set grid s.now }
          | some since =>
            if s.now < s.stalledSince grid since + usec q.stallw then s
            else if e.desc.residency = 0 then
              if e.reported then s else
              let s := { s with grids := s.grids.set grid { e with reported := true } }
              let s := (s.setPart p { q with gstall := true, gstallId := e.launch }).raise p
              s.trapRecord p 2 (causeNum .gridStall) e.launch
                (Machine.trapRecord 2 (causeNum .gridStall) e.launch.toNat 0 0 0 0 0 0 0)
            else if q.evicting.isSome then s
            else
              let s := s.setPart p { q with stalls := q.stalls.set grid s.now }
              match s.victim p grid e with
              | none => s
              | some t => (s.setPart p { s.part p with evicting := some ⟨[t], s.now, false⟩ }).markTeam t)

/-! ### Partitions (R330) -/

/-- A write to PCLw of the partition PSEL names: ignored while it is enabled; clusters of others stay theirs. -/
def State.writeClusters (s : State) (w : Nat) (v : Word) : State :=
  let p := s.regs.psel
  let q := s.part p
  if q.enabled then s else
  let taken := fun cl => s.parts.any fun e => e.1 != p && e.2.clusters.getLsbD cl
  let new := (List.range 32).foldl (fun (b : BitVec 160) j =>
    let cl := 32 * w + j
    if v.getLsbD j && !taken cl then b ||| (1#160 <<< cl) else b &&& ~~~(1#160 <<< cl)) q.clusters
  s.setPart p { q with clusters := new }

def execPartitionClustersWrite (w : Nat) (v : Word) (s : State) : Result := .next (s.writeClusters w v)

/-- Whether a partition holds work: a grid in its queues, a resident or saved team, or a context in shadow storage. -/
def State.busyPart (s : State) (p : Nat) : Bool :=
  (s.grids.any fun e => e.2.part == some p && !e.2.ended && decide (e.2.next < e.2.teams)) ||
  (s.teams.any fun t => t.2.part == some p && t.2.phase != .retired) || (s.shadows.get? p).any fun h => !h.empty

/-- A write to PARTEN. -/
def State.writeParten (s : State) (v : Word) : State :=
  let p := s.regs.psel
  let q := s.part p
  if v.getLsbD 0 then { s.setPart p { q with enabled := true } with agenda := s.agenda ++ [Instr.schedule p] }
  else if s.busyPart p then s else s.setPart p { q with enabled := false }

def execPartenWrite (v : Word) (s : State) : Result := .next (s.writeParten v)

/-- PARTITION_RESET: launch ids start again at 1 (R131). -/
def execPartitionReset (part : Nat) (s : State) : Result :=
  .next (s.unlessDown fun s => s.setPart part { s.part part with nextId := 1 })

/-! ### Migration (R138, R335) -/

/-- GROUP_MIGRATION: the group moves at its next run boundary; its name and home core stay (R335, R336). -/
def execGroupMigration (g core slot seat : Nat) (s : State) : Result :=
  .next (s.unlessDown fun s => match s.groups.get? g with
    | none => s
    | some v =>
      let to_ : Place := ⟨core, slot, seat⟩
      if !s.seatFor g v to_ then s
      else if v.runOpen then s.modGroup (.grp g) fun v => { v with moveDue := some to_ }
      else s.move g to_)

end Sys2Proof.Machine
end

