-- ==== Sys2Proof/Machine/Fabric.lean ====
section
/-! DEFINITION. The Ewetia fabric: NODECFG (R392), requests from other packages executed exactly once (R393-R397), replies
and failures (R398), requests sent again (R397); and PCIe: inbound requests (R400), requester entries (R401), the outbound
window (R402) and MSI-X (R403). -/

namespace Sys2Proof.Machine

open Sys2Proof

/-! ### NODECFG (R392) -/

/-- A write to NODE keeps the package's own bit and at most 8 bits, or is ignored. -/
def State.writeNode (s : State) (v : Word) : State :=
  let n : BitVec 16 := v.setWidth 16
  if n.getLsbD (s.regs.pkg % 16) && decide (((List.range 16).filter fun i => n.getLsbD i).length ≤ 8)
  then { s with regs := { s.regs with node := n } } else s

def execNodecfgWrite (v : Word) (s : State) : Result := .next (s.writeNode v)

/-! ### Requests of other packages (R394-R397) -/

/-- The directory agent of a package of the node (R262): its position among the columns of NODECFG. -/
def State.nodeAgent (s : State) (pkg : Nat) : Option Nat :=
  if pkg / 16 ≠ s.regs.pkg / 16 ∨ !s.regs.node.getLsbD (pkg % 16) ∨ pkg = s.regs.pkg then none
  else some (128 + ((List.range (pkg % 16)).filter fun c => s.regs.node.getLsbD c).length)

/-- The frame of a translation given to a package and not taken back (R394, R395). -/
def State.grantOf (s : State) (src : Nat) (k : PageKey) : Option Extent :=
  (s.granted.find? fun g => g.1 == src && g.2.key == k).map (·.2)

/-- Whether an address space exists at this package (R361). -/
def State.hasSpace (s : State) (asn : Nat) : Bool :=
  decide (asn < s.regs.astLen) && s.num (s.regs.astBase + 32 * asn + 0xC) 4 % 2 == 1

/-- A translation asked for by another package (R394): the package becomes a taker, or its lanes' monitor is armed here. -/
def State.giveTranslation (s : State) (src asn obj page : Nat) : FabricAnswer × State :=
  let k : PageKey := ⟨s.regs.pkg, asn, obj, page⟩
  if !s.hasSpace asn then (.noAsn, s) else
  match s.translate asn obj page src with
  | (.frame f, s) =>
    let e : Extent := ⟨k, BitVec.ofNat 64 (2 ^ 63 + f * 65536), 0, 0⟩
    (.done, { s with granted := s.granted.filter (fun g => !(g.1 == src && g.2.key == k)) ++ [(src, e)]
                     takers := if s.takers.contains (asn, src) then s.takers else s.takers ++ [(asn, src)] })
  | (.absent at_ e, s) =>
    let (t, s) := s.park (.ctl 0) { k with pkg := src } src at_ e 0
    (if t.isSome then .unmonitored else .notResident, s)
  | (.error, s) => (.extentError, s)
  | (.held, s) => (.unmonitored, s)   -- remoteReady takes no request up before its translation can be had

/-- The physical address of an access of another package: under the translation given to it, or a new one. -/
def State.remotePlace (s : State) (q : FabricReq) : Except FabricAnswer Nat × State :=
  let k : PageKey := ⟨s.regs.pkg, q.asn.toNat, q.obj, q.off / 65536⟩
  match s.grantOf q.src k with
  | some e => (.ok (e.frame * 65536 + q.off % 65536), s)
  | none => match s.giveTranslation q.src q.asn.toNat q.obj (q.off / 65536) with
    | (.done, s) => match s.grantOf q.src k with
      | some e => (.ok (e.frame * 65536 + q.off % 65536), s)
      | none => (.error .extentError, s)
    | (a, s) => (.error a, s)

/-- A step of another package on an edge queue's header is over (R284). -/
def State.endHold (s : State) (src line : Nat) : State :=
  { s with qholds := s.qholds.filter fun h => !(h.line == line && h.who.isNone && h.pkg == src) }

/-- What an access of another package does at the home slice, and its answer. -/
def State.remotePerform (s : State) (src : Nat) (op : FabricOp) (a : Nat) : FabricAnswer × State :=
  let line := a / 128
  match op with
  | .translate => (.done, s)
  | .load n =>
    let s := s.txConflict none line false
    let (b, s) := s.bit
    let s := s.dirRead line (if b && decide (n ≤ 128) then s.nodeAgent src else none)
    (if s.poisoned a n then .poisoned else .data (s.bytes a n) false, s)
  | .loadCap =>
    let s := (s.txConflict none line false).dirRead line none
    (if s.poisoned a 16 then .poisoned else .data (s.bytes a 16) (s.tagAt a), s)
  | .store bs =>
    let s := (s.txConflict none line true).dirWrite line none
    (.done, ((s.write a (s.maxed a bs true)).rang a bs.length).lineWritten line)
  | .storeCap bs t =>
    let s := (s.txConflict none line true).dirWrite line none
    (.done, (s.putCap a bs t).lineWritten line)
  | .loadTags n =>
    let s := s.engineRead a n
    (if s.poisoned a n then .poisoned else .granules (s.bytes a n) (s.tagsAt a n), s)
  | .queueBegin =>
    let s := s.engineRead a 128
    let h : QueueHold := ⟨line, none, 0, src⟩
    if s.poisoned a 128 then (.poisoned, s) else (.granules (s.bytes a 128) (s.tagsAt a 128), { s with qholds := s.qholds ++ [h] })
  | .queueEnd counts =>
    let s := s.endHold src line
    (.done, if counts.isEmpty then s else s.engineWrite a (s.maxed a counts false))
  | .watch w =>
    let s := (s.txConflict none line false).dirRead line none
    if s.poisoned a 4 then (.poisoned, s)
    else (.data (s.bytes a 4) false, { s with farWatches := s.farWatches.filter (fun v => !(v.1 == src && v.2.1 == w)) ++ [(src, w, line)] })
  | .atomic code n v cmp =>
    if s.poisoned a n then (.poisoned, s) else
    let m := s.num a n
    match atomicNew code n m v cmp with
    | none => (.data (leBytes n m) false, (s.txConflict none line false).dirRead line none)
    | some w =>
      let s := (s.txConflict none line true).dirWrite line none
      (.data (leBytes n m) false, (s.write a (s.maxed a (leBytes n w) false)).lineWritten line)
  | .copyWrite bs bad =>
    let s := s.engineWrite a (s.maxed a bs false)
    (.done, if bad then (blocks 32 a bs.length).foldl State.poisonSector s else s)
  | .post .. | .amsg .. | .resolve _ | .fired _ => (.done, s)

def fabricWrites : FabricOp → Bool
  | .store _ | .storeCap _ _ | .atomic _ _ _ _ | .copyWrite _ _ | .queueEnd _ => true
  | _ => false

/-- The window of numbers executed for a source (R397). -/
def Window.executed (w : Window) (n : Nat) : Window :=
  let high := max w.high n
  { high, done := sInsert (w.done.filter fun m => decide (high < m + 4096)) n, replies := w.replies.filter fun r => decide (high < r.1 + 4096) }

def State.reply (s : State) (q : FabricReq) (a : FabricAnswer) : State :=
  { s with sent := s.sent ++ [Outbound.fabricReply q.src q.num a (s.cseqOf fabricDie)] }

/-- A message of another package has come to this one (R285, R335). -/
def State.receive (s : State) (m : Msg) : State := { s with msgs := s.msgs.set s.msgs.fresh m }

/-- What a give of another package finds of a name whose home core is here: EXITED, or FOREIGN, for no group of this package sits
in the giver's cluster (R106, R335). -/
def State.farGive (s : State) (name : Dword) : Nat :=
  match (s.lookupName name).bind fun e => s.groups.get? e.1 with
  | some g => if g.ended then 2 else 3
  | none => 2

/-- A watch of a thread on a line of another package has fired there; one whose LARM has still to take its answer is noted (R299). -/
def State.fireFar (s : State) (pkg : Nat) (w : Who) : State :=
  let s := { s with reqs := s.reqs.map fun (r : Nat × Req) =>
    (r.1, if r.2.who == w && r.2.kind == ReqKind.watch w && r.2.remote == some pkg then { r.2 with tag := true } else r.2) }
  s.modGroup w fun g => match g.watch with
    | some v => if v.pkg = pkg then { g with watch := some { v with fired := true } }.endLwait s.now 0 else g
    | none => g

/-- A request that may be executed is performed and answered; a numbered one that took effect is entered in the window. -/
def State.execRemote (s : State) (q : FabricReq) : State :=
  match q.op with
  | .translate =>
    let (a, s) := s.giveTranslation q.src q.asn.toNat q.obj (q.off / 65536)
    s.reply q a
  | .post d n u vals scope name => s.receive (.post (.far q.src (s.cseqOf fabricDie)) name ⟨d, n, u, vals, scope⟩)
  | .amsg hn ws bits tag name target => s.receive (.amsg (.far q.src (s.cseqOf fabricDie)) target hn ws ⟨bits, tag⟩ name)
  | .resolve name => s.reply q (.status (s.farGive name))
  | .fired w => s.fireFar q.src w
  | op =>
    match s.remotePlace q with
    | (.error a, s) => s.reply q a
    | (.ok p, s) =>
      let home := sliceDie (s.homeSlice p)
      let (a, s) := (s.cross fabricDie home).remotePerform q.src op p
      let s := s.cross home fabricDie
      let s := match q.num with
        | none => s
        | some n =>
          let w := (s.windows.getD q.src ⟨0, [], []⟩).executed n
          { s with windows := s.windows.set q.src { w with replies := w.replies.set n a } }
      s.reply q a

/-- The bytes that a request reaches from its offset on. -/
def fabricBytes : FabricOp → Nat
  | .load n | .loadTags n | .atomic _ n _ _ => n
  | .loadCap => 16
  | .queueBegin => 128
  | .queueEnd _ => 24
  | .watch _ => 4
  | .store bs | .storeCap bs _ | .copyWrite bs _ => bs.length
  | .translate | .post .. | .amsg .. | .resolve _ | .fired _ => 0

/-- A copy's poisoned bytes, which reads in flight at their place go before (R243, log 28). -/
def fabricPoisons : FabricOp → Bool
  | .copyWrite _ bad => bad
  | _ => false

/-- A message for a group or a core of this package, which asks nothing of memory (R285, R335). -/
def fabricMsg : FabricOp → Bool
  | .post .. | .amsg .. | .resolve _ | .fired _ => true
  | _ => false

/-- The end of a step on an edge queue, which the step's own hold does not hold back. -/
def fabricEnds : FabricOp → Bool
  | .queueEnd _ => true
  | _ => false

/-- Whether a request can be taken up at its slices now: its lines can be had, and so can its translation (R238, R256, R265,
R316); or the state that waits for them. -/
def State.remoteReady (s : State) (q : FabricReq) : Bool × State :=
  if fabricMsg q.op then ((match q.op with | .resolve name => !s.unrouted (.far q.src 0) name none | _ => true), s) else
  let k : PageKey := ⟨s.regs.pkg, q.asn.toNat, q.obj, q.off / 65536⟩
  let given := if q.op == .translate then none else s.grantOf q.src k
  let place := match given with
    | some e => some (e.frame * 65536 + q.off % 65536)
    | none => s.peek k q.off
  if given.isNone && s.lookupHeld k then (false, (s.lookup k.asn k.obj k.page).2)
  else match place with
    | some p =>
      let hs := s.qholds
      let (ready, s) := (if fabricEnds q.op then s.endHold q.src (p / 128) else s).engineReady p (fabricBytes q.op) (fabricWrites q.op) none
      let s := { s with qholds := hs }
      (ready && !(fabricPoisons q.op && s.reading (blocks 32 p (fabricBytes q.op))), s)
    | none => (true, s)

/-- Requests of one package to one line are performed in the order they came (R393). -/
def sameLine (a b : FabricReq) : Bool := a.src == b.src && a.asn == b.asn && a.obj == b.obj && a.off / 128 == b.off / 128

/-- A request of another package at its home slice: a numbered one is executed once; one executed before gets its cached
reply, and one below the window REPLAY_LOST (R397). It may have to wait: then nothing of it has happened. -/
def State.remoteTry (s : State) (req : FabricReq) : Bool × State :=
  let w := s.windows.getD req.src ⟨0, [], []⟩
  if req.num.any fun n => decide (n + 4096 ≤ w.high) then (true, s.reply req .replayLost)
  else if req.num.any fun n => w.done.contains n then (true, s.reply req ((req.num.bind w.replies.get?).getD .done))
  else match s.remoteReady req with
    | (true, s) => (true, s.execRemote req)
    | (false, s) => (false, s)

/-- It arrives: behind earlier ones of its package to the line. -/
def State.remoteArrive (s : State) (req : FabricReq) : State :=
  let queue := fun (s : State) => { s with inbound := s.inbound ++ [req] }
  if !fabricEnds req.op && s.inbound.any (sameLine req) then queue s
  else match s.remoteTry req with
    | (true, s) => s
    | (false, s) => queue s

/-- One that waits is taken up again. -/
def State.remoteAgain (s : State) (req : FabricReq) : State :=
  match s.inbound.find? fun q => if fabricEnds req.op then q == req else sameLine req q with
  | some q => if q != req then s else
    match s.remoteTry req with
    | (true, t) => { t with inbound := t.inbound.erase req }
    | (false, t) => t
  | none => s

def execRemoteRequest (req : FabricReq) (s : State) : Result :=
  .next (s.unlessDown fun s => (s.heard (fabricDie + 2) fabricDie req.cseq).remoteArrive req)

/-! ### Replies (R394, R398) -/

/-- The lanes parked on a page of another package wake (R394). -/
def State.wakeFar (s : State) (r : Req) : State := s.wake r.who r.key

/-- A page that is not resident only delays a request that no lane waits for: it is sent again after RTO, as if for the first time
(R110, R397). -/
def State.sendLater (s : State) (n : Nat) (r : Req) : State :=
  { s with reqs := s.reqs.set n { r with sends := 0, sentAt := s.now } }

/-- A numbered request's answer that no instruction takes: done, or a failure for the next release (R398). -/
def State.storeReply (s : State) (n : Nat) (r : Req) (a : FabricAnswer) : State :=
  if isAbsent a then s.sendLater n r
  else if a = .extentError then s   -- not executed: it is sent again
  else
    let s := ((s.dropReq n).lateFailure r a).trailEnds r (some a)
    r.fence.elim s fun scope => s.acquire r.who scope

/-- A copy's piece has been written in another package, or the copy fails (R114, R398). -/
def State.copyReply (s : State) (n : Nat) (r : Req) (core slot dst first len : Nat) (a : FabricAnswer) : State :=
  if isAbsent a then s.sendLater n r
  else if a = .done then ((s.dropReq n).wrote core slot dst first len).settleCopy core slot
  else ((s.dropReq n).stopCopy core slot .failed).settleCopy core slot

/-- A translation that the package asked for has come: it enters the remote translation cache, where a full one gives an entry up
(R394). DESIGN CHOICE: the caches of the two port dies stand as one of 2 × 16,384 entries, for the spec does not say which die
serves which package (log 103). -/
def State.takeTranslation (s : State) (r : Req) : State :=
  if s.remotes.any fun e => e.key == r.key then s else
  let (k, s) := if s.remotes.length < 2 * 16384 then (0, s) else s.pick
  let keep := if s.remotes.length < 2 * 16384 then s.remotes else s.remotes.eraseIdx (k % s.remotes.length)
  { s with remotes := keep ++ [(⟨r.key, 0, 0, 0⟩ : Extent)] }

/-- Translations given to a package that it has given back (R395). -/
def State.takeBack (s : State) (mode : Nat) (r : Req) : State :=
  if 3 ≤ mode then s else
  { s with granted := s.granted.filter fun g => !(g.1 == r.key.pkg && covers mode r.key.asn r.key.obj r.key.page g.2.key) }

/-- The status of a POST or AMSG that another package has answered; where the fabric has lost it, UNREACHABLE of an AMSG, and of a
POST, which has no such status, EXITED (log 43). -/
def farStatus (op : FabricOp) (a : FabricAnswer) : Nat :=
  match a, op with
  | .status c, _ => c
  | _, .amsg .. => 3
  | _, _ => 2

/-- An answer reaches the request that waits for it. -/
def State.answer (s : State) (n : Nat) (r : Req) (a : FabricAnswer) : State :=
  let took := { s with reqs := s.reqs.set n { r with answer := some a, done := true } }
  match r.kind with
  | .store _ | .storeCap _ _ | .atomic _ _ _ _ false => s.storeReply n r a
  | .load _ _ | .loadCap _ | .loadTags _ | .queueBegin | .slot _ | .watch _ | .handler _ | .atomic _ _ _ _ true => took
  | .queueEnd _ => if r.pc = noPc then (if isAbsent a then s.sendLater n r else s.dropReq n) else took
  | .translate => if a = .done then (s.dropReq n).takeTranslation r else took
  | .copyWrite core slot dst first bs _ => s.copyReply n r core slot dst first bs.length a
  | .copyRead _ _ _ _ => took
  | .parked => (s.dropReq n).wakeFar r
  | .portRead _ _ | .give _ => took
  | .message sreg op => (s.dropReq n).sendStatus fabricDie (.here r.who sreg 0) (farStatus op a)
  | .invalidate mode => if a = .done then took.takeBack mode r else s

/-- REMOTE_REPLY: an outstanding request is answered once. -/
def execRemoteReply (req : Nat) (reply : Reply) (s : State) : Result :=
  .next (s.unlessDown fun s => match s.reqs.get? req with
    | some r =>
      if r.remote.isSome && r.answer.isNone then
        ((s.heard (fabricDie + 2) fabricDie reply.cseq).cross fabricDie (s.dieOf r.who)).answer req r reply.answer
      else s
    | none => s)

/-- Whether a request has waited out its reply timeout (R397). -/
def State.resendDue (s : State) (r : Req) : Bool :=
  r.remote.isSome && r.answer.isNone && (match r.kind with | .parked | .invalidate _ | .message _ _ => false | _ => true) &&
  decide (r.sentAt + usec s.regs.rto ≤ s.now)

/-- FABRIC_RESEND: it is sent again, or after RETRY sends given up: UNREACHABLE, and the fabric's vector (R397, R398, R403). -/
def execFabricResend (req : Nat) (s : State) : Result :=
  .next (match s.reqs.get? req with
    | none => s
    | some r =>
      if !s.resendDue r then s
      else if r.sends < max 1 s.regs.retry then
        { (s.count 13 1) with
          reqs := s.reqs.set req { r with sends := r.sends + 1, sentAt := s.now }
          sent := s.sent ++ [Outbound.fabricRequest r.key.pkg r.num r.key.asn r.key.obj r.addr r.kind.op (s.cseqOf fabricDie)] }
      else (s.answer req r .unreachable).raise 0x081)

/-- LINK_FLIT_RESEND: the flit goes over its link again; nothing else of the package changes (R392). -/
def execLinkFlitResend (_link : Nat) (s : State) : Result := .next s

/-! ### PCIe (R400-R403) -/

def State.complete (s : State) (q : PcieReq) (status : Nat) (bs : List Byte) : State :=
  { s with sent := s.sent ++ [Outbound.pcieCompletion q.port q.rid status bs] }

/-- The entry of a requester (R401). -/
def State.requester (s : State) (port : Nat) (rid : BitVec 16) : Option Nat :=
  (s.rtable.get? (65536 * port + rid.toNat)).map (·.toNat)

/-- An inbound request is over: a read's completion, or the word of a request that is not performed. -/
def State.pcieEnd (s : State) (n : Nat) (h : HeldPcie) (status : Nat) (bs : List Byte) : State :=
  let s := { s with held := s.held.erase n }
  if h.req.data.isSome && status == 0 then s else s.complete h.req status bs

/-- The held requests of a requester are taken in their order: performed (0), or a completer abort (2). One whose page is absent is
kept for up to 500 µs, and one whose lines are held waits (R256, R257, R400). Ring words do not change
(R387). -/
def State.pcieRun (s : State) (n : Nat) (h : HeldPcie) : State :=
  let q := h.req
  let obj := q.addr.toNat / 2 ^ 42 % 2 ^ 20
  let off := q.addr.toNat % 2 ^ 42
  let len := (q.data.map (·.length)).getD q.size
  if q.addr.toNat / 2 ^ 62 ≠ 0 ∨ s.revBit h.asn obj then s.pcieEnd n h 2 [] else
  match s.findObject h.asn obj off len with
  | (.error, s) => s.pcieEnd n h 2 []
  | (.held, s) => s
  | (.absent, s) => { s with held := s.held.set n { h with since := some (h.since.getD s.now) } }
  | (.places l, s) => s.engineRange h.asn obj off len l q.data.isSome fun s =>
    match q.data with
    | none =>
      let r := s.readPlaces l (some fabricDie)
      r.2.pcieEnd n h 0 r.1
    | some d => (s.writePlaces l d (some fabricDie)).pcieEnd n h 0 []

/-- The first held request of a requester. -/
def State.firstHeld (s : State) (port : Nat) (rid : BitVec 16) : Option (Nat × HeldPcie) :=
  s.held.find? fun e => e.2.req.port == port && e.2.req.rid == rid

/-- PCIE_INBOUND: a request of a requester with no entry is unsupported; the others keep their requester's order. -/
def execPcieInbound (req : PcieReq) (s : State) : Result :=
  .next (s.unlessDown fun s => match s.requester req.port req.rid with
    | none => s.complete req 1 []
    | some asn =>
      let n := s.held.fresh
      let h : HeldPcie := ⟨req, asn, none⟩
      let t := { s with held := s.held.set n h }
      if (s.firstHeld req.port req.rid).isNone then t.pcieRun n h else t)

/-- PCIE_HOLD_TIMEOUT: a page absent for 500 µs ends in a completer abort. -/
def execPcieHoldTimeout (req : Nat) (s : State) : Result :=
  .next (match s.held.get? req with
    | some h =>
      if h.since.any fun t => decide (t + usec 500 ≤ s.now) then { s with held := s.held.erase req }.complete h.req 2 [] else s
    | none => s)

/-- MSIX_MESSAGE (R403). -/
def execMsixMessage (data : Word) (s : State) : Result :=
  .next (s.unlessDown fun s => s.raise (min (0x100 + data.toNat % 2048) 0x7FF))

/-- A write of 0xC88: the entry of port PORT for RID (R401). -/
def State.writeRequester (s : State) (v : Word) : State :=
  let k := 65536 * s.regs.rqPort + s.regs.rqRid.toNat
  if !v.getLsbD 31 then { s with rtable := s.rtable.erase k }
  else if (s.rtable.get? k).isNone && decide (256 ≤ (s.rtable.filter fun e => e.1 / 65536 == s.regs.rqPort).length) then s
  else { s with rtable := s.rtable.set k (v.setWidth 16) }

def execRequesterEntryWrite (v : Word) (s : State) : Result := .next (s.writeRequester v)

/-- A write of PXCMD with an operation other than 0, while BUSY is 0 (R402). -/
def State.pcieOut (s : State) (port op : Nat) : State :=
  if s.regs.pxBusy.isSome ∨ op = 0 then s
  else { s with regs := { s.regs with pxBusy := some (port, op) }
                sent := s.sent ++ [Outbound.pcieOutbound port op s.regs.pxAddr (if op = 2 then s.regs.pxData else 0)] }

def execPcieMemRead (port : Nat) (s : State) : Result := .next (s.pcieOut port 1)
def execPcieMemWrite (port : Nat) (s : State) : Result := .next (s.pcieOut port 2)
def execPcieCfgRead (port : Nat) (s : State) : Result := .next (s.pcieOut port 3)

/-- PCIE_OUTBOUND_COMPLETE: RES, the data of a read, and BUSY. -/
def execPcieOutboundComplete (res : BitVec 3) (data : Word) (s : State) : Result :=
  .next (s.unlessDown fun s => match s.regs.pxBusy with
    | none => s
    | some (_, op) => { s with regs := { s.regs with
        pxBusy := none, pxRes := res.toNat, pxData := if op ≠ 2 ∧ res = 0 then data else s.regs.pxData } })

/-- PCIE_CFG_WRITE: a configuration write of management goes to the function (R402). -/
def execPcieCfgWrite (port : Nat) (addr : Dword) (data : Word) (s : State) : Result :=
  .next { s with sent := s.sent ++ [Outbound.pcieOutbound port 4 addr data] }

end Sys2Proof.Machine
end

