-- ==== Sys2Proof/Machine/Trust.lean ====
section
/-! DEFINITION. The trust core: the mailbox and its commands (R370-R377, R417-R420), lifecycle moves (R417) and the SPDM
responder (R421). -/

namespace Sys2Proof.Machine

open Sys2Proof

/-! ### The mailbox (R371) -/

/-- The result codes of R370 and R419. -/
inductive TmRes where
  | done | badOp | memory | state | tenant | nonce | badToken | badSlot | session
deriving DecidableEq, Repr

def TmRes.num : TmRes → Nat
  | .done => 0 | .badOp => 1 | .memory => 2 | .state => 3 | .tenant => 4 | .nonce => 5 | .badToken => 6 | .badSlot => 7 | .session => 8

/-- A command finishes: RES is written, BUSY cleared and vector 0x083 raised (R371, R419). -/
def State.tmEnd (s : State) (r : TmRes) : State :=
  ({ s with trust := { s.trust with busy := none, res := r.num } }).raise 0x083

/-- A write of TMCMD: TMBASE is latched and the command starts, or a code that names none finishes at once with BADOP. -/
def State.tmStart (s : State) (v : Word) : State :=
  let op := v.toNat % 256
  if s.trust.busy.isSome then s
  else if op = 0 ∨ 7 < op then s.tmEnd .badOp
  else { s with trust := { s.trust with busy := some op, block := s.trust.tmbase } }

/-- Whether a block range lies in memory and reads without poison (R371). -/
def State.blockOk (s : State) (n : Nat) : Bool :=
  ((blocks 128 s.trust.block n).all fun l => s.hasMem (128 * l)) && !s.poisoned s.trust.block n

/-- A field of the block. -/
def State.blockNum (s : State) (off n : Nat) : Nat := s.num (s.trust.block + off) n
def State.blockBytes (s : State) (off n : Nat) : List Byte := s.bytes (s.trust.block + off) n
/-- A strong write of the trust core into the block. -/
def State.blockWrite (s : State) (off : Nat) (bs : List Byte) : State := s.engineWrite (s.trust.block + off) bs

/-- A command runs when it is the one in progress, over a block of n bytes, which it reads and may write as the strong accesses
of R371: it waits until its home slices let it have the block. -/
def State.tmRun (s : State) (op n : Nat) (f : State → State) : State :=
  if s.trust.busy ≠ some op then s
  else if !s.blockOk n then s.tmEnd .memory
  else s.whenReady [(s.trust.block, n, true)] fun s => f (s.engineRead s.trust.block n)

def nonceBytes (k : Nat) : List Byte := leBytes 32 (Config.nonce k).toNat

/-- CHALLENGE (R372). -/
def execChallenge (s : State) : Result :=
  .next (s.tmRun 1 40 fun s =>
    let t := s.trust
    let s := { s with trust := { t with nonce := some t.draws, draws := t.draws + 1, chseq := t.chseq + 1 } }
    ((s.blockWrite 0 (nonceBytes t.draws)).blockWrite 0x20 (leBytes 8 (t.chseq + 1))).tmEnd .done)

/-- Whether the debug authority keys are those whose hashes are fused (R421). -/
def Trust.authorized (t : Trust) : Bool := sha384 t.authEC == t.authHashEC && sha384 t.authPQ == t.authHashPQ

/-- Every field of a token holds its required value and both signatures verify under the debug authority keys (R373). -/
def State.tokenOk (s : State) (bs : List Byte) (lc : Nat) (nonce : Nat) : Bool :=
  decide (bs.length = 4851) && leAt bs 0 4 == 0x7D910001 && leAt bs 4 1 == lc && leAt bs 5 1 == 1 && leAt bs 6 10 == 0 &&
  leAt bs 0x10 16 == s.trust.devid.toNat && (bs.drop 0x20).take 32 == nonceBytes nonce && leAt bs 0x40 64 == 0 &&
  s.trust.authorized && Config.ecdsaVerifies s.trust.authEC (bs.take 128) ((bs.drop 0x80).take 96) &&
  Config.mldsaVerifies s.trust.authPQ (bs.take 128) (bs.drop 0xE0)

/-- Whether any partition has a team resident, saved or queued, or a context in shadow storage (R374). -/
def State.tenants (s : State) : Bool :=
  (s.teams.any fun t => t.2.part.isSome && t.2.phase != .retired) ||
  (s.grids.any fun g => g.2.part.isSome && !g.2.ended && decide (g.2.next < g.2.teams)) ||
  (s.shadows.any fun h => !h.2.empty)

/-- The event record of an unlock (R375). -/
def unlockRecord (header : List Byte) (wiped chseq : Nat) : List Byte :=
  sha384 header ++ leBytes 4 1 ++ leBytes 4 wiped ++ leBytes 8 chseq

/-- UNLOCK: the steps of R374 in order; the first that fails ends the command. -/
def execUnlock (s : State) : Result :=
  .next (s.tmRun 2 0x1308 fun s =>
    let t := s.trust
    if t.lifecycle ≠ 1 ∧ t.lifecycle ≠ 2 then s.tmEnd .state
    else if !t.memKeys.isEmpty && s.tenants then s.tmEnd .tenant
    else match t.nonce with
      | none => s.tmEnd .nonce
      | some n =>
        let s := { s with trust := { t with nonce := none } }
        let bs := s.blockBytes 0 4851
        if !s.tokenOk bs t.lifecycle n then s.tmEnd .badToken
        else
          let wiped := t.memKeys.length + t.portKeys.length
          let s := { s with trust := { s.trust with memKeys := [], portKeys := [], kw := true } }
          let s := s.blockWrite 0x1300 (leBytes 4 wiped)
          let s := s.extendMr 7 (unlockRecord (bs.take 128) wiped t.chseq)
          { s with trust := { s.trust with dbg := true } }.tmEnd .done)

/-- The report of R377. -/
def Trust.report (t : Trust) : List Byte :=
  leBytes 1 t.lifecycle ++ leBytes 1 t.dbg.toNat ++ leBytes 1 t.kw.toNat ++ leBytes 13 0 ++ t.mrs.flatten

/-- ATTEST (R377). -/
def execAttest (s : State) : Result := .next (s.tmRun 3 0x190 fun s => (s.blockWrite 0 s.trust.report).tmEnd .done)

/-! ### Keys (R418, R419) -/

/-- The record of a key event. -/
def keyRecord (op slot base limit : Nat) : List Byte :=
  leBytes 48 0 ++ leBytes 4 op ++ leBytes 4 slot ++ leBytes 4 base ++ leBytes 4 limit

/-- Whether a range in GiB lies wholly in installed memory. -/
def State.rangeOk (s : State) (base limit : Nat) : Bool :=
  decide (limit ≤ 1536) || (decide (2048 ≤ base) && decide (limit ≤ 2048 + s.lpddr))

/-- Whether key installation is barred: DBG = 1, or a state other than SECURED. -/
def Trust.sealed (t : Trust) : Bool := t.dbg || t.lifecycle != 1

/-- The key that the block holds wrapped, when it opens under the data key of a session that is set up. -/
def State.wrappedKey (s : State) : Option (BitVec 256) :=
  match s.trust.sessions.get? (s.blockNum 4 4) with
  | some (k, true) => Config.unwrapKey k (s.blockBytes 0x10 12) (s.blockBytes 0x2C 32) (s.blockBytes 0x1C 16)
  | _ => none

/-- KEYMEM: STATE, then BADSLOT, then SESSION, then the key and its range. -/
def execKeymem (s : State) : Result :=
  .next (s.tmRun 4 0x4C fun s =>
    let t := s.trust
    let id := s.blockNum 0 4
    let base := s.blockNum 8 4
    let limit := s.blockNum 0xC 4
    if t.sealed then s.tmEnd .state
    else if id = 0 ∨ 63 < id ∨ (t.memKeys.get? id).isSome ∨ limit ≤ base ∨ !s.rangeOk base limit ∨
        (t.memKeys.any fun r => decide (base < r.2.limit) && decide (r.2.base < limit)) then s.tmEnd .badSlot
    else match s.wrappedKey with
      | none => s.tmEnd .session
      | some key =>
        let s := { s with trust := { t with memKeys := t.memKeys.set id ⟨base, limit, key⟩ } }
        (s.extendMr 3 (keyRecord 4 id base limit)).tmEnd .done)

/-- KEYPORT: a stream-port key. -/
def execKeyport (s : State) : Result :=
  .next (s.tmRun 5 0x4C fun s =>
    let t := s.trust
    let slot := s.blockNum 0 4
    if t.sealed then s.tmEnd .state
    else if 8191 < slot ∨ (t.portKeys.get? slot).isSome then s.tmEnd .badSlot
    else match s.wrappedKey with
      | none => s.tmEnd .session
      | some key =>
        let s := { s with trust := { t with portKeys := t.portKeys.set slot key } }
        (s.extendMr 3 (keyRecord 5 slot 0 0)).tmEnd .done)

/-- KEYZERO: a memory key, whose range becomes free, or a port key (R376). -/
def execKeyzero (s : State) : Result :=
  .next (s.tmRun 6 8 fun s =>
    let t := s.trust
    let kind := s.blockNum 0 4
    let id := s.blockNum 4 4
    if kind = 0 ∧ 1 ≤ id ∧ id ≤ 63 then
      let r := t.memKeys.get? id
      let s := { s with trust := { t with memKeys := t.memKeys.erase id } }
      (s.extendMr 3 (keyRecord 6 id (r.elim 0 (·.base)) (r.elim 0 (·.limit)))).tmEnd .done
    else if kind = 1 ∧ id ≤ 8191 then
      let s := { s with trust := { t with portKeys := t.portKeys.erase id } }
      (s.extendMr 3 (keyRecord 6 id 0 0)).tmEnd .done
    else s.tmEnd .badSlot)

/-- MEASURE: MR5 or MR6 is extended by the record in the block. -/
def execMeasure (s : State) : Result :=
  .next (s.tmRun 7 0x44 fun s =>
    let k := s.blockNum 0 4
    if k ≠ 5 ∧ k ≠ 6 then s.tmEnd .badSlot else (s.extendMr k (s.blockBytes 4 64)).tmEnd .done)

/-! ### Lifecycle (R417) -/

/-- The moves that the lifecycle makes: forward only. -/
def lifecycleStep (from_ to_ : Nat) : Bool :=
  (from_ == 0 && to_ == 1) || (from_ == 1 && to_ == 2) || (to_ == 3 && from_ != 3)

/-- LIFECYCLE_MOVE: with a token of the form of R373 whose LC names the target, which the live nonce of R372 is in; the nonce
lives on. SCRAPPED holds every die in reset. -/
def execLifecycleMove (target : BitVec 2) (token : List Byte) (s : State) : Result :=
  .next (
    let t := s.trust
    match if s.down then none else t.nonce with
    | none => s
    | some n =>
      if !lifecycleStep t.lifecycle target.toNat then s else
      if !s.tokenOk token target.toNat n then s
      else
        let s := { s with trust := { s.trust with lifecycle := target.toNat } }
        if target.toNat = 3 then { s with boot := .scrapped, agenda := [], health := { s.health with halted := true } } else s)

/-! ### SPDM (R421) -/

/-- A response of the responder: its code is the place of the request in R421's list. -/
def State.spdm (s : State) (code : Nat) (body : List Byte) : State :=
  { s with trust := { s.trust with spdmSeq := s.trust.spdmSeq + 1 }, sent := s.sent ++ [Outbound.spdm code body] }

/-- Whether a request is answered: in SCRAPPED only GET_VERSION is, by the boot ROM (R417), and none by a trust core that the
critical temperature has halted with its die (R425). -/
def State.spdmOpen (s : State) (code : Nat) : Bool := if s.trust.lifecycle = 3 then code == 1 else !s.down

/-- A request whose response the standard gives. -/
def State.spdmPlain (s : State) (code : Nat) : State :=
  if !s.spdmOpen code then s else s.spdm code (Config.spdmBody code s.trust.spdmSeq)

def execGetVersion (s : State) : Result := .next (s.spdmPlain 1)
def execGetCapabilities (s : State) : Result := .next (s.spdmPlain 2)
def execNegotiateAlgorithms (s : State) : Result := .next (s.spdmPlain 3)
def execGetDigests (s : State) : Result := .next (s.spdmPlain 4)
def execGetCertificate (s : State) : Result := .next (s.spdmPlain 5)
def execSpdmChallenge (s : State) : Result := .next (s.spdmPlain 6)

/-- The word 0xC90 (R422). -/
def Health.word (h : Health) : Nat :=
  h.replace.toNat * 2 ^ 31 + h.therm.toNat * 2 ^ 30 + h.cores % 256 * 2 ^ 20 + h.slices % 256 * 2 ^ 12 + h.channels % 64 * 2 ^ 6 +
  h.links % 64

/-- A measurement block: MR0 to MR7 as raw bit streams, then the health word followed by its counters. -/
def State.measurement (s : State) (block : Nat) : List Byte :=
  if 1 ≤ block ∧ block ≤ 8 then s.trust.mrs.getD (block - 1) []
  else if block = 9 then leBytes 4 s.health.word ++ leBytes 4 s.health.ce ++ leBytes 4 s.health.ue
  else []

def execGetMeasurements (block : Nat) (s : State) : Result :=
  .next (if !s.spdmOpen 7 then s else s.spdm 7 (s.measurement block))

/-- KEY_EXCHANGE: a session opens, of at most 16; its number is the lowest free one. -/
def execKeyExchange (s : State) : Result :=
  .next (
    if !s.spdmOpen 8 then s
    else match (List.range 16).find? fun k => (s.trust.sessions.get? k).isNone with
      | none => s.spdmPlain 8
      | some k => { s with trust := { s.trust with sessions := s.trust.sessions.set k (s.trust.exchanges, false), exchanges := s.trust.exchanges + 1 } }.spdmPlain 8)

/-- FINISH: the set-up of a session is complete. -/
def execFinish (session : Nat) (s : State) : Result :=
  .next (
    if !s.spdmOpen 9 then s
    else match s.trust.sessions.get? session with
      | none => s.spdmPlain 9
      | some (k, _) => { s with trust := { s.trust with sessions := s.trust.sessions.set session (k, true) } }.spdmPlain 9)

/-- END_SESSION: the session closes. -/
def execEndSession (session : Nat) (s : State) : Result :=
  .next (
    if !s.spdmOpen 10 then s
    else { s with trust := { s.trust with sessions := s.trust.sessions.erase session } }.spdmPlain 10)

end Sys2Proof.Machine
end

