-- ==== Sys2Proof/Machine/Csr.lean ====
section
/-! DEFINITION. CSRR and CSRW (R298) with the map of every control and status register: R31's ranges and privileges, the
registers of a group (R78, R132, R148, R172, R320, R331, R353, R408), of a team and core (R103, R115, R190, R334), of a
partition (R232, R341, R346, R357, R358, R407, R410, R415), and of a control core and the package (R237, R295, R330, R331,
R366, R367, R370, R389, R392, R401-R403, R414, R422). -/

namespace Sys2Proof.Machine

open Sys2Proof

/-! ### Fields -/

/-- A 42-bit base from its low word, whose low k bits read 0. -/
def setLow (base k : Nat) (v : Word) : Nat := base / 2 ^ 32 * 2 ^ 32 + v.toNat / 2 ^ k * 2 ^ k
/-- A 42-bit base from its high bits [41:32]. -/
def setHigh (base : Nat) (v : Word) : Nat := base % 2 ^ 32 + v.toNat % 1024 * 2 ^ 32
def lowWord (n : Nat) : Word := BitVec.ofNat 32 n
def highWord (n : Nat) : Word := BitVec.ofNat 32 (n / 2 ^ 32)

def setLowD (d : Dword) (v : Word) : Dword := d.extractLsb' 32 32 ++ v
def setHighD (d : Dword) (v : Word) : Dword := v ++ d.extractLsb' 0 32

/-! ### A group's registers, 0x000-0x3FF -/

/-- The value of a group's register; none where no register has the number. On a control core those held per group read 0. -/
def groupCsr (s : State) (w : Who) (g : Group) (n : Nat) : Option Word :=
  let solo := isSolo w
  let z := fun v : Word => some (if solo then 0 else v)
  if n = 0x010 then z (BitVec.ofNat 32 g.gstat.toNat)
  else if n = 0x011 then z (BitVec.ofNat 32 (g.expired.toNat * 2 ^ 31 + g.period % 2 ^ 20))
  else if n = 0x012 then
    z (BitVec.ofNat 32 (g.role % 8 * 2 ^ 24 + ((s.teamOf g).any s.displaced).toNat * 2 ^ 23 + g.tcore % 8 * 2 ^ 16 + g.alloc % 2048))
  else if n = 0x013 then z g.launch
  else if n = 0x014 then some (BitVec.ofNat 32 (g.fpARM * 16 + g.fpRM))
  else if n = 0x015 then some (BitVec.ofNat 32 (g.txRetry * 2 ^ 16 + (if solo then 0 else g.txValp)))
  else if n = 0x016 then some (BitVec.ofNat 32 (s.asnOf w))
  else if n = 0x017 then some (BitVec.ofNat 32 (if s.isService w then g.svpart else 0))
  else if n = 0x018 then some (BitVec.ofNat 32 g.wb)
  else if n = 0x020 then z (BitVec.ofNat 32 (g.trap.inHandler.toNat * 2 ^ 31 + g.trap.deferred.toNat * 2 ^ 30 + g.trap.cause.toNat))
  else if n = 0x021 then z g.trap.mask
  else if n = 0x022 then z (g.trap.tpc.extractLsb' 0 32)
  else if n = 0x023 then z (g.trap.tpc.extractLsb' 32 32)
  else if n = 0x024 then z (g.trap.tfpc.extractLsb' 0 32)
  else if n = 0x025 then z (g.trap.tfpc.extractLsb' 32 32)
  else if n = 0x026 then z (g.trap.tval.extractLsb' 0 32)
  else if n = 0x027 then z (g.trap.tval.extractLsb' 32 32)
  else if n = 0x028 then z g.trap.tword
  else if n = 0x029 then z g.trap.tword2
  else if 0x030 ≤ n ∧ n ≤ 0x037 then z (g.stc.getD (n - 0x030) 0)
  else none

/-- The modes that FPCTL holds: 0, 6 and 7 store 1 (R172). -/
def fpMode (v : Nat) : Nat := if v = 0 ∨ 6 ≤ v then 1 else v

/-- A group with one of its registers written; none where it has no writable field. -/
def setGroupCsr (s : State) (w : Who) (g : Group) (n : Nat) (v : Word) : Option Group :=
  let solo := isSolo w
  let z := fun h : Group => some (if solo then g else h)
  if n = 0x011 then z (g.writeSteep v s.now)
  else if n = 0x014 then some { g with fpRM := fpMode (v.toNat % 8), fpARM := fpMode (v.toNat / 16 % 8) }
  else if n = 0x015 then some { g with txRetry := v.toNat / 2 ^ 16 % 256, txValp := if solo then g.txValp else v.toNat % 16 }
  else if n = 0x017 then some (if s.isService w then { g with svpart := v.toNat % 64 } else g)
  else if n = 0x022 then z { g with trap := { g.trap with tpc := setLowD g.trap.tpc (v &&& 0xFFFFFFFC#32) } }
  else if n = 0x023 then z { g with trap := { g.trap with tpc := setHighD g.trap.tpc v } }
  else if 0x030 ≤ n ∧ n ≤ 0x037 then z { g with stc := g.stc.set (n - 0x030) v }
  else none

/-! ### Registers of a team and core, 0x400-0x7FF -/

def coreCsr (s : State) (w : Who) (g : Group) (n : Nat) : Option Word :=
  let z := fun v : Word => some (if isSolo w then 0 else v)
  let c := s.core ((s.coreOf w).getD 0)
  if 0x420 ≤ n ∧ n ≤ 0x42F then z (s.mapWord g (n - 0x420))
  else if n = 0x430 then z (BitVec.ofNat 32 (c.cpErr.toNat * 2 ^ 31 + (c.copies.filter fun e => e.2.state == .running).length))
  else if n = 0x431 then z (lowWord c.cpDrop)
  else if n = 0x432 then z (highWord c.cpDrop)
  else if n = 0x434 then
    z (BitVec.ofNat 32 (c.matrix.claim.isSome.toNat * 2 ^ 31 + (c.matrix.claim == some g.team).toNat * 2 ^ 30 + c.matrix.queue.length % 64))
  else if n = 0x435 then
    let out := (c.names.filter fun e => e.2.withdrawn).length
    let used := (c.names.filter fun e => e.2.group.isSome && !e.2.withdrawn).length
    z (BitVec.ofNat 32 ((1024 - out - used) * 2 ^ 16 + out))
  else none

/-- Writes of these registers: SWZ of an entry that the team owns and that holds a hamper, and ERR (R103, R115). -/
def setCoreCsr (s : State) (w : Who) (g : Group) (n : Nat) (v : Word) : Option State :=
  if 0x420 ≤ n ∧ n ≤ 0x42F then
    some (match s.coreOf w, s.mapEntry g (n - 0x420) with
      | some c, some e => match e.hamper with
        | some h => s.setHamper (coreCluster c) h { s.hamper (coreCluster c) h with swz := v.toNat / 2 ^ 16 % 8 }
        | none => s
      | _, _ => s)
  else if n = 0x430 then
    some (match s.coreOf w with
      | some c => s.setCore c { s.core c with cpErr := (s.core c).cpErr && !v.getLsbD 31 }
      | none => s)
  else none

/-! ### Registers of a partition, 0x800-0xBFF -/

/-- The registers of a record ring from its first number: base, LOG2, head, tail, lost (R357, R410). -/
def ringCsr (r : RecRing) (k : Nat) : Option Word :=
  if k = 0 then some (lowWord r.base) else if k = 1 then some (highWord r.base)
  else if k = 2 then some (BitVec.ofNat 32 r.log2) else if k = 3 then some r.head
  else if k = 4 then some r.tail else if k = 5 then some r.lost else none

def setRingCsr (r : RecRing) (k low : Nat) (v : Word) : Option RecRing :=
  if k = 0 then some { r with base := setLow r.base low v } else if k = 1 then some { r with base := setHigh r.base v }
  else if k = 2 then some { r with log2 := v.toNat % 32 } else if k = 3 then some { r with head := v } else none

/-- Whether the shadow storage of a partition's clusters holds no context (R346). -/
def State.shadowEmpty (s : State) (p : Nat) : Bool := (s.shadows.get? p).all fun h => h.empty

def partCsr (s : State) (p n : Nat) : Option Word :=
  let q := s.part p
  if n = 0x810 then some (BitVec.ofNat 32 (q.pfDist * 16 + q.pfMode))
  else if n = 0x811 then some (BitVec.ofNat 32 (q.stallw * 2 ^ 16 + q.holdoff))
  else if n = 0x812 then some (BitVec.ofNat 32 q.deadline)
  else if n = 0x813 then some q.prqid
  else if n = 0x814 then some q.prqteam
  else if n = 0x815 then some (BitVec.ofNat 32 (q.preempt.isSome.toNat * 2 ^ 31 + q.prqRes % 8 * 2 ^ 28))
  else if n = 0x816 then some (BitVec.ofNat 32 (q.swap.isSome.toNat * 2 ^ 31 + (s.shadowEmpty p).toNat * 2 ^ 28))
  else if n = 0x817 then some (BitVec.ofNat 32 (q.gstall.toNat * 2 ^ 31))
  else if n = 0x818 then some q.gstallId
  else if 0x820 ≤ n ∧ n ≤ 0x825 then ringCsr q.tq (n - 0x820)
  else if n = 0x826 then some (lowWord q.fkd)
  else if n = 0x827 then some (highWord q.fkd)
  else if n = 0x828 then some (BitVec.ofNat 32 (q.fkEn.toNat * 2 ^ 31 + q.fkAsn.toNat))
  else if n = 0x829 then some q.fkLost
  else if n = 0x830 then some (lowWord q.amBase)
  else if n = 0x831 then some (highWord q.amBase)
  else if 0x840 ≤ n ∧ n ≤ 0x845 then ringCsr q.oq (n - 0x840)
  else if n = 0x846 then some (BitVec.ofNat 32 (q.oqRetire.toNat * 2 ^ 31 + q.oqTrail.toNat * 2 ^ 30 + q.oqRate % 32))
  else if n = 0x850 then some q.watchCfg
  else if n = 0x851 then some (lowWord q.watchOff)
  else if n = 0x852 then some (highWord q.watchOff)
  else if n = 0x853 then some q.watchLen
  else none

/-- A write of PRQCMD (R341). -/
def State.writePrq (s : State) (p : Nat) (v : Word) : State :=
  match v.toNat % 8 with
  | 1 => s.preemptTeam p
  | 2 => s.preemptGrid p
  | 3 => s.holdGrid p true
  | 4 => s.holdGrid p false
  | _ => s

def setPartCsr (s : State) (p n : Nat) (v : Word) : Option State :=
  let q := s.part p
  let put := fun r : Part => some (s.setPart p r)
  if n = 0x810 then
    put { q with pfDist := max 1 (v.toNat / 16 % 16), pfMode := if v.toNat % 4 = 3 then 0 else v.toNat % 4 }
  else if n = 0x811 then put { q with stallw := v.toNat / 2 ^ 16, holdoff := v.toNat % 2 ^ 16 }
  else if n = 0x812 then put { q with deadline := max 1 (v.toNat % 2 ^ 16) }
  else if n = 0x813 then put { q with prqid := v }
  else if n = 0x814 then put { q with prqteam := v }
  else if n = 0x815 then some (s.writePrq p v)
  else if n = 0x816 then some (if v.getLsbD 0 then s.startSwap p else s)
  else if n = 0x817 then put { q with gstall := q.gstall && !v.getLsbD 31 }
  else if 0x820 ≤ n ∧ n ≤ 0x825 then (setRingCsr q.tq (n - 0x820) 6 v).map fun r => s.setPart p { q with tq := r }
  else if n = 0x826 then put { q with fkd := setLow q.fkd 8 v }
  else if n = 0x827 then put { q with fkd := setHigh q.fkd v }
  else if n = 0x828 then put { q with fkEn := v.getLsbD 31, fkAsn := v.setWidth 16 }
  else if n = 0x830 then put { q with amBase := setLow q.amBase 13 v }
  else if n = 0x831 then put { q with amBase := setHigh q.amBase v }
  else if 0x840 ≤ n ∧ n ≤ 0x845 then (setRingCsr q.oq (n - 0x840) 7 v).map fun r => s.setPart p { q with oq := r }
  else if n = 0x846 then put { q with oqRetire := v.getLsbD 31, oqTrail := v.getLsbD 30, oqRate := max 6 (v.toNat % 32) }
  else if n = 0x850 then put { q with watchCfg := v &&& 0xF00FFFFF#32 }
  else if n = 0x851 then put { q with watchOff := setLow q.watchOff 0 v }
  else if n = 0x852 then put { q with watchOff := setHigh q.watchOff v }
  else if n = 0x853 then put { q with watchLen := v }
  else none

/-! ### Registers of a control core and the package, 0xC00-0xFFF -/

/-- Clusters of a partition as PCLw shows them (R330). -/
def Part.clusterWord (p : Part) (w : Nat) : Word := (p.clusters.extractLsb' (32 * w) 32)

/-- The registers of a control core: exception state and PCTX (R295, R331). -/
def ctlCsr (k : Ctl) (n : Nat) : Option Word :=
  if n = 0xC00 then some (BitVec.ofNat 32 (k.ecause.toNat * 2 ^ 16 + k.pie.toNat * 4 + k.pprv.toNat * 2 + k.ie.toNat))
  else if n = 0xC01 then some (k.epc.extractLsb' 0 32)
  else if n = 0xC02 then some (k.epc.extractLsb' 32 32)
  else if n = 0xC03 then some (k.evec.extractLsb' 0 32)
  else if n = 0xC04 then some (k.evec.extractLsb' 32 32)
  else if n = 0xC05 then some k.eval
  else if n = 0xC10 then some (BitVec.ofNat 32 (k.pasn.toNat * 2 ^ 16 + k.ppart % 64))
  else none

def setCtlCsr (k : Ctl) (n : Nat) (v : Word) : Option Ctl :=
  if n = 0xC00 then some { k with ecause := v.extractLsb' 16 8, pie := v.getLsbD 2, pprv := v.getLsbD 1, ie := v.getLsbD 0 }
  else if n = 0xC01 then some { k with epc := setLowD k.epc v }
  else if n = 0xC02 then some { k with epc := setHighD k.epc v }
  else if n = 0xC03 then some { k with evec := setLowD k.evec (v &&& 0xFFFFFFFC#32) }
  else if n = 0xC04 then some { k with evec := setHighD k.evec v }
  else if n = 0xC05 then some { k with eval := v }
  else if n = 0xC10 then some { k with pasn := v.extractLsb' 16 16, ppart := v.toNat % 64 }
  else none

/-- A read of a package register; reading IVCLAIM claims (R403). -/
def packageCsr (s : State) (n : Nat) : Option Word :=
  let r := s.regs
  let q := s.part r.psel
  if n = 0xC11 then some (BitVec.ofNat 32 r.psel)
  else if 0xC12 ≤ n ∧ n ≤ 0xC16 then some (q.clusterWord (n - 0xC12))
  else if n = 0xC17 then some (BitVec.ofNat 32 q.enabled.toNat)
  else if n = 0xC40 then some (BitVec.ofNat 32 (s.change.isSome.toNat * 2 ^ 16 + s.smGen.toNat))
  else if n = 0xC48 then some (lowWord r.nqBase)
  else if n = 0xC49 then some (highWord r.nqBase)
  else if n = 0xC4A then some (BitVec.ofNat 32 r.nqLog2)
  else if n = 0xC4B then some r.nqHead
  else if n = 0xC4C then some r.nqTail
  else if n = 0xC4D then some r.nqOvf
  else if n = 0xC4E then some (BitVec.ofNat 32 r.thresh)
  else if n = 0xC4F then some (lowWord r.astBase)
  else if n = 0xC50 then some (highWord r.astBase)
  else if n = 0xC51 then some (BitVec.ofNat 32 r.astLen)
  else if n = 0xC52 then some (BitVec.ofNat 32 (s.xdrain.isSome.toNat * 2 ^ 31))
  else if n = 0xC53 then some (BitVec.ofNat 32 (s.rvsync.isSome.toNat * 2 ^ 31 + s.rvAsn.toNat))
  else if n = 0xC60 then some (lowWord s.trust.tmbase)
  else if n = 0xC61 then some (highWord s.trust.tmbase)
  else if n = 0xC62 then some (BitVec.ofNat 32 (s.trust.busy.isSome.toNat * 2 ^ 31 + s.trust.res * 2 ^ 16))
  else if n = 0xC63 then some (BitVec.ofNat 32 (s.trust.kw.toNat * 256 + s.trust.dbg.toNat * 16 + s.trust.lifecycle % 4))
  else if 0xC64 ≤ n ∧ n ≤ 0xC67 then some (s.trust.devid.extractLsb' (32 * (n - 0xC64)) 32)
  else if n = 0xC70 then some (lowWord r.rtBase)
  else if n = 0xC71 then some (highWord r.rtBase)
  else if n = 0xC72 then some (lowWord r.ttBase)
  else if n = 0xC73 then some (highWord r.ttBase)
  else if n = 0xC74 then some (lowWord r.rpBase)
  else if n = 0xC75 then some (highWord r.rpBase)
  else if n = 0xC76 then some (BitVec.ofNat 32 r.rpSize)
  else if n = 0xC77 then some (lowWord r.psBase)
  else if n = 0xC78 then some (highWord r.psBase)
  else if n = 0xC79 then some (r.pen.setWidth 32)
  else if n = 0xC7A then some (BitVec.ofNat 32 (r.pkg % 256 * 2 ^ 24 + r.node.toNat))
  else if n = 0xC7B then some (BitVec.ofNat 32 (r.retry % 256 * 256 + r.rto % 256))
  else if n = 0xC80 then some (r.pxAddr.extractLsb' 0 32)
  else if n = 0xC81 then some (r.pxAddr.extractLsb' 32 32)
  else if n = 0xC82 then some r.pxData
  else if n = 0xC83 then some (BitVec.ofNat 32 (r.pxBusy.isSome.toNat * 2 ^ 31 + r.pxRes % 8 * 2 ^ 28))
  else if n = 0xC84 then some (lowWord r.ivBase)
  else if n = 0xC85 then some (highWord r.ivBase)
  else if n = 0xC87 then some (BitVec.ofNat 32 (r.rqPort % 4 * 2 ^ 16 + r.rqRid.toNat))
  else if n = 0xC88 then some ((s.requester r.rqPort r.rqRid).elim 0 fun a => BitVec.ofNat 32 (2 ^ 31 + a))
  else if n = 0xC90 then some (BitVec.ofNat 32 s.health.word)
  else if n = 0xC91 then some (BitVec.ofNat 32 s.health.ce)
  else if n = 0xC92 then some (BitVec.ofNat 32 s.health.ue)
  else if 0xC98 ≤ n ∧ n ≤ 0xC9B then some (BitVec.ofNat 32 (r.evsel.getD (n - 0xC98) 0))
  else if 0xCA0 ≤ n ∧ n ≤ 0xCA7 then some ((r.evcnt.getD ((n - 0xCA0) / 2) 0).extractLsb' (32 * ((n - 0xCA0) % 2)) 32)
  else none

/-- The port and ring registers but PEN: a write is ignored while any port is enabled (R389). -/
def setPortCsr (r : Regs) (n : Nat) (v : Word) : Option Regs :=
  let put := fun q : Regs => some (if r.pen = 0 then q else r)
  if n = 0xC70 then put { r with rtBase := setLow r.rtBase 18 v }
  else if n = 0xC71 then put { r with rtBase := setHigh r.rtBase v }
  else if n = 0xC72 then put { r with ttBase := setLow r.ttBase 16 v }
  else if n = 0xC73 then put { r with ttBase := setHigh r.ttBase v }
  else if n = 0xC74 then put { r with rpBase := setLow r.rpBase 20 v }
  else if n = 0xC75 then put { r with rpBase := setHigh r.rpBase v }
  else if n = 0xC76 then put { r with rpSize := min (v.toNat % 1024) 512 }
  else if n = 0xC77 then put { r with psBase := setLow r.psBase 11 v }
  else if n = 0xC78 then put { r with psBase := setHigh r.psBase v }
  else none

/-- The registers that a write only stores. -/
def setPlainCsr (r : Regs) (n : Nat) (v : Word) : Option Regs :=
  if n = 0xC11 then some { r with psel := v.toNat % 64 }
  else if n = 0xC48 then some { r with nqBase := setLow r.nqBase 5 v }
  else if n = 0xC49 then some { r with nqBase := setHigh r.nqBase v }
  else if n = 0xC4A then some { r with nqLog2 := v.toNat % 32 }
  else if n = 0xC4B then some { r with nqHead := v }
  else if n = 0xC4E then some { r with thresh := v.toNat % 2 ^ 14 }
  else if n = 0xC4F then some { r with astBase := setLow r.astBase 5 v }
  else if n = 0xC50 then some { r with astBase := setHigh r.astBase v }
  else if n = 0xC51 then some { r with astLen := v.toNat % 2 ^ 17 }
  else if n = 0xC7B then some { r with retry := max 1 (v.toNat / 256 % 256), rto := max 1 (v.toNat % 256) }
  else if n = 0xC80 then some { r with pxAddr := setLowD r.pxAddr (v &&& 0xFFFFFFFC#32) }
  else if n = 0xC81 then some { r with pxAddr := setHighD r.pxAddr v }
  else if n = 0xC82 then some { r with pxData := v }
  else if n = 0xC84 then some { r with ivBase := setLow r.ivBase 14 v }
  else if n = 0xC85 then some { r with ivBase := setHigh r.ivBase v }
  else if n = 0xC87 then some { r with rqPort := v.toNat / 2 ^ 16 % 4, rqRid := v.setWidth 16 }
  else if 0xC98 ≤ n ∧ n ≤ 0xC9B then some { r with evsel := r.evsel.set (n - 0xC98) (v.toNat % 256) }
  else if 0xCA0 ≤ n ∧ n ≤ 0xCA7 then
    some { r with evcnt := r.evcnt.modify ((n - 0xCA0) / 2) fun d => if (n - 0xCA0) % 2 = 0 then setLowD d v else setHighD d v }
  else setPortCsr r n v

def setPackageCsr (s : State) (n : Nat) (v : Word) : Option State :=
  if 0xC12 ≤ n ∧ n ≤ 0xC16 then some (s.writeClusters (n - 0xC12) v)
  else if n = 0xC17 then some (s.writeParten v)
  else if n = 0xC52 then some (if v.getLsbD 0 then s.startDrain else s)
  else if n = 0xC53 then
    let s := { s with rvAsn := v.setWidth 16 }
    some (if v.getLsbD 16 then s.startSync (v.toNat % 2 ^ 16) else s)
  else if n = 0xC60 then some { s with trust := { s.trust with tmbase := setLow s.trust.tmbase 6 v } }
  else if n = 0xC61 then some { s with trust := { s.trust with tmbase := setHigh s.trust.tmbase v } }
  else if n = 0xC62 then some (s.tmStart v)
  else if n = 0xC79 then some (s.writePen v)
  else if n = 0xC7A then some (s.writeNode v)
  else if n = 0xC83 then some (s.pcieOut (v.toNat / 16 % 4) (v.toNat % 4))
  else if n = 0xC88 then some (s.writeRequester v)
  else (setPlainCsr s.regs n v).map fun r => { s with regs := r }

/-! ### CSRR and CSRW -/

/-- The partition whose registers a privileged thread reaches (R331). -/
def State.csrPart (s : State) (w : Who) : Nat :=
  match w with
  | .ctl n => (s.ctl n).ppart
  | .grp k => (s.groups.get? k).elim 0 fun g => g.svpart

/-- A read with what it brings about; none is ILLEGAL (R31). -/
def csrRead (s : State) (w : Who) (g : Group) (n : Nat) : Option (Word × State) :=
  if n < 0x400 then (groupCsr s w g n).map fun v => (v, s)
  else if n < 0x800 then (coreCsr s w g n).map fun v => (v, s)
  else if !s.privileged w then none
  else if n < 0xC00 then (partCsr s (s.csrPart w) n).map fun v => (v, s)
  else match w with
    | .grp _ => none
    | .ctl c =>
      if n = 0xC86 then some (s.claim c)
      else ((ctlCsr (s.ctl c) n).or (packageCsr s n)).map fun v => (v, s)

/-- A write; none is ILLEGAL. On a control core a write to a register held per core is ignored (R31). -/
def csrWrite (s : State) (w : Who) (g : Group) (n : Nat) (v : Word) : Option State :=
  if n < 0x400 then (setGroupCsr s w g n v).map fun h => s.setGroup w h
  else if n < 0x800 then (setCoreCsr s w g n v).map fun t => if isSolo w then s else t
  else if !s.privileged w then none
  else if n < 0xC00 then setPartCsr s (s.csrPart w) n v
  else match w with
    | .grp _ => none
    | .ctl c => match setCtlCsr (s.ctl c) n v with
      | some k => some (s.setCtl c k)
      | none => setPackageCsr s n v

def execCsrr (h : Hdr) (csr : BitVec 12) (g : BitVec 7) (s : State) : Result :=
  withCtx s fun x => match csrRead s x.who x.seen csr.toNat with
    | none => s.illegal x
    | some (v, t) => (s.ready x [opd g .w32] []).getD (t.retire x h (x.dst h.n g .w32 fun _ => v.toNat))

/-- CSRW: SWZ is written once the group's matrix work on hampers is over (R105). -/
def execCsrw (h : Hdr) (csr : BitVec 12) (g : BitVec 7) (s : State) : Result :=
  withCtx s fun x =>
    if (csrWrite s x.who x.g csr.toNat 0).isNone then s.illegal x
    else outsideTx s x fun s x => (s.ready x [opd g .w32] (lanes := x.readers)).getD
      (if csr.toNat / 16 = 0x42 && s.matrixPending x.who then s.stall x 5
       else match csrWrite s x.who x.g csr.toNat (x.uni32 g) with
        | none => s.illegal x
        | some t => t.retire x h ((t.group? x.who).getD x.g))

end Sys2Proof.Machine
end

