-- ==== Sys2Proof/Machine/Debug.lean ====
section
/-! DEFINITION. The debug port (R416): breakpoints, halting, registers and memory of stopped threads, and RESUME. -/

namespace Sys2Proof.Machine

open Sys2Proof

/-- The port's answer on the debug channel. -/
def State.debugReply (s : State) (ok : Bool) (data : List Byte) : State := { s with sent := s.sent ++ [Outbound.debugReply ok data] }

/-- A command is answered with a refusal while DBG = 0, and where every die is held in reset or halted, which leaves no thread and
no memory to reach (R417, R425). -/
def debugging (s : State) (f : State → State) : Result := .next (if s.trust.dbg && !s.down then f s else s.debugReply false [])

/-- The thread of a control core by its number, which stands in the triple's place for it (log 90). -/
def State.ctlNamed (s : State) (t : ThreadName) : Option (Who × Group × Nat) :=
  if t.launch = 0 ∧ t.team = noTeam ∧ (s.ctl t.thread).started then some (.ctl t.thread, (s.ctl t.thread).thread, 0) else none

/-- The group and seat of a thread by the triple of R154. -/
def State.threadOf (s : State) (t : ThreadName) : Option (Who × Group × Nat) :=
  (s.groups.findSome? fun e =>
    if e.2.launch.toNat == t.launch && !e.2.ended && (s.teamOf e.2).any (fun v => v.index == t.team) then
      ((List.range e.2.lanes.length).find? fun i => (e.2.lane i).thread == some t.thread).map fun i => (Who.grp e.1, e.2, i)
    else none).or (s.ctlNamed t)

/-- A breakpoint is set; a partition has at most 16. -/
def execArm (part : Nat) (addr : Dword) (launch : Nat) (team thread : Option Nat) (s : State) : Result :=
  debugging s fun s =>
    let q := s.part part
    let b : Break := ⟨addr, launch, team, thread⟩
    if 16 ≤ q.breaks.length then s.debugReply false []
    else (s.setPart part { q with breaks := q.breaks ++ [b] }).debugReply true []

def execDisarm (part : Nat) (addr : Dword) (launch : Nat) (team thread : Option Nat) (s : State) : Result :=
  debugging s fun s =>
    let q := s.part part
    let b : Break := ⟨addr, launch, team, thread⟩
    if q.breaks.contains b then (s.setPart part { q with breaks := q.breaks.erase b }).debugReply true [] else s.debugReply false []

/-- Whether a HALT that waits for a group takes effect now: it is at a run boundary, on its seat. -/
def Group.haltReady (g : Group) (w : Who) : Bool :=
  !g.haltDue.isEmpty && !g.runOpen && !g.dbgStop && (isSolo w || g.place.isSome) && !g.away && !g.ended

/-- The seat of a logical thread in its group. -/
def Group.seatOf (g : Group) (w : Who) (thread : Nat) : Nat :=
  if isSolo w then 0 else ((List.range g.lanes.length).find? fun i => (g.lane i).thread == some thread).getD 0

/-- The stop of the HALTs that are due: the group leaves arbitration and writes for each a record of kind 3, cause 4. DESIGN
CHOICE: its mask names the seat of the thread that the HALT names (log 91). -/
def State.haltNow (s : State) (w : Who) (g : Group) : State :=
  let v := { g with dbgStop := true, stopCause := 4, stopSeats := [], stopFor := g.haltDue.foldl sInsert g.stopFor, haltDue := [],
                    issueQ := [], snap := none }
  g.haltDue.foldl (fun (s : State) t => s.record w 3 t
    (leBytes 8 (g.lane (g.seatOf w t)).pc.toNat ++ leBytes 4 4 ++ leBytes 4 (seatMask [g.seatOf w t]).toNat ++ leBytes 4 0)) (s.setGroup w v)

/-- HALT: at the group's next run boundary, or now when no run is open. A group that is stopped already stops again for this
thread when it is released. -/
def execHalt (t : ThreadName) (s : State) : Result :=
  debugging s fun s =>
    match s.threadOf t with
    | none => s.debugReply false []
    | some (w, g, _) =>
      let g := { g with haltDue := sInsert g.haltDue t.thread }
      let s := if g.haltReady w then s.haltNow w g else s.setGroup w g
      s.debugReply true []

/-- A stopped thread, as the commands that need one find it. -/
def State.stoppedThread (s : State) (t : ThreadName) : Option (Who × Group × Nat) := (s.threadOf t).filter fun v => v.2.1.dbgStop

/-- A stopped thread's context: its path at its program counter. -/
def State.stoppedCtx (s : State) (k : Who) (g : Group) (i : Nat) : Ctx :=
  ⟨k, g, ⟨k, (g.lane i).pc, 0, 0, 4, g.pathSeats (g.lane i).pc.toNat, none⟩, BitVec.ofNat 32 ((s.teamOf g).elim 0 (·.index)), g.uniforms, false⟩

/-- The bytes of a register: a code at 32 bits, a latch at 64; a predicate; value, base and limit of an index register; a
capability with its tag; a group CSR. None where the register does not exist. -/
def State.readDebug (s : State) (k : Who) (g : Group) (i : Nat) : DebugReg → Option (List Byte)
  | .code c =>
    let x := s.stoppedCtx k g i
    if ((s.stoppedCtx k g i).beyond (c, 1)).isSome then none
    else if 120 ≤ c.toNat then some (leBytes 8 (x.src64 i c).toNat)
    else some (leBytes 4 (x.src32 i c).toNat)
  | .pred n => some (leBytes 1 ((g.lane i).pred n.toNat).toNat)
  | .index n =>
    let r := (g.lane i).idx.getD n.toNat ⟨0, 0, 0⟩
    some (leBytes 4 r.value.toNat ++ leBytes 4 r.base ++ leBytes 4 r.limit)
  | .cap n =>
    let c := g.acaps.getD n.toNat Cap.null
    some (leBytes 16 c.bits.toNat ++ leBytes 1 c.tag.toNat)
  | .csr n => if n.toNat < 0x400 then (groupCsr s k g n.toNat).map fun v => leBytes 4 v.toNat else none

/-- The group with a register written, its tag cleared; none where the register does not exist. Codes 112 to 119 hold nothing
that the command can change, FL among them, which R16 and R173 keep to its own instructions (DEDUCED, log 91). -/
def State.writeDebug (s : State) (k : Who) (g : Group) (i : Nat) (v : Quad) : DebugReg → Option Group
  | .code c =>
    let n := c.toNat
    let w : Word := v.setWidth 32
    if ((s.stoppedCtx k g i).beyond (c, 1)).isSome then none
    else if n < 96 then some (g.modLane i fun l => l.setReg (g.wb + n) w false)
    else if n < 112 then some (g.putSregs (n - 96) [w])
    else if n < 120 then some g
    else some (g.modLane i fun l => { l with latches := l.latches.set (n - 120) (v.setWidth 64),
                                             badLatch := l.badLatch.filter (· != l.pushes - (n - 120)) })
  | .pred n => some (g.modLane i fun l => l.setPred n.toNat (v.getLsbD 0))
  | .index n =>
    let r : IndexReg := ⟨v.extractLsb' 0 32, (v.extractLsb' 32 32).toNat, (v.extractLsb' 64 32).toNat⟩
    some (g.modLane i fun l => { l with idx := l.idx.set n.toNat r })
  | .cap n => some { g with acaps := g.acaps.set n.toNat ⟨v, false⟩ }
  | .csr n => if n.toNat < 0x400 then setGroupCsr s k g n.toNat (v.setWidth 32) else none

def execRdreg (t : ThreadName) (r : DebugReg) (s : State) : Result :=
  debugging s fun s =>
    match s.stoppedThread t with
    | none => s.debugReply false []
    | some (k, g, i) => match s.readDebug k g i r with
      | some bs => s.debugReply true bs
      | none => s.debugReply false []

def execWrreg (t : ThreadName) (r : DebugReg) (v : Quad) (s : State) : Result :=
  debugging s fun s =>
    match s.stoppedThread t with
    | none => s.debugReply false []
    | some (k, g, i) => match s.writeDebug k g i v r with
      | some g => (s.setGroup k g).debugReply true []
      | none => s.debugReply false []

/-- The answer to an RDMEM, once the home slice lets the bytes be read. -/
def State.readMem (s : State) (addr : Nat) : State :=
  match s.engineReady addr 64 false none with
  | (true, s) =>
    let s := { s with rdmems := s.rdmems.erase addr }.engineRead addr 64
    s.debugReply true (s.bytes addr 64)
  | (false, s) => { s with rdmems := if s.rdmems.contains addr then s.rdmems else s.rdmems ++ [addr] }

/-- RDMEM: 64 bytes of physical memory as a strong read, which its home slice may hold back (R316, R416). -/
def execRdmem (addr : Nat) (s : State) : Result :=
  debugging s fun s => if !s.hasMem addr || !s.hasMem (addr + 63) then s.debugReply false [] else s.readMem addr

/-- RESUME: the group goes on at the stopped instruction, which the same cause does not stop again. -/
def execResume (t : ThreadName) (s : State) : Result :=
  debugging s fun s =>
    match s.stoppedThread t with
    | none => s.debugReply false []
    | some (k, g, _) =>
      (s.setGroup k { g.phase 6 s.now with dbgStop := false, stopFor := [], skipStop := g.skipStop ++ g.stopSeats.map (fun i => (g.stopCause, i)), readySince := s.now }).debugReply true []

end Sys2Proof.Machine
end

