-- ==== Sys2Proof/Machine/Health.lean ====
section
/-! DEFINITION. Units mapped out (R423), throttling and the critical temperature (R425), and package reset with bring-up
(R417, R424). -/

namespace Sys2Proof.Machine

open Sys2Proof

/-! ### Map-outs (R423) -/

/-- The end of a grid whose group state a failing core destroyed: a record of kind 1 with cause POISON. -/
def State.lostGrid (s : State) (k : Nat) (g : Group) : State :=
  match s.teams.get? g.team with
  | none => s
  | some t =>
    s.gridEnd t.grid fun s => match t.part with
      | none => s
      | some p => s.trapRecord p 1 (causeNum .poison) t.launch
          (Machine.trapRecord 1 (causeNum .poison) t.launch.toNat t.index
            (((s.groups.get? k).getD g).lanes.headD (Lane.fresh none 0 0) |>.thread.getD 0) g.name 0 0 0 (placeWord g))

/-- A compute core leaves placement: the teams that sit on it are saved as at the deadline, or their grids end. -/
def State.coreOut (s : State) (c : Nat) (lost : Bool) : State :=
  if 1280 ≤ c ∨ (s.core c).mappedOut then s else
  let s := (s.setCore c { s.core c with mappedOut := true }).reportOut 1 c
  let here := s.groups.filter fun e => e.2.place.any (fun p => p.core == c) && !e.2.ended
  if lost then here.foldl (fun (s : State) e => if (s.groups.get? e.1).any (fun g => g.ended) then s else s.lostGrid e.1 e.2) s
  else
    let teams := here.map fun e => e.2.team
    { s with groups := s.groups.map fun (e : Nat × Group) =>
        (e.1, if teams.contains e.2.team && !e.2.ended && !e.2.away then { e.2 with cut := true } else e.2) }

/-- A channel that has been DEGRADING for 10 ms is mapped out: translation to its frames fails from now on, and no translation
of one stays cached (R240, R361). -/
def State.channelOut (s : State) (ch : Nat) : State :=
  let s := { s with health := { s.health with degrading := s.health.degrading.erase ch, badChans := s.health.badChans ++ [ch] } }.reportOut 4 ch
  { s with extents := s.extents.filter fun e => s.frameMem e.frame }

/-- The channels whose 10 ms are over. -/
def State.channelsDue (s : State) : List Nat := (s.health.degrading.filter fun e => decide (e.2 + msec 10 ≤ s.now)).map (·.1)

/-- A failing channel is marked DEGRADING with vector 0x082; after 10 ms it is mapped out. -/
def State.degrade (s : State) (ch : Nat) : State :=
  if s.health.badChans.contains ch then s
  else match s.health.degrading.get? ch with
    | none => ({ s with health := { s.health with degrading := s.health.degrading.set ch s.now } }).raise 0x082
    | some t => if t + msec 10 ≤ s.now then s.channelOut ch else s

/-- A unit leaves service; a slice leaves through a map change, which reports it. -/
def State.takeOut (s : State) (u : Unit_) : State :=
  match u with
  | .computeCore n lost => s.coreOut n lost
  | .controlCore n =>
    if 128 ≤ n ∨ (s.ctl n).mappedOut then s else (s.setCtl n { s.ctl n with mappedOut := true }).reportOut 2 n
  | .slice n => { s with agenda := s.agenda ++ [Instr.sliceMapChange n] }
  | .channel n => s.degrade n
  | .link n =>
    if 32 ≤ n ∨ s.health.badLinks.contains n then s
    else ({ s with health := { s.health with badLinks := s.health.badLinks ++ [n] } }.reportOut 5 n).raise 0x081

def execMapOut (u : Unit_) (s : State) : Result := .next (s.unlessDown fun s => s.takeOut u)

def execChannelMapOut (ch : Nat) (s : State) : Result := .next (s.unlessDown fun s => s.degrade ch)

/-- A unit of R423 by its kind and number. -/
def unitOf (kind n : Nat) : Option Unit_ :=
  match kind with
  | 1 => some (.computeCore n false)
  | 2 => some (.controlCore n)
  | 3 => some (.slice n)
  | 4 => some (.channel n)
  | 5 => some (.link n)
  | _ => none

/-! ### Errors that are found (R242) -/

/-- An error has been corrected: it is counted, and the unit is mapped out when its errors of the last second exceed
management's threshold, a free value (R242, R422, R423). -/
def State.corrected (s : State) (kind unit : Nat) : State :=
  let now := s.health.corrected.filter fun e => decide (s.now < e.2.2 + msec 1000)
  let log := if kind = 0 then now else now ++ [(kind, unit, s.now)]
  let mine := (log.filter fun e => e.1 == kind && e.2.1 == unit).length
  let s := ({ s with health := { s.health with ce := min (s.health.ce + 1) 0xFFFFFFFF, corrected := log } }).count 11 1
  if mine = 0 then s else if Config.ceThreshold < mine then (unitOf kind unit).elim s s.takeOut else s

/-- A correctable error is corrected and counted; another poisons its unit where it is found (R242, R414, R422), a sector not
before the reads in flight of its line (log 28). -/
def State.strike (s : State) (f : Flaw) : State :=
  let early := match f with
    | .sector n => s.reading [n]
    | .copy n k => s.dirty.contains (n, k / 4) && s.reading [k]
    | _ => false
  if early then s else
  let s := { s with flaws := s.flaws.erase f }
  match f with
  | .corrected kind unit => s.corrected kind unit
  | .sector n => s.poisonSector n
  | .near c n => (s.setCore c { s.core c with near := (s.core c).near.modify n fun e => { e with poison := true } }).unitPoisoned
  | .copy n k =>
    -- a modified line's only current copy is the core's, which stands in memory
    if s.dirty.contains (n, k / 4) then s.poisonSector k
    else if s.copies.contains (n, k / 4) && !s.badCopies.contains (n, k) then { s with badCopies := s.badCopies ++ [(n, k)] }.unitPoisoned
    else s
  | .granule cl hm off =>
    if (s.hamper cl hm).isPoisoned off 1 then s else (s.setHamper cl hm ((s.hamper cl hm).poisonRange off 1)).unitPoisoned
  | .sreg w n => (s.modGroup w fun g => { g with badSregs := sInsert g.badSregs n }).unitPoisoned
  | .latch w i n => (s.modGroup w fun g => g.modLane i fun l => { l with badLatch := sInsert l.badLatch (l.pushes - n) }).unitPoisoned
  | .register w i n => (s.modGroup w fun g => g.modLane i fun l => { l with regs := l.regs.modify n fun r => { r with bad := true } }).unitPoisoned

/-! ### Power and temperature (R425) -/

/-- THERMAL_THROTTLE: throttling acts and THERM reads 1; no result changes. -/
def execThermalThrottle (s : State) : Result := .next { s with health := { s.health with therm := true } }

def execThrottleEnd (s : State) : Result := .next { s with health := { s.health with therm := false } }

/-- POWER_LIMIT_SET: the power cap and the temperature limit that management sets. -/
def execPowerLimitSet (cap limit : Nat) (s : State) : Result :=
  .next { s with health := { s.health with powerCap := cap, tempLimit := limit } }

/-- CRITICAL_TEMPERATURE: every die is halted and management reports the event. -/
def execCriticalTemperature (s : State) : Result :=
  .next { s with health := { s.health with halted := true }, agenda := [], sent := s.sent ++ [Outbound.report 0 0] }

/-! ### Package reset and bring-up (R424) -/

/-- Memory across a package reset: key id 0 is drawn anew, so that what was written under the old one decrypts to unrelated
bits, as does what was written under an installed key (R418, R424). -/
def State.rekeyAll (s : State) : FMap Config.MemKey :=
  (s.mem.map fun c => c.1 / 32).foldl (fun m n => (if (m.get? n).isSome then m else m.set n (s.keyOf n))) s.keyed

/-- What package reset leaves standing: fuses, straps, installed memory with what its arrays hold, the list of mapped-out units,
the draws of the trust core's generator and management's limits (R417, R418, R422). -/
def State.afterReset (s : State) : State :=
  let r := State.reset
  { r with
    bits := s.bits, picks := s.picks, flaws := s.flaws, ticks := s.ticks, tick := s.tick, lpddr := s.lpddr, smap := s.smap, stubs := s.stubs
    mem := s.mem, keyed := s.rekeyAll
    ctls := (s.ctls.filter fun e => e.2.mappedOut).map fun (e : Nat × Ctl) => (e.1, { Ctl.reset with mappedOut := true })
    cores := (s.cores.filter fun e => e.2.mappedOut).map fun (e : Nat × Core) => (e.1, { Core.reset with mappedOut := true })
    regs := { r.regs with pkg := s.regs.pkg, node := 1#16 <<< (s.regs.pkg % 16) }
    trust := { r.trust with lifecycle := s.trust.lifecycle, dbg := s.trust.lifecycle == 0, devid := s.trust.devid, draws := s.trust.draws,
                            pkgKey := s.trust.pkgKey + 1, exchanges := s.trust.exchanges, authHashEC := s.trust.authHashEC, authHashPQ := s.trust.authHashPQ,
                            imageHashEC := s.trust.imageHashEC, imageHashPQ := s.trust.imageHashPQ, minVersion := s.trust.minVersion }
    health := { s.health with therm := false, ce := 0, ue := 0, corrected := [], degrading := [], halted := false } }

/-- The records that extend MR0 to MR2: the image's digest; its version and configuration; lifecycle state and DEVID (R420). -/
def bootRecord (bs : List Byte) : List Byte := (bs ++ List.replicate 64 0).take 64

def State.measureImage (s : State) (im : FirmwareImage) : State :=
  let s := s.extendMr 0 (bootRecord im.digest)
  let s := s.extendMr 1 (bootRecord (leBytes 8 im.version ++ sha384 im.config))
  s.extendMr 2 (bootRecord (leBytes 1 s.trust.lifecycle ++ leBytes 15 0 ++ leBytes 16 s.trust.devid.toNat))

/-- The service team of a compute die on its service core, from the descriptor that the image names, with the capability to
the die's batch area as a0 (R133, R134). DESIGN CHOICE: a die whose descriptor breaks R40 or R41 or does not name SPAN 1
gets no service team, and bring-up goes on; the spec does not say what the firmware does then (log 92). -/
def State.startService (s : State) (im : FirmwareImage) (die : Nat) : State :=
  let d := descOf (s.bytes im.serviceDesc 256) (s.tagAt (im.serviceDesc + 0x30)) (s.tagAt (im.serviceDesc + 0x40))
  if !d.valid false || d.span ≠ 1 || (s.core (160 * die)).mappedOut then s else
  let gn := s.grids.fresh
  let tn := max 1 s.teams.fresh
  let a0 : Cap := (im.serviceArgs[die]?).elim ⟨0, false⟩ fun v => ⟨v.1, v.2⟩
  let g : Grid :=
    { launch := 0, part := none, desc := d, asn := im.serviceAsn, args := sregsOf [], a0 := a0, source := .service die, teams := 1,
      next := 0, held := false, reported := false, ended := false, order := s.queued }
  let s := { s with grids := s.grids.set gn g, queued := s.queued + 1 }
  { s.dispatch gn g (160 * die) with service := s.service.set die tn }

/-- Slices leave the map before it is written. -/
def State.bootSlices (s : State) (out : List Nat) : State :=
  let new := (out.filter fun k => decide (k < 512) && !s.stubs.contains k).foldl sInsert []
  let gone := new ++ s.stubs
  if 512 ≤ gone.length then s else
  new.foldl (fun (s : State) k => s.moveEntries ((List.range 512).filter fun j => !gone.contains j) (s.entriesOf k)) { s with stubs := gone }

/-- The health word after bring-up: what is mapped out, and REPLACE when anything is (R422). -/
def State.tally (s : State) : State :=
  let h := s.health
  let cores := (s.cores.filter fun e => e.2.mappedOut).length + (s.ctls.filter fun e => e.2.mappedOut).length
  { s with health := { h with
      cores := min cores 255, slices := min s.stubs.length 255, channels := min h.badChans.length 63, links := min h.badLinks.length 63
      replace := cores != 0 || !s.stubs.isEmpty || !h.badChans.isEmpty || !h.badLinks.isEmpty } }

/-- The firmware applies the map-out list, which management keeps across resets, and writes the slice map (R422, R424). -/
def State.bootMap (s : State) (out : List Unit_) : State :=
  let s := out.foldl (fun (s : State) u => match u with
    | .computeCore n _ => if n < 1280 then s.setCore n { s.core n with mappedOut := true } else s
    | .controlCore n => if n < 128 then s.setCtl n { s.ctl n with mappedOut := true } else s
    | .channel n => if s.health.badChans.contains n then s else { s with health := { s.health with badChans := s.health.badChans ++ [n] } }
    | .link n => if 32 ≤ n ∨ s.health.badLinks.contains n then s else { s with health := { s.health with badLinks := s.health.badLinks ++ [n] } }
    | .slice _ => s) s
  (s.bootSlices (out.filterMap fun u => match u with | .slice n => some n | _ => none)).tally

/-- A partition as the firmware configures it (R330). -/
def State.bootPart (s : State) (p : Nat) (pcl : List Word) : State :=
  if 64 ≤ p then s else
  let s := { s with regs := { s.regs with psel := p } }
  let s := (List.range 5).foldl (fun (s : State) w => s.writeClusters w (pcl.getD w 0)) s
  s.writeParten 1

/-- Both signatures of an image verify under keys whose hashes are fused, and its security version is no lower than the fused
minimum (R421, R424). -/
def Trust.imageOk (t : Trust) (im : FirmwareImage) : Bool :=
  sha384 im.keyEC == t.imageHashEC && sha384 im.keyPQ == t.imageHashPQ && Config.ecdsaVerifies im.keyEC im.digest im.sigEC &&
  Config.mldsaVerifies im.keyPQ im.digest im.sigPQ && decide (t.minVersion ≤ im.version)

/-- The boot ROM runs an image that verifies, and the firmware brings the package up; another image is not run, and the
boot ROM waits. In SCRAPPED every die stays in reset. -/
def State.bootImage (s : State) (im : FirmwareImage) : State :=
  if s.trust.lifecycle = 3 then { s with boot := .scrapped, health := { s.health with halted := true } }
  else if !s.trust.imageOk im then { s with boot := .waiting }
  else
    let s := { s with trust := { s.trust with authEC := im.debugEC, authPQ := im.debugPQ } }.measureImage im
    let s := s.bootMap im.mapOut
    let s := im.memory.foldl (fun (s : State) p => s.write p.1 p.2) s
    let s := { s with regs := { s.regs with astBase := im.astBase, astLen := im.astLen } }
    let s := (List.range 8).foldl (fun (s : State) d => s.startService im d) s
    let s := im.partitions.foldl (fun (s : State) p => s.bootPart p.1 p.2) s
    let s := { s with regs := { s.regs with psel := 0 }, boot := .running }
    let k := s.ctl 0
    if k.mappedOut then s
    else s.setCtl 0 { k with started := true, thread := k.thread.modLane 0 fun l => { l with pc := im.kernelEntry } }

def execPackageReset (image : FirmwareImage) (s : State) : Result := .next (s.afterReset.bootImage image)

/-- IMAGE_RECOVERY: while the boot ROM waits, a replacement is verified and run. -/
def execImageRecovery (image : FirmwareImage) (s : State) : Result :=
  .next (match s.boot with
    | .waiting => s.bootImage image
    | _ => s)

end Sys2Proof.Machine
end

