-- ==== Sys2Proof/Machine/Integer.lean ====
section
/-! DEFINITION. Integer arithmetic, logic, shifts, bit fields, moves, selects and predicates (R43-R47, R59-R71). -/

namespace Sys2Proof.Machine

open Sys2Proof

/-! ### Arithmetic (R59-R63) -/

/-- A register form of R59 on two sources, by the type's signedness, wrapped or saturated. -/
def intOp (s : State) (h : Hdr) (d a b : Code) (m : BitVec 2) (f : Int → Int → Int) : Result :=
  let wd := typeW m
  let w := bitsOf wd
  compute s h d wd [opd a wd, opd b wd] fun x i =>
    wrapOrSat w (signedType m) (h.ord == 1)
      (f (readInt w (signedType m) (x.srcN i a wd)) (readInt w (signedType m) (x.srcN i b wd)))

/-- A register form of R59 on one source. -/
def intOp1 (s : State) (h : Hdr) (d a : Code) (m : BitVec 2) (f : Int → Int) : Result :=
  let wd := typeW m
  let w := bitsOf wd
  compute s h d wd [opd a wd] fun x i =>
    wrapOrSat w (signedType m) (h.ord == 1) (f (readInt w (signedType m) (x.srcN i a wd)))

def execIadd (h : Hdr) (d a b : BitVec 7) (m : BitVec 2) (s : State) : Result := intOp s h d a b m (· + ·)
def execIsub (h : Hdr) (d a b : BitVec 7) (m : BitVec 2) (s : State) : Result := intOp s h d a b m (· - ·)
def execImul (h : Hdr) (d a b : BitVec 7) (m : BitVec 2) (s : State) : Result := intOp s h d a b m (· * ·)
/-- The high w bits of the exact product (R61). -/
def execImulh (h : Hdr) (d a b : BitVec 7) (m : BitVec 2) (s : State) : Result :=
  intOp s h d a b m fun p q => p * q / (2 ^ bitsOf (typeW m) : Int)
def execImin (h : Hdr) (d a b : BitVec 7) (m : BitVec 2) (s : State) : Result := intOp s h d a b m min
def execImax (h : Hdr) (d a b : BitVec 7) (m : BitVec 2) (s : State) : Result := intOp s h d a b m max

/-- R62: truncation toward zero; division by zero gives all ones. -/
def execIdiv (h : Hdr) (d a b : BitVec 7) (m : BitVec 2) (s : State) : Result :=
  intOp s h d a b m fun p q => if q = 0 then -1 else p.tdiv q
/-- R62: the remainder takes the sign of a; by zero it is a. -/
def execIrem (h : Hdr) (d a b : BitVec 7) (m : BitVec 2) (s : State) : Result :=
  intOp s h d a b m fun p q => if q = 0 then p else p.tmod q

def execIabs (h : Hdr) (d a : BitVec 7) (m : BitVec 2) (s : State) : Result := intOp1 s h d a m fun p => (p.natAbs : Int)
def execIneg (h : Hdr) (d a : BitVec 7) (m : BitVec 2) (s : State) : Result := intOp1 s h d a m fun p => -p

/-- IMAD with its third source (R46, R59). -/
def execImad (h : Hdr) (d a b : BitVec 7) (m : BitVec 2) (s : State) : Result :=
  let wd := typeW m
  let w := bitsOf wd
  let c := h.thirdCode d
  let r := readInt w (signedType m)
  compute s h d wd [opd a wd, opd b wd, opd c wd] fun x i =>
    wrapOrSat w (signedType m) (h.ord == 1) (r (x.srcN i a wd) * r (x.srcN i b wd) + r (x.srcN i c wd))

/-- IADDC and ISUBB carry through p6, unsigned (R60). -/
def carryOp (s : State) (h : Hdr) (d a b : Code) (m : BitVec 2) (sub : Bool) : Result :=
  let wd := typeW m
  let w := bitsOf wd
  let t := fun (x : Ctx) (i : Nat) =>
    let p : Int := x.srcN i a wd
    let q : Int := x.srcN i b wd
    let c : Int := if (x.g.lane i).pred 6 then 1 else 0
    if sub then p - q - c else p + q + c
  computeP s h d wd [opd a wd, opd b wd] 6 (fun x i => (t x i % (2 ^ w : Int)).toNat)
    fun x i => if sub then decide (t x i < 0) else decide ((2 ^ w : Int) ≤ t x i)

def execIaddc (h : Hdr) (d a b : BitVec 7) (m : BitVec 2) (s : State) : Result := carryOp s h d a b m false
def execIsubb (h : Hdr) (d a b : BitVec 7) (m : BitVec 2) (s : State) : Result := carryOp s h d a b m true

/-- The 32-bit immediate forms (R63). -/
def immOp (s : State) (h : Hdr) (d a : Code) (f : Word → Nat) : Result :=
  compute s h d .w32 [opd a .w32] fun x i => f (x.src32 i a)

/-- An RI immediate as a word. -/
def immWord (h : Hdr) (imm : BitVec 9) : Word := BitVec.ofInt 32 (riImm h imm)

def execIaddImm (h : Hdr) (d a : BitVec 7) (imm : BitVec 9) (s : State) : Result :=
  immOp s h d a fun v => wrapOrSat 32 true (h.ord == 1) (v.toInt + riImm h imm)
def execAndImm (h : Hdr) (d a : BitVec 7) (imm : BitVec 9) (s : State) : Result :=
  immOp s h d a fun v => (v &&& immWord h imm).toNat
def execOrImm (h : Hdr) (d a : BitVec 7) (imm : BitVec 9) (s : State) : Result :=
  immOp s h d a fun v => (v ||| immWord h imm).toNat
def execXorImm (h : Hdr) (d a : BitVec 7) (imm : BitVec 9) (s : State) : Result :=
  immOp s h d a fun v => (v ^^^ immWord h imm).toNat

/-! ### Logic and shifts (R64, R65) -/

def logicOp (s : State) (h : Hdr) (d a b : Code) (w : Bool) (f : Dword → Dword → Dword) : Result :=
  let wd := wide w
  compute s h d wd [opd a wd, opd b wd] fun x i =>
    (f (BitVec.ofNat 64 (x.srcN i a wd)) (BitVec.ofNat 64 (x.srcN i b wd))).toNat

def execAnd (h : Hdr) (d a b : BitVec 7) (w : Bool) (s : State) : Result := logicOp s h d a b w (· &&& ·)
def execOr (h : Hdr) (d a b : BitVec 7) (w : Bool) (s : State) : Result := logicOp s h d a b w (· ||| ·)
def execXor (h : Hdr) (d a b : BitVec 7) (w : Bool) (s : State) : Result := logicOp s h d a b w (· ^^^ ·)
def execAndn (h : Hdr) (d a b : BitVec 7) (w : Bool) (s : State) : Result := logicOp s h d a b w fun p q => p &&& ~~~q

/-- A shift by an unsigned amount (R65): 0 left, 1 right, 2 arithmetic right, 3 rotate left. -/
def shiftOf (op w n amount : Nat) : Nat :=
  match op with
  | 0 => if amount < w then n * 2 ^ amount % 2 ^ w else 0
  | 1 => if amount < w then n / 2 ^ amount else 0
  | 2 => (readInt w true n / (2 ^ (min amount (w - 1)) : Int) % (2 ^ w : Int)).toNat
  | _ => let k := amount % w; n * 2 ^ k % 2 ^ w + n / 2 ^ (w - k)

def shiftOp (s : State) (h : Hdr) (d a b : Code) (w : Bool) (op : Nat) : Result :=
  let wd := wide w
  compute s h d wd [opd a wd, opd b .w32] fun x i => shiftOf op (bitsOf wd) (x.srcN i a wd) (x.src32 i b).toNat

def execShl (h : Hdr) (d a b : BitVec 7) (w : Bool) (s : State) : Result := shiftOp s h d a b w 0
def execShr (h : Hdr) (d a b : BitVec 7) (w : Bool) (s : State) : Result := shiftOp s h d a b w 1
def execSar (h : Hdr) (d a b : BitVec 7) (w : Bool) (s : State) : Result := shiftOp s h d a b w 2
def execRol (h : Hdr) (d a b : BitVec 7) (w : Bool) (s : State) : Result := shiftOp s h d a b w 3

def shiftImm (s : State) (h : Hdr) (d a : Code) (w : Bool) (op : Nat) (amt : BitVec 6) : Result :=
  let wd := wide w
  compute s h d wd [opd a wd] fun x i => shiftOf op (bitsOf wd) (x.srcN i a wd) amt.toNat

def execShlRolImm (h : Hdr) (d a : BitVec 7) (w rot : Bool) (amt : BitVec 6) (s : State) : Result :=
  shiftImm s h d a w (if rot then 3 else 0) amt
def execShrSarImm (h : Hdr) (d a : BitVec 7) (w arith : Bool) (amt : BitVec 6) (s : State) : Result :=
  shiftImm s h d a w (if arith then 2 else 1) amt

/-- The number of set bits among the low w. -/
def popCount (w n : Nat) : Nat := ((List.range w).filter n.testBit).length
/-- Leading zeros of w bits; w for zero. -/
def leadingZeros (w n : Nat) : Nat := if n = 0 then w else w - 1 - Nat.log2 n
/-- The low w bits in reverse order. -/
def reverseBits (w n : Nat) : Nat := ((List.range w).map fun j => if n.testBit j then 2 ^ (w - 1 - j) else 0).sum

def countOp (s : State) (h : Hdr) (d a : Code) (w : Bool) (f : Nat → Nat → Nat) : Result :=
  compute s h d .w32 [opd a (wide w)] fun x i => f (bitsOf (wide w)) (x.srcN i a (wide w))

def execPopc (h : Hdr) (d a : BitVec 7) (w : Bool) (s : State) : Result := countOp s h d a w popCount
def execClz (h : Hdr) (d a : BitVec 7) (w : Bool) (s : State) : Result := countOp s h d a w leadingZeros
def execBrev (h : Hdr) (d a : BitVec 7) (w : Bool) (s : State) : Result :=
  compute s h d (wide w) [opd a (wide w)] fun x i => reverseBits (bitsOf (wide w)) (x.srcN i a (wide w))

/-- BFX of R66 on w bits. -/
def extractField (w : Nat) (signed : Bool) (a k : Nat) : Nat :=
  let pos := k % 256; let len := k / 256 % 256
  if len = 0 ∨ w ≤ pos then 0 else
    let n := min len (w - pos)
    let f := a / 2 ^ pos % 2 ^ n
    if signed && f.testBit (n - 1) then 2 ^ w - 2 ^ n + f else f

/-- BFI of R66 on w bits. -/
def insertField (w a k c : Nat) : Nat :=
  let pos := k % 256; let len := k / 256 % 256
  if len = 0 ∨ w ≤ pos then c else
    let n := min len (w - pos)
    c / 2 ^ (pos + n) * 2 ^ (pos + n) + a % 2 ^ n * 2 ^ pos + c % 2 ^ pos

def execBfx (h : Hdr) (d a b : BitVec 7) (m : BitVec 2) (s : State) : Result :=
  let wd := typeW m
  compute s h d wd [opd a wd, opd b .w32] fun x i =>
    extractField (bitsOf wd) (signedType m) (x.srcN i a wd) (x.src32 i b).toNat
def execBfi (h : Hdr) (d a b : BitVec 7) (w : Bool) (s : State) : Result :=
  let wd := wide w
  let c := h.thirdCode d
  compute s h d wd [opd a wd, opd b .w32, opd c wd] fun x i =>
    insertField (bitsOf wd) (x.srcN i a wd) (x.src32 i b).toNat (x.srcN i c wd)

/-! ### Moves, selects and predicates (R67-R71) -/

/-- The four tags of a quad of registers, copied one by one (R67). -/
def Ctx.copyTags (x : Ctx) (g : Group) (d a : Code) : Group :=
  if isV d && isV a then
    g.modLanes x.c.seats fun i l => { l with
      regs := (List.range 4).foldl (fun (rs : List Reg) j =>
        rs.modify (x.wb + d.toNat + j) fun r =>
          { r with tag := ((x.g.lane i).regs.getD (x.wb + a.toNat + j) Reg.zero).tag }) l.regs }
  else g

def execMov (h : Hdr) (d a : BitVec 7) (m : BitVec 2) (s : State) : Result :=
  let wd := if m = 3 then .w128 else wide (m == 2#2)
  withOps s (fun _ => [opd a wd, opd d wd]) (reads := fun _ => [opd a wd]) fun x =>
    let g := x.dst h.n d wd fun i => x.srcN i a wd
    s.retire x h (if m = 3 ∧ !h.n then x.copyTags g d a else g)

/-- MOVI: a sign-extended imm16, or EXT16 above imm16 under a prefix (R68). -/
def execMovi (h : Hdr) (d : BitVec 7) (imm : BitVec 16) (s : State) : Result :=
  compute s h d .w32 [] fun _ _ =>
    match h.pfx with
    | none => (imm.signExtend 32).toNat
    | some p => (p.ext ++ imm).toNat

def execMovh (h : Hdr) (d : BitVec 7) (imm : BitVec 16) (s : State) : Result :=
  compute s h d .w32 [opd d .w32] fun x i => imm.toNat * 65536 + (x.src32 i d).toNat % 65536

def execSel (h : Hdr) (d a b : BitVec 7) (p : BitVec 2) (s : State) : Result :=
  compute s h d .w32 [opd a .w32, opd b .w32] fun x i =>
    (if (x.g.lane i).pred p.toNat then x.src32 i a else x.src32 i b).toNat

/-- The conditions of ISET and PSET (R47). -/
def condition (c : BitVec 2) (a b : Word) : Bool :=
  match c.toNat with
  | 0 => a == b
  | 1 => a != b
  | 2 => decide (a.toInt < b.toInt)
  | _ => decide (a.toNat < b.toNat)

def execIset (h : Hdr) (d a b : BitVec 7) (c : BitVec 2) (s : State) : Result :=
  compute s h d .w32 [opd a .w32, opd b .w32] fun x i => (condition c (x.src32 i a) (x.src32 i b)).toNat

/-- An instruction that writes one predicate and no register. -/
def predOp (s : State) (h : Hdr) (p : Nat) (srcs : List Opd) (f : Ctx → Nat → Bool) : Result :=
  withOps s (fun _ => srcs) fun x => s.retire x h (x.g.modLanes x.c.seats fun i l => l.setPred p (f x i))

def execPset (h : Hdr) (p : BitVec 3) (a b : BitVec 7) (c : BitVec 2) (s : State) : Result :=
  predOp s h p.toNat [opd a .w32, opd b .w32] fun x i => condition c (x.src32 i a) (x.src32 i b)

/-- PMOV (R71). -/
def execPmov (h : Hdr) (d a b : BitVec 7) (m : BitVec 2) (s : State) : Result :=
  match m.toNat with
  | 0 => compute s h d .w32 [] fun x i => ((x.g.lane i).preds ||| 0x80#8).toNat
  | 1 => withOps s (fun _ => [opd a .w32]) fun x =>
      s.retire x h (x.g.modLanes x.c.seats fun i l => { l with preds := (x.src32 i a).setWidth 8 ||| 0x80#8 })
  | 2 => predOp s h d.toNat [] fun x i => (x.g.lane i).pred a.toNat && (x.g.lane i).pred b.toNat
  | _ => predOp s h d.toNat [] fun x i => (x.g.lane i).pred a.toNat != (x.g.lane i).pred b.toNat

end Sys2Proof.Machine
end

