-- ==== Sys2Proof/Machine/Dispatch.lean ====
section
/-! DEFINITION. What each instruction and event does: one call of its meaning. -/

namespace Sys2Proof.Machine

open Sys2Proof

def exec (i : Instr) (s : State) : Host.Outcome State Fault Refusal :=
  match i with
  | .nop h => Sys2Proof.Machine.execNop h s
  | .bra h cond ofs => Sys2Proof.Machine.execBra h cond ofs s
  | .brx h d a call => Sys2Proof.Machine.execBrx h d a call s
  | .call h cond ofs => Sys2Proof.Machine.execCall h cond ofs s
  | .ret h a => Sys2Proof.Machine.execRet h a s
  | .loop h cond ofs => Sys2Proof.Machine.execLoop h cond ofs s
  | .bsync h ofs => Sys2Proof.Machine.execBsync h ofs s
  | .yieldRun h => Sys2Proof.Machine.execYieldRun h s
  | .exit h => Sys2Proof.Machine.execExit h s
  | .wbase h a imm => Sys2Proof.Machine.execWbase h a imm s
  | .setx h x a imm => Sys2Proof.Machine.execSetx h x a imm s
  | .movx h d x imm => Sys2Proof.Machine.execMovx h d x imm s
  | .movxw h x a imm => Sys2Proof.Machine.execMovxw h x a imm s
  | .iadd h d a b m => Sys2Proof.Machine.execIadd h d a b m s
  | .iaddc h d a b m => Sys2Proof.Machine.execIaddc h d a b m s
  | .isub h d a b m => Sys2Proof.Machine.execIsub h d a b m s
  | .isubb h d a b m => Sys2Proof.Machine.execIsubb h d a b m s
  | .imul h d a b m => Sys2Proof.Machine.execImul h d a b m s
  | .imulh h d a b m => Sys2Proof.Machine.execImulh h d a b m s
  | .imad h d a b m => Sys2Proof.Machine.execImad h d a b m s
  | .idiv h d a b m => Sys2Proof.Machine.execIdiv h d a b m s
  | .irem h d a b m => Sys2Proof.Machine.execIrem h d a b m s
  | .imin h d a b m => Sys2Proof.Machine.execImin h d a b m s
  | .imax h d a b m => Sys2Proof.Machine.execImax h d a b m s
  | .iabs h d a m => Sys2Proof.Machine.execIabs h d a m s
  | .ineg h d a m => Sys2Proof.Machine.execIneg h d a m s
  | .and h d a b wide => Sys2Proof.Machine.execAnd h d a b wide s
  | .or h d a b wide => Sys2Proof.Machine.execOr h d a b wide s
  | .xor h d a b wide => Sys2Proof.Machine.execXor h d a b wide s
  | .andn h d a b wide => Sys2Proof.Machine.execAndn h d a b wide s
  | .shl h d a b wide => Sys2Proof.Machine.execShl h d a b wide s
  | .shr h d a b wide => Sys2Proof.Machine.execShr h d a b wide s
  | .sar h d a b wide => Sys2Proof.Machine.execSar h d a b wide s
  | .rol h d a b wide => Sys2Proof.Machine.execRol h d a b wide s
  | .popc h d a wide => Sys2Proof.Machine.execPopc h d a wide s
  | .clz h d a wide => Sys2Proof.Machine.execClz h d a wide s
  | .brev h d a wide => Sys2Proof.Machine.execBrev h d a wide s
  | .bfx h d a b m => Sys2Proof.Machine.execBfx h d a b m s
  | .bfi h d a b wide => Sys2Proof.Machine.execBfi h d a b wide s
  | .iaddImm h d a imm => Sys2Proof.Machine.execIaddImm h d a imm s
  | .andImm h d a imm => Sys2Proof.Machine.execAndImm h d a imm s
  | .orImm h d a imm => Sys2Proof.Machine.execOrImm h d a imm s
  | .xorImm h d a imm => Sys2Proof.Machine.execXorImm h d a imm s
  | .shlRolImm h d a wide rot amt => Sys2Proof.Machine.execShlRolImm h d a wide rot amt s
  | .shrSarImm h d a wide arith amt => Sys2Proof.Machine.execShrSarImm h d a wide arith amt s
  | .mov h d a m => Sys2Proof.Machine.execMov h d a m s
  | .movi h d imm => Sys2Proof.Machine.execMovi h d imm s
  | .movh h d imm => Sys2Proof.Machine.execMovh h d imm s
  | .sel h d a b p => Sys2Proof.Machine.execSel h d a b p s
  | .iset h d a b c => Sys2Proof.Machine.execIset h d a b c s
  | .pset h p a b c => Sys2Proof.Machine.execPset h p a b c s
  | .pmov h d a b m => Sys2Proof.Machine.execPmov h d a b m s
  | .shfl h d a b m => Sys2Proof.Machine.execShfl h d a b m s
  | .vote h d a b m => Sys2Proof.Machine.execVote h d a b m s
  | .reduce h d a op t p => Sys2Proof.Machine.execReduce h d a op t p s
  | .scan h d a op t excl p => Sys2Proof.Machine.execScan h d a op t excl p s
  | .matchv h d a wide all => Sys2Proof.Machine.execMatchv h d a wide all s
  | .mapget h d a seat => Sys2Proof.Machine.execMapget h d a seat s
  | .fadd h d a b m => Sys2Proof.Machine.execFadd h d a b m s
  | .fsub h d a b m => Sys2Proof.Machine.execFsub h d a b m s
  | .fmul h d a b m => Sys2Proof.Machine.execFmul h d a b m s
  | .ffma h d a b m => Sys2Proof.Machine.execFfma h d a b m s
  | .fmin h d a b m => Sys2Proof.Machine.execFmin h d a b m s
  | .fmax h d a b m => Sys2Proof.Machine.execFmax h d a b m s
  | .fdiv h d a b m => Sys2Proof.Machine.execFdiv h d a b m s
  | .fsqrt h d a m => Sys2Proof.Machine.execFsqrt h d a m s
  | .frcp h d a m => Sys2Proof.Machine.execFrcp h d a m s
  | .frsq h d a m => Sys2Proof.Machine.execFrsq h d a m s
  | .fexp2 h d a m => Sys2Proof.Machine.execFexp2 h d a m s
  | .flog2 h d a m => Sys2Proof.Machine.execFlog2 h d a m s
  | .fsin h d a m => Sys2Proof.Machine.execFsin h d a m s
  | .fcos h d a m => Sys2Proof.Machine.execFcos h d a m s
  | .fset h d a b m => Sys2Proof.Machine.execFset h d a b m s
  | .fclass h d a m => Sys2Proof.Machine.execFclass h d a m s
  | .fcvt h d a kd ks => Sys2Proof.Machine.execFcvt h d a kd ks s
  | .icvt h d a fk it toFloat => Sys2Proof.Machine.execIcvt h d a fk it toFloat s
  | .pack h d a hi f m => Sys2Proof.Machine.execPack h d a hi f m s
  | .unpack h d a hi f m => Sys2Proof.Machine.execUnpack h d a hi f m s
  | .flclr h a => Sys2Proof.Machine.execFlclr h a s
  | .fmtw h f a => Sys2Proof.Machine.execFmtw h f a s
  | .fmtr h d f => Sys2Proof.Machine.execFmtr h d f s
  | .scacc h t a b m => Sys2Proof.Machine.execScacc h t a b m s
  | .ldw h hm a f m => Sys2Proof.Machine.execLdw h hm a f m s
  | .swapw h => Sys2Proof.Machine.execSwapw h s
  | .mma h t hm b m => Sys2Proof.Machine.execMma h t hm b m s
  | .mmq h t hm b m => Sys2Proof.Machine.execMmq h t hm b m s
  | .tzero h t => Sys2Proof.Machine.execTzero h t s
  | .trd h t col ix v u => Sys2Proof.Machine.execTrd h t col ix v u s
  | .twr h t col ix v u => Sys2Proof.Machine.execTwr h t col ix v u s
  | .tld h t col ix hm u => Sys2Proof.Machine.execTld h t col ix hm u s
  | .tst h t col ix hm u => Sys2Proof.Machine.execTst h t col ix hm u s
  | .tscl h t col ix v u => Sys2Proof.Machine.execTscl h t col ix v u s
  | .ld h d cap off imm => Sys2Proof.Machine.execLd h d cap off imm s
  | .st h d cap off imm => Sys2Proof.Machine.execSt h d cap off imm s
  | .ldu h d cap off imm => Sys2Proof.Machine.execLdu h d cap off imm s
  | .ldc h d cap off imm => Sys2Proof.Machine.execLdc h d cap off imm s
  | .stc h d cap off imm => Sys2Proof.Machine.execStc h d cap off imm s
  | .atom h d cap off imm => Sys2Proof.Machine.execAtom h d cap off imm s
  | .atomr h d cap off imm => Sys2Proof.Machine.execAtomr h d cap off imm s
  | .capset h p q k g => Sys2Proof.Machine.execCapset h p q k g s
  | .capperm h p q k g => Sys2Proof.Machine.execCapperm h p q k g s
  | .capadd h p q k g => Sys2Proof.Machine.execCapadd h p q k g s
  | .capget h p q quad g => Sys2Proof.Machine.execCapget h p q quad g s
  | .capchk h q quad g => Sys2Proof.Machine.execCapchk h q quad g s
  | .fence h => Sys2Proof.Machine.execFence h s
  | .pfetch h q quad slice g => Sys2Proof.Machine.execPfetch h q quad slice g s
  | .cwb h q quad mem g => Sys2Proof.Machine.execCwb h q quad mem g s
  | .cinv h q quad g => Sys2Proof.Machine.execCinv h q quad g s
  | .hget h d hm off imm => Sys2Proof.Machine.execHget h d hm off imm s
  | .hput h d hm off imm => Sys2Proof.Machine.execHput h d hm off imm s
  | .copy h p q k g => Sys2Proof.Machine.execCopy h p q k g s
  | .copy2 h p q k g => Sys2Proof.Machine.execCopy2 h p q k g s
  | .copyc h test k g => Sys2Proof.Machine.execCopyc h test k g s
  | .hgive h p q k g => Sys2Proof.Machine.execHgive h p q k g s
  | .hmapr h p q cap g => Sys2Proof.Machine.execHmapr h p q cap g s
  | .kinit h p k g => Sys2Proof.Machine.execKinit h p k g s
  | .kadd h p k g => Sys2Proof.Machine.execKadd h p k g s
  | .kwait h p k g => Sys2Proof.Machine.execKwait h p k g s
  | .spawn h p k => Sys2Proof.Machine.execSpawn h p k s
  | .join h p g => Sys2Proof.Machine.execJoin h p g s
  | .bar h arr g => Sys2Proof.Machine.execBar h arr g s
  | .barcfg h k g => Sys2Proof.Machine.execBarcfg h k g s
  | .regroup h g => Sys2Proof.Machine.execRegroup h g s
  | .post h p q k g => Sys2Proof.Machine.execPost h p q k g s
  | .hold h clr g => Sys2Proof.Machine.execHold h clr g s
  | .name h grp k g => Sys2Proof.Machine.execName h grp k g s
  | .eqpush h p g => Sys2Proof.Machine.execEqpush h p g s
  | .eqpop h p noWait g => Sys2Proof.Machine.execEqpop h p noWait g s
  | .amsg h p q k g => Sys2Proof.Machine.execAmsg h p q k g s
  | .svc h n k g => Sys2Proof.Machine.execSvc h n k g s
  | .tbegin h g => Sys2Proof.Machine.execTbegin h g s
  | .tend h => Sys2Proof.Machine.execTend h s
  | .tabort h c => Sys2Proof.Machine.execTabort h c s
  | .tstat h g => Sys2Proof.Machine.execTstat h g s
  | .trap h c => Sys2Proof.Machine.execTrap h c s
  | .tret h next => Sys2Proof.Machine.execTret h next s
  | .pdone h => Sys2Proof.Machine.execPdone h s
  | .csrr h csr g => Sys2Proof.Machine.execCsrr h csr g s
  | .csrw h csr g => Sys2Proof.Machine.execCsrw h csr g s
  | .larm h p k g => Sys2Proof.Machine.execLarm h p k g s
  | .lwait h k g => Sys2Proof.Machine.execLwait h k g s
  | .eret h => Sys2Proof.Machine.execEret h s
  | .wfi h => Sys2Proof.Machine.execWfi h s
  | .extinv h p g => Sys2Proof.Machine.execExtinv h p g s
  | .ifence h => Sys2Proof.Machine.execIfence h s
  | .dbrk h c => Sys2Proof.Machine.execDbrk h c s
  | .cyc h g => Sys2Proof.Machine.execCyc h g s
  | .runLimit g => Sys2Proof.Machine.execRunLimit g s
  | .steepExpiry g => Sys2Proof.Machine.execSteepExpiry g s
  | .steepWrite g v => Sys2Proof.Machine.execSteepWrite g v s
  | .barrierPhase team n => Sys2Proof.Machine.execBarrierPhase team n s
  | .regroupMeeting team => Sys2Proof.Machine.execRegroupMeeting team s
  | .kettleStep cluster hamper off => Sys2Proof.Machine.execKettleStep cluster hamper off s
  | .copyWrite core slot off len => Sys2Proof.Machine.execCopyWrite core slot off len s
  | .copyComplete core slot => Sys2Proof.Machine.execCopyComplete core slot s
  | .hgiveComplete g => Sys2Proof.Machine.execHgiveComplete g s
  | .matrixPerform core => Sys2Proof.Machine.execMatrixPerform core s
  | .shArrival core => Sys2Proof.Machine.execShArrival core s
  | .sliceRead req => Sys2Proof.Machine.execSliceRead req s
  | .sliceWrite req => Sys2Proof.Machine.execSliceWrite req s
  | .atomicPerform req => Sys2Proof.Machine.execAtomicPerform req s
  | .invalidation agent line => Sys2Proof.Machine.execInvalidation agent line s
  | .invalidationAck agent line => Sys2Proof.Machine.execInvalidationAck agent line s
  | .recall agent line => Sys2Proof.Machine.execRecall agent line s
  | .evictionNotice agent line => Sys2Proof.Machine.execEvictionNotice agent line s
  | .writeBack agent line => Sys2Proof.Machine.execWriteBack agent line s
  | .nodeCopyInvalidate line => Sys2Proof.Machine.execNodeCopyInvalidate line s
  | .memoryReply req => Sys2Proof.Machine.execMemoryReply req s
  | .rehomeAnswer req => Sys2Proof.Machine.execRehomeAnswer req s
  | .sliceMapChange slice => Sys2Proof.Machine.execSliceMapChange slice s
  | .injectorAck injector => Sys2Proof.Machine.execInjectorAck injector s
  | .stubRetire => Sys2Proof.Machine.execStubRetire s
  | .extentWalk asn obj page src => Sys2Proof.Machine.execExtentWalk asn obj page src s
  | .parkRetry g => Sys2Proof.Machine.execParkRetry g s
  | .counterThreshold asn obj page => Sys2Proof.Machine.execCounterThreshold asn obj page s
  | .noticeWrite => Sys2Proof.Machine.execNoticeWrite s
  | .lwaitTimeout g => Sys2Proof.Machine.execLwaitTimeout g s
  | .joinRecheck g => Sys2Proof.Machine.execJoinRecheck g s
  | .eqRecheck g => Sys2Proof.Machine.execEqRecheck g s
  | .spawnQueueRoom g => Sys2Proof.Machine.execSpawnQueueRoom g s
  | .streamPrefetch core line => Sys2Proof.Machine.execStreamPrefetch core line s
  | .teamRetire team => Sys2Proof.Machine.execTeamRetire team s
  | .schedule part => Sys2Proof.Machine.execSchedule part s
  | .holdoffExpiry part => Sys2Proof.Machine.execHoldoffExpiry part s
  | .preemptTeam part => Sys2Proof.Machine.execPreemptTeam part s
  | .preemptGrid part => Sys2Proof.Machine.execPreemptGrid part s
  | .holdGrid part => Sys2Proof.Machine.execHoldGrid part s
  | .releaseGrid part => Sys2Proof.Machine.execReleaseGrid part s
  | .preemptTrap g => Sys2Proof.Machine.execPreemptTrap g s
  | .preemptDeadline part => Sys2Proof.Machine.execPreemptDeadline part s
  | .teamSave team => Sys2Proof.Machine.execTeamSave team s
  | .partitionSwap part => Sys2Proof.Machine.execPartitionSwap part s
  | .swapExchange part => Sys2Proof.Machine.execSwapExchange part s
  | .stallWatch grid => Sys2Proof.Machine.execStallWatch grid s
  | .partitionClustersWrite w v => Sys2Proof.Machine.execPartitionClustersWrite w v s
  | .partenWrite v => Sys2Proof.Machine.execPartenWrite v s
  | .interruptTake n => Sys2Proof.Machine.execInterruptTake n s
  | .ivclaim n => Sys2Proof.Machine.execIvclaim n s
  | .caddyTicket => Sys2Proof.Machine.execCaddyTicket s
  | .revalidationTimer g seat => Sys2Proof.Machine.execRevalidationTimer g seat s
  | .cosyLockGrant => Sys2Proof.Machine.execCosyLockGrant s
  | .postcardRoute msg => Sys2Proof.Machine.execPostcardRoute msg s
  | .postcardDeliver msg => Sys2Proof.Machine.execPostcardDeliver msg s
  | .statusLand msg => Sys2Proof.Machine.execStatusLand msg s
  | .amsgArrival msg => Sys2Proof.Machine.execAmsgArrival msg s
  | .svcBatch batch => Sys2Proof.Machine.execSvcBatch batch s
  | .svcReply batch replies => Sys2Proof.Machine.execSvcReply batch replies s
  | .alloc batch lane => Sys2Proof.Machine.execAlloc batch lane s
  | .free batch lane => Sys2Proof.Machine.execFree batch lane s
  | .sread batch lane blocks ok => Sys2Proof.Machine.execSread batch lane blocks ok s
  | .swrite batch lane ok => Sys2Proof.Machine.execSwrite batch lane ok s
  | .sflush batch lane ok => Sys2Proof.Machine.execSflush batch lane ok s
  | .extinvComplete => Sys2Proof.Machine.execExtinvComplete s
  | .takerInvalidate pkg what => Sys2Proof.Machine.execTakerInvalidate pkg what s
  | .xdrain => Sys2Proof.Machine.execXdrain s
  | .xdrainDone => Sys2Proof.Machine.execXdrainDone s
  | .rvsync asn => Sys2Proof.Machine.execRvsync asn s
  | .rvsyncDone => Sys2Proof.Machine.execRvsyncDone s
  | .messageArrival port msg => Sys2Proof.Machine.execMessageArrival port msg s
  | .frameFcsDiscard port => Sys2Proof.Machine.execFrameFcsDiscard port s
  | .uudTimeout port conn => Sys2Proof.Machine.execUudTimeout port conn s
  | .txEntryServe ring => Sys2Proof.Machine.execTxEntryServe ring s
  | .txRingRecheck ring => Sys2Proof.Machine.execTxRingRecheck ring s
  | .penWrite v => Sys2Proof.Machine.execPenWrite v s
  | .nodecfgWrite v => Sys2Proof.Machine.execNodecfgWrite v s
  | .remoteReply req answer => Sys2Proof.Machine.execRemoteReply req answer s
  | .fabricResend req => Sys2Proof.Machine.execFabricResend req s
  | .pcieHoldTimeout req => Sys2Proof.Machine.execPcieHoldTimeout req s
  | .msixMessage data => Sys2Proof.Machine.execMsixMessage data s
  | .requesterEntryWrite v => Sys2Proof.Machine.execRequesterEntryWrite v s
  | .pcieMemRead port => Sys2Proof.Machine.execPcieMemRead port s
  | .pcieMemWrite port => Sys2Proof.Machine.execPcieMemWrite port s
  | .pcieCfgRead port => Sys2Proof.Machine.execPcieCfgRead port s
  | .pcieOutboundComplete res data => Sys2Proof.Machine.execPcieOutboundComplete res data s
  | .challenge => Sys2Proof.Machine.execChallenge s
  | .unlock => Sys2Proof.Machine.execUnlock s
  | .attest => Sys2Proof.Machine.execAttest s
  | .keymem => Sys2Proof.Machine.execKeymem s
  | .keyport => Sys2Proof.Machine.execKeyport s
  | .keyzero => Sys2Proof.Machine.execKeyzero s
  | .measure => Sys2Proof.Machine.execMeasure s
  | .illegalEncoding => Sys2Proof.Machine.execIllegalEncoding s
  | .instructionFetchFault cause value => Sys2Proof.Machine.execInstructionFetchFault cause value s
  | .getVersion => Sys2Proof.Machine.execGetVersion s
  | .getCapabilities => Sys2Proof.Machine.execGetCapabilities s
  | .negotiateAlgorithms => Sys2Proof.Machine.execNegotiateAlgorithms s
  | .getDigests => Sys2Proof.Machine.execGetDigests s
  | .getCertificate => Sys2Proof.Machine.execGetCertificate s
  | .spdmChallenge => Sys2Proof.Machine.execSpdmChallenge s
  | .getMeasurements block => Sys2Proof.Machine.execGetMeasurements block s
  | .keyExchange => Sys2Proof.Machine.execKeyExchange s
  | .finish session => Sys2Proof.Machine.execFinish session s
  | .endSession session => Sys2Proof.Machine.execEndSession session s
  | .arm part addr launch team thread => Sys2Proof.Machine.execArm part addr launch team thread s
  | .disarm part addr launch team thread => Sys2Proof.Machine.execDisarm part addr launch team thread s
  | .halt t => Sys2Proof.Machine.execHalt t s
  | .rdreg t r => Sys2Proof.Machine.execRdreg t r s
  | .wrreg t r v => Sys2Proof.Machine.execWrreg t r v s
  | .rdmem addr => Sys2Proof.Machine.execRdmem addr s
  | .resume t => Sys2Proof.Machine.execResume t s
  | .mapOut u => Sys2Proof.Machine.execMapOut u s
  | .channelMapOut ch => Sys2Proof.Machine.execChannelMapOut ch s
  | .thermalThrottle => Sys2Proof.Machine.execThermalThrottle s
  | .criticalTemperature => Sys2Proof.Machine.execCriticalTemperature s
  | .packageReset image => Sys2Proof.Machine.execPackageReset image s
  | .lifecycleMove target token => Sys2Proof.Machine.execLifecycleMove target token s
  | .cacheEviction what => Sys2Proof.Machine.execCacheEviction what s
  | .watchFireNoWrite g => Sys2Proof.Machine.execWatchFireNoWrite g s
  | .streamPacketArrival port pkt => Sys2Proof.Machine.execStreamPacketArrival port pkt s
  | .txDeliveryOutcome ring entry delivered => Sys2Proof.Machine.execTxDeliveryOutcome ring entry delivered s
  | .groupMigration g core slot seat => Sys2Proof.Machine.execGroupMigration g core slot seat s
  | .partitionReset part => Sys2Proof.Machine.execPartitionReset part s
  | .imageRecovery image => Sys2Proof.Machine.execImageRecovery image s
  | .throttleEnd => Sys2Proof.Machine.execThrottleEnd s
  | .powerLimitSet cap limit => Sys2Proof.Machine.execPowerLimitSet cap limit s
  | .pcieCfgWrite port addr data => Sys2Proof.Machine.execPcieCfgWrite port addr data s
  | .linkFlitResend link => Sys2Proof.Machine.execLinkFlitResend link s
  | .remoteRequest req => Sys2Proof.Machine.execRemoteRequest req s
  | .pcieInbound req => Sys2Proof.Machine.execPcieInbound req s

end Sys2Proof.Machine
end

