-- ==== Sys2Proof/Machine/Pending.lean ====
section
/-! DEFINITION. What comes next when a step begins: what has come due, what the package's engines have before them, and
whose turn it is (log 2). -/

namespace Sys2Proof.Machine

open Sys2Proof

/-! ### What has come due -/

/-- The events of a thread that have come due: the limit of LWAIT (R299), room for a SPAWN (R271), the replay of lanes that
no monitor records (R364). -/
def State.dueThread (s : State) (w : Who) (g : Group) : List Instr :=
  (match g.wait with
   | some (.lwait since limit _) => if limit ≠ 0 ∧ since + limit ≤ s.now then [Instr.lwaitTimeout w] else []
   | some .joinFar => [Instr.joinRecheck w]
   | some (.eqFar _) => [Instr.eqRecheck w]
   | _ => []) ++
  (match g.waits.findSome? Wait.spawn with
   | some d => if s.queueRoom w d.1.priority then [Instr.spawnQueueRoom w] else []
   | none => []) ++
  (if (g.seatsWhere fun l => match l.mode with
      | .parked _ (some t) => decide (t ≤ s.now)
      | _ => false).isEmpty then [] else [Instr.parkRetry w])

/-- The events of a compute group: the steep timer (R149), what waits for its run boundary (R343, R344), the end of a give
(R107), and the revalidation timers of its transactions (R313). -/
def State.dueGroup (s : State) (k : Nat) (g : Group) : List Instr :=
  if g.ended then [] else
  s.dueThread (.grp k) g ++
  (if g.steepReached s.now then [Instr.steepExpiry k] else []) ++
  (if s.boundaryDue g then [Instr.preemptTrap k] else []) ++
  (if (s.giveOver k g).isSome then [Instr.hgiveComplete k] else []) ++
  ((List.range g.lanes.length).filter fun i => ((g.lane i).tx).any fun t => decide (2 ^ (t.valp + 10) ≤ s.now - t.since)).map
    fun (i : Nat) => Instr.revalidationTimer k i

/-- The interrupts that control cores can take, or wait for (R297, R403). -/
def State.dueCtl (s : State) (n : Nat) (k : Ctl) : List Instr :=
  s.dueThread (.ctl n) k.thread ++
  (if !(s.pendingFor n).isEmpty && (k.thread.wait == some Wait.wfi || s.canInterrupt n) then [Instr.interruptTake n] else [])

/-- The events of a partition: HOLDOFF (R340), the pre-emption deadline (R344) and the exchange of a swap (R347). -/
def State.duePart (s : State) (p : Nat) (q : Part) : List Instr :=
  (if q.holdoff ≠ 0 ∧ (q.heads.any fun h => !h.held && decide (h.since + usec q.holdoff ≤ s.now)) then [Instr.holdoffExpiry p] else []) ++
  (if (s.lateGroups p).isEmpty then [] else [Instr.preemptDeadline p]) ++
  (if q.swap.isSome && s.swapDrained p then [Instr.swapExchange p] else [])

/-- The package's own events: the cosy lock (R321), the notice ring (R366), EXTINV (R301), XDRAIN and RVSYNC (R367), and the timeouts of the fabric, the ports and PCIe (R381, R397, R400). -/
def State.dueUnits (s : State) : List Instr :=
  (if s.cosy.isNone && !s.cosyQ.isEmpty then [Instr.cosyLockGrant] else []) ++
  (if !s.notices.isEmpty && s.noticeRoom then [Instr.noticeWrite] else []) ++
  (if s.extinvs.any fun e => !s.anyOpen e.pend then [Instr.extinvComplete] else []) ++
  (if s.xdrain.any fun v => !s.workOpen v then [Instr.xdrainDone] else []) ++
  (if s.rvsync.any fun v => !s.workOpen v.work then [Instr.rvsyncDone] else []) ++
  ((s.reqs.filter fun r => s.resendDue r.2).map fun (r : Nat × Req) => Instr.fabricResend r.1) ++
  ((s.partials.filter fun p => p.late s.now).map
    fun (p : Partial) => Instr.uudTimeout p.port p.conn) ++
  ((s.held.filter fun h => h.2.since.any fun t => decide (t + usec 500 ≤ s.now)).map fun (h : Nat × HeldPcie) => Instr.pcieHoldTimeout h.1)

/-- Everything that has come due. -/
def State.due (s : State) : List Instr :=
  (s.ctls.flatMap fun (e : Nat × Ctl) => if e.2.started && !e.2.mappedOut then s.dueCtl e.1 e.2 else []) ++
  (s.groups.flatMap fun (e : Nat × Group) => s.dueGroup e.1 e.2) ++
  (s.teams.flatMap fun (e : Nat × Team) =>
    (if s.teamSavable e.2 then [Instr.teamSave e.1] else []) ++ (if s.retireDue e.2 then [Instr.teamRetire e.1] else [])) ++
  (s.grids.filterMap fun (e : Nat × Grid) => if s.watchDue e.1 e.2 then some (Instr.stallWatch e.1) else none) ++
  (s.parts.flatMap fun (e : Nat × Part) => s.duePart e.1 e.2) ++ s.dueUnits

/-! ### What the engines have before them -/

/-- A piece of work of the package's engines: an event, or one that needs a choice or a request of its own. -/
inductive Job where
  | event (i : Instr)
  | copy (core slot total : Nat)
  | prefetch (core : Nat)
  | place (ring : Nat)
  | fabric (req : FabricReq)
  | pcie (n : Nat) (h : HeldPcie)
  | channel (ch : Nat)
  | rdmem (addr : Nat)
  | flaw (f : Flaw)
  | ack (v : TakerAck)
  | letGo (n : Nat)
  | hw (w : HwWrite)
  | drive (batch lane : Nat)

/-- Requests in flight at their home slices (R234, R239). -/
def State.workReqs (s : State) : List Job :=
  (s.reqs.filter fun r => r.2.remote.isNone).map fun (r : Nat × Req) =>
    .event (if r.2.done then .memoryReply r.1
      else if r.2.rehome then .rehomeAnswer r.1
      else match r.2.kind with
        | .load _ _ => .sliceRead r.1
        | .loadCap _ => .sliceRead r.1
        | .atomic _ _ _ _ _ => .atomicPerform r.1
        | _ => .sliceWrite r.1)

/-- Invalidations, recalls, acknowledgements, notices and write-backs, and the change of the slice map (R238, R265, R266). -/
def State.workLines (s : State) : List Job :=
  (s.dir.flatMap fun (d : Nat × DirEntry) => if !d.2.busy then [] else
    (d.2.owed.map fun (a : Nat) => Job.event (if d.2.recalls then .recall a d.1 else .invalidation a d.1)) ++
    ((d.2.acked.map (·.1)).filter fun a => !Machine.nodeAgent a).map fun (a : Nat) => Job.event (.invalidationAck a d.1)) ++
  (s.notes.map fun (n : DropNote) => Job.event (if n.data then .writeBack n.agent n.line else .evictionNotice n.agent n.line)) ++
  (match s.change with
   | none => if !s.mayChange then [] else (s.leaving.take 1).map fun (l : Nat) => Job.event (.sliceMapChange l)
   | some c => if c.step = 1 then [Job.event (.sliceMapChange c.slice)]
     else match c.acks with
       | [] => if s.forStub then [] else [Job.event .stubRetire]
       | a :: _ => [Job.event (.injectorAck a)])

/-- Copies, matrix arrays, prefetchers and .sh operations of the cores (R110, R191, R201, R233). -/
def State.workCores (s : State) : List Job :=
  s.cores.flatMap fun (e : Nat × Core) =>
    (e.2.copies.flatMap fun (c : Nat × CopySlot) =>
      if c.2.state != .running then []
      else if c.2.stop.isSome then []
      else if c.2.allWritten && !s.copyReqs e.1 c.1 true then [Job.event (.copyComplete e.1 c.1)]
      else [Job.copy e.1 c.1 c.2.total]) ++
    (if s.matrixReady e.1 then [Job.event (.matrixPerform e.1)] else []) ++
    (if (s.arriving e.1).isSome then [Job.event (.shArrival e.1)] else []) ++
    (if e.2.streams.isEmpty then [] else [Job.prefetch e.1])

/-- Messages on their way and batches of services (R280, R285, R287, R404, R405). -/
def State.workMsgs (s : State) : List Job :=
  (s.msgs.filterMap fun (m : Nat × Msg) => match m.2 with
    | .post _ _ _ => some (Job.event (.postcardRoute m.1))
    | .forwarded _ _ _ _ _ => some (Job.event (.postcardDeliver m.1))
    | .status _ _ _ _ _ => some (Job.event (.statusLand m.1))
    | .amsg _ _ _ _ _ _ => some (Job.event (.amsgArrival m.1))
    | .resolve _ _ => none) ++
  (s.batches.flatMap fun (b : Nat × Batch) =>
    let next := (List.range b.2.seats.length).find? fun j => (b.2.replies.get? j).isNone
    if !b.2.taken then [Job.event (.svcBatch b.1)]
    else match next with
      | none => if [1, 2, 16, 17, 18].contains b.2.n then [Job.event (.svcReply b.1 [])] else []
      | some j => if b.2.n = 1 then [Job.event (.alloc b.1 j)] else if b.2.n = 2 then [Job.event (.free b.1 j)] else []) ++
  -- a storage request that has still to go to its drive, or whose answer has still to reach its buffer
  (s.batches.flatMap fun (b : Nat × Batch) => if !b.2.taken || !([16, 17, 18].contains b.2.n) then [] else
    ((List.range b.2.seats.length).filter fun j => (b.2.replies.get? j).isNone && (!b.2.asked.contains j || (b.2.answers.get? j).isSome)).map
      fun (j : Nat) => Job.drive b.1 j)

/-- A transmit ring that its port would look at now (R391). -/
def State.txWork (s : State) (r : Nat) : Option Instr :=
  match s.txBusy.get? r, s.txRing r with
  | some b, _ => if b.sent && b.outcome.isNone then none else some (.txEntryServe r)
  | none, none => none
  | none, some t =>
    if s.num (t.desc + 0x18) 8 = s.num (t.desc + 0x10) 8 || !s.txAgain r then none
    else if (s.txWait.get? r).isSome then some (.txRingRecheck r)
    else some (.txEntryServe r)

/-- The ports, the fabric, PCIe, the trust core and failing channels (R370, R385, R391, R397, R400, R423). -/
def State.workUnits (s : State) : List Job :=
  (((s.placing.map fun (p : Placing) => p.msg.ring).foldl sInsert []).map fun (r : Nat) => Job.place r) ++
  (if s.regs.pen = 0 then (s.txBusy.filterMap fun (e : Nat × TxBusy) => (s.txWork e.1).map Job.event) else (List.range 1024).filterMap fun r => (s.txWork r).map Job.event) ++
  (s.hwWrites.map fun (w : HwWrite) => Job.hw w) ++
  (s.inbound.map fun (q : FabricReq) => Job.fabric q) ++
  ((s.acks.filter fun v => !s.workOpen v.work).map fun (v : TakerAck) => Job.ack v) ++ (s.leftSteps.map fun (n : Nat) => Job.letGo n) ++
  (s.rdmems.map fun (a : Nat) => Job.rdmem a) ++ (s.flaws.map fun (f : Flaw) => Job.flaw f) ++
  (s.held.filterMap fun (h : Nat × HeldPcie) =>
    if (s.firstHeld h.2.req.port h.2.req.rid).any fun q => q.1 == h.1 then some (Job.pcie h.1 h.2) else none) ++
  (s.channelsDue.map fun (c : Nat) => Job.channel c) ++
  (match s.trust.busy with
   | some 1 => [Job.event .challenge]
   | some 2 => [Job.event .unlock]
   | some 3 => [Job.event .attest]
   | some 4 => [Job.event .keymem]
   | some 5 => [Job.event .keyport]
   | some 6 => [Job.event .keyzero]
   | some 7 => [Job.event .measure]
   | _ => [])

/-- All the work, what has come due before it. -/
def State.works (s : State) : List Job :=
  s.due.map (fun (i : Instr) => Job.event i) ++ s.workReqs ++ s.workLines ++ s.workCores ++ s.workMsgs ++
  (if s.tickets.isEmpty then [] else [Job.event .caddyTicket]) ++ s.workUnits

/-- The lines that a core's streams may fetch now (R233). -/
def State.aheadLines (s : State) (core : Nat) : List Nat :=
  (s.core core).streams.flatMap fun v => match s.partOf (.grp v.group) with
    | none => []
    | some p => if (s.part p).pfMode ≠ 2 then [] else
      (v.ahead (s.part p).pfDist).filterMap fun l => (s.peek { v.key with page := 128 * l / 65536 } (128 * l)).map (· / 128)

/-- An engine takes up a piece of work. -/
def State.doWork (s : State) : Job → Option Instr × State
  | .event i => (some i, s)
  | .copy core slot total =>
    let (k, s) := s.pick
    let off := k % max 1 total
    (some (.copyWrite core slot off (total - off)), s)
  | .prefetch core =>
    let (k, s) := s.pick
    let ls := s.aheadLines core
    (ls[k % max 1 ls.length]?.map fun l => Instr.streamPrefetch core l, s)
  | .place r => (none, s.placeNext r)
  | .fabric q => (none, s.remoteAgain q)
  | .pcie n h => (none, s.pcieRun n h)
  | .channel ch => (none, s.channelOut ch)
  | .rdmem a => (none, s.readMem a)
  | .flaw f => (none, s.strike f)
  | .ack v => (none, s.acknowledge v)
  | .letGo n => (none, s.letGo n)
  | .hw w => (none, s.hwAgain w (match w with
    | .observation p bs => State.observationGo p bs
    | .record p kind cause launch bs => State.recordGo p kind cause launch bs
    | .count e => State.countGo e
    | .portCount p off n => State.portCountGo p off n))
  | .drive b l => (none, (s.askDrive b l).fromDrive b l)

/-- The engines' turn: each piece of work in its round, or the one that the hardware chooses. -/
def State.engine (s : State) : Option Instr × State :=
  let (k, s) := s.pick
  let s := { s with round := s.round + 1 }
  let ws := s.works
  match ws[(k + s.round) % max 1 ws.length]? with
  | none => (none, s)
  | some w => s.doWork w

/-! ### What waits for a run boundary -/

/-- A remote store that failed is taken as FABRIC at the run boundary, with DEF = 1 (R398). -/
def State.failedAt (s : State) (w : Who) (g : Group) (v : Deferred) : State :=
  let s := (s.abort w g.live .fault).modGroup w fun g => { g.endWait s.now with failed := g.failed.tail }
  match w with
  | .ctl n => s.exception n ((s.group? w).getD g |>.lane 0).pc (causeNum v.cause) v.value
  | .grp k => s.boundaryTrap k v.cause (some ((List.range 32).filter fun i => v.mask.getLsbD i)) v.value (some v.pc) none

/-- What a thread with no open run does before it issues again: what R138 lets happen there, a HALT, or a deferred FABRIC
(R398, R416). A thread that
waits for the answer of its instruction takes the answer first, but an LWAIT ends with reason 2. -/
def State.atBoundary (s : State) (w : Who) (g : Group) : Option State :=
  if g.runOpen || g.dbgStop || g.away || g.ended then none
  else if s.boundaryDue g then
    match w with
    | .grp k => some (s.boundary k)
    | .ctl _ => none
  else if g.haltReady w then some (s.haltNow w g)
  else match g.failed with
    | [] => none
    | v :: _ =>
      if g.waitDone.isSome then none
      else match g.wait with
        | some (.lwait _ _ _) => some (s.modGroup w fun g => g.endLwait s.now 2)
        | some q => if q.answers then none else some (s.failedAt w g v)
        | none => some (s.failedAt w g v)

/-- The first group of a slot with something to do at its boundary. -/
def State.slotBoundary (s : State) (core slot : Nat) : Option State :=
  s.groups.findSome? fun (e : Nat × Group) => if e.2.onSlot core slot then s.atBoundary (.grp e.1) e.2 else none

/-! ### The next step -/

/-- The event that the agenda has next. -/
def State.nextEvent (s : State) : Option (Instr × State) :=
  match s.agenda with
  | e :: rest => some (e, { s with agenda := rest })
  | [] => none

/-- What the agent whose turn it is does. A package that is held in reset or halted does nothing. -/
def State.nextIssue (s : State) : Option Instr × State :=
  let t := s.turn
  let s := s.passTurn
  if s.boot != .running || s.health.halted then (none, s) else
  match t with
  | .ctl n => match s.atBoundary (.ctl n) (s.ctl n).thread with
    | some s => (none, s)
    | none => s.issueCtl n
  | .slot c k => match s.slotBoundary c k with
    | some s => (none, s)
    | none => s.issueSlot c k
  | .engine => s.engine

end Sys2Proof.Machine
end

