-- ==== Sys2Proof/Machine/Step.lean ====
section
/-! DEFINITION. One step of the package: the clocks of the step pass, then the event that the agenda has next takes
effect, or the agent whose turn it is issues an instruction or takes up its work; with nothing to do, nothing else happens. -/

namespace Sys2Proof.Machine

open Sys2Proof

def step (s : State) : Host.Outcome State Fault Refusal :=
  match s.clock.nextEvent with
  | some (e, s') => exec e s'
  | none =>
    match s.clock.nextIssue with
    | (some i, s') => exec i s'
    | (none, s') => .next s'

/-- A state whose next step fetches and runs the instruction given: control core 0 runs in kernel mode at address 0 of
object 0 of address space 0, whose one page of code holds the words. It stands for the load of a program (log 14). -/
def State.withFetchWord (s : State) (nbits w : Nat) : State :=
  let space := leBytes 8 0x40 ++ leBytes 4 1 ++ leBytes 4 1 ++ leBytes 8 0x80
  let object := leBytes 16 (2 ^ 127 + 2 ^ 126 + 2 ^ 100 + 0x100)
  let s := { s with boot := .running, health := { s.health with halted := false, badChans := [] }, turn := .ctl 0, agenda := [], cur := none,
                    ticks := [], bits := [], picks := [], extents := [], change := none,
                    regs := { s.regs with astBase := 0, astLen := 1 } }
  let s := (((s.write 0 space).write 0x40 object).write 0x80 [0]).write 0x100 (leBytes 8 (2 ^ 63 + 2 ^ 16))
  let s := s.write 0x10000 (leBytes 32 (w % 2 ^ nbits))
  let k := s.ctl 0
  s.setCtl 0 { k with
    started := true, mappedOut := false, kernel := true, ie := false, pasn := 0, icache := [], revoked := [],
    thread := { k.thread with
      wait := none, dbgStop := false, skipStop := [(1, 0)], failed := [], crossing := [], snap := none, issueQ := [], runOpen := false, lanes := k.thread.lanes.modify 0 fun l =>
        { l with pc := 0, mode := .running, held := false, thread := some 0 } } }

end Sys2Proof.Machine
end

