-- ==== Sys2Proof/Safety.lean ====
section
/-! DEFINITION. What counts as a safe run of the package, and the terms the claims use: when an instruction's operands are
free, what of a group an instruction's end leaves alone, and where an instruction lands. -/

namespace Sys2Proof.Safety

open Sys2Proof Sys2Proof.Machine

/-- States that runs of the machine from `s` reach. -/
inductive Reaches : State → State → Prop where
  | refl (s : State) : Reaches s s
  | step {s t u : State} : Machine.step s = .next t → Reaches t u → Reaches s u

/-- A run is safe for a property when every state it reaches has it. -/
def Always (P : State → Prop) (s : State) : Prop := ∀ t, Reaches s t → P t

/-- No run of the package stops: every state reached has a next one. -/
def NeverStops (s : State) : Prop := Always (fun t => ∃ u, Machine.step t = .next u) s

/-! ### Free operands -/

/-- Nothing turns the issue in progress away from these operands: they lie in the allocation (R18), no hold and no status
that has still to land is on them in an active lane (R280, R282), no load still owes them, latches and flags are not owed
either (R21, R186), and no lane reads a register whose bank ECC fails (R243): `reads` are the operands read, in `lanes`. -/
structure Free (s : State) (x : Ctx) (os : List Opd) (reads : List Opd := os) (lanes : List Nat := x.c.seats) : Prop where
  issuer : s.ctx? = some x
  window : ∀ o ∈ os, o.1.toNat < 96 → x.wb + o.1.toNat + o.2 ≤ x.g.alloc
  holds  : ∀ h ∈ x.g.holds, h.2 ∈ x.c.seats → h.1 ∉ os.flatMap x.keys
  status : ∀ h ∈ x.g.status, 0x10000 + h.1 ∉ os.flatMap x.keys
  owed   : ∀ r ∈ s.reqs, r.2.who = x.who → r.2.seat ∈ x.c.seats → ∀ d, r.2.dest = some d → ∀ j < 4, d + j ∉ os.flatMap x.keys
  latch  : (∃ o ∈ os, 120 ≤ o.1.toNat) → s.owedLatch x.who x.c.seats = false
  flags  : (∃ o ∈ os, o.1.toNat = 117) → s.matrixPending x.who = false
  sound  : ∀ i ∈ lanes, x.failing (reads.flatMap x.readKeys) i = none

/-! ### What the end of an instruction leaves alone -/

/-- What programs see of a lane, without what the end of an issue may change: the latches, which a run's end clears (R140),
the count of R22, the stop at a reconvergence point (R52), and the marks of a replay (R142). -/
def laneCore (l : Lane) : Lane :=
  { l with mode := if l.mode = .stopped then .running else l.mode, latches := [], pushes := 0, count := 0, replays := false, woke := false,
           lastExec := 0 }

/-- What programs see of a group, without the bookkeeping of runs, paths, the steep timer and the stall clocks. -/
def groupCore (g : Group) : Group :=
  { g with lanes := g.lanes.map laneCore, rstack := [], bcast := none, holder := [], crossing := [], snap := none, issueQ := [],
           endPending := false, runOpen := false, served := [], steep := 0, steepAt := none, steepDue := false, yieldDue := false, stc := [], charges := [],
           paid := 0, cls := 0, beats := [], readySince := 0, lastIssue := 0, skipStop := [] }

/-- The outcome is a next state that differs from s in the issuer's group alone, which is g but for the bookkeeping of the
issue's end; the issue is over and nothing but what a run boundary makes due joins the agenda. -/
def Lands (r : Result) (s : State) (w : Who) (g : Group) : Prop :=
  ∃ g' more, r = .next { ({ s with cur := none }.setGroup w g') with agenda := s.agenda ++ more } ∧ groupCore g' = groupCore g

/-- The group after the active lanes have written a result and gone on to the next instruction. -/
def wrote (x : Ctx) (h : Hdr) (d : Code) (wd : Width) (v : Nat → Nat) : Group := x.advance (x.dst h.n d wd v)

/-- An instruction whose whole effect is its result: in every state with free operands it writes the value to its
destination in each active lane (R19-R21), the active lanes go on to the next instruction, and nothing else changes. -/
def Computes (i : Instr) (h : Hdr) (d : Code) (wd : Width) (srcs : List Opd) (v : Ctx → Nat → Nat) : Prop :=
  ∀ s x, Free s x (srcs ++ [opd d wd]) srcs → Lands (exec i s) s x.who (wrote x h d wd (v x))

/-- The same for an instruction that also writes p6 in each active lane (R43), in compute groups alone when it is groupOnly. -/
def ComputesP6 (groupOnly : Bool) (i : Instr) (h : Hdr) (d : Code) (wd : Width) (srcs : List Opd) (v : Ctx → Nat → Nat) (p : Ctx → Nat → Bool) : Prop :=
  ∀ s x, Free s x (srcs ++ [opd d wd]) srcs → (groupOnly = true → x.solo = false) →
    Lands (exec i s) s x.who (x.advance ((x.dst h.n d wd (v x)).modLanes x.c.seats fun k l => l.setPred 6 (p x k)))

/-- An instruction that completes with a given effect on its group: in every state with free operands that meets a
condition, it lands on that group, and nothing else changes. -/
def Settles (i : Instr) (srcs : List Opd) (ok : Ctx → Prop) (g : Ctx → Group) : Prop :=
  ∀ s x, Free s x srcs → ok x → Lands (exec i s) s x.who (g x)

/-- The group after the active lanes have written a predicate and gone on. -/
def wrotePred (x : Ctx) (p : Nat) (v : Nat → Bool) : Group := x.advance (x.g.modLanes x.c.seats fun k l => l.setPred p (v k))

/-- The outcome is a next state in which the issue is over, the issuer's group is g but for the bookkeeping of the issue's
end, and P holds. -/
def Ends (r : Result) (w : Who) (g : Group) (P : State → Group → Prop) : Prop :=
  ∃ t g', r = .next t ∧ t.cur = none ∧ t.group? w = some g' ∧ groupCore g' = groupCore g ∧ P t g'

/-- The group after the active lanes have gone on to the next instruction, each with its lane changed by f. -/
def passed (x : Ctx) (f : Nat → Lane → Lane) : Group := x.advance (x.g.modLanes x.c.seats f)

/-- An instruction whose result comes with flags: it writes the code and raises the flags as R174 says. -/
def ComputesFlags (i : Instr) (h : Hdr) (d : Code) (wd : Width) (srcs : List Opd) (r : Ctx → Nat → Coded) : Prop :=
  ∀ s x, Free s x (srcs ++ [opd d wd]) srcs →
    Lands (exec i s) s x.who (x.advance (x.raise (x.dst h.n d wd fun k => (r x k).1) d fun k => (r x k).2))

/-! ### Control and status registers -/

/-- What the thread of an issue reads of a register of its own, with nothing else changed (R31, R298). -/
def ReadsCsr (s : State) (x : Ctx) (n v : Nat) : Prop := csrRead s x.who x.seen n = some (BitVec.ofNat 32 v, s)

/-- Registers of a partition, a control core or the package, with their writable bits: kernel-mode code of a control core reads
back what it has written to them, under that mask (R6, R31). -/
def KeepsCsrs (l : List (Nat × Word)) : Prop :=
  ∀ (s : State) (c n : Nat) (g : Group) (v m : Word), (s.ctl c).kernel = true → (n, m) ∈ l →
    ∃ u, csrWrite s (.ctl c) g n v = some u ∧ csrRead u (.ctl c) g n = some (v &&& m, u)

/-! ### Accesses of memory -/

/-- A state without the bookkeeping that an access may change besides its result: translations that caches hold, the
directory, CSEQ, event counters, what is due, the hardware's choices and the issue in progress. -/
def bare (s : State) : State :=
  { s with extents := [], dir := [], copies := [], dirty := [], badCopies := [], cseq := [], agenda := [], bits := [], picks := [], cur := none,
           regs := { s.regs with evcnt := [] } }

/-- The outcome is a next state that is s with the issuer's group g, but for the bookkeeping of accesses and of the issue's
end: every other part of s is as it stands. -/
def LandsBare (r : Result) (s : State) (w : Who) (g : Group) : Prop :=
  ∃ t g', r = .next t ∧ t.cur = none ∧ bare t = bare (s.setGroup w g') ∧ groupCore g' = groupCore g

/-- A group that neither watches a line nor waits for it (R273, R284, R299). -/
def Heedless (s : State) (g : Group) (line : Nat) : Prop :=
  (∀ v, g.watch = some v → v.pkg = s.regs.pkg → v.line ≠ line) ∧ g.awaits line = none

/-- No watch, wait or park monitor looks at a line. -/
def Unwatched (s : State) (line : Nat) : Prop :=
  (∀ e ∈ s.ctls, Heedless s e.2.thread line) ∧ (∀ e ∈ s.groups, Heedless s e.2 line) ∧
  (∀ m ∈ s.monitors, m.line ≠ line) ∧ ∀ v ∈ s.farWatches, v.2.2 ≠ line

/-- A byte outside the ring tables of the stream ports, whose words follow a rule of their own (R387). -/
def OffRings (s : State) (b : Nat) : Prop :=
  (b / 8 * 8 < s.regs.rtBase ∨ s.regs.rtBase + 64 * 4096 ≤ b / 8 * 8) ∧
  (b / 8 * 8 < s.regs.ttBase ∨ s.regs.ttBase + 64 * 1024 ≤ b / 8 * 8)

/-- An access that nothing turns away or holds back: every lane passes the checks of R87 on this package's memory, at the
physical address p; no watch, deferred fault or earlier access of the thread stands against it, nothing holds its line back or
must first give it up (R238, R256, R264, R265, R316), and the hardware performs it as it issues and takes no trail sample of it
(R413). -/
structure Reached (s : State) (x : Ctx) (a : Access) (p : Nat → Nat) : Prop where
  seats  : x.c.seats ≠ []
  checks : ∀ i ∈ a.lanes x, s.check x.who x.g.team (a.cap i) (a.e i) a.size [1] (a.perms i) true = none
  near   : ∀ i ∈ a.lanes x ++ x.c.seats, (a.cap i).pkg = s.regs.pkg
  mapped : ∀ i ∈ a.lanes x, s.peek (a.key s x i) (a.offset i) = some (p i)
  free   : ∀ i ∈ a.lanes x, s.held_ x.who a.writes (a.key s x i) (a.offset i) a.size = false
  apart  : ∀ e ∈ s.ctls, (e.2.thread.lane 0).tx = none
  sound  : a.reads = true → ∀ i ∈ a.lanes x, s.badAt x (p i) a.size = false
  watch  : s.watched x a = []
  fenced : s.fenced x.who = false
  counts : s.regs.thresh = 0
  stream : ∀ q, s.partOf x.who = some q → (s.part q).pfMode ≠ 2
  bits   : s.bits = []
  trail  : ∀ q, s.partOf x.who = some q → (s.part q).oqTrail = true → s.picks.headD 0 % 2 ^ (s.part q).oqRate ≠ 0

/-- Such an access outside a transaction, whose release has nothing to wait for. -/
structure Served (s : State) (x : Ctx) (a : Access) (p : Nat → Nat) : Prop extends Reached s x a p where
  noTx   : ∀ i ∈ x.c.seats, (x.g.lane i).tx = none
  order  : a.ord = 3 ∨ a.ord = 4 → x.g.failed = [] ∧ s.unperformed x.who = false

/-- What a store needs besides: its lines are looked at by nobody, lie outside the ring tables, and no near copy of the
issuing core holds data. -/
structure Quiet (s : State) (x : Ctx) (a : Access) (p : Nat → Nat) : Prop where
  lines : ∀ i ∈ a.lanes x, Unwatched s (p i / 128)
  rings : ∀ i ∈ a.lanes x, ∀ j < a.size, OffRings s (p i + j)
  cache : ∀ c, s.coreOf x.who = some c → (s.core c).near = []

/-- The state after the near cache of the issuing core has been emptied where an access acquires at .core scope or wider
(R96, R245, R248). -/
def acquired (s : State) (x : Ctx) (acq : Bool) (scope : Nat) : State :=
  match s.coreOf x.who with
  | none => s
  | some c =>
    if acq && (scope == 0 || decide (3 ≤ scope) || (scope == 2 && decide (1 < (s.teamOf x.g).elim 1 (·.span)))) &&
      !(s.core c).near.isEmpty then s.setCore c { s.core c with near := [] } else s

/-- The new value of an atomic on words of w bits, or none when .cas fails (R98). -/
def atomicValue (op w : Nat) (m v cmp : BitVec w) : Option (BitVec w) :=
  match op with
  | 0 => some (m + v)
  | 1 => some (if m.sle v then m else v)
  | 2 => some (if m.sle v then v else m)
  | 3 => some (if m.ule v then m else v)
  | 4 => some (if m.ule v then v else m)
  | 5 => some (m &&& v)
  | 6 => some (m ||| v)
  | 7 => some (m ^^^ v)
  | 8 => some v
  | 9 => if m = cmp then some v else none
  | _ =>
    let f := if w = 64 then f64 else f32
    some (BitVec.ofNat w (f.add 1 (f.val m.toNat) (f.val v.toNat)).1)

/-- One lane's atomic on the state that the lanes before it leave: the memory after it, and what it read (R99). -/
def atomicStep (n op : Nat) (p : Nat → Nat) (arg : Nat → Nat × Nat) (r : State × List (Nat × Nat)) (i : Nat) : State × List (Nat × Nat) :=
  let m := r.1.num (p i) n
  (match atomicValue op (8 * n) (BitVec.ofNat (8 * n) m) (BitVec.ofNat (8 * n) (arg i).1) (BitVec.ofNat (8 * n) (arg i).2) with
    | some v => r.1.write (p i) (leBytes n v.toNat)
    | none => r.1, r.2 ++ [(i, m)])

/-! ### Accesses of a compute lane in a transaction (R311, R312) -/

/-- Byte j of a transactional load at p: the lane's write buffer, its read log, or memory. -/
def txByte (s : State) (t : Tx) (p j : Nat) : Byte := ((t.buffered (p + j)).or (t.logged (p + j))).getD (s.byte (p + j))

/-- Whether a load at p needs a granule that the log does not have. -/
def TxNeeds (t : Tx) (p n : Nat) (tag : Bool) : Prop :=
  ((∃ j < n, t.buffered (p + j) = none) ∨ (tag = true ∧ t.tagOf p = none)) ∧ ∀ e ∈ t.log, e.granule ≠ p / 16

/-- A transaction after a load of n bytes at p: what came from memory is logged, with the tag where it was read, and nothing else
has changed. -/
def TxLogs (s : State) (t t' : Tx) (p n : Nat) (tag : Bool) : Prop :=
  t' = { t with log := t'.log } ∧
  (∀ y, t'.logged y = (t.logged y).or (if p ≤ y ∧ y < p + n ∧ t.buffered y = none then some (s.byte y) else none)) ∧
  (∀ y, t'.tagOf y = (t.tagOf y).or (if tag = true ∧ y / 16 = p / 16 then some (s.tagAt p) else none)) ∧
  (TxNeeds t p n tag → t'.log.length = t.log.length + 1) ∧ (¬TxNeeds t p n tag → t'.log.length = t.log.length)

/-- Whether a store at p needs a new entry of the write buffer. -/
def TxNew (t : Tx) (p : Nat) : Prop := ∀ e ∈ t.buf, e.granule ≠ p / 16

/-- Whether the pool of the thread's core has entries for n lanes more. -/
def PoolHas (s : State) (x : Ctx) (n : Nat) : Prop := ∀ c, s.coreOf x.who = some c → s.bufUsed c + n ≤ 2048

/-- A transaction after a store of bytes at p: they are buffered, with the granule's tag state, and nothing else has changed. -/
def TxStores (t t' : Tx) (p : Nat) (bs : List Byte) (tag : Bool) : Prop :=
  t' = { t with buf := t'.buf } ∧
  (∀ y, t'.buffered y = if p ≤ y ∧ y < p + bs.length then some (bs.getD (y - p) 0) else t.buffered y) ∧
  (∀ g, (t'.buf.find? fun e => e.granule == g).map (·.tag) = if g = p / 16 then some tag else (t.buf.find? fun e => e.granule == g).map (·.tag)) ∧
  (TxNew t p → t'.buf.length = t.buf.length + 1) ∧ (¬TxNew t p → t'.buf.length = t.buf.length)

/-! ### The matrix array -/

/-- The matrix state of a core as a team's instruction finds it: the team's own, or zero when the claim is new (R189). -/
def claimed (m : Matrix) (team : Nat) : Matrix :=
  if m.claim.isSome then m else
    { claim := some team, active := ⟨.bf16, 0, [], []⟩, shadow := ⟨.bf16, 0, [], []⟩, acc := [], queue := [], incoming := m.incoming }

/-- A matrix instruction of a compute group that nothing turns away: operands free, no lane in a transaction, no two threads
on one logical lane, the core unclaimed or the team's own, room in its queue, and no TRD of a higher slot in this clock before
it (R189, R191, R215, R270). -/
structure ArrayOpen (s : State) (x : Ctx) (os : List Opd) (c : Nat) (reads : List Opd := os) (lanes : List Nat := x.c.seats) :
    Prop where
  free     : Free s x os reads lanes
  group    : x.solo = false
  seats    : x.c.seats ≠ []
  noTx     : ∀ i ∈ x.c.seats, (x.g.lane i).tx = none
  distinct : x.sharing = []
  seated   : s.coreOf x.who = some c
  claim    : (s.core c).matrix.claim = none ∨ (s.core c).matrix.claim = some x.g.team
  room     : (s.core c).matrix.queue.length < 32
  turn     : (s.core c).lastTrd.1 ≠ s.now ∨ (s.core c).lastTrd.2 ≤ x.g.place.elim 4 (·.slot)

/-- The state after a core's array has taken an operation at the end of its queue, but before those that higher slots have
had accepted in the same clock, with the copies of a .sh operation on their way to the team's other cores (R191, R201). -/
def accepted (s : State) (x : Ctx) (c : Nat) (sh : Bool) (o : MatrixOp) : State :=
  let others := match s.teamOf x.g with
    | some t => if sh then ((List.range t.span).map (· + t.base)).filter (· != c) else []
    | none => []
  let o := { o with sh := if others.isEmpty then none else some s.queued, home := true, time := s.now }
  let m := claimed (s.core c).matrix x.g.team
  let higher := fun (q : MatrixOp) => decide (q.time = s.now ∧ o.slot < q.slot ∧ q.slot < 4)
  let s := { s with queued := if others.isEmpty then s.queued else s.queued + 1 }.setCore c
    { s.core c with matrix := { m with queue := (m.queue.reverse.dropWhile higher).reverse ++ o :: (m.queue.reverse.takeWhile higher).reverse } }
  others.foldl (fun (s : State) d =>
    let k := s.core d
    s.setCore d { k with matrix := { k.matrix with incoming := k.matrix.incoming ++ [{ o with home := false }] } }) s

/-- The cell of element j of a lane's share of slice k (R204), and the element's place in the slice. -/
def shareAt (col : Bool) (lane j : Nat) : Nat := if col then lane + 32 * j else 4 * lane + j
def cellAt (t : Nat) (col : Bool) (k e : Nat) : Nat × Nat := if col then (128 * t + e, k) else (128 * t + k, e)

/-- An accumulator element: poisoned, or a code (R158, R242). -/
def element (bad : Bool) (code : Nat) : AccElem := if bad then ⟨0, true⟩ else ⟨BitVec.ofNat 40 code, false⟩

/-- Every element of the rows of a tile that the lanes own becomes f of row, column and its value; the others stay. -/
def TileChanged (m m' : Matrix) (lanes : List Nat) (t : Nat) (f : Nat → Nat → AccElem → AccElem) : Prop :=
  ∀ r c, c < 128 → m'.elem r c = if r / 128 = t ∧ r % 32 ∈ lanes then f (r % 128) c (m.elem r c) else m.elem r c

/-- Every element of the lanes' shares of a slice becomes f of lane, place in the share and its value; the others stay. -/
def SliceChanged (m m' : Matrix) (lanes : List Nat) (t : Nat) (col : Bool) (k : Nat) (f : Nat → Nat → AccElem → AccElem) : Prop :=
  (∀ l ∈ lanes, ∀ j < 4, let p := cellAt t col k (shareAt col l j); m'.elem p.1 p.2 = f l j (m.elem p.1 p.2)) ∧
  ∀ r c, c < 128 → (∀ l ∈ lanes, ∀ j < 4, cellAt t col k (shareAt col l j) ≠ (r, c)) → m'.elem r c = m.elem r c

/-- The oldest operation of a core's queue, on this core alone, as R191 hands it to the array. -/
structure AtHead (s : State) (core : Nat) (o : MatrixOp) (rest : List MatrixOp) : Prop where
  queue : (s.core core).matrix.queue = o :: rest
  alone : o.sh = none
  past  : o.time < s.now
  lanes : o.lanes.Nodup ∧ ∀ l ∈ o.lanes, l < 32

/-- The array has performed an operation: the queue has moved on, P holds of the core's matrix state before and after, and
memory, the other cores and every thread's registers but FL are as they were. -/
def Performs (s : State) (core : Nat) (rest : List MatrixOp) (P : Matrix → Matrix → State → Prop) : Prop :=
  ∃ u, exec (.matrixPerform core) s = .next u ∧ (u.core core).matrix.queue = rest ∧
    (u.core core).matrix.claim = (s.core core).matrix.claim ∧ P (s.core core).matrix (u.core core).matrix u ∧
    u.mem = s.mem ∧ u.tags = s.tags ∧ u.poison = s.poison ∧ u.ctls = s.ctls ∧ (∀ d, d ≠ core → u.core d = s.core d) ∧
    ∀ k, (u.groups.get? k).map (fun g => (g.sregs, g.acaps, g.wb, g.lanes.map fun l => { l with fl := 0 })) =
      (s.groups.get? k).map fun g => (g.sregs, g.acaps, g.wb, g.lanes.map fun l => { l with fl := 0 })

/-! ### Codes of fixed formats, read from their bits (R156, R157) -/

/-- The code of a fixed format is a NaN, and a signalling one. -/
def nanCode (f : Fmt) (c : Nat) : Bool := decide (f.infMag < c % 2 ^ (f.ebits + f.mbits))
def sNanCode (f : Fmt) (c : Nat) : Bool := nanCode f c && !c.testBit (f.mbits - 1)

/-- The place of a code that is no NaN in the order of numbers, -0 below +0. -/
def orderKey (f : Fmt) (c : Nat) : Int :=
  let mag := c % 2 ^ (f.ebits + f.mbits)
  if c.testBit (f.ebits + f.mbits) then -(mag : Int) - 1 else mag

/-- Nearest of R164: n is the integer that a rounding mode takes for the magnitude v of a number of that sign. -/
def Rounds (mode : Nat) (neg : Bool) (v : ℚ) (n : Nat) : Prop :=
  let down := (n : ℚ) ≤ v ∧ v < n + 1
  let up := v ≤ n ∧ (n : ℚ) < v + 1
  if mode = 1 then |v - n| ≤ 1 / 2 ∧ (|v - n| = 1 / 2 → n % 2 = 0)
  else if mode = 2 then down
  else if mode = 3 then (if neg then down else up)
  else if mode = 4 then (if neg then up else down)
  else |v - n| ≤ 1 / 2 ∧ (|v - n| = 1 / 2 → v < n)

/-! ### Integers -/

/-- A word as a number, signed or unsigned. -/
def num (signed : Bool) {w : Nat} (v : BitVec w) : Int := if signed then v.toInt else v.toNat

/-- An exact result clamped to the range of the type (R45). -/
def satTo (signed : Bool) (w : Nat) (n : Int) : BitVec w :=
  if signed then
    if n < -(2 ^ (w - 1) : Int) then BitVec.intMin w else if (2 ^ (w - 1) : Int) ≤ n then BitVec.intMax w else BitVec.ofInt w n
  else if n < 0 then 0 else if (2 ^ w : Int) ≤ n then BitVec.allOnes w else BitVec.ofInt w n

/-- The number whose bit j, below w, is f j. -/
def bitsNat (w : Nat) (f : Nat → Bool) : Nat := ((List.range w).map fun j => if f j then 2 ^ j else 0).sum

/-- An operation on words of any width, by the signedness of the type. -/
abbrev WordOp1 := (signed : Bool) → (w : Nat) → BitVec w → BitVec w
abbrev WordOp2 := (signed : Bool) → (w : Nat) → BitVec w → BitVec w → BitVec w
abbrev BitsOp2 := (w : Nat) → BitVec w → BitVec w → BitVec w
abbrev WordOp3 := (signed : Bool) → (w : Nat) → BitVec w → BitVec w → BitVec w → BitVec w

/-- The register forms of R44 at both widths: type codes 0 and 1 are .i32 and .n32, 2 and 3 are .i64 and .n64. -/
def OnWords1 (i : BitVec 2 → Instr) (h : Hdr) (d a : Code) (f : WordOp1) : Prop :=
  (∀ t, t = 0#2 ∨ t = 1#2 → Computes (i t) h d .w32 [opd a .w32] fun x k => (f (t == 0#2) 32 (x.src32 k a)).toNat) ∧
  (∀ t, t = 2#2 ∨ t = 3#2 → Computes (i t) h d .w64 [opd a .w64] fun x k => (f (t == 2#2) 64 (x.src64 k a)).toNat)

def OnWords2 (i : BitVec 2 → Instr) (h : Hdr) (d a b : Code) (f : WordOp2) : Prop :=
  (∀ t, t = 0#2 ∨ t = 1#2 → Computes (i t) h d .w32 [opd a .w32, opd b .w32] fun x k =>
    (f (t == 0#2) 32 (x.src32 k a) (x.src32 k b)).toNat) ∧
  (∀ t, t = 2#2 ∨ t = 3#2 → Computes (i t) h d .w64 [opd a .w64, opd b .w64] fun x k =>
    (f (t == 2#2) 64 (x.src64 k a) (x.src64 k b)).toNat)

def OnWords3 (i : BitVec 2 → Instr) (h : Hdr) (d a b c : Code) (f : WordOp3) : Prop :=
  (∀ t, t = 0#2 ∨ t = 1#2 → Computes (i t) h d .w32 [opd a .w32, opd b .w32, opd c .w32] fun x k =>
    (f (t == 0#2) 32 (x.src32 k a) (x.src32 k b) (x.src32 k c)).toNat) ∧
  (∀ t, t = 2#2 ∨ t = 3#2 → Computes (i t) h d .w64 [opd a .w64, opd b .w64, opd c .w64] fun x k =>
    (f (t == 2#2) 64 (x.src64 k a) (x.src64 k b) (x.src64 k c)).toNat)

/-- Forms of .b32 and .b64 whose second operand is a word whatever the type (R44). -/
def OnBits2 (i : Bool → Instr) (h : Hdr) (d a b : Code) (f : BitsOp2) : Prop :=
  Computes (i false) h d .w32 [opd a .w32, opd b .w32] (fun x k => (f 32 (x.src32 k a) (x.src32 k b)).toNat) ∧
  Computes (i true) h d .w64 [opd a .w64, opd b .w64] (fun x k => (f 64 (x.src64 k a) (x.src64 k b)).toNat)

end Sys2Proof.Safety
end

