-- ==== Sys2Proof/Certificates/Slice0/Obligations.lean ====
section
/-! DEFINITION. The statements about the model, for the provers: what decoding, each instruction and each event does, and
what every step keeps. -/

section

open Sys2Proof Sys2Proof.Machine Sys2Proof.Safety

/-- R59, with R45's clamping: the register forms of integer arithmetic. -/
def Obligations.IntegerArithmeticResults : Prop :=
  ∀ (h : Hdr) (d a b : Code),
    (h.ord ≠ 1 →
      OnWords2 (.iadd h d a b) h d a b (fun _ _ p q => p + q) ∧
      OnWords2 (.isub h d a b) h d a b (fun _ _ p q => p - q) ∧
      OnWords2 (.imul h d a b) h d a b (fun _ _ p q => p * q) ∧
      OnWords3 (.imad h d a b) h d a b (h.thirdCode d) (fun _ _ p q r => p * q + r) ∧
      OnWords1 (.iabs h d a) h d a (fun s _ p => if s && p.msb then -p else p) ∧
      OnWords1 (.ineg h d a) h d a (fun _ _ p => -p)) ∧
    (h.ord = 1 →
      OnWords2 (.iadd h d a b) h d a b (fun s w p q => satTo s w (num s p + num s q)) ∧
      OnWords2 (.isub h d a b) h d a b (fun s w p q => satTo s w (num s p - num s q)) ∧
      OnWords2 (.imul h d a b) h d a b (fun s w p q => satTo s w (num s p * num s q)) ∧
      OnWords3 (.imad h d a b) h d a b (h.thirdCode d) (fun s w p q r => satTo s w (num s p * num s q + num s r)) ∧
      OnWords1 (.iabs h d a) h d a (fun s w p => if s && p == BitVec.intMin w then BitVec.intMax w
        else if s && p.msb then -p else p) ∧
      OnWords1 (.ineg h d a) h d a (fun s w p => if s then (if p == BitVec.intMin w then BitVec.intMax w else -p) else 0)) ∧
    (h.ord = 0 →
      OnWords2 (.imulh h d a b) h d a b (fun s w p q => BitVec.ofInt w (num s p * num s q / 2 ^ w)) ∧
      OnWords2 (.imin h d a b) h d a b (fun s _ p q => if num s p < num s q then p else q) ∧
      OnWords2 (.imax h d a b) h d a b (fun s _ p q => if num s p < num s q then q else p))

/-- R60, R62, R63. -/
def Obligations.DivisionCarryAndImmediates : Prop :=
  (∀ (h : Hdr) (d a b : Code), h.ord = 0 →
      OnWords2 (.idiv h d a b) h d a b (fun s w p q =>
        if q = 0 then BitVec.allOnes w
        else if s && p == BitVec.intMin w && q == BitVec.allOnes w then BitVec.intMin w
        else if s then p.sdiv q else p / q) ∧
      OnWords2 (.irem h d a b) h d a b (fun s w p q =>
        if q = 0 then p
        else if s && p == BitVec.intMin w && q == BitVec.allOnes w then 0
        else if s then p.srem q else p % q)) ∧
  (∀ (h : Hdr) (d a b : Code) (t : BitVec 2),
      let wd : Width := if t = 0#2 ∨ t = 1#2 then .w32 else .w64
      let w : Nat := if t = 0#2 ∨ t = 1#2 then 32 else 64
      let carry := fun (x : Ctx) (k : Nat) => if (x.g.lane k).pred 6 then 1 else 0
      ComputesP6 false (.iaddc h d a b t) h d wd [opd a wd, opd b wd]
        (fun x k => (x.srcN k a wd + x.srcN k b wd + carry x k) % 2 ^ w)
        (fun x k => decide (2 ^ w ≤ x.srcN k a wd + x.srcN k b wd + carry x k)) ∧
      ComputesP6 false (.isubb h d a b t) h d wd [opd a wd, opd b wd]
        (fun x k => (2 ^ w + x.srcN k a wd - (x.srcN k b wd + carry x k)) % 2 ^ w)
        (fun x k => decide (x.srcN k a wd < x.srcN k b wd + carry x k))) ∧
  (∀ (h : Hdr) (d a : Code) (imm : BitVec 9) (amt : BitVec 6),
      let k : Word := match h.pfx with
        | none => imm.signExtend 32
        | some p => (p.ext ++ imm).signExtend 32
      (h.ord ≠ 1 → Computes (.iaddImm h d a imm) h d .w32 [opd a .w32] fun x i => (x.src32 i a + k).toNat) ∧
      (h.ord = 1 → Computes (.iaddImm h d a imm) h d .w32 [opd a .w32] fun x i => (satTo true 32 ((x.src32 i a).toInt + k.toInt)).toNat) ∧
      Computes (.andImm h d a imm) h d .w32 [opd a .w32] (fun x i => (x.src32 i a &&& k).toNat) ∧
      Computes (.orImm h d a imm) h d .w32 [opd a .w32] (fun x i => (x.src32 i a ||| k).toNat) ∧
      Computes (.xorImm h d a imm) h d .w32 [opd a .w32] (fun x i => (x.src32 i a ^^^ k).toNat) ∧
      Computes (.shlRolImm h d a true false amt) h d .w64 [opd a .w64] (fun x i => (x.src64 i a <<< amt.toNat).toNat) ∧
      Computes (.shlRolImm h d a true true amt) h d .w64 [opd a .w64] (fun x i => ((x.src64 i a).rotateLeft amt.toNat).toNat) ∧
      Computes (.shrSarImm h d a true false amt) h d .w64 [opd a .w64] (fun x i => (x.src64 i a >>> amt.toNat).toNat) ∧
      Computes (.shrSarImm h d a true true amt) h d .w64 [opd a .w64] (fun x i => ((x.src64 i a).sshiftRight amt.toNat).toNat) ∧
      (amt.toNat < 32 →
        Computes (.shlRolImm h d a false false amt) h d .w32 [opd a .w32] (fun x i => (x.src32 i a <<< amt.toNat).toNat) ∧
        Computes (.shlRolImm h d a false true amt) h d .w32 [opd a .w32] (fun x i => ((x.src32 i a).rotateLeft amt.toNat).toNat) ∧
        Computes (.shrSarImm h d a false false amt) h d .w32 [opd a .w32] (fun x i => (x.src32 i a >>> amt.toNat).toNat) ∧
        Computes (.shrSarImm h d a false true amt) h d .w32 [opd a .w32] (fun x i => ((x.src32 i a).sshiftRight amt.toNat).toNat)) ∧
      (32 ≤ amt.toNat → wellFormed (.shlRolImm h d a false true amt) = false ∧ wellFormed (.shrSarImm h d a false true amt) = false ∧
        wellFormed (.shlRolImm h d a false false amt) = false ∧ wellFormed (.shrSarImm h d a false false amt) = false))

/-- R64, R65, R66. -/
def Obligations.LogicShiftsAndBitFields : Prop :=
  (∀ (h : Hdr) (d a b : Code),
      OnBits2 (.and h d a b) h d a b (fun _ p q => p &&& q) ∧
      OnBits2 (.or h d a b) h d a b (fun _ p q => p ||| q) ∧
      OnBits2 (.xor h d a b) h d a b (fun _ p q => p ^^^ q) ∧
      OnBits2 (.andn h d a b) h d a b (fun _ p q => p &&& ~~~q) ∧
      Computes (.popc h d a false) h d .w32 [opd a .w32] (fun x i => ((List.range 32).countP fun j => (x.src32 i a).getLsbD j)) ∧
      Computes (.popc h d a true) h d .w32 [opd a .w64] (fun x i => ((List.range 64).countP fun j => (x.src64 i a).getLsbD j)) ∧
      Computes (.clz h d a false) h d .w32 [opd a .w32] (fun x i => (x.src32 i a).clz.toNat) ∧
      Computes (.clz h d a true) h d .w32 [opd a .w64] (fun x i => (x.src64 i a).clz.toNat) ∧
      Computes (.brev h d a false) h d .w32 [opd a .w32] (fun x i => (x.src32 i a).reverse.toNat) ∧
      Computes (.brev h d a true) h d .w64 [opd a .w64] (fun x i => (x.src64 i a).reverse.toNat)) ∧
  (∀ (h : Hdr) (d a b : Code),
      let amount := fun (x : Ctx) (i : Nat) => (x.src32 i b).toNat
      let copies := fun (w : Nat) (m : Bool) => if m then 2 ^ w - 1 else 0
      Computes (.shl h d a b false) h d .w32 [opd a .w32, opd b .w32]
        (fun x i => if 32 ≤ amount x i then 0 else (x.src32 i a <<< amount x i).toNat) ∧
      Computes (.shl h d a b true) h d .w64 [opd a .w64, opd b .w32]
        (fun x i => if 64 ≤ amount x i then 0 else (x.src64 i a <<< amount x i).toNat) ∧
      Computes (.shr h d a b false) h d .w32 [opd a .w32, opd b .w32]
        (fun x i => if 32 ≤ amount x i then 0 else (x.src32 i a >>> amount x i).toNat) ∧
      Computes (.shr h d a b true) h d .w64 [opd a .w64, opd b .w32]
        (fun x i => if 64 ≤ amount x i then 0 else (x.src64 i a >>> amount x i).toNat) ∧
      Computes (.sar h d a b false) h d .w32 [opd a .w32, opd b .w32]
        (fun x i => if 32 ≤ amount x i then copies 32 (x.src32 i a).msb else ((x.src32 i a).sshiftRight (amount x i)).toNat) ∧
      Computes (.sar h d a b true) h d .w64 [opd a .w64, opd b .w32]
        (fun x i => if 64 ≤ amount x i then copies 64 (x.src64 i a).msb else ((x.src64 i a).sshiftRight (amount x i)).toNat) ∧
      Computes (.rol h d a b false) h d .w32 [opd a .w32, opd b .w32] (fun x i => ((x.src32 i a).rotateLeft ((x.src32 i b).toNat % 32)).toNat) ∧
      Computes (.rol h d a b true) h d .w64 [opd a .w64, opd b .w32] (fun x i => ((x.src64 i a).rotateLeft ((x.src32 i b).toNat % 64)).toNat)) ∧
  (∀ (h : Hdr) (d a b : Code),
      let pos := fun (x : Ctx) (i : Nat) => (x.src32 i b).toNat % 256
      let len := fun (x : Ctx) (i : Nat) => (x.src32 i b).toNat / 256 % 256
      let extracted := fun (signed : Bool) (w : Nat) (v : Nat) (p n : Nat) =>
        bitsNat w fun j =>
          if n = 0 ∨ w ≤ p then false
          else if j < min n (w - p) then v.testBit (p + j)
          else signed && v.testBit (p + min n (w - p) - 1)
      let inserted := fun (w : Nat) (v c : Nat) (p n : Nat) =>
        bitsNat w fun j => if p ≤ j ∧ j < p + n then v.testBit (j - p) else c.testBit j
      (∀ t, t = 0#2 ∨ t = 1#2 → Computes (.bfx h d a b t) h d .w32 [opd a .w32, opd b .w32] fun x i =>
        extracted (t == 0#2) 32 (x.src32 i a).toNat (pos x i) (len x i)) ∧
      (∀ t, t = 2#2 ∨ t = 3#2 → Computes (.bfx h d a b t) h d .w64 [opd a .w64, opd b .w32] fun x i =>
        extracted (t == 2#2) 64 (x.src64 i a).toNat (pos x i) (len x i)) ∧
      Computes (.bfi h d a b false) h d .w32 [opd a .w32, opd b .w32, opd (h.thirdCode d) .w32] (fun x i =>
        inserted 32 (x.src32 i a).toNat (x.src32 i (h.thirdCode d)).toNat (pos x i) (len x i)) ∧
      Computes (.bfi h d a b true) h d .w64 [opd a .w64, opd b .w32, opd (h.thirdCode d) .w64] (fun x i =>
        inserted 64 (x.src64 i a).toNat (x.src64 i (h.thirdCode d)).toNat (pos x i) (len x i)))

/-- R67-R69: moves, with the tags of a quad, immediates and selects; and what the register codes of R15 and R17 read, at every width
that they have. -/
def Obligations.MovesAndTags : Prop :=
  (∀ (x : Ctx) (i : Nat) (c : Code),
    let n := c.toNat
    let l := x.g.lane i
    let one := fun (j : Nat) => if n < 96 then (l.regs.getD (x.u.wb + n + j) Reg.zero).val else x.u.sregs.getD (n + j - 96) 0
    let latch := l.latches.getD (n - 120) 0
    (n < 112 → x.src32 i c = one 0) ∧
    (n = 112 → x.src32 i c = 0) ∧
    (n = 113 → (x.src32 i c).toNat = l.logical % 2 ^ 32) ∧
    (n = 114 → (x.src32 i c).toNat = l.thread.getD 0 % 2 ^ 32) ∧
    (n = 115 → x.src32 i c = x.teamix) ∧
    (n = 116 → (x.src32 i c).toNat = x.g.gix % 2 ^ 32) ∧
    (n = 117 → (∀ j < 5, (x.src32 i c).getLsbD j = l.fl.getLsbD j) ∧ ∀ j, 5 ≤ j → (x.src32 i c).getLsbD j = false) ∧
    (n = 118 → ∀ j < 32, (x.src32 i c).getLsbD j = x.c.seats.any fun k => (x.g.lane k).logical == j) ∧
    (n = 119 → ∀ j < 32, (x.src32 i c).getLsbD j = true) ∧
    (120 ≤ n → (x.src32 i c).toNat = latch.toNat % 2 ^ 32) ∧
    (n < 112 → n % 2 = 0 → (x.src64 i c).toNat = (one 0).toNat + 2 ^ 32 * (one 1).toNat) ∧
    (n = 112 → x.src64 i c = 0 ∧ x.src128 i c = 0) ∧
    (n = 119 → (∀ j < 64, (x.src64 i c).getLsbD j = true) ∧ ∀ j < 128, (x.src128 i c).getLsbD j = true) ∧
    (120 ≤ n → x.src64 i c = latch) ∧
    (n < 112 → n % 4 = 0 → (x.src128 i c).toNat =
      (one 0).toNat + 2 ^ 32 * (one 1).toNat + 2 ^ 64 * (one 2).toNat + 2 ^ 96 * (one 3).toNat) ∧
    (∀ s : State, s.ctx? = some x → x.teamix = match x.who with
      | .ctl _ => 0
      | .grp _ => BitVec.ofNat 32 ((s.teams.get? x.g.team).elim 0 (·.index)))) ∧
  ∀ (h : Hdr) (d a b : Code) (imm : BitVec 16) (p : BitVec 2),
    Computes (.mov h d a 0#2) h d .w32 [opd a .w32] (fun x i => (x.src32 i a).toNat) ∧
    Computes (.mov h d a 2#2) h d .w64 [opd a .w64] (fun x i => (x.src64 i a).toNat) ∧
    (isV a = false ∨ isV d = false ∨ h.n = true →
      Computes (.mov h d a 3#2) h d .w128 [opd a .w128] (fun x i => (x.src128 i a).toNat)) ∧
    (isV a = true → isV d = true → h.n = false →
      Settles (.mov h d a 3#2) [opd a .w128, opd d .w128] (fun _ => True) fun x =>
        x.advance (x.g.modLanes x.c.seats fun i l =>
          [0, 1, 2, 3].foldl (fun l j =>
            let r := (x.g.lane i).regs.getD (x.wb + a.toNat + j) Reg.zero
            l.setReg (x.wb + d.toNat + j) r.val r.tag) (l.push (x.src64 i a)))) ∧
    (h.pfx = none → Computes (.movi h d imm) h d .w32 [] fun _ _ => (imm.signExtend 32).toNat) ∧
    (∀ q, h.pfx = some q → Computes (.movi h d imm) h d .w32 [] fun _ _ => (q.ext ++ imm).toNat) ∧
    Computes (.movh h d imm) h d .w32 [opd d .w32] (fun x i => (imm ++ (x.src32 i d).extractLsb' 0 16).toNat) ∧
    Computes (.sel h d a b p) h d .w32 [opd a .w32, opd b .w32] (fun x i =>
      (if (x.g.lane i).pred p.toNat then x.src32 i a else x.src32 i b).toNat)

/-- R70, R71: comparisons and predicate moves. -/
def Obligations.CompareAndPredicates : Prop :=
  ∀ (h : Hdr) (d a b : Code) (c : BitVec 2) (p : BitVec 3),
    let holds := fun (u v : Word) => if c = 0#2 then u == v else if c = 1#2 then u != v else if c = 2#2 then u.slt v else u.ult v
    Computes (.iset h d a b c) h d .w32 [opd a .w32, opd b .w32] (fun x i => (holds (x.src32 i a) (x.src32 i b)).toNat) ∧
    Settles (.pset h p a b c) [opd a .w32, opd b .w32] (fun _ => True)
      (fun x => wrotePred x p.toNat fun i => holds (x.src32 i a) (x.src32 i b)) ∧
    Computes (.pmov h d a b 0#2) h d .w32 [] (fun x i => bitsNat 8 fun j => (x.g.lane i).pred j) ∧
    Settles (.pmov h d a b 1#2) [opd a .w32] (fun _ => True) (fun x =>
      x.advance (x.g.modLanes x.c.seats fun i l => { l with preds := 1#1 ++ (x.src32 i a).extractLsb' 0 7 })) ∧
    Settles (.pmov h d a b 2#2) [] (fun _ => True)
      (fun x => wrotePred x d.toNat fun i => (x.g.lane i).pred a.toNat && (x.g.lane i).pred b.toNat) ∧
    Settles (.pmov h d a b 3#2) [] (fun _ => True)
      (fun x => wrotePred x d.toNat fun i => Bool.xor ((x.g.lane i).pred a.toNat) ((x.g.lane i).pred b.toNat))

/-- R73, R74, R76, R79, R80. -/
def Obligations.CrossLaneResults : Prop :=
  (∀ (h : Hdr) (d a b : Code) (t : BitVec 2),
      let target := fun (x : Ctx) (i : Nat) =>
        let l : Int := (x.g.lane i).logical
        let v : Int := (x.src32 i b).toNat
        let n : Int := if t = 0#2 then v else if t = 1#2 then l - v else if t = 2#2 then l + v
          else ((x.g.lane i).logical ^^^ (x.src32 i b).toNat : Nat)
        if 0 ≤ n ∧ n ≤ 31 then (x.companions i).find? fun j => decide (((x.g.lane j).logical : Int) = n) else none
      let v := fun (x : Ctx) (j : Nat) => x.src32 j a &&& x.src32 j b
      let word := fun (x : Ctx) (i : Nat) (q : Nat → Bool) =>
        bitsNat 32 fun n => (x.companions i).any fun j => (x.g.lane j).logical == n && q j
      let equal := fun (x : Ctx) (i j : Nat) => x.src32 j a == x.src32 i a
      let equal64 := fun (x : Ctx) (i j : Nat) => x.src64 j a == x.src64 i a
      ComputesP6 true (.shfl h d a b t) h d .w32 [opd a .w32, opd b .w32]
        (fun x i => (target x i).elim 0 fun j => (x.src32 j a).toNat) (fun x i => (target x i).isSome) ∧
      ComputesP6 true (.vote h d a b 0#2) h d .w32 [opd a .w32, opd b .w32]
        (fun x i => word x i fun j => v x j != 0) (fun x i => (x.companions i).all fun j => v x j != 0) ∧
      ComputesP6 true (.vote h d a b 1#2) h d .w32 [opd a .w32, opd b .w32]
        (fun x i => word x i fun j => v x j != 0) (fun x i => (x.companions i).any fun j => v x j != 0) ∧
      ComputesP6 true (.vote h d a b 2#2) h d .w32 [opd a .w32, opd b .w32]
        (fun x i => word x i fun j => v x j == v x i) (fun x i => (x.companions i).all fun j => v x j == v x i) ∧
      ComputesP6 true (.vote h d a b 3#2) h d .w32 [opd a .w32, opd b .w32]
        (fun x i => (x.companions i).countP fun j => v x j != 0) (fun x i => v x i != 0) ∧
      ComputesP6 true (.matchv h d a false false) h d .w32 [opd a .w32]
        (fun x i => word x i (equal x i)) (fun x i => (x.companions i).find? (equal x i) == some i) ∧
      ComputesP6 true (.matchv h d a true false) h d .w32 [opd a .w64]
        (fun x i => word x i (equal64 x i)) (fun x i => (x.companions i).find? (equal64 x i) == some i) ∧
      ComputesP6 true (.matchv h d a false true) h d .w32 [opd a .w32]
        (fun x i => if (x.companions i).all (equal x i) then word x i (fun _ => true) else 0)
        (fun x i => (x.companions i).all (equal x i)) ∧
      ComputesP6 true (.matchv h d a true true) h d .w32 [opd a .w64]
        (fun x i => if (x.companions i).all (equal64 x i) then word x i (fun _ => true) else 0)
        (fun x i => (x.companions i).all (equal64 x i)) ∧
      ComputesP6 true (.mapget h d a false) h d .w32 [opd a .w32]
        (fun x i => if (x.src32 i a).toNat < 32 then ((x.g.lane (x.src32 i a).toNat).thread).getD 0xFFFFFFFF else 0xFFFFFFFF)
        (fun x i => decide ((x.src32 i a).toNat < 32) && ((x.g.lane (x.src32 i a).toNat).thread).isSome) ∧
      ComputesP6 true (.mapget h d a true) h d .w32 [opd a .w32]
        (fun x i => ((List.range x.g.lanes.length).find? fun j => (x.g.lane j).thread == some (x.src32 i a).toNat).getD 0xFFFFFFFF)
        (fun x i => (List.range x.g.lanes.length).any fun j => (x.g.lane j).thread == some (x.src32 i a).toNat)) ∧
  (∀ (h : Hdr) (d a : Code) (op t : BitVec 3) (p : BitVec 2) (excl : Bool),
      okReduce op t = true →
      let wd := reduceWidth t
      let w := bitsOf wd
      let giving := fun (x : Ctx) (i : Nat) => (x.companions i).filter fun j => (x.g.lane j).pred (4 + p.toNat)
      let upTo := fun (x : Ctx) (i : Nat) => (giving x i).filter fun j =>
        decide ((x.g.lane j).logical < (x.g.lane i).logical) || (!excl && (x.g.lane j).logical == (x.g.lane i).logical)
      let signed := t == 0#3 || t == 2#3
      let order := fun (p q : Nat) => if readInt w signed p ≤ readInt w signed q then p else q
      let order' := fun (p q : Nat) => if readInt w signed p ≤ readInt w signed q then q else p
      let total := fun (l : List Nat) =>
        if op = 0#3 then l.sum % 2 ^ w
        else if op = 1#3 then l.foldl order (if signed then 2 ^ (w - 1) - 1 else 2 ^ w - 1)
        else if op = 2#3 then l.foldl order' (if signed then 2 ^ (w - 1) else 0)
        else if op = 3#3 then l.foldl (· &&& ·) (2 ^ w - 1)
        else if op = 4#3 then l.foldl (· ||| ·) 0 else l.foldl (· ^^^ ·) 0
      let lands := fun (set : Ctx → Nat → List Nat) (x : Ctx) =>
        let v := fun i => (set x i).map fun j => x.srcN j a wd
        let g := if t = 4#3 ∨ t = 5#3 then
            x.raise (x.dst h.n d wd fun i => (scanFold x.u.fpRM op t (v i)).1) d fun i => (scanFold x.u.fpRM op t (v i)).2
          else x.dst h.n d wd fun i => total (v i)
        x.advance { g with gstat := x.c.seats.any fun i => (giving x i).isEmpty }
      Settles (.reduce h d a op t p) [opd a wd, opd d wd] (fun x => x.solo = false) (lands giving) ∧
      Settles (.scan h d a op t excl p) [opd a wd, opd d wd] (fun x => x.solo = false) (lands upTo))

/-- R48-R51: conditional and indirect branches, links, the mark of LOOP. -/
def Obligations.BranchesAndIndirectBranches : Prop :=
  (∀ (h : Hdr) (c : BitVec 4) (ofs : BitVec 19),
      let target := fun (x : Ctx) => x.c.addr + BitVec.ofNat 64 (x.c.len - 4) + BitVec.ofInt 64 (4 * brOffset h ofs)
      let next := fun (x : Ctx) => x.c.addr + BitVec.ofNat 64 x.c.len
      let takes := fun (x : Ctx) (i : Nat) =>
        if c.toNat < 8 then (x.g.lane i).pred c.toNat else !(x.g.lane i).pred (c.toNat - 8)
      let moved := fun (x : Ctx) (g : Group) =>
        g.modLanes x.c.seats fun i l => { l with pc := if takes x i then target x else next x }
      (∀ s x, s.ctx? = some x → Lands (exec (.bra h c ofs) s) s x.who (moved x x.g)) ∧
      Settles (.call h c ofs) [(94#7, 2)] (fun _ => True) (fun x =>
        moved x (x.g.modLanes (x.c.seats.filter (takes x)) fun _ l =>
          let l := l.push (next x)
          if h.n then l
          else (l.setReg (x.wb + 94) ((next x).extractLsb' 0 32) false).setReg (x.wb + 95) ((next x).extractLsb' 32 32) false)) ∧
      (∀ s x, s.ctx? = some x →
        Lands (exec (.loop h c ofs) s) s x.who
          (match (if x.solo || x.c.words.isSome then none else s.loopBody x (target x)) with
           | none => moved x x.g
           | some b => (moved x x.g).modLanes (x.c.seats.filter (takes x)) fun _ l => { l with loopBuf := some b })) ∧
      (∀ (s : State) (x : Ctx), 196 ≤ x.c.addr.toNat + x.c.len - (target x).toNat → s.loopBody x (target x) = none)) ∧
  (∀ (h : Hdr) (d a : Code),
      let aligned := fun (x : Ctx) => ∀ i ∈ x.c.seats, (x.src64 i a).toNat % 4 = 0
      let next := fun (x : Ctx) => x.c.addr + BitVec.ofNat 64 x.c.len
      let go := fun (x : Ctx) (g : Group) => g.modLanes x.c.seats fun i l => { l with pc := x.src64 i a }
      Settles (.ret h a) [opd a .w64] aligned (fun x => go x x.g) ∧
      Settles (.brx h d a false) [opd a .w64] aligned (fun x => go x x.g) ∧
      Settles (.brx h d a true) [opd a .w64, opd d .w64] aligned (fun x =>
        go x (x.g.modLanes x.c.seats fun _ l =>
          let l := l.push (next x)
          if h.n then l
          else (l.setReg (x.wb + d.toNat) ((next x).extractLsb' 0 32) false).setReg (x.wb + d.toNat + 1)
            ((next x).extractLsb' 32 32) false)) ∧
      (∀ s x, Free s x [opd a .w64] → ¬ aligned x →
        let bad := x.c.seats.filter fun i => (x.src64 i a).toNat % 4 != 0
        exec (.ret h a) s = .next (s.fault x .misaligned bad (x.src64 (bad.foldl min (bad.headD 0)) a)) ∧
        exec (.brx h d a false) s = .next (s.fault x .misaligned bad (x.src64 (bad.foldl min (bad.headD 0)) a))) ∧
      (∀ s x, Free s x [opd a .w64, opd d .w64] → ¬ aligned x →
        let bad := x.c.seats.filter fun i => (x.src64 i a).toNat % 4 != 0
        exec (.brx h d a true) s = .next (s.fault x .misaligned bad (x.src64 (bad.foldl min (bad.headD 0)) a))))

/-- R52-R55: the reconvergence stack, NOP and YIELD, EXIT. -/
def Obligations.PathsRunsAndExits : Prop :=
  (∀ (h : Hdr) (ofs : BitVec 19) (s : State) (x : Ctx),
      let t := x.c.addr + BitVec.ofNat 64 (x.c.len - 4) + BitVec.ofInt 64 (4 * brOffset h ofs)
      s.ctx? = some x → x.c.seats ≠ [] → t ≠ x.c.addr + BitVec.ofNat 64 x.c.len →
      (∀ i ∈ x.c.seats, i < x.g.lanes.length ∧ (x.g.lane i).serves = true ∧ (x.g.lane i).pc = x.c.addr) → x.g.rstack.length ≤ 8 →
      (∀ e ∈ x.g.rstack, ∃ i ∈ e.members, i < x.g.lanes.length ∧ (x.g.lane i).mode = .running) →
      x.g.steepDue = false → x.g.yieldDue = false →
      Ends (exec (.bsync h ofs) s) x.who (passed x fun _ l => l) fun _ g =>
        match x.g.rstack.findIdx? fun e => e.members.any fun i => x.c.seats.contains i with
        | some k =>
          if (x.g.rstack.getD k ⟨0, []⟩).addr = t then
            g.rstack = x.g.rstack.modify k fun f => { f with members := x.c.seats.foldl sInsert f.members }
          else g.rstack = ⟨t, x.c.seats⟩ :: x.g.rstack.take 7
        | none => g.rstack = ⟨t, x.c.seats⟩ :: x.g.rstack.take 7) ∧
  (∀ (h : Hdr) (s : State) (x : Ctx), s.ctx? = some x →
      Lands (exec (.nop h) s) s x.who (passed x fun _ l => l) ∧
      Lands (exec (.yieldRun h) s) s x.who (passed x fun _ l => l) ∧
      (x.solo = false → x.g.issueQ = [] → x.g.steepDue = false →
        Ends (exec (.yieldRun h) s) x.who (passed x fun _ l => l) fun _ g =>
          let at_ := if x.g.bcast = some x.c.addr then some ((x.advance x.g).lane (x.c.seats.headD 0)).pc else x.g.bcast
          g.runOpen = false ∧ g.bcast = g.oldestPath ({ g with holder := x.g.holder, bcast := at_ } : Group).waitingBeside ∧
          ∀ l ∈ g.lanes, (∀ k t, l.mode ≠ .parked k t) → l.replays = false → l.latches = List.replicate 8 0 ∧ l.count = 0)) ∧
  (∀ (h : Hdr) (s : State) (x : Ctx) (k : Nat), s.ctx? = some x → x.who = .grp k →
      (∀ i ∈ x.c.seats, (x.g.lane i).tx = none) → x.g.ended = false →
      ∃ t g', exec (.exit h) s = .next t ∧ t.group? x.who = some g' ∧ t.cur = none ∧
        (∀ i ∈ x.c.seats, i < x.g.lanes.length → (g'.lane i).mode = .exited) ∧
        (∀ e ∈ g'.rstack, ∀ i ∈ x.c.seats, i ∉ e.members) ∧
        (∀ i, i ∉ x.c.seats → laneCore (g'.lane i) = laneCore (x.g.lane i)) ∧
        (g'.live = [] → g'.ended = true ∧ g'.place = none ∧ g'.wait = none) ∧
        (g'.live ≠ [] → g'.ended = false ∧ g'.place = x.g.place ∧ g'.sregs = x.g.sregs ∧ g'.acaps = x.g.acaps) ∧
        ((∀ p, s.partOf x.who = some p → (s.part p).oqRetire = false) → t.mem = s.mem ∧ t.tags = s.tags))

/-- R18, R56-R58: the window base, index registers, and registers beyond the allocation. -/
def Obligations.WindowsAndIndexRegisters : Prop :=
  (∀ (h : Hdr) (d a : Code) (xn : BitVec 2) (imm : BitVec 9),
      let w := fun (x : Ctx) => ((x.src32 (x.g.lowest x.c.seats) a).toNat : Int) + 32 * riImm h imm
      let fits := fun (x : Ctx) => 0 ≤ w x ∧ w x < x.g.alloc ∧ w x % 32 = 0
      let reg := fun (x : Ctx) (i : Nat) => (x.g.lane i).idx.getD xn.toNat ⟨0, 0, 0⟩
      let t := fun (x : Ctx) (i : Nat) => (reg x i).value.toInt + riImm h imm
      let bounded := fun (x : Ctx) (i : Nat) => ((reg x i).base : Int) ≤ t x i ∧ t x i < (reg x i).limit
      let reached := fun (s : State) (x : Ctx) => ∀ i ∈ x.c.seats, bounded x i ∧ t x i < x.g.alloc ∧
        x.g.heldBy [i] [(t x i).toNat] = false ∧ s.owed x.who [i] [(t x i).toNat] = false
      let sound := fun (x : Ctx) (i : Nat) => ((x.g.lane i).regs.getD (t x i).toNat Reg.zero).bad = false
      Settles (.wbase h a imm) [opd a .w32] fits (fun x => { passed x (fun _ l => l) with wb := (w x).toNat }) ∧
      (∀ s x, Free s x [opd a .w32] → ¬ fits x → exec (.wbase h a imm) s = .next (s.fault x .window x.c.seats (BitVec.ofInt 64 (w x)))) ∧
      Settles (.setx h xn a imm) [opd a .w32] (fun _ => True) (fun x => passed x fun i l =>
        let u := x.src32 i a
        { l with idx := l.idx.set xn.toNat ⟨BitVec.ofInt 32 ((u.extractLsb' 21 11).toNat + riImm h imm), (u.extractLsb' 0 10).toNat,
            (u.extractLsb' 10 11).toNat⟩ }) ∧
      (∀ s x, Free s x [opd d .w32] [] → x.g.alloc ≤ 1024 → reached s x → (∀ i ∈ x.c.seats, sound x i) →
        Lands (exec (.movx h d xn imm) s) s x.who
          (wrote x h d .w32 fun i => ((x.g.lane i).regs.getD (t x i).toNat Reg.zero).val.toNat)) ∧
      (∀ s x, Free s x [opd a .w32] → reached s x →
        Lands (exec (.movxw h xn a imm) s) s x.who (passed x fun i l =>
          let l := l.push ((x.src32 i a).setWidth 64)
          if h.n then l else l.setReg (t x i).toNat (x.src32 i a) false)) ∧
      (∀ s x, s.ctx? = some x → (∃ i ∈ x.c.seats, ¬ bounded x i) →
        ∃ bad v, (∀ i, i ∈ bad ↔ i ∈ x.c.seats ∧ ¬ bounded x i) ∧ exec (.movx h d xn imm) s = .next (s.fault x .indexBound bad v) ∧
          exec (.movxw h xn a imm) s = .next (s.fault x .indexBound bad v)) ∧
      (∀ s x, s.ctx? = some x → (∀ i ∈ x.c.seats, bounded x i) → (∃ i ∈ x.c.seats, (x.g.alloc : Int) ≤ t x i) →
        ∃ far v, (∀ i, i ∈ far ↔ i ∈ x.c.seats ∧ (x.g.alloc : Int) ≤ t x i) ∧
          exec (.movx h d xn imm) s = .next (s.fault x .window far v) ∧ exec (.movxw h xn a imm) s = .next (s.fault x .window far v)) ∧
      (∀ s x, s.ctx? = some x → (∀ i ∈ x.c.seats, bounded x i ∧ t x i < x.g.alloc) →
        (d.toNat < 96 → x.g.alloc < x.wb + d.toNat + 1 → ∃ v, exec (.movx h d xn imm) s = .next (s.fault x .window x.c.seats v)) ∧
        (a.toNat < 96 → x.g.alloc < x.wb + a.toNat + 1 → ∃ v, exec (.movxw h xn a imm) s = .next (s.fault x .window x.c.seats v)))) ∧
  (∀ (h : Hdr) (d a b : Code) (s : State) (x : Ctx), s.ctx? = some x →
      let beyond := fun (os : List Opd) => ∃ o ∈ os, o.1.toNat < 96 ∧ x.g.alloc < x.wb + o.1.toNat + o.2
      let traps := fun (i : Instr) => ∃ v, exec i s = .next (s.fault x .window x.c.seats v)
      (beyond [opd a .w32, opd b .w32, opd d .w32] →
        traps (.iadd h d a b 0#2) ∧ traps (.isub h d a b 1#2) ∧ traps (.imul h d a b 0#2) ∧ traps (.idiv h d a b 0#2) ∧
        traps (.iaddc h d a b 0#2) ∧ traps (.and h d a b false) ∧ traps (.shl h d a b false) ∧ traps (.iset h d a b 0#2) ∧
        traps (.sel h d a b 0#2) ∧ traps (.fadd h d a b 0#2) ∧ traps (.fmin h d a b 0#2) ∧ traps (.fset h d a b 0#2)) ∧
      (beyond [opd a .w64, opd b .w64, opd d .w64] →
        traps (.iadd h d a b 2#2) ∧ traps (.imulh h d a b 3#2) ∧ traps (.xor h d a b true) ∧ traps (.fmul h d a b 1#2)) ∧
      (beyond [opd a .w128, opd d .w128] → traps (.mov h d a 3#2)) ∧
      (beyond [(94#7, 2)] → ∀ c ofs, traps (.call h c ofs))) ∧
  -- R243: POISON for the lanes that read a register whose bank ECC fails; the order among causes is the model's (log 95)
  (∀ (h : Hdr) (d a b : Code) (s : State) (x : Ctx),
      let reads := fun (i : Nat) (c : Code) =>
        (c.toNat < 96 ∧ ((x.g.lane i).regs.getD (x.wb + c.toNat) Reg.zero).bad = true) ∨
        (96 ≤ c.toNat ∧ c.toNat < 112 ∧ (c.toNat - 96) ∈ x.g.badSregs) ∨
        (120 ≤ c.toNat ∧ c.toNat - 120 ≤ (x.g.lane i).pushes ∧ ((x.g.lane i).pushes - (c.toNat - 120)) ∈ (x.g.lane i).badLatch)
      let whom := fun (cs : List Code) (ls : List Nat) => ∀ i, i ∈ ls ↔ i ∈ x.c.seats ∧ ∃ c ∈ cs, reads i c
      Free s x [opd a .w32, opd b .w32, opd d .w32] [] → x.g.alloc ≤ 1024 → (∃ i ∈ x.c.seats, reads i a ∨ reads i b) →
        (∃ ls v, whom [a, b] ls ∧ exec (.iadd h d a b 0#2) s = .next (s.fault x .poison ls v) ∧
          exec (.sel h d a b 0#2) s = .next (s.fault x .poison ls v) ∧ exec (.fadd h d a b 0#2) s = .next (s.fault x .poison ls v)) ∧
        ((∃ i ∈ x.c.seats, reads i a) → ∃ ls v, whom [a] ls ∧ exec (.mov h d a 0#2) s = .next (s.fault x .poison ls v)))

/-- R19, R21, R16: where results go; and that the floating and the index instructions complete so. -/
def Obligations.ResultsReachRegistersAndLatches : Prop :=
  (∀ (h : Hdr) (d a b : Code) (t : BitVec 2) (xn : BitVec 2) (imm : BitVec 9),
    let wd : Width := if t = 1#2 then .w64 else .w32
    let c := if h.sc = 1 then BitVec.ofNat 7 (h.ext % 128) else d
    let completes := fun (i : Instr) (wd : Width) (srcs : List Opd) => ∀ s x, Free s x (srcs ++ [opd d wd]) srcs →
      ∃ v f, Lands (exec i s) s x.who (x.advance (x.raise (x.dst h.n d wd v) d f))
    let two := fun (i : Instr) => completes i wd [opd a wd, opd b wd]
    let one := fun (i : Instr) => t ≠ 1#2 → completes i .w32 [opd a .w32]
    let base := fun (x : Ctx) => ((x.src32 (x.g.lowest x.c.seats) a).toNat : Int) + 32 * riImm h imm
    let at_ := fun (x : Ctx) (i : Nat) => ((x.g.lane i).idx.getD xn.toNat ⟨0, 0, 0⟩).value.toInt + riImm h imm
    let inside := fun (s : State) (x : Ctx) => ∀ i ∈ x.c.seats, let r := (x.g.lane i).idx.getD xn.toNat ⟨0, 0, 0⟩
      (r.base : Int) ≤ at_ x i ∧ at_ x i < r.limit ∧ at_ x i < x.g.alloc ∧ x.g.heldBy [i] [(at_ x i).toNat] = false ∧
      s.owed x.who [i] [(at_ x i).toNat] = false ∧ ((x.g.lane i).regs.getD (at_ x i).toNat Reg.zero).bad = false
    two (.fadd h d a b t) ∧ two (.fsub h d a b t) ∧ two (.fmul h d a b t) ∧ two (.fdiv h d a b t) ∧ completes (.fsqrt h d a t) wd [opd a wd] ∧
    completes (.ffma h d a b t) wd [opd a wd, opd b wd, opd c wd] ∧
    one (.frcp h d a t) ∧ one (.frsq h d a t) ∧ one (.fexp2 h d a t) ∧ one (.flog2 h d a t) ∧ one (.fsin h d a t) ∧ one (.fcos h d a t) ∧
    (∀ s x, Free s x [opd a .w32] → 0 ≤ base x → base x < x.g.alloc → base x % 32 = 0 →
      Lands (exec (.wbase h a imm) s) s x.who { passed x (fun _ l => l) with wb := (base x).toNat }) ∧
    (∀ s x, Free s x [opd a .w32] → ∃ r : Nat → IndexReg,
      Lands (exec (.setx h xn a imm) s) s x.who (passed x fun i l => { l with idx := l.idx.set xn.toNat (r i) })) ∧
    (∀ s x, Free s x [opd d .w32] [] → x.g.alloc ≤ 1024 → inside s x → ∃ v, Lands (exec (.movx h d xn imm) s) s x.who (wrote x h d .w32 v)) ∧
    (∀ s x, Free s x [opd a .w32] → inside s x → Lands (exec (.movxw h xn a imm) s) s x.who (passed x fun i l =>
      let l := l.push ((x.src32 i a).setWidth 64)
      if h.n then l else l.setReg (at_ x i).toNat (x.src32 i a) false))) ∧
  ∀ (x : Ctx) (n : Bool) (d : Code) (wd : Width) (v : Nat → Nat) (tag : Nat → Bool) (i : Nat), i < x.g.lanes.length → d.toNat ≤ 112 →
    let g := x.dst n d wd v tag
    let l := x.g.lane i
    let out := if uniform d then v (x.g.lowest x.c.seats) else v i
    let w := match wd with | .w32 => 1 | .w64 => 2 | .w128 => 4
    let word := fun (v j : Nat) => BitVec.ofNat 32 (v / 2 ^ (32 * j))
    (i ∉ x.c.seats → g.lane i = l) ∧
    (i ∈ x.c.seats → (g.lane i).latches = (BitVec.ofNat 64 (out % 2 ^ (32 * w)) :: l.latches).take 8) ∧
    (∀ j < w, i ∈ x.c.seats → isV d = true → n = false → x.wb + d.toNat + j < l.regs.length →
      (g.lane i).regs[x.wb + d.toNat + j]? = some ⟨word (v i) j, tag i, false⟩) ∧
    (∀ k, (isV d = false ∨ n = true ∨ k < x.wb + d.toNat ∨ x.wb + d.toNat + w ≤ k) → (g.lane i).regs[k]? = l.regs[k]?) ∧
    (∀ j < w, isS d = true → n = false → d.toNat - 96 + j < x.g.sregs.length →
      g.sregs[d.toNat - 96 + j]? = some (word (v (x.g.lowest x.c.seats)) j)) ∧
    (∀ k, (isS d = false ∨ n = true ∨ k < d.toNat - 96 ∨ d.toNat - 96 + w ≤ k) → g.sregs[k]? = x.g.sregs[k]?) ∧
    g.acaps = x.g.acaps ∧ g.wb = x.g.wb ∧ (g.lane i).preds = l.preds ∧ (g.lane i).fl = l.fl ∧ (g.lane i).idx = l.idx ∧
    (g.lane i).pc = l.pc

/-- R175-R179 and R182 as the parts cite them. -/
def Obligations.FloatResultsAndApproximations : Prop :=
  (∀ (h : Hdr) (d a b : Code) (t : BitVec 2),
      let f := if t = 0#2 then f32 else if t = 1#2 then f64 else if t = 2#2 then f16 else bf16
      let wd : Width := if t = 1#2 then .w64 else .w32
      let c := if h.sc = 1 then BitVec.ofNat 7 (h.ext % 128) else d
      let mode := fun (x : Ctx) => if h.ord = 0 then x.u.fpRM else h.ord
      let v := fun (x : Ctx) (i : Nat) (r : Code) => f.val (x.srcN i r wd % 2 ^ f.width)
      ComputesFlags (.fadd h d a b t) h d wd [opd a wd, opd b wd] (fun x i => f.add (mode x) (v x i a) (v x i b)) ∧
      ComputesFlags (.fsub h d a b t) h d wd [opd a wd, opd b wd] (fun x i => f.sub (mode x) (v x i a) (v x i b)) ∧
      ComputesFlags (.fmul h d a b t) h d wd [opd a wd, opd b wd] (fun x i => f.mul (mode x) (v x i a) (v x i b)) ∧
      ComputesFlags (.fdiv h d a b t) h d wd [opd a wd, opd b wd] (fun x i => f.div (mode x) (v x i a) (v x i b)) ∧
      ComputesFlags (.ffma h d a b t) h d wd [opd a wd, opd b wd, opd c wd]
        (fun x i => f.fma (mode x) (v x i a) (v x i b) (v x i c)) ∧
      ComputesFlags (.fsqrt h d a t) h d wd [opd a wd] (fun x i => f.sqrt (mode x) (v x i a))) ∧
  ((∀ (h : Hdr) (d a : Code) (t : BitVec 2), t ≠ 1#2 →
      ∃ rcp rsq exp2 log2 sin cos : Nat → Coded,
        let on := fun (r : Nat → Coded) (x : Ctx) (i : Nat) =>
          r (if t = 0#2 then (x.src32 i a).toNat else (x.src32 i a).toNat % 2 ^ 16)
        ComputesFlags (.frcp h d a t) h d .w32 [opd a .w32] (on rcp) ∧
        ComputesFlags (.frsq h d a t) h d .w32 [opd a .w32] (on rsq) ∧
        ComputesFlags (.fexp2 h d a t) h d .w32 [opd a .w32] (on exp2) ∧
        ComputesFlags (.flog2 h d a t) h d .w32 [opd a .w32] (on log2) ∧
        ComputesFlags (.fsin h d a t) h d .w32 [opd a .w32] (on sin) ∧
        ComputesFlags (.fcos h d a t) h d .w32 [opd a .w32] (on cos) ∧
        (t = 0#2 →
          rcp 0 = (0x7F800000, flDZ) ∧ rcp 0x80000000 = (0xFF800000, flDZ) ∧ rcp 0x7F800000 = (0, 0) ∧ rcp 0xFF800000 = (0x80000000, 0) ∧
          rcp 0x40000000 = (0x3F000000, 0) ∧ rcp 0xC0800000 = (0xBE800000, 0) ∧
          rsq 0 = (0x7F800000, flDZ) ∧ rsq 0x80000000 = (0xFF800000, flDZ) ∧ rsq 0x7F800000 = (0, 0) ∧ rsq 0xBF800000 = (0x7FC00000, flNV) ∧
          rsq 0x40800000 = (0x3F000000, 0) ∧
          exp2 0xFF800000 = (0, 0) ∧ exp2 0x7F800000 = (0x7F800000, 0) ∧ exp2 0x40400000 = (0x41000000, 0) ∧
          log2 0 = (0xFF800000, flDZ) ∧ log2 0x80000000 = (0xFF800000, flDZ) ∧ log2 0x7F800000 = (0x7F800000, 0) ∧
          log2 0xBF800000 = (0x7FC00000, flNV) ∧ log2 0x41000000 = (0x40400000, 0) ∧
          sin 0 = (0, 0) ∧ sin 0x80000000 = (0x80000000, 0) ∧ sin 0x7F800000 = (0x7FC00000, flNV) ∧
          cos 0 = (0x3F800000, 0) ∧ cos 0xFF800000 = (0x7FC00000, flNV) ∧
          (∀ r ∈ [rcp, rsq, exp2, log2, sin, cos], r 0x7FC00001 = (0x7FC00001, 0) ∧ r 0xFF800001 = (0xFFC00001, flNV)))) ∧
    (∀ (h : Hdr) (d a : Code), wellFormed (.frcp h d a 1#2) = false ∧ wellFormed (.fcos h d a 1#2) = false)) ∧
  ∀ (s : State) (x : Ctx), ReadsCsr s x 0x014 (x.u.fpARM * 16 + x.u.fpRM)

/-- R161, R164-R166, R169, R170, R173, R177: invalid cases, and RoundTo of every value. -/
def Obligations.InvalidCasesAndExactRounding : Prop :=
  (∀ f ∈ [f32, f64, f16, bf16], ∀ (mode m n : Nat) (e g : Int) (s t q : Bool) (p p' : Nat) (v w : Val), m ≠ 0 → n ≠ 0 →
      let canonical : Coded := (f.infMag + 2 ^ (f.mbits - 1), flNV)
      f.add mode (.inf s) (.inf !s) = canonical ∧ f.sub mode (.inf s) (.inf s) = canonical ∧
      f.mul mode (.inf s) (.fin t 0 g) = canonical ∧ f.mul mode (.fin t 0 g) (.inf s) = canonical ∧
      f.div mode (.fin s 0 e) (.fin t 0 g) = canonical ∧ f.div mode (.inf s) (.inf t) = canonical ∧
      f.sqrt mode (.fin true m e) = canonical ∧ f.sqrt mode (.inf true) = canonical ∧
      f.fma mode (.inf s) (.fin t 0 g) (.nan q true p) = canonical ∧
      f.sqrt mode (.fin s 0 e) = (if s then 2 ^ (f.ebits + f.mbits) else 0, 0) ∧
      f.div mode (.fin s m e) (.fin t 0 g) = (f.infMag + (if s = t then 0 else 2 ^ (f.ebits + f.mbits)), flDZ) ∧
      (w.isNaN = false → f.add mode (.nan s q p) w = f.nanResult s q p ∧ f.mul mode w (.nan s q p) = f.nanResult s q p ∧
        f.div mode w (.nan s q p) = f.nanResult s q p ∧ f.sub mode (.nan s q p) w = f.nanResult s q p) ∧
      (f.add mode (.nan s true p) (.nan t q p')).1 = (f.nanResult s true p).1 ∧
      (f.add mode (.nan s true p) (.nan t false p')).2 = flNV ∧ (f.add mode (.nan s true p) (.nan t true p')).2 = 0 ∧
      (f.nanResult s q p).2 = (if q then 0 else flNV) ∧
      (v.isNaN = false → v.isInf = false → f.add mode v v.negate = (if mode = 4 then 2 ^ (f.ebits + f.mbits) else 0, 0))) ∧
  (∀ (f : Fmt) (mode c : Nat),
      (f ∈ [f32, f64, f16, bf16, a40, sx8] ∨ ∃ w, Desc.fmtValid w = true ∧ f = fmtOf w) →
      c < 2 ^ f.width → (f.val c).isNaN = false → (f.val c).isInf = false → f.ofVal mode (f.val c) = (c, 0)) ∧
  -- R164-R166 of a number m * 2^e that is not zero: its exponent k, Nearest at k, and Nearest with no limit on the exponent
  (∀ (f : Fmt) (mode : Nat) (s : Bool) (m : Nat) (e k k' : Int) (n n' top mt : Nat) (et : Int),
      (f ∈ [f32, f64, f16, bf16, a40, sx8] ∨ ∃ w, Desc.fmtValid w = true ∧ f = fmtOf w) →
      mode ∈ [1, 2, 3, 4, 5] → m ≠ 0 → (s = true → f.sgn = true) →
      let v : ℚ := m * 2 ^ e
      let minus := fun (c : Nat) => if s then c + 2 ^ (f.ebits + f.mbits) else c
      top < 2 ^ f.width → f.val top = .fin false mt et →
      (∀ c m' e', c < 2 ^ f.width → f.val c = .fin false m' e' → (m' : ℚ) * 2 ^ e' ≤ mt * 2 ^ et) →
      (f.ebits = 0 → k = 1 - f.bias) →
      (f.ebits ≠ 0 → 1 - f.bias ≤ k ∧ v < 2 ^ (k + 1) ∧ (1 - f.bias < k → (2 : ℚ) ^ k ≤ v)) →
      Rounds mode s (v / 2 ^ (k - f.mbits)) n →
      (2 : ℚ) ^ k' ≤ v → v < 2 ^ (k' + 1) → Rounds mode s (v / 2 ^ (k' - f.mbits)) n' →
      let y : ℚ := n * 2 ^ (k - f.mbits)
      let r := f.ofVal mode (.fin s m e)
      let big := mode = 1 ∨ mode = 5 ∨ (mode = 3 ∧ s = false) ∨ (mode = 4 ∧ s = true)
      let tiny := if f.ebits = 0 then n = 0 else (n' : ℚ) * 2 ^ (k' - f.mbits) < 2 ^ (1 - f.bias)
      ((mt : ℚ) * 2 ^ et < y → r = (minus (
          if ¬ big then top
          else if f.narrow = false then (2 ^ f.ebits - 1) * 2 ^ f.mbits
          else if f.sat = false ∧ f.spec = 1 then (2 ^ f.ebits - 1) * 2 ^ f.mbits
          else if f.sat = false ∧ f.spec = 2 then 2 ^ (f.ebits + f.mbits) - 1
          else top), flOF + flNX)) ∧
      (y ≤ (mt : ℚ) * 2 ^ et → r.1 < 2 ^ f.width ∧ (∃ m' e', f.val r.1 = .fin s m' e' ∧ (m' : ℚ) * 2 ^ e' = y) ∧
        (y = v → r.2 = 0) ∧ (y ≠ v → tiny → r.2 = flNX + flUF) ∧ (y ≠ v → ¬ tiny → r.2 = flNX))) ∧
  f64.val 0x7FEFFFFFFFFFFFFF = .fin false (2 ^ 53 - 1) 971 ∧ f32.val 0x7F7FFFFF = .fin false (2 ^ 24 - 1) 104 ∧
  f16.val 0x7BFF = .fin false (2 ^ 11 - 1) 5 ∧ bf16.val 0x7F7F = .fin false (2 ^ 8 - 1) 120 ∧
  a40.val 0x7F7FFFFFFF = .fin false (2 ^ 32 - 1) 96 ∧ sx8.val 0xFE = .fin false 14 13

/-- R178, R180, R181, on the codes' own bits. -/
def Obligations.MinMaxCompareClassify : Prop :=
  ∀ (h : Hdr) (d a b : Code) (t : BitVec 2),
    let f := if t = 0#2 then f32 else if t = 1#2 then f64 else if t = 2#2 then f16 else bf16
    let wd : Width := if t = 1#2 then .w64 else .w32
    let c := fun (x : Ctx) (i : Nat) (r : Code) => x.srcN i r wd % 2 ^ (1 + f.ebits + f.mbits)
    let nv := fun (p q : Nat) => if sNanCode f p || sNanCode f q then flNV else 0
    let choose := fun (p q r : Nat) =>
      if nanCode f p && nanCode f q then f.infMag + 2 ^ (f.mbits - 1)
      else if nanCode f p then q else if nanCode f q then p else r
    let zero := fun (p : Nat) => p % 2 ^ (f.ebits + f.mbits) == 0
    let relation := fun (p q : Nat) =>
      if nanCode f p || nanCode f q then 8
      else if zero p && zero q then 2
      else if orderKey f p < orderKey f q then 1 else if orderKey f p = orderKey f q then 2 else 4
    let cls := fun (p : Nat) =>
      let mag := p % 2 ^ (f.ebits + f.mbits)
      let neg := p.testBit (f.ebits + f.mbits)
      if nanCode f p then (if sNanCode f p then 8 else 9)
      else if mag = f.infMag then (if neg then 0 else 7)
      else if mag = 0 then (if neg then 3 else 4)
      else if mag < 2 ^ f.mbits then (if neg then 2 else 5) else (if neg then 1 else 6)
    ComputesFlags (.fmin h d a b t) h d wd [opd a wd, opd b wd] (fun x i =>
      (choose (c x i a) (c x i b) (if orderKey f (c x i a) ≤ orderKey f (c x i b) then c x i a else c x i b), nv (c x i a) (c x i b))) ∧
    ComputesFlags (.fmax h d a b t) h d wd [opd a wd, opd b wd] (fun x i =>
      (choose (c x i a) (c x i b) (if orderKey f (c x i a) ≤ orderKey f (c x i b) then c x i b else c x i a), nv (c x i a) (c x i b))) ∧
    ComputesFlags (.fset h d a b t) h d .w32 [opd a wd, opd b wd] (fun x i => (relation (c x i a) (c x i b), nv (c x i a) (c x i b))) ∧
    Computes (.fclass h d a t) h d .w32 [opd a wd] (fun x i => 2 ^ cls (c x i a))

/-- R183-R187 and the rules they rest on. -/
def Obligations.ConversionsAndPacking : Prop :=
  (∀ (h : Hdr) (d a : Code) (kd ks : BitVec 3) (it : BitVec 3),
      let fmt := fun (k : BitVec 3) => [f32, f64, f16, bf16, a40, sx8].getD k.toNat sx8
      let wid := fun (k : BitVec 3) => if k = 1#3 ∨ k = 4#3 then Width.w64 else Width.w32
      let mode := fun (x : Ctx) => if h.ord = 0 then x.u.fpRM else h.ord
      let val := fun (x : Ctx) (i : Nat) (k : BitVec 3) => (fmt k).val (x.srcN i a (wid k) % 2 ^ (fmt k).width)
      let bits := [32, 32, 64, 64, 16, 16, 8, 8].getD it.toNat 8
      let signed := it.toNat % 2 == 0
      let iw := if it = 2#3 ∨ it = 3#3 then Width.w64 else Width.w32
      let lo : Int := if signed then -(2 ^ (bits - 1)) else 0
      let hi : Int := if signed then 2 ^ (bits - 1) - 1 else 2 ^ bits - 1
      let code := fun (n : Int) => (n % 2 ^ (max bits 32)).toNat
      ComputesFlags (.fcvt h d a kd ks) h d (wid kd) [opd a (wid ks)] (fun x i => (fmt kd).ofVal (mode x) (val x i ks)) ∧
      ComputesFlags (.icvt h d a kd it true) h d (wid kd) [opd a iw] (fun x i =>
        let n : Int := if signed then (BitVec.ofNat bits (x.srcN i a iw)).toInt else (x.srcN i a iw % 2 ^ bits : Nat)
        (fmt kd).ofVal (mode x) (.fin (decide (n < 0)) n.natAbs 0)) ∧
      (kd.toNat ≤ 3 → ComputesFlags (.icvt h d a kd it false) h d iw [opd a (wid kd)] (fun x i =>
        match val x i kd with
        | .nan _ _ _ => (0, flNV)
        | .inf s => (code (if s then lo else hi), flNV)
        | .fin s m e =>
          let n : Int := if 0 ≤ e then m * 2 ^ e.toNat else nearest (mode x) s (m / 2 ^ (-e).toNat) (m % 2 ^ (-e).toNat) (2 ^ (-e).toNat) false
          let n := if s then -n else n
          if hi < n then (code hi, flNV) else if n < lo then (code lo, flNV)
          else (code n, if 0 ≤ e ∨ m % 2 ^ (-e).toNat = 0 then 0 else flNX)))) ∧
  (∀ (h : Hdr) (d a : Code) (hi : Bool) (f : BitVec 3) (m : BitVec 2),
      let narrow := fun (s : State) (x : Ctx) (fm : Fmt) =>
        if m = 2#2 then fm = sx8 else
          Desc.fmtValid (s.fmtReg x.who f.toNat) = true ∧ fm = fmtOf (s.fmtReg x.who f.toNat) ∧ (m = 1#2 ↔ fm.width ≤ 4)
      let mode := fun (x : Ctx) => if h.ord = 0 then x.u.fpRM else h.ord
      let place := fun (j : Nat) => if m = 1#2 then (if hi then 16 else 0) + 4 * j else 8 * j
      (∀ s x fm, narrow s x fm → Free s x [opd a .w128, opd d .w32] →
        let el := fun (i j : Nat) => fm.ofVal (mode x) (f32.val ((x.src128 i a).toNat / 2 ^ (32 * j) % 2 ^ 32))
        let old := fun (i : Nat) => if m = 1#2 then (if hi then (x.src32 i d).toNat % 65536 else (x.src32 i d).toNat / 65536 * 65536) else 0
        Lands (exec (.pack h d a hi f m) s) s x.who
          (x.advance (x.raise (x.dst h.n d .w32 fun i =>
              old i + ((el i 0).1 * 2 ^ place 0 + (el i 1).1 * 2 ^ place 1 + (el i 2).1 * 2 ^ place 2 + (el i 3).1 * 2 ^ place 3))
            d fun i => (el i 0).2 ||| (el i 1).2 ||| (el i 2).2 ||| (el i 3).2))) ∧
      (∀ s x fm, narrow s x fm → Free s x [opd a .w32, opd d .w128] →
        let el := fun (i j : Nat) => f32.ofVal (mode x) (fm.val ((x.src32 i a).toNat / 2 ^ place j % 2 ^ (if m = 1#2 then 4 else 8) % 2 ^ fm.width))
        Lands (exec (.unpack h d a hi f m) s) s x.who
          (x.advance (x.raise (x.dst h.n d .w128 fun i =>
              (el i 0).1 + (el i 1).1 * 2 ^ 32 + (el i 2).1 * 2 ^ 64 + (el i 3).1 * 2 ^ 96)
            d fun i => (el i 0).2 ||| (el i 1).2 ||| (el i 2).2 ||| (el i 3).2))) ∧
      (∀ s x, s.ctx? = some x → (∀ fm, ¬ narrow s x fm) →
        exec (.pack h d a hi f m) s = .next (s.illegal x) ∧ exec (.unpack h d a hi f m) s = .next (s.illegal x)) ∧
      (∀ s x, Free s x [opd a .w32] → s.matrixPending x.who = false →
        Lands (exec (.flclr h a) s) s x.who (passed x fun i l => { l with fl := l.fl &&& ~~~((x.src32 i a).extractLsb' 0 5) })) ∧
      Settles (.fmtw h f a) [opd a .w32] (fun x => x.solo = true)
        (fun x => { passed x (fun _ l => l) with fmts := x.g.fmts.set f.toNat (x.src32 (x.g.lowest x.c.seats) a &&& 0xFF001D77#32) }) ∧
      (∀ s x t, Free s x [opd a .w32] → x.solo = false → s.teams.get? x.g.team = some t →
        Lands (exec (.fmtw h f a) s)
          { s with teams := s.teams.set x.g.team { t with fmts := t.fmts.set f.toNat (x.src32 (x.g.lowest x.c.seats) a &&& 0xFF001D77#32) } }
          x.who (passed x fun _ l => l)) ∧
      (∀ s x, Free s x [opd d .w32] →
        Lands (exec (.fmtr h d f) s) s x.who (wrote x h d .w32 fun _ => (s.fmtReg x.who f.toNat).toNat)))

/-- R93, R94: loads. -/
def Obligations.LoadsReadMemory : Prop :=
  ∀ (h : Hdr) (d : BitVec 7) (cap : BitVec 4) (off : BitVec 7) (imm : BitVec 5) (s : State) (x : Ctx) (p : Nat → Nat),
    let n := sizeBytes 4 h.size
    let wd := widthOfBytes n
    let value := fun (i : Nat) =>
      let v := leNat (s.bytes (p i) n)
      if h.size = 6 then ((BitVec.ofNat 8 v).signExtend 32).toNat else if h.size = 7 then ((BitVec.ofNat 16 v).signExtend 32).toNat else v
    let a := memAccess x h cap off imm n false (fun _ => permR) true false 0x70
    let after := acquired s x (h.ord = 2 ∨ h.ord = 4) h.sc
    (Free s x ([opd off .w32, opd d wd] ++ capOpd cap h.laneCap) (opd off .w32 :: capOpd cap h.laneCap) → Served s x a p →
      LandsBare (exec (.ld h d cap off imm) s) after x.who (wrote x h d wd value)) ∧
    (Free s x [opd off .w32, opd d wd] [opd off .w32] x.readers → Served s x { a with e := fun _ => a.e x.lowest, whole := true, op := 0x72 } p →
      LandsBare (exec (.ldu h d cap off imm) s) after x.who (wrote x h d wd fun _ => value x.lowest))

/-- R95 with R97: stores, and capabilities through memory. -/
def Obligations.CapabilitiesThroughMemory : Prop :=
  ∀ (h : Hdr) (d : BitVec 7) (cap : BitVec 4) (off : BitVec 7) (imm : BitVec 5) (s : State) (x : Ctx) (p : Nat → Nat),
    let n := sizeBytes 4 h.size
    let ld := memAccess x h cap off imm 16 false (fun _ => permR) true false 0x73
    let st := memAccess x h cap off imm n false (fun _ => permW) false true 0x71
    let stc := memAccess x h cap off imm 16 false (fun i => if x.quadTag d i then permW ||| permSC else permW) false true 0x74
    let granule := fun (s : State) (b : Nat) => s.tags.contains (b / 16)
    (Free s x ([opd off .w32, opd d .w128] ++ capOpd cap h.laneCap) (opd off .w32 :: capOpd cap h.laneCap) → Served s x ld p →
      LandsBare (exec (.ldc h d cap off imm) s) (acquired s x (h.ord = 2 ∨ h.ord = 4) h.sc) x.who
        (x.advance (x.dst h.n d .w128 (fun i => leNat (s.bytes (p i) 16)) fun i => granule s (p i) && (ld.cap i).has permLC))) ∧
    (Free s x ([opd off .w32, opd d .w128] ++ capOpd cap h.laneCap) → Served s x stc p → Quiet s x stc p →
      LandsBare (exec (.stc h d cap off imm) s)
        ((x.g.byLogical x.c.seats).foldl (fun (s : State) i => s.writeCap (p i) (leBytes 16 (x.src128 i d).toNat) (x.quadTag d i)) s)
        x.who (x.advance x.g)) ∧
    (Free s x ([opd off .w32, opd d (widthOfBytes n)] ++ capOpd cap h.laneCap) → Served s x st p → Quiet s x st p →
      LandsBare (exec (.st h d cap off imm) s)
        ((x.g.byLogical x.c.seats).foldl (fun (s : State) i => s.write (p i) (leBytes n (x.srcN i d (widthOfBytes n)))) s)
        x.who (x.advance x.g)) ∧
    (∀ b bs tag, (∀ g ∈ (s.write b bs).tags, g ∈ s.tags ∧ ∀ j < bs.length, (b + j) / 16 ≠ g) ∧
      granule (s.writeCap b bs tag) b = (tag || (bs.isEmpty && granule s b))) ∧
    (∀ i, s.check x.who x.g.team (stc.cap i) (stc.e i) 16 [1] (stc.perms i) true = none →
      x.quadTag d i = true → (stc.cap i).has permSC = true) ∧
    (∀ i e, s.check x.who x.g.team (stc.cap i) e 16 [1] permR true = none → e % 16 = 0)

/-- What a write does to memory: the frame of every store. -/
def Obligations.StoredBytesReadBack : Prop :=
  ∀ (s : State) (a : Nat) (bs : List Byte), Memory.wf s.mem = true → s.keyed = [] → s.trust.memKeys = [] →
    (∀ b, (s.write a bs).byte b = if a ≤ b ∧ b < a + bs.length then bs.getD (b - a) 0 else s.byte b) ∧
    (∀ g, (s.write a bs).tags.contains g = (s.tags.contains g && !(List.range bs.length).any fun j => (a + j) / 16 == g)) ∧
    (∀ q, (s.write a bs).poison.contains q = (s.poison.contains q && !(decide (a ≤ 32 * q) && decide (32 * q + 32 ≤ a + bs.length)))) ∧
    ({ s.write a bs with mem := s.mem, tags := s.tags, poison := s.poison } : State) = s

/-- R98, R99: atomics, lane by lane. -/
def Obligations.AtomicsAtTheirHome : Prop :=
  ∀ (h : Hdr) (d : BitVec 7) (cap : BitVec 4) (off : BitVec 7) (imm : BitVec 5) (s : State) (x : Ctx) (p : Nat → Nat),
    let n := sizeBytes 4 h.size
    let arg := fun (i : Nat) =>
      if h.aop = 9 then (let q := x.srcN i d (widthOfBytes (2 * n)); (q / 2 ^ (8 * n), q % 2 ^ (8 * n))) else (x.srcN i d (widthOfBytes n), 0)
    let os := [opd off .w32, opd d (widthOfBytes (if h.aop = 9 then 2 * n else n))] ++ capOpd cap h.laneCap
    let atom := memAccess x h cap off imm n true (fun _ => permW ||| permA) true true 0x75
    let atomr := memAccess x h cap off imm n true (fun _ => permR ||| permW ||| permA) true true 0x76
    let r := (x.g.byLogical x.c.seats).foldl (atomicStep n h.aop p arg) (s, [])
    let after := acquired r.1 x (h.ord = 2 ∨ h.ord = 4) h.sc
    (wellFormed (.atom h d cap off imm) = true → Free s x os → Served s x atom p → Quiet s x atom p →
      LandsBare (exec (.atom h d cap off imm) s) after x.who (x.advance x.g)) ∧
    (wellFormed (.atomr h d cap off imm) = true → Free s x os → Served s x atomr p → Quiet s x atomr p →
      LandsBare (exec (.atomr h d cap off imm) s) after x.who
        (wrote x h d (widthOfBytes n) fun i => ((r.2.find? fun e => e.1 == i).map (·.2)).getD 0)) ∧
    (10 < h.aop → wellFormed (.atom h d cap off imm) = false ∧ wellFormed (.atomr h d cap off imm) = false)

/-- R100, R101, R102, R302. -/
def Obligations.FencesAndCacheControl : Prop :=
  ∀ (h : Hdr) (q : BitVec 4) (quad slice : Bool) (g : BitVec 7) (s : State) (x : Ctx) (p : Nat → Nat),
    let a := lineAccess x q quad g fun _ => permR
    let b := lineAccess x q quad g fun i => if (x.capOf i q quad).has permR then permR else permW
    let os := [opd g .w32] ++ capOpd q quad
    let memory := fun (t : State) => t.mem = s.mem ∧ t.tags = s.tags ∧ t.poison = s.poison ∧ t.keyed = s.keyed
    let same := fun (t : State) => memory t ∧ ∀ w, w ≠ x.who → t.group? w = s.group? w
    -- a line that PFETCH brings in may abort a control core's transaction that has written it (R318)
    let fetched := fun (t : State) => memory t ∧
      ∀ w, w ≠ x.who → ((s.group? w).any fun g => isSolo w && (g.lane 0).tx.isSome) = false → t.group? w = s.group? w
    (s.ctx? = some x → x.g.failed = [] → s.unperformed x.who = false → s.matrixPending x.who = false →
      Lands (exec (.fence h) s) (acquired s x (h.ord ≠ 3) h.sc) x.who (x.advance x.g)) ∧
    (Free s x os [] → Ends (exec (.pfetch h q quad slice g) s) x.who (x.advance x.g) fun t _ => fetched t) ∧
    (Free s x os → Served s x b p → LandsBare (exec (.cwb h q quad slice g) s) s x.who (x.advance x.g)) ∧
    (Free s x os → Served s x b p → Ends (exec (.cwb h q quad slice g) s) x.who (x.advance x.g) fun t _ =>
      same t ∧ ∀ n i, x.who = .ctl n → i ∈ x.c.seats → (n, p i / 128) ∉ t.dirty) ∧
    (Free s x os → Served s x a p → Ends (exec (.cinv h q quad g) s) x.who (x.advance x.g) fun t _ =>
      same t ∧ (∀ n i, x.who = .ctl n → i ∈ x.c.seats → (n, p i / 128) ∉ t.copies) ∧
      (∀ c i k, s.coreOf x.who = some c → i ∈ x.c.seats → (t.core c).near.get? k ≠ none → k / 4 ≠ p i / 128)) ∧
    (s.ctx? = some x → (∀ i ∈ x.c.seats, (x.g.lane i).tx = none) → Lands (exec (.ifence h) s) (s.setIcache x.who []) x.who
      (x.advance { x.g with lanes := x.g.lanes.map fun l => { l with loopBuf := none } }))

/-- R87: the order of the checks, and what a failing access does. -/
def Obligations.ChecksOfAnAccess : Prop :=
  ∀ (h : Hdr) (d : BitVec 7) (cap : BitVec 4) (off : BitVec 7) (imm : BitVec 5) (s : State) (x : Ctx) (team : Nat) (c : Cap)
    (e : Int) (n : Nat) (perms : BitVec 8),
    let check := s.check x.who team c e n [1] perms true
    let size := sizeBytes 4 h.size
    let os := [opd off .w32, opd d (widthOfBytes size)] ++ capOpd cap h.laneCap
    let a := memAccess x h cap off imm size false (fun _ => permR) true false 0x70
    let b := memAccess x h cap off imm size false (fun _ => permW) false true 0x71
    let why := fun (l : List (Nat × CheckFail)) (cause : Cause) (bad : List Nat) => ∃ k, (∃ q ∈ l, q.2 = (k, cause)) ∧ (∀ q ∈ l, k ≤ q.2.1) ∧
      ∀ i, i ∈ bad ↔ ∃ f, (i, f) ∈ l ∧ f.1 = k
    let fails := fun (a : Access) => x.c.seats.filterMap fun i =>
      (s.check x.who x.g.team (a.cap i) (a.e i) a.size [1] (a.perms i) true).map fun f => (i, f)
    (c.tag = false ∨ c.kind = 0 → check = some (1, .capTag)) ∧
    (c.tag = true → c.kind ≠ 0 → (c.kind ≠ 1 ∨ c.perm &&& perms ≠ perms) → check = some (2, .capPerm)) ∧
    (c.tag = true → c.kind = 1 → c.perm &&& perms = perms → c.pkg = s.regs.pkg →
      (e < c.base ∨ c.limit < e + n → check = some (3, .capBound)) ∧
      (c.base ≤ e → e + n ≤ c.limit →
        (n ≠ 0 → e % n ≠ 0 → check = some (4, .misaligned)) ∧
        ((n = 0 ∨ e % n = 0) → check = if s.revoked x.who (s.asnOf x.who) c.index then some (5, .capRevoked) else none))) ∧
    (Free s x os (opd off .w32 :: capOpd cap h.laneCap) → fails a ≠ [] → ∃ cause bad, why (fails a) cause bad ∧
      exec (.ld h d cap off imm) s = .next (s.fault x cause bad (BitVec.ofInt 64 (a.e (lowSeat bad))))) ∧
    (Free s x os → fails b ≠ [] → ∃ cause bad, why (fails b) cause bad ∧
      exec (.st h d cap off imm) s = .next (s.fault x cause bad (BitVec.ofInt 64 (b.e (lowSeat bad)))))

/-- R191: the array accepts what has passed the checks of R192. -/
def Obligations.MatrixInstructionsAreAccepted : Prop :=
  ∀ (h : Hdr) (t f : BitVec 3) (hm si : BitVec 4) (a b v : BitVec 7) (m : BitVec 2) (col : Bool) (u : BitVec 8) (u6 : BitVec 6)
    (s : State) (x : Ctx) (c : Nat) (p : Nat × Nat) (w : Word),
    let goes := fun (i : Instr) (sh : Bool) (o0 o1 : Nat) (vals : Nat → List Word) (fmt : Word) (ham : Option (Nat × Nat)) (rm : Nat) =>
      (sh = true → ∀ q ∈ (s.core c).matrix.incoming, s.opTeam q ≠ x.g.team) →
      Lands (exec i s) (accepted s x c sh (x.matrixOf i o0 o1 vals fmt ham rm)) x.who (x.advance x.g)
    let rm := x.u.fpRM
    let size := [160, 96, 256, 256].getD m.toNat 256
    let off := (x.uni32 a).toNat
    let w0 := (x.uni32 b).toNat
    let w1 := (x.uni32 (b + 1)).toNat
    let afmt := BitVec.ofNat 3 (w1 / 2 ^ 16)
    let idx := BitVec.ofNat 7 (h.ext % 128)
    let descriptor := w1 / 2 ^ 19 % 2 = 0 ∧ w1 / 2 ^ 15 % 2 = 0 ∧ w1 / 2 ^ 7 % 2 = 0 ∧ (m = 2#2 ∨ m = 3#2 → afmt = 0#3) ∧
      s.rowFmt x afmt m = some w ∧ w1 % 128 + w1 / 256 % 128 ≤ 127 ∧ w0 % 8 = 0
    let pitch := 8 * (w1 / 2 ^ 20)
    let k := (x.sreg si).toNat + u.toNat % 64
    let k6 := (x.sreg si).toNat + u6.toNat
    let esize := [4, 2, 8, 8].getD (u.toNat / 64) 8
    let regs := [4, 2, 8, 8].getD (u.toNat / 64) 8
    let at_ := (x.sr (si.toNat + 1)).toNat + 8 * h.ext
    let sOp := fun n => ((BitVec.ofNat 7 (96 + si.toNat), n) : Opd)
    let regsOf := fun (r : Code) (n : Nat) (i : Nat) => (List.range n).map fun j =>
      x.src32 i (if r = 112#7 ∨ r = 119#7 then r else r + BitVec.ofNat 7 j)
    let one := x.readers
    (ArrayOpen s x [(a, 1)] c (lanes := one) → s.attached x.g hm.toNat = some p → s.rowFmt x f m = some w → off + 128 * size ≤ 131072 → off % 8 = 0 →
      goes (.ldw h hm a f m) false off 0 (fun _ => []) w (some p) rm) ∧
    (ArrayOpen s x [] c → goes (.swapw h) (h.ord % 2 == 1) 0 0 (fun _ => []) 0 none rm) ∧
    (ArrayOpen s x [(b, 2)] c (lanes := one) → s.attached x.g hm.toNat = some p → descriptor →
      (∀ i ∈ x.c.seats, ∀ r < 128, r % 32 = i → w1 % 128 ≤ r → r ≤ w1 % 128 + w1 / 256 % 128 →
        w0 + (r - w1 % 128) * pitch + size ≤ 131072) →
      goes (.mma h t hm b m) (h.ord % 2 == 1) w0 w1 (fun _ => []) w (some p) rm) ∧
    (ArrayOpen s x [(b, 2), (idx, 4)] c → s.attached x.g hm.toNat = some p → descriptor →
      (∀ i ∈ x.c.seats, ∀ r < 128, r % 32 = i → w1 % 128 ≤ r → r ≤ w1 % 128 + w1 / 256 % 128 →
        let row := ((regsOf idx 4 i).getD (r / 32) 0).toNat
        row = 0xFFFFFFFF ∨ w0 + row * pitch + size ≤ 131072) →
      goes (.mmq h t hm b m) (h.ord % 2 == 1) w0 w1 (regsOf idx 4) w (some p) rm) ∧
    (ArrayOpen s x [] c → goes (.tzero h t) false 0 0 (fun _ => []) 0 none rm) ∧
    (ArrayOpen s x [(a, if m = 0#2 then 4 else 1)] c → m = 0#2 ∨ m = 2#2 →
      goes (.scacc h t a b m) false 0 0 (if m = 0#2 then regsOf a 4 else fun i => [x.src32 i a]) 0 none (if h.ord = 0 then rm else h.ord)) ∧
    (ArrayOpen s x [(a, 1)] c (lanes := one) → m = 1#2 ∨ m = 3#2 → s.attached x.g (b.toNat % 16) = some p → off + 512 ≤ 131072 → off % 4 = 0 →
      goes (.scacc h t a b m) false off 0 (fun _ => []) 0 (some p) (if h.ord = 0 then rm else h.ord)) ∧
    (ArrayOpen s x [sOp 1, (v, regs)] c → k ≤ 127 → goes (.twr h t col si v u) false k 0 (regsOf v regs) 0 none rm) ∧
    (ArrayOpen s x [sOp 1, (v, 4)] c → k6 ≤ 127 → goes (.tscl h t col si v u6) false k6 0 (regsOf v 4) 0 none rm) ∧
    (ArrayOpen s x [sOp 2] c → k ≤ 127 → s.attached x.g hm.toNat = some p → at_ + 128 * esize ≤ 131072 → at_ % esize = 0 →
      goes (.tld h t col si hm u) false k at_ (fun _ => []) 0 (some p) rm ∧
      goes (.tst h t col si hm u) false k at_ (fun _ => []) 0 (some p) rm)

/-- R195, R196, R202, R204, R205, R243: what the array does with an operation. The model's choices in it: the bytes 0 that a TST
writes for a poisoned element (log 13), and the shares of slices by seat (log 21). -/
def Obligations.ArrayPerformsPlanesAndTiles : Prop :=
  ∀ (s : State) (core : Nat) (o : MatrixOp) (rest : List MatrixOp) (h : Hdr) (t f : BitVec 3) (hm si : BitVec 4) (a b v : BitVec 7)
    (m : BitVec 2) (col : Bool) (u : BitVec 8) (u6 : BitVec 6),
    let ham := o.hamper.elim Hamper.reset fun p => s.hamper p.1 p.2
    let size := [160, 96, 256, 256].getD m.toNat 256
    let ty := u.toNat / 64
    let es := [4, 2, 8, 8].getD ty 8
    let fm := [f32, bf16, f64, a40].getD ty a40
    let into := fun (n : Nat) => if ty = 3 then n % 2 ^ 40 else (a40.ofVal o.rm (fm.val (n % 2 ^ (8 * es)))).1
    let from_ := fun (n : Nat) => if ty = 3 then n else (fm.ofVal o.rm (a40.val n)).1
    let wordsOf := fun (l : Nat) => o.words l
    let piece := fun (l j : Nat) => wordsNum (wordsOf l) / 2 ^ (8 * es * j) % 2 ^ (8 * es)
    let planes := fun (m m' : Matrix) => m'.active = m.active ∧ m'.shadow = m.shadow
    AtHead s core o rest → o.o0 ≤ 127 ∨ o.instr = .ldw h hm a f m ∨ o.instr = .scacc h t a b m →
    (o.instr = .swapw h → Performs s core rest fun m m' _ => m'.active = m.shadow ∧ m'.shadow = m.active ∧ m'.acc = m.acc) ∧
    (o.instr = .ldw h hm a f m → Performs s core rest fun k k' _ => k'.active = k.active ∧ k'.acc = k.acc ∧
      k'.shadow.kind = rowKind m ∧ k'.shadow.fmt = o.fmt ∧
      ∀ n < 128, k'.shadow.rows.getD n [] = ham.read (o.o0 + n * size) size ∧
        k'.shadow.poison.contains n = ham.isPoisoned (o.o0 + n * size) size) ∧
    (o.instr = .tzero h t → Performs s core rest fun m m' _ => planes m m' ∧
      TileChanged m m' o.lanes t.toNat fun _ _ _ => ⟨0, false⟩) ∧
    (o.instr = .scacc h t a b m → Performs s core rest fun k k' _ => planes k k' ∧
      TileChanged k k' o.lanes t.toNat fun i c e =>
        let reg := f32.val ((wordsOf (i % 32)).getD (if m = 0#2 then i / 32 else 0) 0).toNat
        let mem := f32.val (leNat (ham.read (o.o0 + 4 * c) 4))
        let val := a40.val e.code.toNat
        if m = 0#2 ∨ m = 2#2 then element e.poison (a40.mul o.rm val reg).1
        else element (e.poison || ham.isPoisoned (o.o0 + 4 * c) 4) (if m = 1#2 then a40.mul o.rm val mem else a40.add o.rm val mem).1) ∧
    (o.instr = .twr h t col si v u → Performs s core rest fun k k' _ => planes k k' ∧
      SliceChanged k k' o.lanes t.toNat col o.o0 fun l j _ => element false (into (piece l j))) ∧
    (o.instr = .tscl h t col si v u6 → Performs s core rest fun k k' _ => planes k k' ∧
      SliceChanged k k' o.lanes t.toNat col o.o0 fun l j e =>
        element e.poison (a40.mul o.rm (a40.val e.code.toNat) (f32.val ((wordsOf l).getD j 0).toNat)).1) ∧
    (o.instr = .tld h t col si hm u → Performs s core rest fun k k' _ => planes k k' ∧
      SliceChanged k k' o.lanes t.toNat col o.o0 fun l j _ =>
        let at_ := o.o1 + shareAt col l j * es
        element (ham.isPoisoned at_ es) (into (leNat (ham.read at_ es)))) ∧
    (o.instr = .tst h t col si hm u → o.o1 + 128 * es ≤ 131072 → ∀ p, o.hamper = some p →
      Performs s core rest fun k k' w => k'.acc = k.acc ∧ planes k k' ∧
        let ham' := w.hamper p.1 p.2
        (∀ l ∈ o.lanes, ∀ j < 4, let e := shareAt col l j
          let cell := k.elem (cellAt t.toNat col o.o0 e).1 (cellAt t.toNat col o.o0 e).2
          ham'.read (o.o1 + e * es) es = leBytes es (if cell.poison then 0 else from_ cell.code.toNat) ∧
          (cell.poison = true → ∀ y, o.o1 + e * es ≤ y → y < o.o1 + e * es + es → ham'.isPoisoned (y / 8 * 8) 8 = true) ∧
          (cell.poison = false → es = 8 → o.o1 % 8 = 0 → ham'.isPoisoned (o.o1 + e * es) 8 = false)) ∧
        ∀ y < 131072, (∀ l ∈ o.lanes, ∀ j < 4, ¬(o.o1 + shareAt col l j * es ≤ y ∧ y < o.o1 + shareAt col l j * es + es)) →
          ham'.byte y = ham.byte y)

/-- R193, R198-R200, R217. -/
def Obligations.ArrayMultipliesRowsByKSteps : Prop :=
  (∀ (s : State) (core : Nat) (o : MatrixOp) (rest : List MatrixOp) (h : Hdr) (t : BitVec 3) (hm : BitVec 4) (b : BitVec 7) (m : BitVec 2)
      (gather : Bool),
      let ham := o.hamper.elim Hamper.reset fun p => s.hamper p.1 p.2
      let size := [160, 96, 256, 256].getD m.toNat 256
      let row0 := o.o1 % 128
      let last := row0 + o.o1 / 256 % 128
      AtHead s core o rest → o.rows = none → last ≤ 127 → o.instr = (if gather then .mmq h t hm b m else .mma h t hm b m) →
        Performs s core rest fun k k' _ => k'.active = k.active ∧ k'.shadow = k.shadow ∧
          ∀ r c, c < 128 →
            let i := r % 128
            let u := if gather then ((o.words (i % 32)).getD (i / 32) 0).toNat else i - row0
            let at_ := o.o0 + u * (8 * (o.o1 / 2 ^ 20))
            let row := (rowKind m).values o.fmt (ham.read at_ size)
            let weights := k.active.column c
            let old := if h.ord / 2 % 2 = 1 then ⟨0, false⟩ else k.elem r c
            k'.elem r c =
              if r / 128 = t.toNat ∧ row0 ≤ i ∧ i ≤ last ∧ i % 32 ∈ o.lanes ∧ ¬(gather = true ∧ u = 0xFFFFFFFF) then
                element (ham.isPoisoned at_ size || old.poison || k.active.poison.contains c)
                  (kStep o.arm old.code.toNat row.1 weights.1 row.2 weights.2).1
              else k.elem r c) ∧
  (∀ (mode acc : Nat) (xs ws sxs sws : List Val), acc < 2 ^ 40 → xs.length = 128 → ws.length = 128 → sxs.length = 32 → sws.length = 32 →
      let nan := a40.infMag + 2 ^ (a40.mbits - 1)
      let clean := ∀ v ∈ xs ++ ws ++ sxs ++ sws, v.isNaN = false
      let finite := fun (v : Val) => v.isNaN = false ∧ v.isInf = false
      ((a40.val acc).isNaN = true ∨ ¬clean → kStep mode acc xs ws sxs sws = (nan, if sNanCode a40 acc then flNV else 0)) ∧
      ((a40.val acc).isNaN = false → clean →
        (∃ k < 128, ((xs.getD k (.inf false)).isInf = true ∧ (ws.getD k (.inf false)).isZero = true) ∨
          ((xs.getD k (.inf false)).isZero = true ∧ (ws.getD k (.inf false)).isInf = true)) →
        kStep mode acc xs ws sxs sws = (nan, flNV)) ∧
      ((a40.val acc).isInf = true → (∀ v ∈ xs ++ ws ++ sxs ++ sws, finite v) → kStep mode acc xs ws sxs sws = (acc, 0)) ∧
      (finite (a40.val acc) → (∀ v ∈ xs, v.isZero = true) → (∀ v ∈ ws ++ sxs ++ sws, finite v) → kStep mode acc xs ws sxs sws = (acc, 0)))

/-- R205 with R191; R201. The model's choices in it: which .sh operation comes next, in the order of issue past those that a claim
keeps out (log 94), and the shares of slices by seat (log 21). -/
def Obligations.TileReadsAndSharedProducts : Prop :=
  ∀ (h : Hdr) (t : BitVec 3) (col : Bool) (si : BitVec 4) (v : BitVec 7) (u : BitVec 8) (s : State) (x : Ctx) (c : Nat) (o : MatrixOp)
    (first rest : List MatrixOp),
    let ty := u.toNat / 64
    let n := [4, 2, 8, 8].getD ty 8
    let fm := [f32, bf16, f64, a40].getD ty a40
    let bits := [32, 16, 64, 64].getD ty 64
    let k := (x.sreg si).toNat + u.toNat % 64
    let m := claimed (s.core c).matrix x.g.team
    let cell := fun (i j : Nat) => let p := cellAt t.toNat col k (shareAt col i j); m.elem p.1 p.2
    let elem := fun (i j : Nat) => if ty = 3 then ((cell i j).code.toNat, 0) else fm.ofVal x.u.fpRM (a40.val (cell i j).code.toNat)
    let value := fun (i : Nat) => ((List.range 4).map fun j => (elem i j).1 * 2 ^ (bits * j)).sum
    let team := fun (q : MatrixOp) => (s.groups.get? q.group).elim 0 (·.team)
    let k' := (s.core c).matrix
    let barred := fun (q : MatrixOp) => ∃ d, k'.claim = some d ∧ d ≠ team q
    (ArrayOpen s x [(BitVec.ofNat 7 (96 + si.toNat), 1), (v, n)] c [] → k ≤ 127 → m.queue = [] →
      (∀ i ∈ x.c.seats, ∀ j < 4, (cell i j).poison = false) →
      Lands (exec (.trd h t col si v u) s) (s.setCore c { s.core c with matrix := m, lastTrd := (s.now, x.g.place.elim 4 (·.slot)) }) x.who
        (x.advance (x.g.modLanes x.c.seats fun i l =>
          let l := (l.push (BitVec.ofNat 64 (value i))).raise ((List.range 4).foldl (fun f j => f ||| (elem i j).2) 0)
          if h.n then l else l.setRegs (x.wb + v.toNat) (words n (value i)) false))) ∧
    (k'.incoming = first ++ o :: rest → (∀ q ∈ first, barred q) → ¬barred o → k'.queue.length < 32 →
      exec (.shArrival c) s = .next (s.setCore c { s.core c with
        matrix := { claimed k' (team o) with
          queue := (claimed k' (team o)).queue ++ [{ o with slot := 4, time := s.now }], incoming := first ++ rest } })) ∧
    ((∀ q ∈ k'.incoming, barred q) ∨ 32 ≤ k'.queue.length → exec (.shArrival c) s = .next s)

/-- R104, R108: hampers through map entries. -/
def Obligations.HamperAccesses : Prop :=
  ∀ (h : Hdr) (d : BitVec 7) (hm pa qa : BitVec 4) (off g : BitVec 7) (imm : BitVec 5) (s : State) (x : Ctx) (cl n : Nat) (t : Team)
    (e : MapEntry),
    let size := sizeBytes 4 h.size
    let wd := widthOfBytes size
    let e_ := fun (i : Nat) => (x.src32 i off).toInt + memImm h imm false * size
    let at_ := fun (i : Nat) => (e_ i).toNat
    let os := [opd off .w32, opd d wd]
    let k := s.hamper cl n
    let inside := fun (i : Nat) => decide (0 ≤ e_ i) && decide (e_ i + size ≤ 131072)
    let open_ := fun (reads : List Opd) => Free s x os reads ∧ x.solo = false ∧ s.attached x.g hm.toNat = some (cl, n)
    let there := ∀ i ∈ x.c.seats, inside i = true ∧ e_ i % size = 0
    let value := fun (i : Nat) =>
      let v := leNat (k.read (at_ i) size)
      if h.size = 6 then ((BitVec.ofNat 8 v).signExtend 32).toNat else if h.size = 7 then ((BitVec.ofNat 16 v).signExtend 32).toNat else v
    let fault := fun (i : Instr) (c : Cause) (bad : List Nat) => exec i s = .next (s.fault x c bad (BitVec.ofInt 64 (e_ (lowSeat bad))))
    let both := fun (P : Instr → Prop) => P (.hget h d hm off imm) ∧ P (.hput h d hm off imm)
    let owned := s.teamOf x.g = some t ∧ s.mapEntry x.g qa.toNat = some e
    (open_ [opd off .w32] → there → s.matrixPending x.who = false → s.fenced x.who = false → (∀ i ∈ x.c.seats, k.isPoisoned (at_ i) size = false) →
      Lands (exec (.hget h d hm off imm) s) s x.who (wrote x h d wd value)) ∧
    (open_ os → there → s.matrixPending x.who = false → s.fenced x.who = false → (∀ r ∈ s.groups, ∀ a b c, r.2.wait ≠ some (.kwait a b c)) →
      Lands (exec (.hput h d hm off imm) s)
        ((x.g.byLogical x.c.seats).foldl (fun (s : State) i => s.setHamper cl n ((s.hamper cl n).write (at_ i) (leBytes size (x.srcN i d wd)))) s)
        x.who (x.advance x.g)) ∧
    (Free s x os → x.solo = false → s.attached x.g hm.toNat = none → both fun i => fault i .hamperDetached x.c.seats) ∧
    (open_ os → (x.c.seats.filter fun i => !inside i) ≠ [] → both fun i => fault i .capBound (x.c.seats.filter fun i => !inside i)) ∧
    (open_ os → (∀ i ∈ x.c.seats, inside i = true) → (x.c.seats.filter fun i => e_ i % (size : Int) != 0) ≠ [] →
      both fun i => fault i .misaligned (x.c.seats.filter fun i => e_ i % (size : Int) != 0)) ∧
    (∀ (k : Hamper) (a : Nat) (bs : List Byte) (y : Nat), a + bs.length ≤ 131072 → y < 131072 →
      (k.write a bs).byte y = if a ≤ y ∧ y < a + bs.length then bs.getD (y - a) 0 else k.byte y) ∧
    (Free s x [opd g .w32] [] → x.solo = false →
      (owned → Lands (exec (.hmapr h pa qa false g) s) s x.who (wrote x h g .w32 fun _ => (match e.hamper with
        | some m => 2 ^ 31 + e.gv.toNat * 2 ^ 30 + m * 2 ^ 25 + 2 ^ 24 + (s.hamper t.cluster m).swz * 2 ^ 16
        | none => 2 ^ 24) % 2 ^ 32)) ∧
      (s.mapEntry x.g qa.toNat = none → Lands (exec (.hmapr h pa qa false g) s) s x.who (wrote x h g .w32 fun _ => 0))) ∧
    (Free s x [] → x.solo = false → owned → ∀ m, e.hamper = some m →
      Lands (exec (.hmapr h pa qa true g) s) s x.who
        (x.advance { x.g with acaps := x.g.acaps.set pa.toNat ⟨capBits 2 0xE1
          (s.regs.pkg * 2 ^ 20 + t.cluster / 20 * 2 ^ 17 + t.cluster % 20 * 2 ^ 12 + m * 2 ^ 7) 0 0 0x20000 0, true⟩ }))

/-- R117, R118: kettle words. -/
def Obligations.KettleWords : Prop :=
  ∀ (h : Hdr) (p k : BitVec 4) (g : BitVec 7) (s : State) (x : Ctx),
    let c := x.acap p.toNat
    let e := x.address x.lowest c g 0
    let cl := c.hamper.1
    let n := c.hamper.2
    let ready := fun (perm : BitVec 8) => Free s x [opd g .w32, (BitVec.ofNat 7 (96 + k.toNat), 1)] (lanes := x.readers) ∧ x.solo = false ∧
      x.c.seats ≠ [] ∧ (∀ i ∈ x.c.seats, (x.g.lane i).tx = none) ∧ s.check x.who x.g.team c e 8 [2] perm true = none ∧ s.matrixUses x.who (cl, n) = false
    let word := fun (s : State) (cl n off : Nat) => leNat ((s.hamper cl n).read off 8)
    let w := word s cl n e.toNat
    let arrival := fun (w c : Nat) =>
      let count := w % 2 ^ 24 + c
      let target := w / 2 ^ 24 % 2 ^ 24
      if target = 0 then w / 2 ^ 48 * 2 ^ 48 + count % 2 ^ 24
      else (w / 2 ^ 48 + count / target) % 2 ^ 16 * 2 ^ 48 + target * 2 ^ 24 + count % target
    let put := fun (s : State) (cl n off v : Nat) => s.setHamper cl n ((s.hamper cl n).write off (leBytes 8 v))
    let noWait := ∀ r ∈ s.groups, ∀ a b c, r.2.wait ≠ some (.kwait a b c)
    (ready permW → Lands (exec (.kinit h p k g) s) (put s cl n e.toNat (w / 2 ^ 48 * 2 ^ 48 + (x.sreg k).toNat % 2 ^ 24 * 2 ^ 24))
      x.who (x.advance x.g)) ∧
    (ready permW → noWait → x.g.failed = [] → s.unperformed x.who = false →
      Lands (exec (.kadd h p k g) s) (put s cl n e.toNat (arrival w ((x.sreg k).toNat % 2 ^ 24))) x.who (x.advance x.g)) ∧
    (ready permR → w / 2 ^ 48 ≠ (x.sreg k).toNat % 2 ^ 16 →
      Lands (exec (.kwait h p k g) s) (acquired s x true (if h.ord = 2 then h.sc else 4)) x.who (x.advance x.g)) ∧
    (ready permR → w / 2 ^ 48 = (x.sreg k).toNat % 2 ^ 16 →
      Ends (exec (.kwait h p k g) s) x.who { x.g.closeRun s.now with wait := some (.kwait cl n e.toNat) } fun t _ => t.clusters = s.clusters) ∧
    (∀ a b off, let v := word s a b off
      ∃ t, exec (.kettleStep a b off) s = .next t ∧ t.clusters = (put s a b off (arrival v 0)).clusters ∧ t.mem = s.mem ∧
        (arrival v 0 / 2 ^ 48 = v / 2 ^ 48 → t = put s a b off (arrival v 0)) ∧
        (arrival v 0 / 2 ^ 48 ≠ v / 2 ^ 48 → ∀ r ∈ t.groups, r.2.wait ≠ some (.kwait a b off)))

/-- R110, R111, R256: how a copy starts. That it takes the lowest free slot is the model's choice (log 87). -/
def Obligations.CopiesStart : Prop :=
  ∀ (h : Hdr) (p q k : BitVec 4) (g : BitVec 7) (s : State) (x : Ctx) (core slot : Nat),
    let n := (x.uni32 g).toNat
    let quad := fun (j : Nat) => (x.src128 x.lowest g).toNat / 2 ^ (32 * j) % 2 ^ 32
    let src := x.acap q.toNat
    let dsts := (List.range (h.ext / 256 % 8 + 1)).map fun i => x.acap (p.toNat + i)
    let kettle := if h.ext / 2 ^ 15 % 2 = 1 then some (x.acap (h.ext / 2 ^ 11 % 16)) else none
    let kc := s.core core
    let end_ := fun (c : Cap) => if c.kind = 2 then CopyEnd.hamper c.hamper.1 c.hamper.2 c.cursor
      else .mem c.pkg (s.asnOf x.who) c.index c.cursor
    let ready := fun (w : Nat) => Free s x [(g, w), (BitVec.ofNat 7 (96 + k.toNat), 1)] (lanes := x.readers) ∧ x.solo = false ∧ x.c.seats ≠ [] ∧
      (∀ i ∈ x.c.seats, (x.g.lane i).tx = none) ∧ s.coreOf x.who = some core ∧ (∀ c ∈ src :: dsts, c.kind = 2 ∨ c.pkg = s.regs.pkg) ∧
      s.matrixPending x.who = false ∧ s.unperformed x.who = false ∧ x.g.failed = [] ∧
      (∀ e ∈ s.ctls, (e.2.thread.lane 0).tx = none) ∧ (∀ r ∈ s.reqs, r.2.who = x.who → r.2.pc = x.c.addr → r.2.remote = none)
    let next := fun (copies : FMap CopySlot) => s.setCore core { kc with seq := (kc.seq + 1) % 65536, copies }
    let group := match x.who with | .grp g => g | .ctl _ => 0
    let running := fun (sh : Shape) (absent : List PageKey) =>
      ({ state := .running, seq := kc.seq, team := x.g.team, group, rowLen := sh.r, rows := sh.k, srcPitch := sh.sp, dstPitch := sh.dp,
         src := some (end_ src), dsts := dsts.map end_, taken := [], done := dsts.map fun _ => [], want := [], absent, stop := none,
         kettle := kettle.map fun c => (c.hamper.1, c.hamper.2, c.cursor), left := 0 } : CopySlot)
    let listed := fun (s : State) => { s with teams := match s.teams.get? x.g.team with
      | some t => s.teams.set x.g.team { t with copies := t.copies ++ [(core, slot)] }
      | none => s.teams }
    let free := slot < 64 ∧ (∀ c, kc.copies.get? slot = some c → c.state ≠ .running) ∧
      ∀ j < slot, ∃ c, kc.copies.get? j = some c ∧ c.state = .running
    let handle := fun (j : Nat) => x.advance (x.dst h.n (BitVec.ofNat 7 (96 + k.toNat)) .w32 fun _ => kc.seq * 65536 + j)
    let starts := fun (i : Instr) (w : Nat) (sh : Shape) => ready w → s.copyFails x src dsts kettle sh = none →
      ((sh.r = 0 ∨ sh.k = 0) → Lands (exec i s) (next kc.copies) x.who (handle 0)) ∧
      (sh.r ≠ 0 → sh.k ≠ 0 → free → (∀ l ∈ s.copyLines (running sh []), s.engineCan core l true = true) →
        ∃ absent, LandsBare (exec i s) (listed (next (kc.copies.set slot (running sh absent)))) x.who (handle slot) ∧
          (∀ k ∈ absent, k.pkg = s.regs.pkg ∧ s.peek k 0 = none) ∧
          ∀ c ∈ dsts, c.kind ≠ 2 → ∀ i < sh.k, ∀ j < sh.r,
            let k : PageKey := ⟨c.pkg, s.asnOf x.who, c.index, (c.cursor + i * sh.dp + j) / 65536⟩
            s.peek k 0 = none → k ∈ absent)
    starts (.copy h p q k g) 1 ⟨n, if n = 0 then 0 else 1, 0, 0⟩ ∧
    starts (.copy2 h p q k g) 4 ⟨quad 0, quad 1, quad 2, quad 3⟩ ∧
    (∀ c v, ready 1 → s.copyFails x src dsts kettle ⟨n, if n = 0 then 0 else 1, 0, 0⟩ = some (c, v) →
      exec (.copy h p q k g) s = .next (s.fault x c x.c.seats v)) ∧
    (2 ^ 32 ≤ quad 0 * quad 1 → ready 4 → (∀ c ∈ src :: dsts, c.tag = true ∧ c.kind = 1) → src.has (permR ||| permE) = true →
      (∀ c ∈ dsts, c.has (permW ||| permE) = true) → kettle = none →
      exec (.copy2 h p q k g) s = .next (s.fault x .capBound x.c.seats (BitVec.allOnes 64)))

/-- R110, R112, R113, R115: the engine, and COPYC. The model's choice in it (log 26): a piece moves in one event, and one whose place
a higher row has overtaken (R111) is recorded and not written again. -/
def Obligations.CopiesRunAndEnd : Prop :=
  ∀ (h : Hdr) (test : Bool) (k : BitVec 4) (g : BitVec 7) (s : State) (x : Ctx) (core slot off len : Nat) (c : CopySlot),
    let hd := (x.uni32 g).toNat
    let kc := s.core core
    let left := (c.done.map fun l => c.rowLen * c.rows - (l.map fun r => r.2 - r.1).sum).sum
    let sat := fun (v : Nat) => min v (2 ^ 28 - 1)
    let reads := Free s x [opd g .w32, (BitVec.ofNat 7 (96 + k.toNat), 1)] (lanes := x.readers) ∧ x.solo = false ∧ x.c.seats ≠ [] ∧
      (∀ i ∈ x.c.seats, (x.g.lane i).tx = none) ∧ s.coreOf x.who = some core
    let held := kc.copies.get? slot = some c
    let mine := held ∧ hd % 64 = slot ∧ hd / 65536 = c.seq
    let answer := fun (P : State → Prop) (st : Nat) =>
      Ends (exec (.copyc h test k g) s) x.who (x.advance (x.dst h.n (BitVec.ofNat 7 (96 + k.toNat)) .w32 fun _ => st)) fun t _ => P t ∧ t.mem = s.mem
    let gone := kc.copies.get? (hd % 64) = none ∨ ∃ d, kc.copies.get? (hd % 64) = some d ∧ d.seq ≠ hd / 65536
    (reads → gone → answer (fun t => (t.core core).copies = kc.copies) (2 ^ 28)) ∧
    (reads → mine → c.state ≠ .never → c.team ≠ x.g.team → answer (fun t => t.cores = s.cores) (2 * 2 ^ 28)) ∧
    (reads → mine → c.team = x.g.team →
      (c.state = .complete → answer (fun t => (t.core core).copies = kc.copies) (2 ^ 28)) ∧
      (c.state = .failed → answer (fun t => (t.core core).copies = kc.copies) (4 * 2 ^ 28 + sat c.left)) ∧
      (c.state = .cancelled → answer (fun t => (t.core core).copies = kc.copies) (sat c.left)) ∧
      (c.state = .running → test = true → answer (fun t => t.cores = s.cores) (3 * 2 ^ 28)) ∧
      (c.state = .running → test = false → c.stop = none → s.copyReqs core slot false = false → answer (fun t =>
        (t.core core).copies.get? slot = some { c with state := .cancelled, left, want := [], stop := none } ∧
        (t.core core).cpDrop = (kc.cpDrop + left) % 2 ^ 64 ∧ (t.core core).cpErr = kc.cpErr) (sat left)) ∧
      (c.state = .running → test = false → c.stop = none → s.copyReqs core slot false = true →
        ∃ t, exec (.copyc h test k g) s = .next t ∧ t.cur = none ∧ t.mem = s.mem ∧
          (t.core core).copies.get? slot = some { c with want := [], stop := some .cancelled })) ∧
    (held → c.state ≠ .running → c.want = [] → exec (.copyWrite core slot off len) s = .next s) ∧
    (held → c.state = .running → c.stop = none → (∀ l ∈ c.done, (l.map fun r => r.2 - r.1).sum = c.rowLen * c.rows) →
      s.copyReqs core slot true = false →
      ∃ t, exec (.copyComplete core slot) s = .next t ∧
        (t.core core).copies.get? slot = some { c with state := .complete, left := 0, want := [], stop := none } ∧
        (t.core core).cpDrop = kc.cpDrop % 2 ^ 64 ∧ (t.core core).cpErr = kc.cpErr ∧ t.mem = s.mem ∧ t.tags = s.tags) ∧
    (held → c.state = .running → c.stop = none → c.want = [] → ∀ (asn obj o dobj do_ : Nat) (l : List (Nat × Nat)), c.done = [l] → c.src = some (.mem s.regs.pkg asn obj o) →
      c.dsts = [.mem s.regs.pkg asn dobj do_] → c.kettle = none → s.bits = [] → s.regs.thresh = 0 →
      (∀ e ∈ s.ctls, (e.2.thread.lane 0).tx = none) → s.copyReqs core slot true = false →
      s.retries = [] → (∀ m ∈ s.monitors, ∀ k, (Who.ctl 0, k) ∉ m.who) →
      ∀ a n pa pb, c.piece off len = (a, n) → 0 < n →
        let at_ := fun (base pitch : Nat) => base + (a / c.rowLen * pitch + a % c.rowLen)
        s.lookupHeld ⟨s.regs.pkg, asn, obj, at_ o c.srcPitch / 65536⟩ = false →
        s.lookupHeld ⟨s.regs.pkg, asn, dobj, at_ do_ c.dstPitch / 65536⟩ = false →
        s.peek ⟨s.regs.pkg, asn, obj, at_ o c.srcPitch / 65536⟩ (at_ o c.srcPitch) = some pa →
        s.peek ⟨s.regs.pkg, asn, dobj, at_ do_ c.dstPitch / 65536⟩ (at_ do_ c.dstPitch) = some pb →
        s.engineCan core (pb / 128) true = true → s.engineCan core (pa / 128) false = true → s.poisoned pa n = false → s.keyed = [] →
        s.trust.memKeys = [] → (∀ j < n, OffRings s (pb + j)) →
        let w := if c.overtaken a then s else s.write pb (s.bytes pa n)
        ∃ t, exec (.copyWrite core slot off len) s = .next t ∧ t.mem = w.mem ∧ t.tags = w.tags ∧
          (t.core core).copies.get? slot = some { c with taken := addRange c.taken a (a + n), done := [addRange l a (a + n)] })

/-- R106, R107, R335: gives. That HAMPER_DETACHED stores 0 as its trap value is the model's choice, for R352 gives none (log 13). -/
def Obligations.HampersAreGiven : Prop :=
  ∀ (h : Hdr) (p q k : BitVec 4) (g : BitVec 7) (s : State) (x : Ctx) (core n st gi : Nat) (t : Team) (e : MapEntry) (v : Group) (w : Give),
    let ready := Free s x [opd g .w64, (BitVec.ofNat 7 (96 + k.toNat), 1)] (lanes := x.readers) ∧ x.solo = false ∧ x.c.seats ≠ [] ∧
      (∀ i ∈ x.c.seats, (x.g.lane i).tx = none) ∧ s.teamOf x.g = some t ∧ s.mapEntry x.g p.toNat = some e ∧ s.coreOf x.who = some core
    let waits := s.groups.get? gi = some v ∧ v.wait = some (.hgive w) ∧ s.teams.get? v.team = some t
    let drained := s.drained t.cluster w.hamper = true ∧ s.unperformed (.grp gi) = false ∧
      ∀ m ∈ s.msgs, ∀ r c card, m.2 ≠ .post (.here (.grp gi) r c) w.name card
    let runs := fun (P : State → Prop) => ∃ u, exec (.hgiveComplete gi) s = .next u ∧ P u
    let ends := fun (u : State) (status : Nat) => ∃ v', u.groups.get? gi = some v' ∧ v'.wait = none ∧ v'.waitDone = some status
    let own := fun (u : State) => (s.mapEntry v w.entry).isSome = true → u.mapEntry v w.entry = some ⟨w.entry, some w.hamper, false⟩
    (ready → x.g.waitDone = none → e.hamper = some n → e.gv = false →
      Ends (exec (.hgive h p q k g) s) x.who
        { x.g.closeRun s.now with wait := some (.hgive ⟨core, p.toNat, n, q.toNat, x.uni64 g, k.toNat⟩) } fun u _ =>
        u.mapEntry x.g p.toNat = some { e with gv := true } ∧
        (u.hamper t.cluster n).giving = true ∧ (u.hamper t.cluster n).bytes = (s.hamper t.cluster n).bytes) ∧
    (ready → x.g.waitDone = none → (e.hamper = none ∨ e.gv = true) →
      exec (.hgive h p q k g) s = .next (s.fault x .hamperDetached x.c.seats 0)) ∧
    (ready → x.g.waitDone = some st → Lands (exec (.hgive h p q k g) s) s x.who
      (x.advance ({ x with g := { x.g with waitDone := none } }.dst h.n (BitVec.ofNat 7 (96 + k.toNat)) .w32 fun _ => st))) ∧
    (waits → (v.trapSave.bind fun q => q.wait) = none → ¬drained → exec (.hgiveComplete gi) s = .next s) ∧
    (waits → drained → s.nameHere w.name = true → s.lookupName w.name = none → runs fun u => ends u 2 ∧ own u) ∧
    (waits → drained → s.nameHere w.name = true → ∀ gn ne tg tt, s.lookupName w.name = some (gn, ne) → s.groups.get? gn = some tg →
      s.teams.get? tg.team = some tt → tg.ended = false →
      (tt.cluster ≠ t.cluster → runs fun u => ends u 3 ∧ own u) ∧
      (tt.cluster = t.cluster →
        (tt.entry tg.tcore w.target = none ∨ (∃ d, tt.entry tg.tcore w.target = some d ∧ d.hamper ≠ none) → runs fun u => ends u 1 ∧ own u) ∧
        (∀ d, tt.entry tg.tcore w.target = some d → d.hamper = none → runs fun u => ends u 0 ∧
          (∃ tt', u.teams.get? tg.team = some tt' ∧ tt'.entry tg.tcore w.target = some ⟨w.target, some w.hamper, false⟩) ∧
          (u.hamper t.cluster w.hamper).bytes = (s.hamper t.cluster w.hamper).bytes ∧
          (u.hamper t.cluster w.hamper).swz = (s.hamper t.cluster w.hamper).swz ∧
          (u.hamper t.cluster w.hamper).team = some tg.team ∧
          ((tg.team ≠ v.team ∨ tg.tcore ≠ v.tcore ∨ w.target ≠ w.entry) → (s.mapEntry v w.entry).isSome = true →
            u.mapEntry v w.entry = some ⟨w.entry, none, false⟩))))

/-- R89-R92: capabilities. That the faults of CAPSET and CAPPERM store the source's cursor as their trap value is the model's choice
(log 23). -/
def Obligations.CapabilityInstructions : Prop :=
  ∀ (h : Hdr) (p q k : BitVec 4) (k2 : BitVec 2) (quad : Bool) (g : BitVec 7) (s : State) (x : Ctx),
    let opds := fun (dq sq : Bool) => capOpd p dq ++ capOpd q sq
    let put := fun (dq : Bool) (r : Nat → Cap) => if dq then
        x.g.modLanes x.c.seats fun i l => l.setRegs (x.wb + 4 * p.toNat) (words 4 (r i).bits.toNat) (r i).tag
      else { x.g with acaps := x.g.acaps.set p.toNat (r x.lowest) }
    let dq := k.getLsbD 3
    let sq := k.getLsbD 2
    let n := fun (i : Nat) => (x.src64 i g).toNat
    let same := fun (c r : Cap) => r.kind = c.kind ∧ r.obj = c.obj
    let within := fun (c r : Cap) => c.base ≤ r.base ∧ r.limit ≤ c.limit ∧ r.perm &&& c.perm = r.perm
    let up := fun (b n e : Nat) => (b + n + 2 ^ e - 1) / 2 ^ e
    let bounded := fun (exact_ : Bool) (c : Cap) (n : Nat) (r : Cap) =>
      c.tag = true ∧ r.tag = true ∧ same c r ∧ within c r ∧ r.perm = c.perm ∧ r.cursor = c.cursor ∧ r.gexp ≤ 22 ∧
      up c.cursor n r.gexp ≤ 2 ^ 20 - 1 ∧ (∀ e < r.gexp, 2 ^ 20 - 1 < up c.cursor n e) ∧ r.lower = c.cursor / 2 ^ r.gexp ∧
      r.upper = up c.cursor n r.gexp ∧ (exact_ = true → c.cursor % 2 ^ r.gexp = 0 ∧ (c.cursor + n) % 2 ^ r.gexp = 0)
    let narrows := fun (exact_ : Bool) =>
      (∃ r, Lands (exec (.capset h p q k g) s) s x.who (x.advance (put dq r)) ∧
        ∀ i ∈ x.c.seats, bounded exact_ (x.capOf i q sq) (n i) (r i)) ∨
      (∃ c ls, (c = .capTag ∨ c = .capBound) ∧ ls ≠ [] ∧ (∀ i ∈ ls, i ∈ x.c.seats ∧ ∀ r, ¬bounded exact_ (x.capOf i q sq) (n i) r) ∧
        exec (.capset h p q k g) s = .next (s.fault x c ls (BitVec.ofNat 64 (x.capOf (lowSeat ls) q sq).cursor)))
    let sealable := fun (c : Cap) => (c.kind = 1 ∨ c.kind = 2) ∧ c.gexp ≤ 22 ∧ c.lower ≤ c.upper
    let untagged := fun (sq : Bool) => x.c.seats.filter fun i => !(x.capOf i q sq).tag
    let passes := fun (i : Nat) =>
      let c := x.capOf i q quad
      let w := x.src32 i g
      let size := w.toNat / 256
      c.tag && (c.kind == 1 || c.kind == 2) && c.perm &&& w.setWidth 8 == w.setWidth 8 && (c.pkg == s.regs.pkg || c.has permQ) &&
      decide (c.base ≤ c.cursor) && decide (c.cursor + size ≤ c.limit) && (size == 0 || c.cursor % size == 0) &&
      (c.kind == 2 || !(if c.pkg = s.regs.pkg then s.revoked x.who (s.asnOf x.who) c.index
        else s.farRevoked.contains (c.pkg, s.asnOf x.who, c.index))) &&
      (c.kind == 1 || (c.pkg == s.regs.pkg && (s.hamper c.hamper.1 c.hamper.2).team == some x.g.team && !(s.hamper c.hamper.1 c.hamper.2).giving))
    (k.toNat % 4 = 0 → Free s x (opds dq sq) (capOpd q sq) →
      Lands (exec (.capset h p q k g) s) s x.who (x.advance (put dq fun i => x.capOf i q sq))) ∧
    (k.toNat % 4 = 1 → x.c.seats ≠ [] → Free s x (opds dq sq ++ [opd g .w64]) (capOpd q sq ++ [opd g .w64]) → narrows false) ∧
    (k.toNat % 4 = 2 → x.c.seats ≠ [] → Free s x (opds dq sq ++ [opd g .w64]) (capOpd q sq ++ [opd g .w64]) → narrows true) ∧
    (k.toNat % 4 = 3 → s.ctx? = some x → s.privileged x.who = false → exec (.capset h p q k g) s = .next (s.fault x .illegal x.c.seats 0)) ∧
    (k.toNat % 4 = 3 → x.c.seats ≠ [] → Free s x (opds dq sq) (capOpd q sq) → s.privileged x.who = true → (∀ i ∈ x.c.seats, sealable (x.capOf i q sq)) →
      Lands (exec (.capset h p q k g) s) s x.who (x.advance (put dq fun i => ⟨(x.capOf i q sq).bits, true⟩))) ∧
    (Free s x (opds (k2.getLsbD 1) (k2.getLsbD 0) ++ [opd g .w32]) (capOpd q (k2.getLsbD 0) ++ [opd g .w32]) →
      (untagged (k2.getLsbD 0) = [] → x.c.seats ≠ [] → ∃ r, Lands (exec (.capperm h p q k2 g) s) s x.who (x.advance (put (k2.getLsbD 1) r)) ∧
        ∀ i ∈ x.c.seats, let c := x.capOf i q (k2.getLsbD 0)
          (r i).tag = true ∧ same c (r i) ∧ within c (r i) ∧ (r i).cursor = c.cursor ∧ (r i).gexp = c.gexp ∧
          (r i).perm = c.perm &&& (x.src32 i g).setWidth 8) ∧
      (untagged (k2.getLsbD 0) ≠ [] → exec (.capperm h p q k2 g) s = .next (s.fault x .capTag (untagged (k2.getLsbD 0))
        (BitVec.ofNat 64 (x.capOf (lowSeat (untagged (k2.getLsbD 0))) q (k2.getLsbD 0)).cursor)))) ∧
    (Free s x (opds dq sq ++ [opd g .w64]) (capOpd q sq ++ [opd g .w64]) → x.c.seats ≠ [] → k.toNat % 4 < 2 →
      ∃ r, Lands (exec (.capadd h p q k g) s) s x.who (x.advance (put dq r)) ∧ ∀ i ∈ x.c.seats, let c := x.capOf i q sq
        (r i).tag = c.tag ∧ same c (r i) ∧ within c (r i) ∧ (r i).perm = c.perm ∧ (r i).gexp = c.gexp ∧
        (r i).cursor = (if k.toNat % 4 = 1 then n i else c.cursor + n i) % 2 ^ 42) ∧
    (p.toNat ≤ 8 → Computes (.capget h p q quad g) h g (if p.toNat < 4 then .w64 else .w32) (capOpd q quad) fun x i =>
      let c := x.capOf i q quad
      [c.base, c.limit, c.cursor, (((c.limit : Int) - c.base) % 2 ^ 64).toNat, c.perm.toNat, c.kind, c.tag.toNat, c.obj, c.gexp].getD p.toNat 0) ∧
    (Free s x (capOpd q quad ++ [opd g .w32]) → Lands (exec (.capchk h q quad g) s) s x.who (wrotePred x 6 passes))

/-- R151, R152, R274-R277. -/
def Obligations.BarriersAndMeetings : Prop :=
  ∀ (h : Hdr) (arr : Bool) (g : BitVec 7) (k : BitVec 4) (s : State) (x : Ctx) (t : Team) (b : Barrier) (team n : Nat),
    let ready := fun (os : List Opd) => Free s x os ∧ x.solo = false ∧ x.c.seats ≠ [] ∧ (∀ i ∈ x.c.seats, (x.g.lane i).tx = none)
    let mine := s.teamOf x.g = some t ∧ t.barriers[g.toNat]? = some b ∧ x.g.place ≠ none
    let calm := ∀ e ∈ s.teamGroups t, e.2.trapSave = none ∧ ∀ l ∈ e.2.lanes, ∀ m q, l.mode = .atBarrier m q → m = g.toNat → q = b.phase
    let open_ := s.matrixPending x.who = false ∧ x.g.failed = [] ∧ s.unperformed x.who = false ∧
      (∀ e ∈ s.teamGroups t, ∀ l ∈ e.2.lanes, ∀ m q, l.mode = .barrierNext m q → m ≠ g.toNat)
    let barrier := fun (u : State) => (u.teams.get? x.g.team).bind fun v => v.barriers[g.toNat]?
    let c := (x.sreg k).toNat
    let target := fun (i : Nat) => x.src64 i g
    let all := s.teamGroups t
    let here := s.teams.get? team = some t
    let shape := t.groups.Nodup ∧ ∀ e ∈ all, e.2.lanes.length = 32 ∧ e.2.live ≠ [] ∧ e.2.role < 8
    let seat := fun (g : Group) => g.place.elim (t.base + g.tcore) (·.core)
    (ready [] → mine → calm → open_ → b.cnt ≠ 0 → b.arr + x.c.seats.length < b.cnt →
      Ends (exec (.bar h arr g) s) x.who
        (x.advance (if arr then x.g else x.g.modLanes x.c.seats fun _ l => { l with mode := .atBarrier g.toNat b.phase }))
        fun u _ => ∃ b', barrier u = some b' ∧ b'.cnt = b.cnt ∧ b'.arr = b.arr + x.c.seats.length ∧ b'.phase = b.phase ∧ u.mem = s.mem) ∧
    (ready [] → mine → s.matrixPending x.who = true →
      Lands (exec (.bar h arr g) s) s x.who { x.g.closeRun s.now with wait := some .bar }) ∧
    (ready [] → mine → calm → open_ → b.cnt ≠ 0 → b.arr + x.c.seats.length = b.cnt → b.again = [] →
      ∃ u, exec (.bar h arr g) s = .next u ∧ u.cur = none ∧ u.mem = s.mem ∧
        (∃ b', barrier u = some b' ∧ b'.cnt = b.cnt ∧ b'.arr = 0 ∧ b'.phase = b.phase + 1) ∧
        ∀ m ∈ t.groups, ∀ v, u.groups.get? m = some v → v.ended = false → ∀ l ∈ v.lanes, l.mode ≠ .atBarrier g.toNat b.phase) ∧
    (here → t.barriers[n]? = some b → b.again = [] →
      (∀ e ∈ all, e.2.trapSave = none ∧ ∀ l ∈ e.2.lanes, ∀ q, l.mode ≠ .barrierNext n q) →
      (b.isOver (s.liveThreads t) = true ↔ if b.cnt = 0 then s.liveThreads t ≠ [] ∧ ∀ i ∈ s.liveThreads t, i ∈ b.arrived else b.cnt ≤ b.arr) ∧
      (b.isOver (s.liveThreads t) = true → b.cnt ≠ 0 →
        ∃ u b', exec (.barrierPhase team n) s = .next u ∧ ((u.teams.get? team).bind fun v => v.barriers[n]?) = some b' ∧
          b'.phase = b.phase + 1 ∧ b'.arr = 0 ∧
          ∀ m ∈ t.groups, ∀ v, u.groups.get? m = some v → v.ended = false → ∀ l ∈ v.lanes, l.mode ≠ .atBarrier n b.phase)) ∧
    (ready [(BitVec.ofNat 7 (96 + k.toNat), 1)] → mine → c ≤ t.threads →
      Lands (exec (.barcfg h k g) s) (s.setBarrier x.g.team g.toNat { b with cnt := c }) x.who (x.advance x.g)) ∧
    (ready [(BitVec.ofNat 7 (96 + k.toNat), 1)] → mine → t.threads < c →
      exec (.barcfg h k g) s = .next (s.fault x .indexBound x.c.seats (BitVec.ofNat 64 c))) ∧
    (ready [opd g .w64] → (∀ i ∈ x.c.seats, (x.g.lane i).meetFault = none ∧ (target i).toNat % 4 = 0) → s.reqs = [] →
      Lands (exec (.regroup h g) s) s x.who
        ((x.g.leaveEntries x.c.seats).modLanes x.c.seats fun i l => { l with mode := .atMeeting (target i) })) ∧
    (here → shape → s.meeting t = some true → (∀ e ∈ all, ∀ f ∈ all, e.2.wb = f.2.wb) →
      ∃ u, exec (.regroupMeeting team) s = .next u ∧
        ∀ e ∈ all, ∀ i ∈ e.2.live, ∃ f ∈ u.teamGroups t, ∃ j, (f.2.lane j).thread = (e.2.lane i).thread ∧ (f.2.lane j).mode = .running ∧
          (f.2.lane j).regs = (e.2.lane i).regs ∧ seat f.2 = seat e.2 ∧ f.2.role = e.2.role ∧
          (e.2.lane i).mode = .atMeeting (f.2.lane j).pc) ∧
    (here → shape → s.meeting t = some true → (∃ e ∈ all, ∃ f ∈ all, e.2.wb ≠ f.2.wb) →
      ∃ u, exec (.regroupMeeting team) s = .next u ∧ ∀ e ∈ all, ∀ i ∈ e.2.live, ∃ v, u.groups.get? e.1 = some v ∧
        (v.lane i).mode = .running ∧ (v.lane i).meetFault = some .window ∧ (v.lane i).pc = (e.2.lane i).pc)

/-- R271, R273; R22. -/
def Obligations.SpawnAndJoin : Prop :=
  ∀ (h : Hdr) (p k : BitVec 4) (g : BitVec 7) (s : State) (x : Ctx) (at_ : Nat → Nat) (prt : Nat) (w : Who) (v : Group) (d' : Desc) (args' : List Word) (id : Nat),
    let c := x.acap p.toNat
    let pair := BitVec.ofNat 7 (96 + k.toNat)
    let pairs : List Opd := [(pair, 2), (96#7, 8)]
    let own := (List.range 8).map x.sr
    let reads := fun (size : Nat) => cursorAccess c size permR false
    let ready := fun (os : List Opd) (size : Nat) => Free s x os (lanes := x.readers) ∧ x.c.seats ≠ [] ∧ Served s x (reads size) at_ ∧
      x.g.waitDone = none ∧ x.g.failed = [] ∧ s.unperformed x.who = false ∧ ∀ r ∈ s.reqs, r.2.who = x.who → r.2.remote = none
    let a := at_ x.lowest
    let d := descOf (s.bytes a 256) (s.tagAt (a + 0x30) && c.has permLC) (s.tagAt (a + 0x40) && c.has permLC)
    let fits := (s.partOf x.who).any fun p => s.partFits p d
    let code := if d.valid true = false then 1 else if fits = false then 2 else if d.capsOk true = false then 3 else 0
    let wroteId := fun (g : Group) (n : Nat) => x.advance ({ x with g := g }.dst h.n pair .w64 fun _ => n)
    let launched := fun (s : State) (prt : Nat) (who : Who) (args : List Word) (d : Desc) =>
      let q := s.part prt
      { s.setPart prt { q with nextId := if q.nextId = 0xFFFFFFFF#32 then 1 else q.nextId + 1 } with
          queued := s.queued + 1
          grids := s.grids.set s.grids.fresh
            { launch := q.nextId, part := some prt, desc := d, asn := BitVec.ofNat 16 (s.asnOf who), args := (args ++ List.replicate 16 0).take 16,
              a0 := d.argcap, source := .spawn, teams := d.teams, next := 0, held := false, reported := false, ended := false, order := s.queued } }
    let waiting := s.group? w = some v ∧ v.wait = some (.spawnRoom d' args') ∧ s.partOf w = some prt
    (ready pairs 256 → code ≠ 0 → LandsBare (exec (.spawn h p k) s) s x.who (wroteId x.g (code * 2 ^ 32))) ∧
    (ready pairs 256 → code = 0 → s.partOf x.who = some prt → s.queueLen prt d.priority < 256 →
      LandsBare (exec (.spawn h p k) s) (launched s prt x.who own d) x.who (wroteId x.g (s.part prt).nextId.toNat)) ∧
    (ready pairs 256 → code = 0 → s.partOf x.who = some prt → 256 ≤ s.queueLen prt d.priority →
      LandsBare (exec (.spawn h p k) s) s x.who { x.g.closeRun s.now with wait := some (.spawnRoom d own) }) ∧
    (Free s x pairs → (∀ i ∈ x.c.seats, (x.g.lane i).tx = none) → x.g.waitDone = some id →
      Lands (exec (.spawn h p k) s) s x.who (wroteId { x.g with waitDone := none } id)) ∧
    (waiting → s.queueLen prt d'.priority < 256 → ∃ t v', exec (.spawnQueueRoom w) s = .next t ∧ t.grids = (launched s prt w args' d').grids ∧
      t.group? w = some v' ∧ v'.wait = none ∧ v'.waitDone = some (s.part prt).nextId.toNat ∧
      (t.part prt).nextId = if (s.part prt).nextId = 0xFFFFFFFF#32 then 1 else (s.part prt).nextId + 1) ∧
    (waiting → 256 ≤ s.queueLen prt d'.priority → exec (.spawnQueueRoom w) s = .next s) ∧
    (ready [opd g .w64] 8 → (x.uni64 g).toNat ≤ s.num a 8 →
      LandsBare (exec (.join h p g) s) (acquired s x true 9) x.who (x.advance x.g)) ∧
    (ready [opd g .w64] 8 → s.num a 8 < (x.uni64 g).toNat →
      LandsBare (exec (.join h p g) s) s x.who { x.g.closeRun s.now with wait := some (.join (a / 128)) }) ∧
    (∀ l, s.group? w = some v → v.wait = some (.join l) →
      ∃ t v', exec (.joinRecheck w) s = .next t ∧ t.group? w = some v' ∧ v'.wait = none ∧ v'.lanes = v.lanes ∧ t.mem = s.mem) ∧
    (s.group? w = some v → v.runOpen = true → v.issueQ = [] → (∃ l ∈ v.lanes, 24 ≤ l.count) →
      ∃ t v', exec (.runLimit w) s = .next t ∧ t.group? w = some v' ∧ v'.runOpen = false ∧ groupCore v' = groupCore (v.closeRun s.now)) ∧
    (s.group? w = some v → (v.runOpen = false ∨ ∀ l ∈ v.lanes, l.count < 24) → ∃ t, exec (.runLimit w) s = .next t ∧ t.group? w = some v)

/-- R279-R282, R335-R337. -/
def Obligations.PostcardsAndHolds : Prop :=
  ∀ (h : Hdr) (p q k : BitVec 4) (g : BitVec 7) (clr : Bool) (s : State) (x : Ctx) (ks : List Nat) (m : Nat) (sender : Sender) (w : Who) (r : Nat)
    (name : Dword) (c : Postcard) (n : Nat) (e : NameEntry) (v : Group) (code : Word) (die z : Nat),
    let count := q.toNat % 4 + 1
    let noTx := ∀ i ∈ x.c.seats, (x.g.lane i).tx = none
    let seats := if q.getLsbD 2 then List.range 32 else x.c.seats
    let card : Postcard := ⟨h.ext % 1024, count, q.getLsbD 3, seats.map fun i => (i, (List.range count).map fun j => x.src32 i (g + BitVec.ofNat 7 j)), h.sc⟩
    let os := [(BitVec.ofNat 7 (96 + p.toNat), 2), (BitVec.ofNat 7 (96 + k.toNat), 1), (g, count)]
    let key := if g.toNat < 96 then x.wb + g.toNat else 0x10000 + (g.toNat - 96)
    let hold := Free s x [] ∧ x.solo = false ∧ noTx ∧ g.toNat < 112
    let inside := 96 ≤ g.toNat ∨ x.wb + g.toNat < x.g.alloc
    let held := ks.Nodup ∧ ∀ a, a ∈ ks ↔ ∃ b ∈ x.g.holds, b.1 = a
    let pair := BitVec.ofNat 7 (96 + k.toNat)
    let answered := fun (t : State) (die code : Nat) => ∃ z, match sender with
      | .here w r _ => t.msgs = (s.msgs.erase m).set (s.msgs.erase m).fresh (.status w r (BitVec.ofNat 32 code) die z)
      | .far pkg _ => t.msgs = s.msgs.erase m ∧ t.sent = s.sent ++ [.fabricReply pkg none (.status code) z]
    let sent := s.msgs.get? m = some (.post sender name c) ∧ s.unrouted sender name (some m) = false
    let home := (nameCore name).elim 0 coreDie
    let at_ := s.dieOf (.grp n)
    let route := sent ∧ s.nameHere name = true
    let found := s.lookupName name = some (n, e) ∧ (c.u = true ∨ c.d + c.n - 1 < e.alloc) ∧ s.groups.get? n = some v ∧ v.ended = false
    let routed := fun (P : State → Prop) => ∃ t, exec (.postcardRoute m) s = .next t ∧ t.mem = s.mem ∧ P t
    let deliver := s.msgs.get? m = some (.forwarded n sender c die z) ∧ s.groups.get? n = some v ∧ v.ended = false ∧ v.preempted = false ∧
      s.forwardedTo n (some m) = false ∧ v.betweenIssues = true ∧ (c.vals.map (·.1)).Nodup ∧ (∀ a ∈ c.vals, a.2.length = c.n ∧ a.1 < v.lanes.length)
    let live := fun (i : Nat) => (v.lane i).thread.isSome = true ∧ (v.lane i).mode ≠ .exited
    (Free s x os → noTx → x.g.status.length < 16 → x.g.failed = [] → s.unperformed x.who = false →
      Lands (exec (.post h p q k g) s) { s with msgs := s.msgs.set s.msgs.fresh (.post (.here x.who k.toNat (s.cseqOf (s.dieOf x.who))) (x.spair p) card) } x.who
        (x.advance { x.g with status := x.g.status ++ [(k.toNat, s.msgs.fresh)] })) ∧
    (Free s x os → noTx → 16 ≤ x.g.status.length →
      Lands (exec (.post h p q k g) s) s x.who { x.g.closeRun s.now with wait := some .postLimit }) ∧
    (hold → inside → Lands (exec (.hold h true g) s) s x.who
      (x.advance { x.g with holds := x.g.holds.filter fun b => !(b.1 == key && x.c.seats.contains b.2) })) ∧
    (hold → inside → held → key ∈ ks ∨ ks.length < 16 → ∃ hs, (∀ b, b ∈ hs ↔ b ∈ x.g.holds ∨ (b.1 = key ∧ b.2 ∈ x.c.seats)) ∧
      Lands (exec (.hold h false g) s) s x.who (x.advance { x.g with holds := hs })) ∧
    (hold → inside → held → key ∉ ks → 16 ≤ ks.length →
      exec (.hold h false g) s = .next (s.fault x .indexBound x.c.seats (BitVec.ofNat 64 key))) ∧
    (hold → ¬inside → exec (.hold h clr g) s = .next (s.fault x .window x.c.seats (BitVec.ofNat 64 (max key x.g.alloc)))) ∧
    (Free s x [(pair, 2)] (lanes := x.readers) → Lands (exec (.name h false k g) s) s x.who (wrote x h pair .w64 fun _ => if x.solo then 0 else x.g.name.toNat)) ∧
    (Free s x [(pair, 2), opd g .w32] (lanes := x.readers) → x.solo = false → ∀ t, s.teamOf x.g = some t →
      Lands (exec (.name h true k g) s) s x.who
        (wrote x h pair .w64 fun _ => ((s.teamGroups t).find? fun b => b.2.gix == (x.uni32 g).toNat).elim 0 fun b => b.2.name.toNat)) ∧
    (sent → sender = .here w r z → s.nameHere name = false → routed fun t => t.groups = s.groups ∧ t.msgs = s.msgs.erase m ∧
      ∃ y, t.sent = s.sent ++ [.fabricRequest (namePkg name) none 65536 0 0 (.post c.d c.n c.u c.vals c.scope name) y]) ∧
    (route → s.lookupName name = none → routed fun t => answered t home 2 ∧ t.groups = s.groups) ∧
    (route → s.lookupName name = some (n, e) → c.u = false → e.alloc ≤ c.d + c.n - 1 → routed fun t => answered t home 3 ∧ t.groups = s.groups) ∧
    (route → found → v.preempted = false →
      routed fun t => (∃ y, t.msgs = (s.msgs.erase m).set s.msgs.fresh (.forwarded n sender c home y)) ∧ t.groups = s.groups) ∧
    (route → found → v.preempted = true → s.forwardedTo n none = false → 32 ≤ v.postBox.length →
      routed fun t => answered t home 1 ∧ t.groups = s.groups) ∧
    (route → found → v.preempted = true → s.forwardedTo n none = false → v.postBox.length < 32 →
      routed fun t => answered t home 0 ∧ t.groups = s.groups.set n { v with postBox := v.postBox ++ [c] }) ∧
    (deliver → c.u = false → (∀ l ∈ v.lanes, l.thread.isSome = true → c.d + c.n ≤ l.regs.length) →
      ∃ t v', exec (.postcardDeliver m) s = .next t ∧ answered t at_ 0 ∧ t.mem = s.mem ∧ t.groups.get? n = some v' ∧ v'.sregs = v.sregs ∧
        (∀ a ∈ c.vals, live a.1 →
          (∀ j < c.n, (v'.lane a.1).regs.getD (c.d + j) ⟨0, true, true⟩ = ⟨a.2.getD j 0, false, false⟩) ∧
          (∀ j, j < c.d ∨ c.d + c.n ≤ j → (v'.lane a.1).regs[j]? = (v.lane a.1).regs[j]?) ∧
          { v'.lane a.1 with regs := [] } = { v.lane a.1 with regs := [] }) ∧
        (∀ i, i ∉ c.vals.map (·.1) ∨ ¬live i → v'.lane i = v.lane i) ∧
        ∀ b, b ∈ v'.holds ↔ b ∈ v.holds ∧ ¬(c.d ≤ b.1 ∧ b.1 < c.d + c.n ∧ b.2 ∈ c.vals.map (·.1) ∧ live b.2)) ∧
    (deliver → c.u = true → c.vals ≠ [] → c.d + c.n ≤ 16 → v.sregs.length = 16 →
      ∃ t v', exec (.postcardDeliver m) s = .next t ∧ answered t at_ 0 ∧ t.groups.get? n = some v' ∧ v'.lanes = v.lanes ∧
        ∀ j < 16, v'.sregs[j]? = if c.d ≤ j ∧ j < c.d + c.n then (c.vals.headD (0, [])).2[j - c.d]? else v.sregs[j]?) ∧
    (s.msgs.get? m = some (.status w r code die z) → s.group? w = some v → v.ended = false →
      ∃ t v', exec (.statusLand m) s = .next t ∧ t.msgs = s.msgs.erase m ∧ t.mem = s.mem ∧ t.group? w = some v' ∧
        v'.sregs = v.sregs.set r code ∧ v'.lanes = v.lanes ∧ v'.holds = v.holds ∧ (∀ b, b ∈ v'.status ↔ b ∈ v.status ∧ b.1 ≠ r) ∧
        v'.wait = if v.wait = some .postLimit then none else v.wait)

/-- R285, R286, R407. A descriptor of more than 32 threads is INVALID for a message: the model's choice (log 34). -/
def Obligations.ActiveMessages : Prop :=
  ∀ (h : Hdr) (p q k : BitVec 4) (g : BitVec 7) (s : State) (x : Ctx) (m : Nat) (sender : Sender) (w : Who) (r hn : Nat) (target : Dword) (ws : List Word)
    (c : Cap) (name : Dword) (core prt z : Nat) (d : Desc),
    let noTx := ∀ i ∈ x.c.seats, (x.g.lane i).tx = none
    let carry := h.ext / 2 ^ 8 % 2 = 1
    let cap := x.acap q.toNat
    let os := [(BitVec.ofNat 7 (96 + p.toNat), 2), (BitVec.ofNat 7 (96 + k.toNat), 1), (g, 8)]
    let words8 := (List.range 8).map fun j => x.sr (g.toNat - 96 + j)
    let msg : Msg := .amsg (.here x.who k.toNat (s.cseqOf (s.dieOf x.who))) (x.spair p) (h.ext % 256) words8 (if carry then cap else Cap.null) (if x.solo then 0 else x.g.name)
    let comes := s.msgs.get? m = some (.amsg sender target hn ws c name)
    let arrives := comes ∧ s.nameHere target = true
    let base := { s with msgs := s.msgs.erase m }.heardBy (coreDie core) sender
    let at_ := (s.part prt).amBase + 32 * hn
    let depth := s.num (at_ + 0x12) 2
    let asn := s.num (at_ + 0x10) 2
    let seated := nameCore target = some core ∧ s.partOfCore core = some prt
    let waiting := (s.grids.filter fun e => e.2.part == some prt && !e.2.ended && decide (e.2.next < e.2.teams) &&
      (match e.2.source with | .amsg n _ => n == hn | _ => false)).length
    let open_ := seated ∧ depth ≠ 0 ∧ s.tagAt at_ = true ∧ waiting < depth ∧ s.regs.thresh = 0
    let read := base.handlerDesc m (match sender with | .here v _ _ => v | .far _ _ => .ctl 0) (s.capAt at_) asn
    let answers := fun (code : Nat) (grids : FMap Grid) => ∃ t z, exec (.amsgArrival m) s = .next t ∧ t.grids = grids ∧ t.mem = s.mem ∧
      match sender with
      | .here w r _ => t.msgs = (s.msgs.erase m).set (s.msgs.erase m).fresh
          (.status w r (BitVec.ofNat 32 code) ((nameCore target).elim fabricDie coreDie) z)
      | .far pkg _ => t.msgs = s.msgs.erase m ∧ t.sent = s.sent ++ [.fabricReply pkg none (.status code) z]
    let fits := d.valid false = true ∧ d.threads ≤ 32 ∧ s.partFits prt d = true ∧ d.capsOk false = true
    KeepsCsrs [(0x830, 0xFFFFE000#32), (0x831, 0x3FF#32)] ∧
    (Free s x os → noTx → (carry → cap.tag = true) → x.g.status.length < 16 → x.g.failed = [] → s.unperformed x.who = false →
      Lands (exec (.amsg h p q k g) s) { s with msgs := s.msgs.set s.msgs.fresh msg } x.who
        (x.advance { x.g with status := x.g.status ++ [(k.toNat, s.msgs.fresh)] })) ∧
    (Free s x os → noTx → carry → cap.tag = false →
      exec (.amsg h p q k g) s = .next (s.fault x .capTag x.c.seats (BitVec.ofNat 64 cap.cursor))) ∧
    (Free s x os → noTx → (carry → cap.tag = true) → 16 ≤ x.g.status.length →
      Lands (exec (.amsg h p q k g) s) s x.who { x.g.closeRun s.now with wait := some .postLimit }) ∧
    (comes → sender = .here w r z → s.nameHere target = false → ∃ t y, exec (.amsgArrival m) s = .next t ∧ t.grids = s.grids ∧ t.mem = s.mem ∧
      t.msgs = s.msgs.erase m ∧
      t.sent = s.sent ++ [.fabricRequest (namePkg target) none 65536 0 0 (.amsg hn ws c.bits c.tag name target) y]) ∧
    (arrives → nameCore target = none → answers 3 s.grids) ∧
    (arrives → nameCore target = some core → s.partOfCore core = none → answers 1 s.grids) ∧
    (arrives → seated → depth = 0 ∨ s.tagAt at_ = false → answers 1 s.grids) ∧
    (arrives → seated → depth ≠ 0 → s.tagAt at_ = true → depth ≤ waiting → answers 2 s.grids) ∧
    (arrives → open_ → ∀ u, read = .inl u → ∃ t, exec (.amsgArrival m) s = .next t ∧ t.msgs = s.msgs) ∧
    (arrives → open_ → ∀ u, read = .inr (none, u) → answers 4 s.grids) ∧
    (arrives → open_ → ∀ u, read = .inr (some d, u) → ¬fits → answers 4 s.grids) ∧
    (arrives → open_ → ∀ u, read = .inr (some d, u) → fits → answers 0 (s.grids.set s.grids.fresh
      { launch := (s.part prt).nextId, part := some prt, desc := d, asn := BitVec.ofNat 16 asn,
        args := (ws ++ [BitVec.ofNat 32 name.toNat, BitVec.ofNat 32 (name.toNat / 2 ^ 32)] ++ List.replicate 16 0).take 16,
        a0 := c, source := .amsg hn (coreDie core), teams := 1, next := 0, held := false, reported := false, ended := false,
        order := s.queued }))

/-- R283, R284, R286. -/
def Obligations.EdgeQueues : Prop :=
  ∀ (h : Hdr) (p : BitVec 4) (tryIt pop : Bool) (g : BitVec 7) (s : State) (x : Ctx) (at_ pl : Nat → Nat) (pd prt : Nat) (why : Cause)
    (w : Who) (v : Group),
    let c := x.acap p.toNat
    let hdr : Access := { cursorAccess c 128 (permR ||| permW ||| permA) true with ord := 0 }
    let ready := fun (reads : List Opd) => Free s x [opd g .w128] reads ∧ (∀ i ∈ x.c.seats, (x.g.lane i).tx = none) ∧ Served s x hdr at_ ∧
      Quiet s x hdr at_ ∧ x.g.failed = [] ∧ s.unperformed x.who = false ∧ (∀ r ∈ s.reqs, r.2.who = x.who → r.2.remote = none) ∧
      ∀ v ∈ s.qholds, v.who ≠ some x.who
    let pushes := ready [opd g .w128]
    let pops := ready []
    let a := at_ x.lowest
    let lc := c.has permLC
    let q := qHeader (s.bytes a 128) (s.tagAt (a + 0x20) && lc) (s.tagAt (a + 0x30) && lc)
    let seats := x.g.byLogical x.c.seats
    let m := seats.length
    let reach := fun (n : Nat) (perms : BitVec 8) (writes : Bool) =>
      let e := q.items.cursor + 16 * (n % q.slots)
      s.check x.who x.g.team q.items e 16 [1] perms true = none ∧ q.items.pkg = s.regs.pkg ∧
      s.peek ⟨q.items.pkg, s.asnOf x.who, q.items.index, e / 65536⟩ e = some (pl n) ∧
      s.lookupHeld ⟨q.items.pkg, s.asnOf x.who, q.items.index, e / 65536⟩ = false ∧ s.lineHeld x.who (pl n / 128) writes = false ∧
      Unwatched s (pl n / 128) ∧ ∀ j < 16, OffRings s (pl n + j)
    let put := fun (s : State) (e : Nat × Nat) => s.write (pl (q.tail + e.2)) (leBytes 16 (x.src128 e.1 g).toNat)
    let counts := fun (tail head free : Nat) => leBytes 8 tail ++ leBytes 8 head ++ leBytes 8 free
    let pushed := fun (head : Nat) => seats.zipIdx.foldl put (s.write a (counts (q.tail + m) head (q.free - m)))
    let room := m ≤ q.free ∧ ∀ k < m, reach (q.tail + k) permW true
    let d := descOf (s.bytes pd 256) (s.tagAt (pd + 0x30) && q.desc.has permLC) (s.tagAt (pd + 0x40) && q.desc.has permLC)
    let handled := q.mode = 0 ∧ s.check x.who x.g.team q.desc q.desc.cursor 256 [1] permR true = none ∧ q.desc.pkg = s.regs.pkg ∧
      s.peek ⟨q.desc.pkg, s.asnOf x.who, q.desc.index, q.desc.cursor / 65536⟩ q.desc.cursor = some pd ∧
      s.lookupHeld ⟨q.desc.pkg, s.asnOf x.who, q.desc.index, q.desc.cursor / 65536⟩ = false ∧
      (∀ b ∈ blocks 128 pd 256, s.lineHeld x.who b false = false) ∧ d.valid false = true ∧ s.partFits prt d = true ∧ d.capsOk false = true
    let avail := (q.tail + 2 ^ 64 - q.head) % 2 ^ 64
    let takers := seats.take avail
    let n := takers.length
    let item := fun (i : Nat) => leNat (s.bytes (pl (q.head + takers.idxOf i)) 16)
    let got := x.g.modLanes takers fun i l =>
      let l := l.push (BitVec.ofNat 64 (item i))
      if h.n then l else l.setRegs (x.wb + g.toNat) (words 4 (item i)) false
    let popped := acquired (if n = 0 then s else s.write a (counts q.tail (q.head + n) (q.free + n))) x true 9
    let waits := fun (i : Instr) (wt : Wait) => ∃ hs, LandsBare (exec i s) { s with qholds := hs } x.who { x.g.closeRun s.now with wait := some wt }
    let consumer := fun (k : Nat) =>
      let b := q.items.cursor + 16 * (k % q.slots)
      (fun (gr : Grid) => gr.desc = d ∧ gr.part = some prt ∧ gr.teams = 1 ∧ gr.next = 0 ∧ gr.asn = BitVec.ofNat 16 (s.asnOf x.who) ∧
        gr.source = .edge c.pkg (BitVec.ofNat 16 (s.asnOf x.who)) c ∧ gr.args = q.args ++ [BitVec.ofNat 32 k] ++ List.replicate 8 0 ∧
        ∀ e, boundsOf b 16 = some e → gr.a0 = ⟨capBits 1 q.perm q.items.obj e.1 e.2.1 e.2.2 b, true⟩)
    (ready (if pop then [] else [opd g .w128]) → q.fails m pop = some why →
      let i := if pop then Instr.eqpop h p tryIt g else .eqpush h p g
      ∃ t, exec i s = .next t ∧ (x.solo = false → s.traphOf x.g ≠ 0 → x.g.trap.inHandler = false →
        ∃ v, t.mem = s.mem ∧ t.group? x.who = some v ∧ v.trap.cause = BitVec.ofNat 8 (causeNum why) ∧ v.trap.mask = seatMask x.c.seats ∧ v.trap.tpc = x.c.addr)) ∧
    (pushes → q.fails m false = none → q.mode = 1 → room →
      LandsBare (exec (.eqpush h p g) s) (pushed q.head) x.who (x.advance x.g)) ∧
    (pushes → q.fails m false = none → handled → room → s.partOf x.who = some prt → q.args.length = 7 →
      Ends (exec (.eqpush h p g) s) x.who (x.advance x.g) fun t _ =>
        t.mem = (pushed (q.head + m)).mem ∧ ∀ k < m, ∃ n gr, s.grids.get? n = none ∧ t.grids.get? n = some gr ∧ consumer (q.tail + k) gr) ∧
    (pushes → q.fails m false = none → q.mode = 1 → q.free < m → waits (.eqpush h p g) (.eqpush (a / 128))) ∧
    (pops → q.fails m true = none → m ≤ avail → (∀ k < n, reach (q.head + k) permR false) →
      LandsBare (exec (.eqpop h p false g) s) popped x.who (x.advance got)) ∧
    (pops → q.fails m true = none → (∀ k < n, reach (q.head + k) permR false) →
      LandsBare (exec (.eqpop h p true g) s) popped x.who
        (x.advance (got.modLanes x.c.seats fun i l => l.setPred 6 (takers.contains i)))) ∧
    (pops → q.fails m true = none → avail < m → waits (.eqpop h p false g) (.eqpop (a / 128))) ∧
    (∀ l, s.group? w = some v → v.wait = some (.eqpush l) ∨ v.wait = some (.eqpop l) →
      ∃ t v', exec (.eqRecheck w) s = .next t ∧ t.group? w = some v' ∧ v'.wait = none ∧ v'.lanes = v.lanes ∧ t.mem = s.mem)

/-- R287, R404-R406. The model's choices in it: offsets count from the cursor of a0 (log 35); the object index, the line of the extent
array and the first frame are the hardware's picks, NOMEM where one of them is in use (log 36); INVALID where the length is zero or
the range cannot be reached (log 37). -/
def Obligations.Services : Prop :=
  ∀ (h : Hdr) (n : BitVec 8) (k : BitVec 4) (g : BitVec 7) (s : State) (x : Ctx) (c lane i v : Nat) (b : Batch) (gr : Group) (qs : List Quad)
    (data : List Byte) (ok : Bool) (slot obj line frame : Nat) (rest : List Nat) (ge lo up : Nat) (l : List (Nat × Nat)),
    let os := [opd g .w128, (BitVec.ofNat 7 (96 + k.toNat), 1)]
    let pair := BitVec.ofNat 7 (96 + k.toNat)
    let ready := Free s x os ∧ x.solo = false ∧ ∀ i ∈ x.c.seats, (x.g.lane i).tx = none
    let up_ := s.services.contains n.toNat = true ∧ s.serviceUp (s.dieOf x.who) = true
    let batch := fun (gn : Nat) =>
      ({ group := gn, part := (s.partOf x.who).getD 0, die := s.dieOf x.who, name := x.g.name, launch := x.g.launch,
         team := x.teamix.toNat, threads := (x.g.byLogical x.c.seats).map fun i => (x.g.lane i).thread.getD 0, n := n.toNat, keep := h.n,
         a0 := x.acap 0, asn := x.g.asn, seats := x.g.byLogical x.c.seats,
         quads := (x.g.byLogical x.c.seats).map fun i => x.src128 i g, dest := x.wb + g.toNat, sreg := k.toNat, taken := false,
         replies := [], freeing := [], issued := s.tick, asked := [], answers := [] } : Batch)
    let here := s.batches.get? i = some b
    let first := ∀ e ∈ s.batches, e.1 < i → e.2.die ≠ b.die
    let asked := fun (m : Nat) => here ∧ b.taken = true ∧ first ∧ b.n = m ∧ b.replies.get? lane = none ∧ lane < b.seats.length
    let replied := fun (b : Batch) (q : Quad) (t : State) => t.batches = s.batches.set i { b with replies := b.replies.set lane q }
    let gives := fun (e : Instr) (b : Batch) (q : Quad) (P : State → Prop) => ∃ t, exec e s = .next t ∧ replied b q t ∧
      t.grids = s.grids ∧ t.reqs = s.reqs ∧ P t
    let quad := fun (status r1 : Nat) => BitVec.ofNat 128 (status + r1 * 2 ^ 32)
    let plain := Memory.wf s.mem = true ∧ s.keyed = [] ∧ s.trust.memKeys = [] ∧ s.regs.thresh = 0
    let same := fun (t : State) => t.mem = s.mem ∧ t.tags = s.tags
    let word := fun (m j : Nat) => (b.quads.getD m 0).toNat / 2 ^ (32 * j) % 2 ^ 32
    let handle := fun (m : Nat) => word m 0 / 65536
    let lba := fun (m : Nat) => word m 1 + 2 ^ 32 * word m 2
    let blks := fun (m : Nat) => word m 0 % 65536
    let len := word lane 0 + 2 ^ 32 * word lane 1
    let pages := (len + 65535) / 65536
    let asn := b.asn.toNat
    let ot := s.num (s.regs.astBase + 32 * asn) 8 + 16 * obj
    let bits := s.num (s.regs.astBase + 32 * asn + 0x10) 8
    let cap := s.capAt slot
    let e := fun (off : Nat) => b.a0.cursor + off
    let spans := fun (off n : Nat) (perms : BitVec 8) (align : Bool) => b.a0.pkg = s.regs.pkg ∧ e off + n ≤ b.a0.limit ∧
      s.check (.grp b.group) 0 b.a0 (e off : Nat) (if align then n else 0) [1] perms align = none
    let finds := fun (off n : Nat) => (s.findObject asn b.a0.index (e off) n).1
    let found := fun (off n : Nat) => (s.findObject asn b.a0.index (e off) n).2
    let off := word lane 3
    let size := blks lane * 4096
    let unfit := fun (off n : Nat) (perms : BitVec 8) (align : Bool) => ¬spans off n perms align ∨ finds off n = .error
    let later := fun (off n : Nat) => finds off n = .absent ∨ finds off n = .held
    let stays := fun (e : Instr) (b : Batch) (P : State → Prop) => ∃ t, exec e s = .next t ∧ t.batches = s.batches.set i b ∧ P t
    let arrays := [(128 * line, 8 * pages, true), (ot, 16, true), (slot, 16, true)]
    let freed := [(slot, 16, false), (bits + cap.index / 8, 1, true)]
    let writes := l.map fun p => (p.1, p.2, true)
    let reads := l.map fun p => (p.1, p.2, false)
    let before := fun (j : Nat) => ((l.take j).map (·.2)).sum
    let free_ := line ≠ 0 ∧ line < 2 ^ 35 ∧ s.revBit asn obj = false ∧ (∃ o, s.objectEntry asn obj = some o ∧ o < 2 ^ 127) ∧
      (∀ f ∈ s.freed, f.1 = asn → f.2.1 ≠ obj) ∧ s.freeRange (128 * line) (8 * pages) = true ∧
      (frame = 0 ∨ frame + pages ≤ 2 ^ 26 ∧ s.freeRange (65536 * frame) (65536 * pages) = true ∧
        (128 * line + 8 * pages ≤ 65536 * frame ∨ 65536 * (frame + pages) ≤ 128 * line))
    let wsc := permW ||| permSC
    let said := { b with answers := b.answers.set lane (ok, data) }
    let saidW := { b with answers := b.answers.set lane (ok, []) }
    let sent_ := b.asked.contains lane = true ∧ b.answers.get? lane = none
    let unsent := b.asked.contains lane = false
    let sends := fun (m : Nat) (bs : List Byte) => (s.askDrive i lane).sent = s.sent ++ [.drive m i lane (handle lane) (lba lane) bs] ∧
      (s.askDrive i lane).batches = s.batches.set i { b with asked := b.asked ++ [lane] }
    (ready → x.g.waitDone = none → up_ → x.g.failed = [] → s.unperformed x.who = false → ∀ gn, x.who = .grp gn →
      Lands (exec (.svc h n k g) s) { s with batches := s.batches.set s.batches.fresh (batch gn) } x.who
        { x.g.closeRun s.now with wait := some (.svc s.batches.fresh) }) ∧
    (ready → x.g.waitDone = none → ¬up_ → exec (.svc h n k g) s = .next (s.fault x .serviceError x.c.seats (n.setWidth 64))) ∧
    (ready → x.g.waitDone = some v → Lands (exec (.svc h n k g) s) (acquired s x true 9) x.who
      (x.advance ({ x with g := { x.g with waitDone := none } }.dst h.n pair .w32 fun _ => v))) ∧
    (s.ctx? = some x → x.who = .ctl c → (x.g.lane 0).tx = none → exec (.svc h n k g) s =
      .next ({ s with cur := none }.exception c (x.c.addr + BitVec.ofNat 64 x.c.len) 0x40 (n.setWidth 64))) ∧
    (here → b.taken = false → (∀ e ∈ s.batches, e.1 < i → e.2.die = b.die → e.2.taken = true) →
      exec (.svcBatch i) s = .next { s with batches := s.batches.set i { b with taken := true } }) ∧
    (here → b.taken = true → first → s.groups.get? b.group = some gr → gr.wait = some (.svc i) → b.seats.Nodup →
      (∀ j ∈ b.seats, j < gr.lanes.length ∧ b.dest + 4 ≤ (gr.lane j).regs.length) →
      (b.n ∉ [1, 2, 16, 17, 18] ∨ b.seats.length ≤ b.replies.length) →
      ∃ t gr', exec (.svcReply i qs) s = .next t ∧ t.batches = s.batches.erase i ∧ same t ∧ t.groups.get? b.group = some gr' ∧
        gr'.wait = none ∧ gr'.waitDone = some 0 ∧ gr'.sregs = (if b.keep then gr.sregs else gr.sregs.set b.sreg 0) ∧
        (∀ e ∈ b.seats.zipIdx, ∀ j < 4, (gr'.lane e.1).regs.getD (b.dest + j) ⟨0, true, true⟩ =
          ⟨BitVec.ofNat 32 ((if b.n ∈ [1, 2, 16, 17, 18] then b.replies.getD e.2 0 else qs.getD e.2 0).toNat / 2 ^ (32 * j)), false, false⟩) ∧
        (∀ j, j ∉ b.seats → gr'.lane j = gr.lane j) ∧
        (b.n = 17 → ∀ r ∈ b.replies, r.2.toNat % 2 ^ 32 = 0 → (s.tick, handle r.1, lba r.1, blks r.1) ∈ t.acked)) ∧
    (asked 1 → b.a0.has wsc = false → gives (.alloc i lane) b (quad 4 0) same) ∧
    (asked 2 → b.a0.has wsc = false → gives (.free i lane) b (quad 4 0) same) ∧
    (asked 16 → unsent → b.a0.has (permW ||| permE) = false → replied b (quad 4 0) (s.askDrive i lane) ∧ same (s.askDrive i lane)) ∧
    (asked 17 → unsent → b.a0.has (permR ||| permE) = false → replied b (quad 4 0) (s.askDrive i lane) ∧ same (s.askDrive i lane)) ∧
    (asked 1 → plain → b.a0.has wsc = true → boundsOf 0 len = some (ge, lo, up) → s.picks = obj :: line :: frame :: rest →
      (len = 0 ∨ 2 ^ 26 ≤ pages → gives (.alloc i lane) b (quad 1 0) same) ∧
      (len ≠ 0 → pages < 2 ^ 26 →
        (unfit off 16 wsc true → gives (.alloc i lane) b (quad 1 0) same) ∧
        (spans off 16 wsc true → later off 16 → stays (.alloc i lane) b fun _ => True) ∧
        (spans off 16 wsc true → finds off 16 = .places [(slot, 16)] →
          (free_ → slot + 16 ≤ ot ∨ ot + 16 ≤ slot → (∀ j < 16, OffRings s (slot + j)) → ((found off 16).allReady arrays).1 = true →
            gives (.alloc i lane) b (quad 0 obj) fun t =>
              t.capAt slot = ⟨capBits 1 (word lane 2 % 256) (s.regs.pkg * 2 ^ 20 + obj) ge lo up 0, true⟩ ∧
              t.num ot 16 = 2 ^ 127 + word lane 2 / 4 % 2 * 2 ^ 126 + pages * 2 ^ 100 + line * 2 ^ 7) ∧
          (free_ → ((found off 16).allReady arrays).1 = false → stays (.alloc i lane) b same) ∧
          (¬free_ → gives (.alloc i lane) b (quad 2 0) same)))) ∧
    (asked 2 → plain → b.a0.has wsc = true → unfit (word lane 0) 16 wsc true → gives (.free i lane) b (quad 1 0) same) ∧
    (asked 2 → plain → b.a0.has wsc = true → spans (word lane 0) 16 wsc true → finds (word lane 0) 16 = .places [(slot, 16)] →
      (b.freeing.get? lane = none → cap.tag = false ∨ cap.kind ≠ 1 ∨ cap.pkg ≠ s.regs.pkg → gives (.free i lane) b (quad 1 0) same) ∧
      (b.freeing.get? lane = none → cap.tag = true → cap.kind = 1 → cap.pkg = s.regs.pkg →
        (((found (word lane 0) 16).allReady freed).1 = true → ∃ t v, exec (.free i lane) s = .next t ∧
          t.batches = s.batches.set i { b with freeing := b.freeing.set lane (cap.index, v) } ∧
          (∀ r ∈ s.reqs, r.2.asn = asn → r.2.done = false → r.1 ∈ v.reqs) ∧
          (t.byte (bits + cap.index / 8)).getLsbD (cap.index % 8) = true ∧
          ∀ e ∈ t.cores, ∀ r ∈ e.2.revoked, r.1 / 2 ^ 15 ≠ asn) ∧
        (((found (word lane 0) 16).allReady freed).1 = false → stays (.free i lane) b same)) ∧
      ∀ w, b.freeing.get? lane = some w →
        ((found (word lane 0) 16).workOpen w.2 = true → stays (.free i lane) b same) ∧
        ((found (word lane 0) 16).workOpen w.2 = false → gives (.free i lane) b (quad 0 0) fun t =>
          same t ∧ t.freed = s.freed ++ [(asn, w.1, false)])) ∧
    (asked 16 → unsent → b.a0.has (permW ||| permE) = true → spans off size permW false → finds off size = .places l → sends 16 []) ∧
    (asked 17 → unsent → plain → b.a0.has (permR ||| permE) = true → spans off size permR false → finds off size = .places l →
      ((found off size).allReady reads).1 = true → sends 17 (l.flatMap fun p => s.bytes p.1 p.2)) ∧
    (asked 18 → unsent → sends 18 []) ∧
    (asked 16 → sent_ → plain → b.a0.has (permW ||| permE) = true →
      (ok = false → gives (.sread i lane data ok) said (quad 3 0) same) ∧
      (ok = true → unfit off size permW false → gives (.sread i lane data ok) said (quad 1 0) same) ∧
      (ok = true → spans off size permW false → later off size → stays (.sread i lane data ok) said fun _ => True) ∧
      (ok = true → spans off size permW false → finds off size = .places l → ((found off size).allReady writes).1 = false →
        stays (.sread i lane data ok) said same) ∧
      (ok = true → spans off size permW false → finds off size = .places l → ((found off size).allReady writes).1 = true →
        l.Pairwise (fun p q => p.1 + p.2 ≤ q.1 ∨ q.1 + q.2 ≤ p.1) → (∀ p ∈ l, ∀ j < p.2, OffRings s (p.1 + j)) →
        gives (.sread i lane data ok) said (quad 0 0) fun t =>
          (∀ p ∈ l.zipIdx, ∀ j < p.1.2, t.byte (p.1.1 + j) = data.getD (before p.2 + j) 0) ∧
          ∀ y, (∀ p ∈ l, y < p.1 ∨ p.1 + p.2 ≤ y) → t.byte y = s.byte y)) ∧
    (asked 17 → sent_ → b.a0.has (permR ||| permE) = true → gives (.swrite i lane ok) saidW (quad (if ok then 0 else 3) 0) same) ∧
    (asked 18 → sent_ → gives (.sflush i lane ok) saidW (quad (if ok then 0 else 3) 0) fun t =>
      same t ∧ (ok = true → t.acked = s.acked.filter fun w => !(w.2.1 == handle lane && decide (w.1 < b.issued))))

/-- R288-R290, R306, R308, R311-R313, R315, R317, R320, R321. Which tag a granule has that the write buffer holds in part is the
model's choice (log 101). -/
def Obligations.TransactionsOpenAndEnd : Prop :=
  ∀ (h : Hdr) (g : BitVec 7) (c : BitVec 8) (s : State) (x : Ctx) (k : Ticket) (passed_ rest : List Ticket) (t : Tx) (v : Group) (q : CosyWait)
    (qs : List CosyWait) (gn seat core : Nat) (cap : BitVec 4) (off : BitVec 7) (imm : BitVec 5) (p : Nat → Nat) (tv : Nat → Tx),
    let reg := x.wb + g.toNat
    let next := x.c.addr + BitVec.ofNat 64 x.c.len
    let tx := fun (i : Nat) => (x.g.lane i).tx
    let word := fun (code tries : Nat) (cosy : Bool) (low : Nat) => BitVec.ofNat 32 (code * 2 ^ 24 + tries * 2 ^ 16 + cosy.toNat * 2 ^ 15 + low)
    let cosyNext := fun (limit tries : Nat) => decide (limit ≠ 0 ∧ limit ≤ tries)
    let ready := Free s x [opd g .w32] [] ∧ x.c.seats.Nodup ∧ x.c.seats ≠ [] ∧ ∀ i ∈ x.c.seats, i < x.g.lanes.length
    let opened : Tx := { depth := 1, retryPc := next, reg, cosy := false, log := [], buf := [], rset := [], wset := [], since := s.now,
                         born := s.tick, valp := x.u.txValp, ticket := none }
    let aborted := fun (r : Result) (w : Who) (g : Group) (i code cause : Nat) => ∀ t : Tx, (g.lane i).tx = some t → i < g.lanes.length →
      ∃ u v, r = .next u ∧ u.mem = s.mem ∧ u.group? w = some v ∧ (v.lane i).tx = none ∧ (v.lane i).tries = min ((g.lane i).tries + 1) 255 ∧
        (v.lane i).pc = t.retryPc ∧ (t.reg < (g.lane i).regs.length → (v.lane i).regs.getD t.reg ⟨0, true, true⟩ =
          ⟨word code (min ((g.lane i).tries + 1) 255) (cosyNext g.txRetry (min ((g.lane i).tries + 1) 255)) cause, false, false⟩) ∧
        ∀ j, j ≠ t.reg → (v.lane i).regs[j]? = (g.lane i).regs[j]?
    let seats := x.g.byLogical x.c.seats
    let plain := Memory.wf s.mem = true ∧ s.keyed = [] ∧ s.trust.memKeys = [] ∧ ∀ e ∈ s.ctls, (e.2.thread.lane 0).tx = none
    let first := s.tickets = passed_ ++ k :: rest ∧ (∀ q ∈ passed_, s.locked q = false ∧ s.ticketLets q = false) ∧
      (s.locked k = true ∨ s.ticketLets k = true) ∧ s.group? (.grp k.who) = some v ∧ (v.lane k.seat).tx = some t ∧ k.seat < v.lanes.length ∧ (v.lane k.seat).mode = .running ∧
      s.change = none ∧ s.leaving = []
    let marked := (s.marks.any fun m => m.ticket == k.num) = true ∨ t.lines = []
    let timed := s.groups.get? gn = some v ∧ (v.lane seat).tx = some t
    let inside := x.solo = false ∧ x.c.seats.Nodup ∧ ∀ i ∈ x.c.seats, i < x.g.lanes.length ∧ tx i = some (tv i)
    let with_ := fun (f : Nat → Tx) => { x with g := x.g.modLanes x.c.seats fun i l => { l with tx := some (f i) } }
    let n := sizeBytes 4 h.size
    let at_ := ([opd off .w32] ++ capOpd cap h.laneCap : List Opd)
    let wd := widthOfBytes n
    let ld := memAccess x h cap off imm n false (fun _ => permR) true false 0x70
    let ldu := { memAccess x h cap off imm n false (fun _ => permR) true false 0x72 with e := fun _ => ld.e x.lowest, whole := true }
    let ldc := memAccess x h cap off imm 16 false (fun _ => permR) true false 0x73
    let st := memAccess x h cap off imm n false (fun _ => permW) false true 0x71
    let stc := memAccess x h cap off imm 16 false (fun i => if x.quadTag g i then permW ||| permSC else permW) false true 0x74
    let atom := fun (perms : BitVec 8) (op : Nat) => memAccess x h cap off imm n true (fun _ => perms) true true op
    let bytes := fun (p : Nat → Nat) (m i : Nat) => (List.range m).map (txByte s (tv i) (p i))
    let value := fun (p : Nat → Nat) (i : Nat) =>
      let b := leNat (bytes p n i)
      if h.size = 6 then ((BitVec.ofNat 8 b).signExtend 32).toNat else if h.size = 7 then ((BitVec.ofNat 16 b).signExtend 32).toNat else b
    let lc := fun (i : Nat) => (ldc.cap i).has permLC
    let logs := fun (p : Nat → Nat) (m : Nat) (tag : Nat → Bool) => ∀ i ∈ x.c.seats, (tv i).log.length ≤ 64 ∧ (TxNeeds (tv i) (p i) m (tag i) → (tv i).log.length < 64)
    let reads := fun (e : Instr) (p : Nat → Nat) (m : Nat) (tag : Nat → Bool) (w : Width) (val : Nat → Nat) (tags : Nat → Bool) =>
      ∃ f : Nat → Tx, (∀ i ∈ x.c.seats, TxLogs s (tv i) (f i) (p i) m (tag i)) ∧
        LandsBare (exec e s) s x.who (x.advance ((with_ f).dst h.n g w val tags))
    let room := fun (p : Nat → Nat) => (∀ i ∈ x.c.seats, ¬TxNew (tv i) (p i) ∨ (tv i).buf.length < 32) ∧ PoolHas s x x.c.seats.length
    let writes := fun (e : Instr) (p : Nat → Nat) (bs : Nat → List Byte) (tag : Nat → Bool) =>
      ∃ f : Nat → Tx, (∀ i ∈ x.c.seats, TxStores (tv i) (f i) (p i) (bs i) (tag i)) ∧ LandsBare (exec e s) s x.who (x.advance (with_ f).g)
    let arg := fun (i : Nat) =>
      if h.aop = 9 then (let q := x.srcN i g (widthOfBytes (2 * n)); (q / 2 ^ (8 * n), q % 2 ^ (8 * n))) else (x.srcN i g wd, 0)
    let old := fun (p : Nat → Nat) (i : Nat) => leNat (bytes p n i)
    let new := fun (p : Nat → Nat) (i : Nat) =>
      atomicValue h.aop (8 * n) (BitVec.ofNat (8 * n) (old p i)) (BitVec.ofNat (8 * n) (arg i).1) (BitVec.ofNat (8 * n) (arg i).2)
    let updates := fun (p : Nat → Nat) (f : Nat → Tx) => ∀ i ∈ x.c.seats, ∃ m, TxLogs s (tv i) m (p i) n false ∧
      (∀ v, new p i = some v → TxStores m (f i) (p i) (leBytes n v.toNat) false) ∧ (new p i = none → f i = m)
    let aos := opd g (widthOfBytes (if h.aop = 9 then 2 * n else n)) :: at_
    (inside → Free s x (opd g wd :: at_) at_ → Reached s x ld p → logs p n (fun _ => false) →
      reads (.ld h g cap off imm) p n (fun _ => false) wd (value p) fun _ => false) ∧
    (inside → Free s x [opd off .w32, opd g wd] [opd off .w32] x.readers → Reached s x ldu p → logs (fun _ => p x.lowest) n (fun _ => false) →
      reads (.ldu h g cap off imm) (fun _ => p x.lowest) n (fun _ => false) wd (value fun _ => p x.lowest) fun _ => false) ∧
    (inside → Free s x (opd g .w128 :: at_) at_ → Reached s x ldc p → logs p 16 lc →
      reads (.ldc h g cap off imm) p 16 lc .w128 (fun i => leNat (bytes p 16 i)) fun i => ((tv i).tagOf (p i)).getD (s.tagAt (p i)) && lc i) ∧
    (inside → Free s x (opd g wd :: at_) at_ → Reached s x ld p → ∀ i ∈ x.c.seats, TxNeeds (tv i) (p i) n false → 64 ≤ (tv i).log.length →
      aborted (exec (.ld h g cap off imm) s) x.who x.g i 0 3) ∧
    (inside → Free s x (opd g wd :: at_) → Reached s x st p → room p →
      writes (.st h g cap off imm) p (fun i => leBytes n (x.srcN i g wd)) fun _ => false) ∧
    (inside → Free s x (opd g .w128 :: at_) → Reached s x stc p → room p →
      writes (.stc h g cap off imm) p (fun i => leBytes 16 (x.src128 i g).toNat) (x.quadTag g)) ∧
    (inside → Free s x (opd g wd :: at_) → Reached s x st p → ∀ i ∈ x.c.seats, TxNew (tv i) (p i) → s.coreOf x.who = some core →
      32 ≤ (tv i).buf.length ∨ 2048 ≤ s.bufUsed core → aborted (exec (.st h g cap off imm) s) x.who x.g i 0 3) ∧
    (inside → wellFormed (.atom h g cap off imm) = true → Free s x aos → Reached s x (atom (permW ||| permA) 0x75) p →
      logs p n (fun _ => false) → room p →
      ∃ f : Nat → Tx, updates p f ∧ LandsBare (exec (.atom h g cap off imm) s) s x.who (x.advance (with_ f).g)) ∧
    (inside → wellFormed (.atomr h g cap off imm) = true → Free s x aos → Reached s x (atom (permR ||| permW ||| permA) 0x76) p →
      logs p n (fun _ => false) → room p →
      ∃ f : Nat → Tx, updates p f ∧ LandsBare (exec (.atomr h g cap off imm) s) s x.who (x.advance ((with_ f).dst h.n g wd (old p)))) ∧
    (ready → (∀ i ∈ x.c.seats, tx i = none ∧ cosyNext x.u.txRetry (x.g.lane i).tries = false) →
      Lands (exec (.tbegin h g) s) s x.who (x.advance (x.g.modLanes x.c.seats fun _ l =>
        let l := { l.push ((word 0 l.tries false 0).setWidth 64) with tx := some opened }
        if h.n then l else l.setReg reg (word 0 l.tries false 0) false))) ∧
    (ready → (∀ i ∈ x.c.seats, ∃ t, tx i = some t ∧ t.depth ≠ 15) →
      Lands (exec (.tbegin h g) s) s x.who (passed x fun _ l => { l with tx := l.tx.map fun t => { t with depth := t.depth + 1 } })) ∧
    (ready → ∀ i ∈ x.c.seats, ∀ t, tx i = some t → t.depth = 15 → aborted (exec (.tbegin h g) s) x.who x.g i 0 9) ∧
    (ready → (∀ i ∈ x.c.seats, tx i = none ∧ cosyNext x.u.txRetry (x.g.lane i).tries = true) →
      ∃ u v, exec (.tbegin h g) s = .next u ∧ u.cosyQ = s.cosyQ ++ seats.map (fun i => ⟨x.who, i, reg, next, h.n⟩) ∧ u.mem = s.mem ∧
        u.group? x.who = some v ∧ ∀ i ∈ x.c.seats, (v.lane i).mode = .cosyWait ∧ (v.lane i).pc = (x.g.lane i).pc ∧ (v.lane i).regs = (x.g.lane i).regs) ∧
    (s.cosy = none → s.cosyQ = q :: qs → s.group? q.who = some v → v.trapSave = none → q.seat < v.lanes.length →
      ∃ u v', exec .cosyLockGrant s = .next u ∧ u.cosy = some (q.who, q.seat) ∧ u.cosyQ = qs ∧ u.mem = s.mem ∧ u.group? q.who = some v' ∧
        (v'.lane q.seat).tx = some { opened with retryPc := q.next, reg := q.reg, cosy := true, valp := v.txValp } ∧
        (v'.lane q.seat).pc = q.next ∧ (v'.lane q.seat).mode ≠ .cosyWait ∧
        (q.n = true → (v'.lane q.seat).regs = (v.lane q.seat).regs) ∧
        (q.n = false → q.reg < (v.lane q.seat).regs.length →
          (v'.lane q.seat).regs.getD q.reg ⟨0, true, true⟩ = ⟨word 0 (v.lane q.seat).tries true 0, false, false⟩)) ∧
    (s.ctx? = some x → (∀ i ∈ x.c.seats, ∀ t, tx i = some t → t.depth ≠ 1) →
      Lands (exec (.tend h) s) s x.who (passed x fun _ l => { l with tx := l.tx.map fun t => { t with depth := t.depth - 1 } })) ∧
    (s.ctx? = some x → x.c.seats.Nodup → x.c.seats ≠ [] → x.g.failed = [] → s.unperformed x.who = false → x.who = .grp gn →
      (∀ i ∈ x.c.seats, i < x.g.lanes.length ∧ ∃ t, tx i = some t ∧ t.depth = 1 ∧ t.ticket = none) →
      ∃ u v, exec (.tend h) s = .next u ∧ u.tickets = s.tickets ++ seats.zipIdx.map (fun e => ⟨s.nextTicket + e.2, s.nextTicket, gn, e.1⟩) ∧
        u.nextTicket = s.nextTicket + seats.length ∧ u.mem = s.mem ∧ u.group? x.who = some v ∧
        ∀ e ∈ seats.zipIdx, (v.lane e.1).tx = (tx e.1).map (fun t => { t with ticket := some (s.nextTicket + e.2) }) ∧
          (v.lane e.1).pc = (x.g.lane e.1).pc) ∧
    (first → plain → ¬marked → (∀ l ∈ t.lines, s.blocked l.1 true = false ∧ s.mayTake l.1 l.2 none = true) →
      ∃ u, exec .caddyTicket s = .next u ∧ u.marks = s.marks ++ t.lines.map (fun l => ⟨l.1, k.num, l.2⟩) ∧ u.tickets = s.tickets ∧ u.mem = s.mem ∧
        u.group? (.grp k.who) = some v) ∧
    (first → plain → marked → s.validate t = true → (t.buf.map (·.granule)).Nodup → (∀ e ∈ t.buf, e.bytes.length = 16 ∧ ∀ j < 16, OffRings s (16 * e.granule + j)) →
      ∃ u v', exec .caddyTicket s = .next u ∧ u.group? (.grp k.who) = some v' ∧ (v'.lane k.seat).tx = none ∧ (v'.lane k.seat).tries = 0 ∧
        (v'.lane k.seat).regs = (v.lane k.seat).regs ∧ (∀ m ∈ u.marks, m.ticket ≠ k.num) ∧ (∀ m ∈ u.tickets, m.num ≠ k.num) ∧
        (∀ y, u.byte y = (t.buffered y).getD (s.byte y)) ∧
        ∀ n, u.tags.contains n = ((t.buf.find? fun e => e.granule == n).map (·.tag)).getD (s.tags.contains n)) ∧
    (first → marked → s.validate t = false → aborted (exec .caddyTicket s) (.grp k.who) v k.seat 0 2) ∧
    (s.ctx? = some x → ∀ i ∈ x.c.seats, tx i ≠ none → aborted (exec (.tabort h c) s) x.who x.g i c.toNat 5) ∧
    (s.ctx? = some x → x.c.seats ≠ [] → (∀ i ∈ x.c.seats, tx i = none) → Lands (exec (.tabort h c) s) s x.who (x.advance x.g)) ∧
    Computes (.tstat h g) h g .w32 [] (fun x i =>
      let l := x.g.lane i
      (match l.tx with
        | some t => word 0 l.tries t.cosy t.depth
        | none => word 0 l.tries (cosyNext x.u.txRetry l.tries) 0).toNat) ∧
    ReadsCsr s x 0x015 (x.u.txRetry * 2 ^ 16 + if x.solo then 0 else x.u.txValp) ∧
    (timed → s.now - t.since < 2 ^ (t.valp + 10) → exec (.revalidationTimer gn seat) s = .next s) ∧
    (timed → 2 ^ (t.valp + 10) ≤ s.now - t.since → s.validate t = true → exec (.revalidationTimer gn seat) s =
      .next (s.setGroup (.grp gn) (v.modLane seat fun l => { l with tx := l.tx.map fun t => { t with since := s.now } }))) ∧
    (timed → 2 ^ (t.valp + 10) ≤ s.now - t.since → s.validate t = false → aborted (exec (.revalidationTimer gn seat) s) (.grp gn) v seat 0 2)

/-- R32, R291-R294, R353-R356. -/
def Obligations.TrapsAndReturns : Prop :=
  ∀ (h : Hdr) (c : BitVec 8) (next : Bool) (cause : Cause) (value : Dword) (s : State) (x : Ctx) (k : Nat) (t : Team) (d : Grid) (sv : TrapSave),
    let noTx := ∀ i ∈ x.c.seats, (x.g.lane i).tx = none
    let mine := s.ctx? = some x ∧ x.who = .grp k ∧ noTx ∧ x.c.seats ≠ []
    let fresh := ∃ i ∈ x.c.seats, (3, i) ∉ x.g.skipStop
    let enters := fun (i : Instr) (cause : Cause) (value : Dword) =>
      (s.traphOf x.g ≠ 0 → x.g.trap.inHandler = false →
        ∃ u v, exec i s = .next u ∧ u.cur = none ∧ u.mem = s.mem ∧ u.groups.get? k = some v ∧
          v.trap = ⟨true, false, BitVec.ofNat 8 (causeNum cause), seatMask x.c.seats, x.c.addr, x.c.addr, value, x.c.word, x.c.word2⟩ ∧
          v.rstack = [] ∧ v.sregs = x.g.sregs ∧ v.acaps = x.g.acaps ∧ v.wb = x.g.wb ∧
          (∀ j < x.g.lanes.length, (v.lane j).regs = (x.g.lane j).regs ∧ (v.lane j).preds = (x.g.lane j).preds ∧ (v.lane j).fl = (x.g.lane j).fl ∧
            if j ∈ x.c.seats then (v.lane j).pc = s.traphOf x.g ∧ (v.lane j).mode = .running ∧ (v.lane j).held = false ∧
              (v.lane j).latches = List.replicate 8 0
            else v.lane j = { x.g.lane j with held := true }) ∧
          ∃ w, v.trapSave = some w ∧ w.stack = x.g.rstack ∧ w.tpc = x.c.addr ∧ ∀ j < x.g.lanes.length, ∃ q, w.seats[j]? = some q ∧
            q.pc = (x.g.lane j).pc ∧ q.mode = (x.g.lane j).mode ∧ q.latches = (x.g.lane j).latches ∧ (q.onPath = true ↔ j ∈ x.c.seats)) ∧
      (s.traphOf x.g = 0 ∨ x.g.trap.inHandler = true → s.teamOf x.g = some t → s.grids.get? t.grid = some d →
        ∃ u d', exec i s = .next u ∧ u.grids.get? t.grid = some d' ∧ d'.ended = true ∧
          ∀ e ∈ s.teams, e.2.grid = t.grid → e.2.phase ≠ .retired → s.teams.get? e.1 = some e.2 → ∀ n ∈ e.2.groups, ∀ v,
            u.groups.get? n = some v → v.ended = true)
    let handled := mine ∧ x.g.trap.inHandler = true ∧ x.g.trapSave = some sv
    let tpc := x.g.trap.tpc
    let step : Dword := if next = false ∨ sv.boundary = true then 0 else if isPfxWord (s.instrWord x.who tpc).toNat then 8 else 4
    let tr := x.u.trap
    let ended := sv.boundary = true ∨ (tpc + step ≠ sv.tpc ∧ tpc + step ≠ sv.next)
    (mine → enters (.trap h c) .break_ (c.setWidth 64)) ∧
    (mine → fresh → s.armedFor x = false → enters (.dbrk h c) .break_ (BitVec.ofNat 64 (0x100 + c.toNat))) ∧
    (mine → fresh → s.armedFor x = true →
      ∃ u v, exec (.dbrk h c) s = .next u ∧ u.groups.get? k = some v ∧ v.dbgStop = true ∧ v.stopCause = 3 ∧
        v.lanes.map laneCore = x.g.lanes.map laneCore ∧ (x.g.endPending = false → v.lanes = x.g.lanes)) ∧
    (mine → ¬fresh → Lands (exec (.dbrk h c) s) s x.who (x.advance x.g)) ∧
    (mine → enters .illegalEncoding .illegal 0) ∧
    (mine → enters (.instructionFetchFault cause value) cause value) ∧
    (s.ctx? = some x → noTx → x.solo = true ∨ x.g.trap.inHandler = false → exec (.tret h next) s = .next (s.illegal x)) ∧
    (handled →
      ∃ u v, exec (.tret h next) s = .next u ∧ u.mem = s.mem ∧ u.groups.get? k = some v ∧ v.trap = { x.g.trap with inHandler := false } ∧
        v.trapSave = none ∧ v.sregs = x.g.sregs ∧ v.wb = x.g.wb ∧
        ∀ j < x.g.lanes.length, ∀ q, sv.seats[j]? = some q →
          (v.lane j).held = false ∧ (v.lane j).regs = (x.g.lane j).regs ∧
          ((x.g.lane j).mode = .exited → (v.lane j).mode = .exited) ∧
          ((x.g.lane j).mode ≠ .exited → (v.lane j).pc =
            if q.inH = true ∧ q.onPath = true then tpc + step else if q.inH = true then q.pc else (x.g.lane j).pc) ∧
          ((x.g.lane j).mode ≠ .exited →
            (ended → (v.lane j).latches = if q.keepsRun then q.latches else List.replicate 8 0) ∧
            (¬ended → (v.lane j).latches = if v.runOpen || (v.lane j).keepsRun then q.latches else List.replicate 8 0))) ∧
    (s.ctx? = some x → noTx → x.solo = true ∨ x.g.trap.inHandler = false ∨ x.g.inPreempt = false → exec (.pdone h) s = .next (s.illegal x)) ∧
    (mine → x.g.trap.inHandler = true → x.g.inPreempt = true →
      Lands (exec (.pdone h) s) s x.who (x.advance { x.g with pdone := true })) ∧
    (x.solo = false → ReadsCsr s x 0x020 (tr.inHandler.toNat * 2 ^ 31 + tr.deferred.toNat * 2 ^ 30 + tr.cause.toNat) ∧
      ReadsCsr s x 0x021 tr.mask.toNat ∧ ReadsCsr s x 0x022 tr.tpc.toNat ∧ ReadsCsr s x 0x023 (tr.tpc.toNat / 2 ^ 32) ∧
      ReadsCsr s x 0x024 tr.tfpc.toNat ∧ ReadsCsr s x 0x025 (tr.tfpc.toNat / 2 ^ 32) ∧ ReadsCsr s x 0x026 tr.tval.toNat ∧
      ReadsCsr s x 0x027 (tr.tval.toNat / 2 ^ 32) ∧ ReadsCsr s x 0x028 tr.tword.toNat ∧ ReadsCsr s x 0x029 tr.tword2.toNat)

/-- R295-R297, R310. -/
def Obligations.ControlCoreExceptions : Prop :=
  ∀ (h : Hdr) (c : BitVec 8) (s : State) (x : Ctx) (n m cause : Nat) (epc eval : Dword),
    let noTx := ∀ i ∈ x.c.seats, (x.g.lane i).tx = none
    let mine := s.ctx? = some x ∧ x.who = .ctl n ∧ noTx ∧ (x.g.lane 0).tx = none
    let fresh := ∃ i ∈ x.c.seats, (3, i) ∉ x.g.skipStop
    let kernel := mine ∧ (s.ctl n).kernel = true
    let e := (s.exception m epc cause eval).ctl m
    let k := s.ctl m
    let both := fun (P : Instr → Prop) => P (.eret h) ∧ P (.wfi h)
    let after := x.c.addr + BitVec.ofNat 64 x.c.len
    let g := (s.ctl n).thread
    (e.epc = epc ∧ e.ecause = BitVec.ofNat 8 cause ∧ e.eval = eval.setWidth 32 ∧ e.pprv = k.kernel ∧ e.pie = k.ie ∧ e.ie = false ∧ e.kernel = true ∧
      e.evec = k.evec ∧ e.pasn = k.pasn ∧ e.ppart = k.ppart ∧ e.thread.sregs = k.thread.sregs ∧ e.thread.acaps = k.thread.acaps ∧
      (∀ l, k.thread.lanes = [l] → e.thread.lanes = [{ l.clearRun with pc := k.evec, mode := .running, replays := false, woke := false }]) ∧
      { s.exception m epc cause eval with ctls := s.ctls } = s ∧ ∀ j, j ≠ m → (s.exception m epc cause eval).ctl j = s.ctl j) ∧
    (mine → exec (.trap h c) s = .next ({ s with cur := none }.exception n after 0x41 (c.setWidth 64))) ∧
    (mine → fresh → s.armedFor x = false →
      exec (.dbrk h c) s = .next ({ s with cur := none }.exception n after 0x42 (BitVec.ofNat 64 (0x100 + c.toNat)))) ∧
    (mine → s.reqs = [] → exec .illegalEncoding s = .next ({ s with cur := none }.exception n x.c.addr 0x01 0) ∨ x.c.seats = []) ∧
    (s.ctx? = some x → (∀ n, x.who = .ctl n → (s.ctl n).kernel = false) → both fun i => exec i s = .next (s.illegal x)) ∧
    (kernel → x.c.seats = [0] → x.g.lanes.length = 1 → (s.ctl n).epc.toNat % 4 = 0 →
      ∃ u, exec (.eret h) s = .next u ∧ u.cur = none ∧ u.mem = s.mem ∧ (u.ctl n).kernel = (s.ctl n).pprv ∧ (u.ctl n).ie = (s.ctl n).pie ∧
        (u.ctl n).epc = (s.ctl n).epc ∧ ((u.ctl n).thread.lane 0).pc = (s.ctl n).epc ∧ ((u.ctl n).thread.lane 0).regs = (x.g.lane 0).regs ∧
        (u.ctl n).thread.sregs = x.g.sregs) ∧
    (kernel → (s.ctl n).epc.toNat % 4 ≠ 0 → exec (.eret h) s = .next (s.fault x .misaligned x.c.seats (s.ctl n).epc)) ∧
    (kernel → x.g.waitDone = none → s.pendingFor n = [] → Lands (exec (.wfi h) s) s x.who { x.g.closeRun s.now with wait := some .wfi }) ∧
    (kernel → x.g.waitDone ≠ none ∨ s.pendingFor n ≠ [] → Lands (exec (.wfi h) s) s x.who (x.advance { x.g with waitDone := none })) ∧
    (kernel → x.g.waitDone ≠ none ∨ s.pendingFor n ≠ [] → (s.ctl n).ie = true →
      ∃ u, exec (.wfi h) s = .next u ∧ .interruptTake n ∈ u.agenda) ∧
    (s.pendingFor n = [] → exec (.interruptTake n) s = .next s) ∧
    (n < 128 → s.pendingFor n ≠ [] → g.wait = some .wfi →
      ∃ u, exec (.interruptTake n) s = .next u ∧ (u.ctl n).thread.wait = none ∧ (u.ctl n).thread.waitDone = some 0 ∧
        (u.ctl n).thread.lanes = g.lanes) ∧
    (n < 128 → s.canInterrupt n = true → g.wait = none → g.lanes ≠ [] → (g.lane 0).tx = none →
      ∃ u, exec (.interruptTake n) s = .next u ∧ (u.ctl n).ecause = 0x43 ∧ (u.ctl n).epc = (g.lane 0).pc ∧ (u.ctl n).kernel = true ∧
        (u.ctl n).pprv = (s.ctl n).kernel ∧ (u.ctl n).pie = (s.ctl n).ie ∧ (u.ctl n).ie = false ∧
        ((u.ctl n).thread.lane 0).pc = (s.ctl n).evec ∧ ((u.ctl n).thread.lane 0).regs = (g.lane 0).regs ∧ u.vectors = s.vectors)

/-- R31, R127, R132, R298, and the maps of R295, R330, R331, R341, R357, R358, R366, R403. -/
def Obligations.ControlAndStatusRegisters : Prop :=
  ∀ (h : Hdr) (csr : BitVec 12) (g : BitVec 7) (s t : State) (x : Ctx) (v old : Word) (gr : Group) (c n m : Nat),
    let noTx := ∀ i ∈ x.c.seats, (x.g.lane i).tx = none
    let ready := Free s x [opd g .w32] (lanes := x.readers)
    let writable := (csrWrite s x.who x.g csr.toNat 0).isSome = true
    let whole := 0xFFFFFFFF#32
    let table : List (Nat × Word) :=
      [(0x813, whole), (0x814, whole), (0x820, 0xFFFFFFC0#32), (0x821, 0x3FF#32), (0x822, 0x1F#32), (0x823, whole),
       (0x826, 0xFFFFFF00#32), (0x827, 0x3FF#32), (0x828, 0x8000FFFF#32), (0xC00, 0xFF0007#32), (0xC01, whole), (0xC02, whole),
       (0xC03, 0xFFFFFFFC#32), (0xC04, whole), (0xC05, whole), (0xC10, 0xFFFF003F#32), (0xC11, 0x3F#32), (0xC48, 0xFFFFFFE0#32),
       (0xC49, 0x3FF#32), (0xC4A, 0x1F#32), (0xC4B, whole), (0xC4E, 0x3FFF#32), (0xC4F, 0xFFFFFFE0#32), (0xC50, 0x3FF#32),
       (0xC51, 0x1FFFF#32), (0xC84, 0xFFFFC000#32), (0xC85, 0x3FF#32)]
    let upper := (table.map (·.1)).filter (0xC00 ≤ ·) ++ [0xC60, 0xC61, 0xC80, 0xC81, 0xC82, 0xC87]
    let kernel := (s.ctl c).kernel = true
    let reads := fun (s : State) (n : Nat) (v : Word) => csrRead s (.ctl c) gr n = some (v, s)
    (Free s x [opd g .w32] [] → csrRead s x.who x.seen csr.toNat = some (v, t) →
      Lands (exec (.csrr h csr g) s) t x.who (wrote x h g .w32 fun _ => v.toNat)) ∧
    (s.ctx? = some x → csrRead s x.who x.seen csr.toNat = none → exec (.csrr h csr g) s = .next (s.illegal x)) ∧
    (ready → noTx → writable → csr.toNat / 16 ≠ 0x42 ∨ s.matrixPending x.who = false →
      csrWrite s x.who x.g csr.toNat (x.uni32 g) = some t → Lands (exec (.csrw h csr g) s) t x.who (x.advance ((t.group? x.who).getD x.g))) ∧
    (s.ctx? = some x → ¬writable → exec (.csrw h csr g) s = .next (s.illegal x)) ∧
    (0x800 ≤ n → s.privileged x.who = false ∨ (0xC00 ≤ n ∧ x.solo = false) → csrRead s x.who x.g n = none ∧ csrWrite s x.who x.g n v = none) ∧
    KeepsCsrs table ∧
    (kernel → n ∈ upper → m ∈ upper → n ≠ m → reads s m old →
      ∃ u, csrWrite s (.ctl c) gr n v = some u ∧ reads u m old) ∧
    (kernel → csrRead s (.ctl c) gr 0xC86 = some (match s.pendingFor c with
      | [] => (0xFFFFFFFF#32, s)
      | a :: _ => (BitVec.ofNat 32 a, { s with vectors := s.vectors.filter (· != a) }))) ∧
    (exec (.ivclaim c) s = .next (match s.pendingFor c with
      | [] => s
      | a :: _ => { s with vectors := s.vectors.filter (· != a) })) ∧
    (x.solo = false → ReadsCsr s x 0x013 x.g.launch.toNat) ∧ ReadsCsr s x 0x018 x.wb ∧
    (x.solo = true → ReadsCsr s x 0x010 0 ∧ ReadsCsr s x 0x011 0 ∧ ReadsCsr s x 0x012 0 ∧ ReadsCsr s x 0x013 0 ∧ ReadsCsr s x 0x020 0 ∧
      ReadsCsr s x 0x022 0 ∧ ReadsCsr s x 0x030 0)

/-- R78, R148, R149, R299, R303. That the steep timer starts again at its own expiry is the model's reading of R149 (log 20). -/
def Obligations.WatchAndSteepTimer : Prop :=
  ∀ (h : Hdr) (p k : BitVec 4) (g : BitVec 7) (s : State) (x : Ctx) (at_ : Nat → Nat) (w : Who) (v : Group) (since limit sreg n r : Nat)
    (y : Watch) (value : Word),
    let noTx := ∀ i ∈ x.c.seats, (x.g.lane i).tx = none
    let c := x.acap p.toNat
    let e := (c.cursor : Int) + (x.src32 x.lowest g).toInt
    let a : Access := { cursorAccess c 4 permR false with e := fun _ => e }
    let pair := BitVec.ofNat 7 (96 + k.toNat)
    let ready := Free s x [opd g .w32, (pair, 1)] (lanes := x.readers) ∧ noTx ∧ x.c.seats ≠ []
    let ends := fun (reason : Nat) => Lands (exec (.lwait h k g) s) s x.who
      (x.advance ({ x with g := { x.g with watch := none, waitDone := none } }.dst h.n pair .w32 fun _ => reason))
    let waits := s.group? w = some v ∧ v.wait = some (.lwait since limit sreg)
    let becomes := fun (i : Instr) (P : Group → Prop) => ∃ u v', exec i s = .next u ∧ u.group? w = some v' ∧ v'.lanes = v.lanes ∧ u.mem = s.mem ∧ P v'
    -- when the timer counts: a path waits, or lanes are stopped and another is served (R149)
    let counts := v.laneProg = true ∧ v.place ≠ none ∧ (v.waiting ≠ [] ∨ (v.stoppedSeats ≠ [] ∧ ∃ i, i ∈ v.nextServed))
    (ready → Served s x a at_ → LandsBare (exec (.larm h p k g) s) (acquired s x true 9) x.who
      (x.advance ({ x with g := { x.g with watch := some ⟨s.regs.pkg, at_ x.lowest / 128, false⟩ } }.dst h.n pair .w32 fun _ => s.num (at_ x.lowest) 4))) ∧
    (ready → x.g.waitDone = some r → ends r) ∧
    (ready → x.g.waitDone = none → x.g.watch = none → ends 3) ∧
    (ready → x.g.waitDone = none → x.g.watch = some y → y.fired = true → ends 0) ∧
    (ready → x.g.waitDone = none → x.g.watch = some y → y.fired = false → Lands (exec (.lwait h k g) s) s x.who
      { x.g.closeRun s.now with wait := some (.lwait s.now (x.uni32 g).toNat k.toNat) }) ∧
    (waits → limit ≠ 0 → since + limit ≤ s.now → becomes (.lwaitTimeout w) fun v' => v'.wait = none ∧ v'.waitDone = some 1) ∧
    (waits → limit = 0 ∨ s.now < since + limit → becomes (.lwaitTimeout w) fun v' => v' = v) ∧
    (s.down = false → s.group? w = some v → v.watch = some y → becomes (.watchFireNoWrite w) fun v' => v'.watch = some { y with fired := true } ∧
      ((∃ a b c, v.wait = some (.lwait a b c)) → v'.wait = none ∧ v'.waitDone = some 0) ∧
      ((∀ a b c, v.wait ≠ some (.lwait a b c)) → v'.wait = v.wait ∧ v'.waitDone = v.waitDone)) ∧
    (w = .grp n → s.group? w = some v → becomes (.steepWrite n value) fun v' =>
      v' = { v with expired := v.expired && !value.getLsbD 31, period := max 64 (value.toNat % 2 ^ 20), steep := 0,
                     steepAt := v.steepAt.map fun _ => s.now }) ∧
    (w = .grp n → s.group? w = some v → v.steepReached s.now = false → becomes (.steepExpiry n) fun v' => v' = v) ∧
    (w = .grp n → s.group? w = some v → v.steepReached s.now = true → ∃ u v', exec (.steepExpiry n) s = .next u ∧ u.group? w = some v' ∧
      v'.expired = true ∧ v'.steep = 0 ∧ v'.period = v.period ∧ u.mem = s.mem ∧ (v.runOpen = true → v'.steepDue = true ∧ v'.lanes = v.lanes)) ∧
    (v.steepReached s.now = true ↔ counts ∧ v.away = false ∧ v.ended = false ∧ v.period ≤ v.steepCount s.now) ∧
    (counts → (v.syncSteep n).steepCount (n + r) = (if v.waiting = [] ∧ v.stoppedSeats = [] then 0 else v.steepCount n) + r) ∧
    (¬counts → (v.syncSteep n).steepCount (n + r) = if v.waiting = [] ∧ v.stoppedSeats = [] then 0 else v.steepCount n) ∧
    (x.solo = false → ReadsCsr s x 0x010 x.u.gstat.toNat ∧ ReadsCsr s x 0x011 (x.u.expired.toNat * 2 ^ 31 + x.u.period % 2 ^ 20)) ∧
    (Free s x [opd g .w64] [] → Lands (exec (.cyc h g) s) s x.who (wrote x h g .w64 fun _ => s.cyc.getD (s.dieOf x.who) 0 % 2 ^ 64))

/-- R301, R367, R395. -/
def Obligations.InvalidationsAndDrains : Prop :=
  ∀ (h : Hdr) (p : BitVec 4) (g : BitVec 7) (s : State) (x : Ctx) (asn16 : BitVec 16) (pkg mode ob pg : Nat) (e : ExtInv) (before after : List ExtInv)
    (gr : Group) (v : RvSync) (l : OpenWork) (k : TakerAck),
    let noTx := ∀ i ∈ x.c.seats, (x.g.lane i).tx = none
    let w := (x.uni64 g).toNat
    let asn := w % 2 ^ 16
    let obj := w / 2 ^ 16 % 2 ^ 20
    let page := w / 2 ^ 36 % 2 ^ 26
    let covered := fun (e : Extent) => e.key.asn = asn ∧ (p = 2 ∨ (e.key.obj = obj ∧ (p = 1 ∨ (p = 0 ∧ e.key.page = page))))
    let good := p.toNat ≤ 2 ∧ w < 2 ^ 62 ∧ (p = 1 → page = 0) ∧ (p = 2 → obj = 0 ∧ page = 0)
    let ready := Free s x [opd g .w64] (lanes := x.readers) ∧ noTx ∧ s.privileged x.who = true ∧ x.g.waitDone = none
    let closed := fun (l : List Nat) => ∀ n ∈ l, ∀ r, s.reqs.get? n = some r → r.done = true
    let buffered := fun (w : Who) (i b : Nat) => w ∈ s.threads ∧ ∃ gr t, s.group? w = some gr ∧ i < gr.lanes.length ∧ (gr.lane i).tx = some t ∧
      t.buf ≠ [] ∧ t.born = b
    let ended := fun (l : OpenWork) => closed l.reqs ∧
      (∀ q ∈ l.txs, ∀ gr t, s.group? q.1 = some gr → (gr.lane q.2.1).tx = some t → t.born ≠ q.2.2) ∧
      ∀ c ∈ l.copies, ∀ b, (s.core c.1).copies.get? c.2.1 = some b → b.state ≠ .running ∨ b.seq ≠ c.2.2
    let hit := fun (a : PageKey) => a.asn = asn16.toNat ∧ (mode = 2 ∨ (a.obj = ob ∧ (mode = 1 ∨ a.page = pg)))
    -- a request under a translation of the package, which it has not performed
    let uses := fun (r : Req) => r.remote = some pkg ∧ r.done = false ∧ r.answer = none ∧ r.kind.isTranslate = false ∧
      (∀ m, r.kind ≠ .invalidate m) ∧ r.kind ≠ .parked
    let noLines := fun (t : State) (asn : Nat) => (∀ e ∈ t.cores, ∀ r ∈ e.2.revoked, r.1 / 2 ^ 15 ≠ asn) ∧ ∀ e ∈ t.ctls, ∀ r ∈ e.2.revoked, r.1 / 2 ^ 15 ≠ asn
    (ready → good → (∀ t ∈ s.takers, t.1 ≠ asn) → ∃ es, (∀ a, a ∈ es ↔ a ∈ s.extents ∧ ¬covered a) ∧
      Lands (exec (.extinv h p g) s) { s with extents := es } x.who (x.advance x.g)) ∧
    (ready → good → (∃ t ∈ s.takers, t.1 = asn) → ∃ u v', exec (.extinv h p g) s = .next u ∧ (∀ a ∈ u.extents, ¬covered a) ∧
      u.group? x.who = some v' ∧ v'.wait = some .extinv ∧ (∀ t ∈ s.takers, t.1 = asn → ∃ c, Outbound.invalidate t.2 p.toNat asn obj page c ∈ u.sent) ∧
      ∃ pend, u.extinvs = s.extinvs ++ [⟨x.who, p.toNat, asn, obj, page, pend⟩] ∧ pend.length = (s.takers.filter fun t => t.1 == asn).length ∧
        u.mem = s.mem) ∧
    (Free s x [opd g .w64] (lanes := x.readers) → noTx → s.privileged x.who = true → x.g.waitDone ≠ none →
      Lands (exec (.extinv h p g) s) s x.who (x.advance { x.g with waitDone := none })) ∧
    (s.ctx? = some x → s.privileged x.who = false → exec (.extinv h p g) s = .next (s.illegal x)) ∧
    (ready → p.toNat ≤ 2 → ¬good → exec (.extinv h p g) s = .next (s.illegal x)) ∧
    (s.extinvs = before ++ e :: after → (∀ b ∈ before, ¬closed b.pend) → e ∉ before → closed e.pend → s.group? e.who = some gr → gr.wait = some .extinv →
      ∃ u gr', exec .extinvComplete s = .next u ∧ u.extinvs = before ++ after ∧ u.group? e.who = some gr' ∧ gr'.wait = none ∧
        gr'.waitDone = some 0 ∧ gr'.lanes = gr.lanes ∧ u.mem = s.mem) ∧
    ((∀ b ∈ s.extinvs, ¬closed b.pend) → exec .extinvComplete s = .next s) ∧
    (s.down = false → mode ≤ 3 → ∃ u v, exec (.takerInvalidate pkg ⟨mode, asn16, ob, pg⟩) s = .next u ∧ u.mem = s.mem ∧ u.extents = s.extents ∧ u.sent = s.sent ∧
      (mode = 3 → noLines u asn16.toNat ∧ u.remotes = s.remotes) ∧
      (mode ≠ 3 → ∀ a, a ∈ u.remotes ↔ a ∈ s.remotes ∧ ¬(a.key.pkg = pkg ∧ hit a.key)) ∧
      u.acks = s.acks ++ [v] ∧ v.pkg = pkg ∧ v.asn = asn16 ∧
      ∀ n r, (n, r) ∈ s.reqs → (n ∈ v.work.reqs ↔ ∃ r', (n, r') ∈ s.reqs ∧ uses r' ∧ (if mode = 3 then r'.key.asn = asn16.toNat else hit r'.key))) ∧
    (k ∈ s.acks → ended k.work → s.acknowledge k =
      { s with acks := s.acks.erase k, sent := s.sent ++ [.invalidateAck k.pkg k.asn (s.cseqOf fabricDie)] }) ∧
    (¬ended k.work → s.acknowledge k = s) ∧
    (s.xdrain = none → ∃ u d, exec .xdrain s = .next u ∧ u = { s with xdrain := some d } ∧
      (∀ n, n ∈ d.reqs ↔ ∃ r, (n, r) ∈ s.reqs ∧ r.remote = none ∧ r.done = false) ∧ (∀ w i b, (w, i, b) ∈ d.txs ↔ buffered w i b) ∧
      d.copies = []) ∧
    (s.xdrain ≠ none → exec .xdrain s = .next s) ∧
    (s.xdrain = some l → (ended l → exec .xdrainDone s = .next { s with xdrain := none }) ∧ (¬ended l → exec .xdrainDone s = .next s)) ∧
    (s.rvsync = none → ∃ u v', exec (.rvsync asn16) s = .next u ∧ u.rvsync = some v' ∧ v'.asn = asn16.toNat ∧ noLines u asn16.toNat ∧ u.mem = s.mem ∧
      (∀ n r, (n, r) ∈ s.reqs → r.asn = asn16.toNat → r.done = false → n ∈ v'.work.reqs) ∧
      (∀ w i b, buffered w i b → s.asnOf w = asn16.toNat → (w, i, b) ∈ v'.work.txs) ∧
      ∀ t ∈ s.takers, t.1 = asn16.toNat → ∃ c, Outbound.invalidate t.2 3 asn16.toNat 0 0 c ∈ u.sent) ∧
    (s.rvsync ≠ none → exec (.rvsync asn16) s = .next s) ∧
    (s.rvsync = some v → ended v.work → exec .rvsyncDone s =
      .next { s with rvsync := none, freed := s.freed.filter fun f => !(f.1 == v.asn && f.2.2) }) ∧
    (s.rvsync = some v → ¬ended v.work → exec .rvsyncDone s = .next s)

/-- R234, R239, R260, R264-R266. -/
def Obligations.RequestsAtTheHomeSlice : Prop :=
  ∀ (s : State) (n : Nat) (r : Req) (agent line size code op v cmp dest : Nat) (returns tag : Bool) (bs : List Byte) (g : Group),
    let here := s.reqs.get? n = some r
    let at_ := r.addr / 128
    let plain := Memory.wf s.mem = true ∧ s.keyed = [] ∧ s.trust.memKeys = [] ∧ ∀ j < 64, OffRings s (r.addr + j)
    let turned := r.done = true ∨ r.remote ≠ none ∨ r.rehome = true ∨ s.oldest n r = false
    let due := here ∧ ¬turned ∧ s.atStub r = false ∧ s.blocked at_ r.kind.changes = false
    let tells := s.toTell at_ r.kind.changes r.agent
    let alone := due ∧ tells = [] ∧ s.coinciding n r = []
    let old := s.num r.addr size
    let done := fun (e : Instr) (value : List Byte) (tag : Bool) (P : State → Prop) => ∃ u, exec e s = .next u ∧
      (∃ c, u.reqs.get? n = some { r with done := true, value, tag, cseq := c }) ∧ (∀ m, m ≠ n → u.reqs.get? m = s.reqs.get? m) ∧ P u
    let every := fun (P : Instr → Prop) => P (.sliceRead n) ∧ P (.sliceWrite n) ∧ P (.atomicPerform n)
    let mine := fun (e : Instr) => match r.kind with
      | .load _ _ | .loadCap _ => e = .sliceRead n
      | .store _ | .storeCap _ _ => e = .sliceWrite n
      | .atomic _ _ _ _ _ => e = .atomicPerform n
      | _ => False
    let stored := fun (bs : List Byte) (u : State) => ∀ y, u.byte y = if r.addr ≤ y ∧ y < r.addr + bs.length then bs.getD (y - r.addr) 0 else s.byte y
    let d := s.dirAt line
    let up := s.down = false
    let written := s.notes.contains ⟨agent, line, true⟩ = true
    -- an agent of the package has dropped a clean copy, or a package of the node says so over the fabric
    let noted := up ∧ (s.notes.contains ⟨agent, line, false⟩ = true ∨ (128 ≤ agent ∧ agent < 136))
    let entry := fun (e : Instr) (d' : Nat → DirEntry) => ∃ u c, exec e s = .next u ∧ u.dirAt line = d' c ∧ u.mem = s.mem ∧ u.tags = s.tags ∧ u.groups = s.groups
    let acking := up ∧ d.busy = true ∧ (∃ a ∈ d.acked, a.1 = agent) ∧ d.recalls = false
    (alone → r.kind = .load size code → done (.sliceRead n) (s.bytes r.addr size) false fun u => u.mem = s.mem ∧ u.tags = s.tags) ∧
    (alone → r.kind = .loadCap tag → done (.sliceRead n) (s.bytes r.addr 16) (s.tagAt r.addr && tag) fun u => u.mem = s.mem ∧ u.tags = s.tags) ∧
    (alone → plain → r.kind = .store bs → bs.length ≤ 64 → done (.sliceWrite n) [] false fun u => stored bs u ∧
      ∀ q, u.tags.contains q = (s.tags.contains q && !(List.range bs.length).any fun j => (r.addr + j) / 16 == q)) ∧
    (alone → plain → r.kind = .storeCap bs tag → bs.length = 16 → r.addr % 16 = 0 → done (.sliceWrite n) [] false fun u => stored bs u ∧
      ∀ q, u.tags.contains q = if q = r.addr / 16 then tag else s.tags.contains q) ∧
    (alone → plain → r.kind = .atomic op size v cmp returns → size = 4 ∨ size = 8 → op ≤ 10 → v < 2 ^ (8 * size) → cmp < 2 ^ (8 * size) →
      done (.atomicPerform n) (leBytes size old) false fun u =>
        match atomicValue op (8 * size) (BitVec.ofNat (8 * size) old) (BitVec.ofNat (8 * size) v) (BitVec.ofNat (8 * size) cmp) with
        | some w => stored (leBytes size w.toNat) u
        | none => u.mem = s.mem) ∧
    (due → tells = [] → r.kind = .atomic op size v cmp returns → ∃ u, exec (.atomicPerform n) s = .next u ∧
      ∀ q ∈ (n, r) :: s.coinciding n r, ∃ r', u.reqs.get? q.1 = some r' ∧ r'.done = true) ∧
    (here → (turned ∨ (s.atStub r = false ∧ s.blocked at_ r.kind.changes = true)) → every fun e => exec e s = .next s) ∧
    (here → ¬turned → s.atStub r = true → ∀ e, mine e → ∃ u, exec e s = .next u ∧ u.reqs = s.reqs.set n { r with rehome := true, bounced := true } ∧ u.mem = s.mem) ∧
    (due → tells ≠ [] → ∀ e, mine e → ∃ u, exec e s = .next u ∧ u.mem = s.mem ∧ u.reqs = s.reqs ∧ u.dirAt at_ =
      { s.dirAt at_ with busy := true, acks := tells.length, wait := some n, recalls := (s.dirAt at_).st == .O, reads := !r.kind.changes,
                         owed := tells, acked := [], cseq := s.cseqOf (s.lineDie at_) }) ∧
    (d.busy = true → d.recalls = false → agent ∈ d.owed → entry (.invalidation agent line)
      fun c => { d with owed := d.owed.filter (· != agent), acked := d.acked ++ [(agent, c)] }) ∧
    (d.busy = true → d.recalls = false → agent ∈ d.owed → 128 ≤ agent → agent < 136 → ∃ u c, exec (.invalidation agent line) s = .next u ∧
      u.sent = s.sent ++ [.nodeInvalidate (s.packageAt (agent - 128)) line c]) ∧
    (d.busy = true → d.recalls = false → agent ∈ d.owed → ∃ u, exec (.invalidation agent line) s = .next u ∧ (agent, line) ∉ u.copies ∧
      ∀ c ∈ s.copies, c ≠ (agent, line) → c ∈ u.copies) ∧
    (d.busy = true → d.recalls = true → agent ∈ d.owed → s.stillWrites agent line = true → exec (.recall agent line) s = .next s) ∧
    (d.busy = true → d.recalls = true → agent ∈ d.owed → s.stillWrites agent line = false → entry (.recall agent line)
      fun c => { d with owed := d.owed.filter (· != agent), acked := d.acked ++ [(agent, c)] }) ∧
    (d.busy = true → d.recalls = true → agent ∈ d.owed → s.stillWrites agent line = false →
      ∃ u, exec (.recall agent line) s = .next u ∧ (agent, line) ∉ u.dirty ∧ (d.reads = false → (agent, line) ∉ u.copies)) ∧
    (acking → 1 < d.acks → entry (.invalidationAck agent line)
      fun _ => { d with acks := d.acks - 1, acked := d.acked.filter (·.1 != agent) }) ∧
    (acking → d.acks ≤ 1 → d.wait = some n → here → r.done = false → r.kind = .load size code →
      done (.invalidationAck agent line) (s.bytes r.addr size) false fun u => u.mem = s.mem) ∧
    (acking → d.acks ≤ 1 → d.wait = some n → here → r.done = false → plain → r.kind = .store bs →
      bs.length ≤ 64 → done (.invalidationAck agent line) [] false (stored bs)) ∧
    (noted → d.busy = false → d.st = .P → entry (.evictionNotice agent line) fun _ =>
      (if d.ptrs.filter (· != agent) = [] then DirEntry.reset else { d with ptrs := d.ptrs.filter (· != agent) })) ∧
    (noted → d.busy = true ∨ d.st = .C ∨ d.st = .I → entry (.evictionNotice agent line) fun _ => d) ∧
    (noted → d.busy = false → d.st = .O → d.ptrs.head? = some agent → entry (.evictionNotice agent line) fun _ => DirEntry.reset) ∧
    (written → d.busy = false → d.st = .O → d.ptrs.head? = some agent → entry (.writeBack agent line) fun _ => DirEntry.reset) ∧
    (written → d.busy = true → entry (.writeBack agent line) fun _ => d) ∧
    (up → ∃ u c, exec (.nodeCopyInvalidate line) s = .next u ∧ line ∉ u.nodeCopies ∧ (∀ a ∈ s.named d, (a, line) ∉ u.copies) ∧
      u.dirAt line = DirEntry.reset ∧ u.sent = s.sent ++ [.nodeAck line c] ∧ u.mem = s.mem ∧ ∀ c ∈ s.copies, c.2 ≠ line → c ∈ u.copies) ∧
    (here → r.done = true → r.remote = none → r.trail = none → (∀ p ∈ r.latch, p.1 = r.seat) → (∀ q ∈ s.reqs, q.1 < n → q.2.who ≠ r.who) → r.kind = .load size code → code ≤ 5 → r.dest = some dest →
      s.group? r.who = some g → r.seat < g.lanes.length → dest + 2 ≤ (g.lane r.seat).regs.length → r.value.length = size → size ≤ 8 →
      ∃ u g', exec (.memoryReply n) s = .next u ∧ u.reqs.get? n = none ∧ u.mem = s.mem ∧ u.group? r.who = some g' ∧
        (g'.lane r.seat).regs.getD dest ⟨0, true, true⟩ = ⟨BitVec.ofNat 32 (leNat r.value), false, false⟩ ∧
        (size = 8 → (g'.lane r.seat).regs.getD (dest + 1) ⟨0, true, true⟩ = ⟨BitVec.ofNat 32 (leNat r.value / 2 ^ 32), false, false⟩) ∧
        (∀ j, j < dest ∨ dest + 2 ≤ j → (g'.lane r.seat).regs[j]? = (g.lane r.seat).regs[j]?) ∧ ∀ i, i ≠ r.seat → g'.lane i = g.lane i) ∧
    (here → r.done = false → exec (.memoryReply n) s = .next s) ∧
    (here → r.rehome = true → exec (.rehomeAnswer n) s = .next { s with reqs := s.reqs.set n { r with rehome := false, gen := s.smGen.toNat } }) ∧
    (here → r.rehome = false → exec (.rehomeAnswer n) s = .next s)

/-- R231, R233, R236, R238, R318, R361, R364-R366. -/
def Obligations.MapChangesTranslationAndCaches : Prop :=
  ∀ (s : State) (slice inj obj page src core line n pkg f : Nat) (asn : BitVec 16) (c : MapChange) (w : Who) (g : Group) (e : Extent) (t : Tx)
    (note : Notice) (rest : List Notice),
    let asked := slice < 512 ∧ slice ∉ s.stubs ∧ s.stubs.length < 511
    let starts := asked ∧ s.change = none ∧ s.marks = []
    let told := fun (l : Nat) => s.toTell l true none
    let idle := starts ∧ ∀ d ∈ s.dir, s.sliceOf d.1 = slice → d.2.busy = false ∧ told d.1 = []
    let entry := fun (s : State) (i : Nat) => s.smap.getD i (i % 512)
    let same := fun (u : State) => u.mem = s.mem ∧ u.tags = s.tags ∧ u.groups = s.groups
    let key : PageKey := ⟨s.regs.pkg, asn.toNat, obj, page⟩
    let coming := ∃ r ∈ s.reqs, r.2.done = false ∧ r.2.remote = none ∧ r.2.rehome = false ∧ s.atStub r.2 = true
    let walks := fun (P : State → Prop) => ∃ u, exec (.extentWalk asn obj page src) s = .next u ∧ P u
    let counted := s.cachedExtent key = some e ∧ s.regs.thresh ≠ 0 ∧ e.entry.toNat / 2 ^ 60 % 4 ≠ 0 ∧ s.regs.thresh ≤ e.entry.toNat / 2 ^ 42 % 2 ^ 14
    let drops := fun (v : Evictee) (P : State → Prop) => s.down = false → ∃ u, exec (.cacheEviction v) s = .next u ∧ P u
    let slot := s.regs.nqBase + 32 * (s.regs.nqTail.toNat % 2 ^ s.regs.nqLog2)
    let free := ∀ l ∈ blocks 128 slot 32, s.mayTake l true none = true
    let held := s.copies.contains (n, line) = true ∧ ((s.ctl n).thread.lane 0).tx = some t ∧ n < 128
    (idle → ∃ u c, exec (.sliceMapChange slice) s = .next u ∧ u.change = some c ∧ c.slice = slice ∧ c.step = 5 ∧ u.smGen = s.smGen + 1 ∧
      ((∀ e ∈ s.extents, s.translationSlice e.key ≠ slice) → same u) ∧ slice ∈ u.stubs ∧ (∀ k < 128, (s.ctl k).mappedOut = false → k ∈ c.acks) ∧ (∀ i < 4096, if entry s i = slice then entry u i < 512 ∧ entry u i ∉ slice :: s.stubs else entry u i = entry s i) ∧
      ∀ r ∈ u.reqs, r.2.remote = none → r.2.done = false → r.2.rehome = false → hash12 6 (r.2.addr / 128) ∉ c.moved) ∧
    (starts → (∃ d ∈ s.dir, s.sliceOf d.1 = slice ∧ told d.1 ≠ [] ∧ (s.dirAt d.1).busy = false) → ∃ u, exec (.sliceMapChange slice) s = .next u ∧
      u.change = some ⟨slice, 1, [], []⟩ ∧ u.smap = s.smap ∧ u.smGen = s.smGen ∧ same u ∧
      ∀ l, s.sliceOf l = slice → told l ≠ [] → (s.dirAt l).busy = false → (u.dirAt l).busy = true ∧ (u.dirAt l).owed = told l) ∧
    (asked → (∃ c, s.change = some c ∧ c.slice ≠ slice) ∨ (s.change = none ∧ s.marks ≠ []) → slice ∉ s.leaving →
      exec (.sliceMapChange slice) s = .next { s with leaving := s.leaving ++ [slice] }) ∧
    (s.change = some c → exec (.injectorAck inj) s = .next { s with change := some { c with acks := c.acks.filter (· != inj) } }) ∧
    (s.change = some c → c.step = 5 → c.acks = [] → ¬coming → ∃ u, exec .stubRetire s = .next u ∧ u.change = none ∧ same u ∧ 0x082 ∈ u.vectors ∧
      u.health.replace = true ∧ u.sent = s.sent ++ [.report 3 c.slice] ∧ u.smap = s.smap) ∧
    (s.change = some c → c.step ≠ 5 ∨ c.acks ≠ [] ∨ coming → exec .stubRetire s = .next s) ∧
    (s.lookupHeld key = true → walks fun u => same u ∧ u.extents = s.extents ∧ u.takers = s.takers) ∧
    (s.lookupHeld key = false → s.cachedExtent key = none → s.regs.thresh = 0 → (s.walk asn.toNat obj page).1 = .frame f → walks fun u => same u ∧
      (∃ e, u.cachedExtent key = some e ∧ e.entry.toNat / 2 ^ 16 % 2 ^ 26 = f) ∧ (src ≠ s.regs.pkg → (asn.toNat, src) ∈ u.takers)) ∧
    (s.cachedExtent key = none → (∀ f, (s.walk asn.toNat obj page).1 ≠ .frame f) → walks fun u => same u ∧ u.extents = s.extents ∧ u.takers = s.takers) ∧
    (s.group? w = some g → (∀ i ∈ g.lanes, i.tx = none) → ∃ u g', exec (.parkRetry w) s = .next u ∧ u.mem = s.mem ∧ u.group? w = some g' ∧
      ∀ i < g.lanes.length, (g'.lane i).pc = (g.lane i).pc ∧ (g'.lane i).regs = (g.lane i).regs ∧
        ∀ k t, (g.lane i).mode = .parked k t → (g.lane i).thread.isSome = true →
          ((∃ a, t = some a ∧ a ≤ s.now) → (g'.lane i).mode = .running) ∧ ((∀ a, t = some a → s.now < a) → (g'.lane i).mode = .parked k t)) ∧
    (counted → e.entry.getLsbD 62 = true → exec (.counterThreshold asn obj page) s = .next s) ∧
    (counted → e.entry.getLsbD 62 = false → s.noticeFree = false →
      exec (.counterThreshold asn obj page) s = .next { s with regs := { s.regs with nqOvf := s.regs.nqOvf + 1 } }) ∧
    (counted → e.entry.getLsbD 62 = false → s.noticeFree = true → ∃ u e', exec (.counterThreshold asn obj page) s = .next u ∧
      (s.notices = [] → free → u.regs.nqTail = s.regs.nqTail + 1 ∧ 0x080 ∈ u.vectors) ∧ u.regs.nqOvf = s.regs.nqOvf ∧
      u.cachedExtent key = some e' ∧ e'.entry.getLsbD 62 = true) ∧
    (s.notices = note :: rest → s.noticeRoom = true → Memory.wf s.mem = true → s.keyed = [] → s.trust.memKeys = [] →
      let a := slot
      free → (∀ l ∈ blocks 128 a 32, Unwatched s l) → ∃ u, exec .noticeWrite s = .next u ∧ u.notices = rest ∧ u.regs.nqTail = s.regs.nqTail + 1 ∧ 0x080 ∈ u.vectors ∧ u.groups = s.groups ∧
        u.byte a = BitVec.ofNat 8 note.kind ∧ u.byte (a + 1) = BitVec.ofNat 8 note.src ∧ u.num (a + 2) 2 = note.key.asn % 2 ^ 16 ∧
        u.num (a + 4) 4 = note.key.obj % 2 ^ 32 ∧ u.num (a + 16) 8 = note.entry.toNat ∧ u.num (a + 24) 8 = s.regs.nqTail.toNat ∧
        ∀ y, y < a ∨ a + 32 ≤ y → u.byte y = s.byte y) ∧
    (s.notices = note :: rest → s.noticeRoom = true → ¬free → ∃ u, exec .noticeWrite s = .next u ∧ same u ∧ u.notices = s.notices ∧ u.regs.nqTail = s.regs.nqTail) ∧
    (s.notices = [] ∨ s.noticeRoom = false → exec .noticeWrite s = .next s) ∧
    (∃ u, exec (.streamPrefetch core line) s = .next u ∧ same u ∧ u.extents = s.extents ∧ (∀ j, j ≠ core → u.core j = s.core j) ∧
      { u.core core with near := [] } = { s.core core with near := [] }) ∧
    (drops (.nearLine core line) fun u => same u ∧ (∀ j, j ≠ core → u.core j = s.core j) ∧ ∀ k b, (u.core core).near.get? k = some b → k / 4 ≠ line) ∧
    (s.cachedExtent key = some e → Memory.wf s.mem = true → s.keyed = [] → s.trust.memKeys = [] → Unwatched s (e.phys / 128) → drops (.extentEntry asn obj page) fun u => u.cachedExtent key = none ∧
      u.groups = s.groups ∧ u.tags = s.tags ∧ (∀ k, k ≠ key → u.cachedExtent k = s.cachedExtent k) ∧
      ∀ y, y < e.phys ∨ e.phys + 8 ≤ y → u.byte y = s.byte y) ∧
    (drops (.remoteEntry pkg asn obj page) fun u => same u ∧ ∀ k, k ∈ u.remotes ↔ k ∈ s.remotes ∧ k.key ≠ ⟨pkg, asn.toNat, obj, page⟩) ∧
    (held → t.wset.contains line = true → drops (.controlLine n line true) fun u => ((u.ctl n).thread.lane 0).tx = none ∧
      ((u.ctl n).thread.lane 0).pc = t.retryPc ∧ (n, line) ∉ u.copies ∧ u.mem = s.mem) ∧
    (held → t.wset.contains line = false → t.rset.contains line = true → drops (.controlLine n line true) fun u =>
      ((u.ctl n).thread.lane 0).tx = some t ∧ line ∈ (u.ctl n).signature ∧ (n, line) ∉ u.copies ∧ u.mem = s.mem) ∧
    (exec (.cacheEviction (.controlLine n line false)) s = .next s)

/-- R42, R207, R230, R272, R338-R340. -/
def Obligations.PlacementAndRetirementOfTeams : Prop :=
  ∀ (s : State) (p prio gi n b a tn : Nat) (e : Grid) (bs : List Nat) (t : Team) (asn : BitVec 16) (hd : Cap) (why : Cause),
    let d := e.desc
    let looks := s.places p = true ∧ (s.part p).heads = [] ∧ s.picks = [] ∧ prio ≤ 7 ∧ ∀ q, prio < q → q ≤ 7 → s.candidate p q = none
    let lanes := fun (k : Nat) => (List.range 32).map fun i =>
      Lane.fresh (if 32 * k + i < d.threads then some (32 * k + i) else none) (d.allocOf k) d.entry
    let at_ := fun (i : Nat) => s.teams.get? tn = some t ∧ t.phase = .retiring i ∧ t.swapped = false
    let to_ := fun (i : Nat) (P : State → Team → Prop) => ∃ u t', exec (.teamRetire tn) s = .next u ∧ u.teams.get? tn = some t' ∧
      t'.phase = .retiring i ∧ t'.groups = t.groups ∧ P u t'
    let mine := fun (m : Nat) => (s.hamper t.cluster m).team = some tn
    let into := fun (core slot : Nat) (sl : CopySlot) => (s.core core).copies.get? slot = some sl ∧ sl.state = .running ∧
      ∃ m off, CopyEnd.hamper t.cluster m off ∈ sl.dsts ∧ m < 32 ∧ mine m
    let sorted := (s.cores.map (·.1)).Pairwise (· < ·) ∧ ∀ k ∈ s.cores, (k.2.copies.map (·.1)).Pairwise (· < ·)
    let c := d.joincap
    let open_ := fun (a : Nat) => s.regs.thresh = 0 ∧ (s.engineReady a 8 true none).1 = true ∧ OffRings s a
    -- the page's translation slice answers now
    let asks := fun (k : PageKey) => s.lookupHeld k = false ∧ (∀ m ∈ s.monitors, (Who.ctl 0, k) ∉ m.who) ∧ ∀ r ∈ s.retries, r.1 = k → r.2 ≤ s.now
    let grid := s.grids.get? t.grid = some e
    let plain := Memory.wf s.mem = true ∧ s.keyed = [] ∧ s.trust.memKeys = []
    let raised := fun (u : State) (a : Nat) => u.num a 8 = (s.num a 8 + 1) % 2 ^ 64 ∧ ∀ y, y < a ∨ a + 8 ≤ y → u.byte y = s.byte y
    (looks → s.candidate p prio = some (.fresh gi e) → s.blocksFor p (s.needOf (.fresh gi e)) = b :: bs →
      ∃ u n t', exec (.schedule p) s = .next u ∧ s.teams.get? n = none ∧ u.teams.get? n = some t' ∧ t'.grid = gi ∧ t'.index = e.next ∧
        t'.launch = e.launch ∧ t'.part = e.part ∧ t'.phase = .resident ∧ t'.cluster = b / 8 ∧ t'.base = b ∧ t'.span = d.span ∧ t'.threads = d.threads ∧
        t'.groups.length = d.groups ∧ t'.fmts = d.fmtTab.map fmtFields ∧ t'.barriers = List.replicate d.barriers ⟨0, 0, 0, [], []⟩ ∧
        u.grids.get? gi = some { e with next := e.next + 1, reported := false } ∧ u.mem = s.mem ∧
        (∀ k < d.groups, ∃ m v, t'.groups[k]? = some m ∧ u.groups.get? m = some v ∧ v.gix = k ∧ v.team = n ∧ v.lanes = lanes k ∧ v.sregs = e.args ∧
          v.acaps = e.a0 :: List.replicate 15 Cap.null ∧ v.wb = 0 ∧ v.role = d.roleOf k ∧ v.tcore = k % d.span ∧ v.launch = e.launch ∧ v.asn = e.asn ∧
          v.laneProg = (d.progress == 0) ∧ (v.place.map (·.core)) = some (b + k % d.span)) ∧
        (∀ j < d.span, (u.core (b + j)).near = []) ∧ ∀ j < d.span, ∀ q < d.entries, ∃ m, t'.entry j q = some ⟨q, m, false⟩ ∧ (m.isSome ↔ q * d.span + j < d.hampers) ∧
          ∀ k, m = some k → (s.hamper (b / 8) k).team = none ∧ u.hamper (b / 8) k = { Hamper.reset with team := some n }) ∧
    (looks → s.candidate p prio = some (.saved n t) → s.blocksFor p (s.teamNeed t) = b :: bs →
      ∃ u t', exec (.schedule p) s = .next u ∧ u.teams.get? n = some t' ∧ t'.phase = .resident ∧ t'.base = b ∧ t'.seated = true ∧ t'.groups = t.groups ∧
        ∀ j < t.span, (u.core (b + j)).near = []) ∧
    (s.places p = false ∨ (∀ q ≤ 7, ∀ c, s.candidate p q = some c → s.blocksFor p (s.needOf c) = []) →
      ∃ u, exec (.schedule p) s = .next u ∧ u.teams = s.teams ∧ u.grids = s.grids ∧ u.groups = s.groups ∧ u.mem = s.mem) ∧
    (exec (.holdoffExpiry p) s = .next (s.setPart p { s.part p with heads := (s.part p).heads.map fun h =>
      { h with held := h.held || decide ((s.part p).holdoff ≠ 0 ∧ h.since + 1000 * (s.part p).holdoff ≤ s.now) } })) ∧
    (at_ 1 → sorted → (∀ core slot sl, into core slot sl → sl.stop = none ∧ s.copyReqs core slot false = false) →
      to_ 2 fun u _ => u.mem = s.mem ∧ ∀ core slot sl, into core slot sl → ∃ sl', (u.core core).copies.get? slot = some sl' ∧ sl'.state = .cancelled ∧ sl'.left = sl.unwritten) ∧
    (at_ 2 → s.settled t = true → to_ 3 fun u _ => u.mem = s.mem) ∧
    (at_ 2 → s.settled t = false → exec (.teamRetire tn) s = .next s) ∧
    (at_ 3 → to_ 4 fun u _ => u.mem = s.mem ∧ ∀ j < t.span, (u.core (t.base + j)).matrix.claim ≠ some tn) ∧
    (at_ 4 → to_ 5 fun u _ => u.mem = s.mem ∧ ∀ m < 32, u.hamper t.cluster m = if mine m then { Hamper.reset with team := some tn } else s.hamper t.cluster m) ∧
    (at_ 5 → to_ 6 fun u t' => t'.seated = false ∧ t'.barriers = [] ∧ (∀ l ∈ t'.maps, l = []) ∧
      ∀ m < 32, u.hamper t.cluster m = if mine m then Hamper.reset else s.hamper t.cluster m) ∧
    (at_ 6 → grid → t.advances ≤ 1 → c.tag = false → to_ 8 fun u _ => u.mem = s.mem) ∧
    (at_ 6 → grid → t.advances ≤ 1 → c.tag = true → s.joinCheck e.asn.toNat c (permW ||| permA) = some why → to_ 8 fun _ _ => True) ∧
    (at_ 6 ∨ at_ 7 → grid → t.advances ≤ 1 → c.tag = true → s.joinCheck e.asn.toNat c (permW ||| permA) = none → c.pkg = s.regs.pkg → plain →
      asks ⟨c.pkg, e.asn.toNat, c.index, c.cursor / 65536⟩ → s.peek ⟨c.pkg, e.asn.toNat, c.index, c.cursor / 65536⟩ c.cursor = some a → open_ a →
      to_ 8 fun u _ => raised u a) ∧
    (at_ 8 → grid → (∀ x y z, e.source ≠ .edge x y z) → ∃ u t', exec (.teamRetire tn) s = .next u ∧ u.teams.get? tn = some t' ∧ t'.phase = .retired) ∧
    (at_ 8 → grid → plain → e.source = .edge n asn hd → hd.pkg = s.regs.pkg → hd.cursor % 128 = 0 →
      asks ⟨hd.pkg, asn.toNat, hd.index, (hd.cursor + 0x10) / 65536⟩ →
      s.peek ⟨hd.pkg, asn.toNat, hd.index, (hd.cursor + 0x10) / 65536⟩ (hd.cursor + 0x10) = some a → open_ a →
      ∃ u t', exec (.teamRetire tn) s = .next u ∧ u.teams.get? tn = some t' ∧ t'.phase = .retired ∧ raised u a) ∧
    (s.teams.get? tn = some t → (∀ i, t.phase ≠ .retiring i) ∨ t.swapped = true → exec (.teamRetire tn) s = .next s)

/-- R341, R343-R345, R349-R351. -/
def Obligations.PreemptionAndTheStallWatch : Prop :=
  ∀ (s : State) (p k tn g since m : Nat) (e : Grid) (t : Team) (v : Group),
    let q := s.part p
    let free := q.preempt = none
    let named := free ∧ s.gridNamed p q.prqid = some (g, e)
    let i := q.prqteam.toNat
    let res := fun (c : Instr) (r : Nat) => exec c s = .next (s.setPart p { q with prqRes := r })
    let all := fun (P : Instr → Prop) => P (.preemptTeam p) ∧ P (.preemptGrid p) ∧ P (.holdGrid p) ∧ P (.releaseGrid p)
    let away := fun (v : Group) => v.ended = true ∨ v.saved = true ∨ v.halted = true
    let caught := fun (c : Instr) (ts : List Nat) => ∃ u, exec c s = .next u ∧ (u.part p).preempt = some ⟨ts, s.now, false⟩ ∧ (u.part p).prqRes = 0 ∧ u.mem = s.mem ∧
      ∀ n ∈ ts, ∀ t, s.teams.get? n = some t → ∀ k ∈ t.groups, ∀ v, s.groups.get? k = some v → ¬away v →
        ∃ v', u.groups.get? k = some v' ∧ (v'.saved = true ∨ v'.marked = true)
    let target := s.teams.find? fun t => t.2.grid == g && t.2.index == i && t.2.seated
    let residents := (s.teams.filter fun t => t.2.grid == g && t.2.phase == .resident && !t.2.swapped).map (·.1)
    let here := s.groups.get? k = some v ∧ ¬away v ∧ v.runOpen = false ∧ s.change = none
    let trapped := here ∧ v.cut = false ∧ v.pdone = false ∧ v.moveDue = none ∧ v.trapDue = true ∧ v.trap.inHandler = false ∧ v.waitDone = none
    let becomes := fun (P : Group → Prop) => ∃ u v', exec (.preemptTrap k) s = .next u ∧ u.groups.get? k = some v' ∧ u.mem = s.mem ∧ P v'
    let saves := fun (v' : Group) => v'.saved = true ∧ v'.marked = false ∧ v'.watch = none ∧ v'.sregs = v.sregs ∧ v'.acaps = v.acaps ∧ v'.wb = v.wb ∧
      v'.holds = v.holds ∧ v'.trap = v.trap ∧ ∀ j < v.lanes.length, ((v.lane j).tx = none → (v'.lane j).regs = (v.lane j).regs ∧ (v'.lane j).pc = (v.lane j).pc) ∧
        ((v.lane j).thread.isSome = true → (v.lane j).mode ≠ .exited → (v'.lane j).tx = none) ∧ (v'.lane j).loopBuf = none
    let watched := s.grids.get? g = some e ∧ e.part = some p
    (q.preempt ≠ none → all fun c => exec c s = .next s) ∧
    (free → s.gridNamed p q.prqid = none → all fun c => res c 1) ∧
    (named → e.teams ≤ i → res (.preemptTeam p) 2) ∧
    (named → i < e.teams → target = some (tn, t) → t.swapped = false → t.phase = .resident → caught (.preemptTeam p) [tn]) ∧
    (named → i < e.teams → target = some (tn, t) → t.swapped = true → res (.preemptTeam p) 3) ∧
    (named → i < e.teams → target = none → e.next ≤ i → res (.preemptTeam p) 3) ∧
    (named → i < e.teams → target = none → (∃ t ∈ s.teams, t.2.grid = g ∧ t.2.index = i ∧ t.2.phase = .saved) → res (.preemptTeam p) 3) ∧
    (named → residents = [] → res (.preemptGrid p) 3) ∧
    (named → residents ≠ [] → caught (.preemptGrid p) residents) ∧
    (named → ∃ u, exec (.holdGrid p) s = .next u ∧ u.grids.get? g = some { e with held := true } ∧ (u.part p).prqRes = 0 ∧ u.groups = s.groups) ∧
    (named → ∃ u, exec (.releaseGrid p) s = .next u ∧ u.grids.get? g = some { e with held := false } ∧ (u.part p).prqRes = 0 ∧ u.groups = s.groups) ∧
    (here → v.cut = false → v.pdone = false → v.moveDue = none → v.trapDue = false → exec (.preemptTrap k) s = .next s) ∧
    (s.groups.get? k = some v → away v → exec (.preemptTrap k) s = .next s) ∧
    (s.groups.get? k = some v → v.runOpen = false → s.change ≠ none → v.moveDue = none → exec (.preemptTrap k) s = .next s) ∧
    (∀ a b c, trapped → v.wait = some (.lwait a b c) → becomes fun v' => v'.wait = none ∧ v'.waitDone = some 2 ∧ v'.lanes = v.lanes) ∧
    (trapped → v.wait = none →
      (s.traphOf v ≠ 0 → v.preemptLanes ≠ [] → becomes fun v' => v'.trap.inHandler = true ∧ v'.trap.cause = 0x0A ∧ v'.inPreempt = true ∧ v'.trapDue = false ∧
        ∀ j < v.lanes.length, j ∈ v.preemptLanes → (v'.lane j).pc = s.traphOf v ∧ (v'.lane j).mode = .running ∧
          (v'.lane j).tx = none ∧ ((v.lane j).tx = none → (v'.lane j).regs = (v.lane j).regs)) ∧
      (s.traphOf v = 0 → becomes saves)) ∧
    (here → v.cut = false → v.pdone = true → becomes saves) ∧
    (here → v.cut = true → q.swap = none → s.partOf (.grp k) = some p → becomes saves) ∧
    (∃ u, exec (.preemptDeadline p) s = .next u ∧ u.mem = s.mem ∧ (∀ k ∈ s.lateGroups p, ∀ v, s.groups.get? k = some v → u.groups.get? k = some { v with cut := true }) ∧
      ∀ k, k ∉ s.lateGroups p → u.groups.get? k = s.groups.get? k) ∧
    (s.teams.get? tn = some t → s.teamSavable t = false → exec (.teamSave tn) s = .next s) ∧
    (s.teams.get? tn = some t → s.teamSavable t = true → t.part = some p → ∃ u t', exec (.teamSave tn) s = .next u ∧ u.teams.get? tn = some t' ∧
      t'.phase = .saved ∧ t'.seated = false ∧ t'.groups = t.groups ∧ t'.maps = t.maps ∧ t'.barriers = t.barriers ∧ u.clusters = s.clusters ∧
      (∀ k ∈ t.groups, ∀ v, s.groups.get? k = some v → v.ended = false → ∃ v', u.groups.get? k = some v' ∧ v'.place = none ∧ v'.lanes = v.lanes) ∧
      ∀ j < t.span, (u.core (t.base + j)).matrix.claim ≠ some tn ∧
        ((s.core (t.base + j)).matrix.claim = some tn → t'.matrix.getD j none = some (s.core (t.base + j)).matrix)) ∧
    (watched → s.stallsNow g e = true → q.stalls.get? g = none → exec (.stallWatch g) s = .next (s.setPart p { q with stalls := q.stalls.set g s.now })) ∧
    (watched → s.stallsNow g e = false → exec (.stallWatch g) s = .next (s.setPart p { q with stalls := q.stalls.erase g })) ∧
    (watched → s.stallsNow g e = true → q.stalls.get? g = some since → s.now < s.stalledSince g since + 1000 * q.stallw → exec (.stallWatch g) s = .next s) ∧
    (watched → s.stallsNow g e = true → q.stalls.get? g = some since → s.stalledSince g since + 1000 * q.stallw ≤ s.now →
      (e.desc.residency = 0 → e.reported = true → exec (.stallWatch g) s = .next s) ∧
      (e.desc.residency = 0 → e.reported = false → (∀ l ∈ blocks 128 (q.tq.base + 64 * (q.tq.tail.toNat % 2 ^ q.tq.log2)) 64, Unwatched s l) → ∃ u, exec (.stallWatch g) s = .next u ∧ (u.part p).gstall = true ∧ (u.part p).gstallId = e.launch ∧
        p ∈ u.vectors ∧ u.grids.get? g = some { e with reported := true } ∧ u.teams = s.teams ∧ u.groups = s.groups) ∧
      (e.desc.residency ≠ 0 → q.evicting = none → s.victim p g e = some m → ∃ u, exec (.stallWatch g) s = .next u ∧
        (u.part p).evicting = some ⟨[m], s.now, false⟩ ∧ u.mem = s.mem ∧
        ∀ t, s.teams.get? m = some t → ∀ k ∈ t.groups, ∀ v, s.groups.get? k = some v → ¬away v →
          ∃ v', u.groups.get? k = some v' ∧ (v'.saved = true ∨ v'.marked = true)))

/-- R131, R138, R330, R346, R347. -/
def Obligations.PartitionsSwapsAndMigration : Prop :=
  ∀ (s : State) (p w g core slot seat : Nat) (v : Word) (gr : Group),
    let q := s.part p
    let shadow := s.shadows.getD p ⟨Part.reset, true⟩
    let away := fun (v : Group) => v.ended = true ∨ v.saved = true ∨ v.halted = true
    let sel := s.regs.psel
    let qs := s.part sel
    let taken := fun (cl : Nat) => ∃ e ∈ s.parts, e.1 ≠ sel ∧ e.2.clusters.getLsbD cl = true
    let to_ : Place := ⟨core, slot, seat⟩
    (q.swap ≠ none → exec (.partitionSwap p) s = .next s) ∧
    (q.swap = none → ∃ u, exec (.partitionSwap p) s = .next u ∧ u.part p = { q with swap := some 1 } ∧ u.mem = s.mem ∧
      (∀ e ∈ s.teams, e.2.part = some p → e.2.seated = true → ∀ k ∈ e.2.groups, ∀ v, s.groups.get? k = some v → ¬away v →
        u.groups.get? k = some { v with cut := true }) ∧
      ∀ k, (∀ e ∈ s.teams, e.2.part = some p → e.2.seated = true → k ∉ e.2.groups) → u.groups.get? k = s.groups.get? k) ∧
    (q.swap = none ∨ s.swapDrained p = false → exec (.swapExchange p) s = .next s) ∧
    (q.swap ≠ none → s.swapDrained p = true → ∃ u, exec (.swapExchange p) s = .next u ∧ (u.part p).swap = none ∧ p ∈ u.vectors ∧ u.mem = s.mem ∧
      (∀ cl < 160, q.clusters.getLsbD cl = true → (u.cluster cl).hampers = (s.cluster cl).shadowHampers ∧ (u.cluster cl).shadowHampers = (s.cluster cl).hampers) ∧
      (∀ cl, q.clusters.getLsbD cl = false → u.cluster cl = s.cluster cl) ∧ u.shadows.get? p = some ⟨q, !shadow.empty⟩ ∧
      (u.part p).enabled = q.enabled ∧ (u.part p).clusters = q.clusters ∧ (u.part p).nextId = q.nextId ∧
      (u.part p).stallw = shadow.part.stallw ∧ (u.part p).holdoff = shadow.part.holdoff ∧ (u.part p).deadline = shadow.part.deadline ∧
      (u.part p).prqid = shadow.part.prqid ∧ (u.part p).tq = shadow.part.tq ∧ (u.part p).oq = shadow.part.oq ∧ (u.part p).amBase = shadow.part.amBase ∧
      (u.part p).watchCfg = shadow.part.watchCfg ∧ (u.part p).gstallId = shadow.part.gstallId ∧ (u.part p).preempt = shadow.part.preempt) ∧
    (qs.enabled = true → exec (.partitionClustersWrite w v) s = .next s) ∧
    (qs.enabled = false → w < 5 → ∃ u, exec (.partitionClustersWrite w v) s = .next u ∧ { u.part sel with clusters := qs.clusters } = qs ∧
      (∀ p, p ≠ sel → u.part p = s.part p) ∧
      ∀ cl < 160, (u.part sel).clusters.getLsbD cl = true ↔ if cl / 32 = w then v.getLsbD (cl % 32) = true ∧ ¬taken cl else qs.clusters.getLsbD cl = true) ∧
    (v.getLsbD 0 = true → ∃ u, exec (.partenWrite v) s = .next u ∧ u.part sel = { qs with enabled := true } ∧ u.groups = s.groups ∧ u.mem = s.mem) ∧
    (v.getLsbD 0 = false → s.busyPart sel = true → exec (.partenWrite v) s = .next s) ∧
    (v.getLsbD 0 = false → s.busyPart sel = false → exec (.partenWrite v) s = .next (s.setPart sel { qs with enabled := false })) ∧
    (s.down = false → exec (.partitionReset p) s = .next (s.setPart p { q with nextId := 1 })) ∧
    (s.groups.get? g = some gr → s.seatFor g gr to_ = false → exec (.groupMigration g core slot seat) s = .next s) ∧
    (s.down = false → s.groups.get? g = some gr → s.seatFor g gr to_ = true → gr.runOpen = true →
      ∃ u, exec (.groupMigration g core slot seat) s = .next u ∧ u.groups.get? g = some { gr with moveDue := some to_ } ∧ u.mem = s.mem) ∧
    (s.down = false → s.groups.get? g = some gr → s.seatFor g gr to_ = true → gr.runOpen = false → ∃ u gr', exec (.groupMigration g core slot seat) s = .next u ∧
      u.groups.get? g = some gr' ∧ gr'.place = some to_ ∧ gr'.name = gr.name ∧ gr'.sregs = gr.sregs ∧ gr'.moveDue = none ∧
      (∀ i ∈ gr.live, (gr'.lane i).tx = none) ∧ (∀ a b c, gr.wait = some (.lwait a b c) → gr'.wait = none ∧ gr'.waitDone = some 2) ∧
      u.mem = s.mem ∧ (u.core core).near = [] ∧ { u.core core with near := [] } = { s.core core with near := [] } ∧
      (∀ j, j ≠ core → u.core j = s.core j) ∧
      ∀ t, s.teams.get? gr.team = some t → ∃ t', u.teams.get? gr.team = some t' ∧
        t'.base = if gr.place.any (fun q => q.core != core) then core else t.base) ∧
    (s.groups.get? g = some gr → gr.runOpen = false → gr.moveDue = some to_ → s.change ≠ none → ¬away gr → s.seatFor g gr to_ = false →
      ∃ u, exec (.preemptTrap g) s = .next u ∧ u.groups.get? g = some { gr with moveDue := none } ∧ u.mem = s.mem)

/-- R381, R382, R384-R386, R388, R389. -/
def Obligations.StreamPortMessages : Prop :=
  ∀ (s : State) (port conn d tl : Nat) (m : PortMsg) (pkt : PortPacket) (r : RxRing) (p x : Partial) (v : Word),
    let plain := Memory.wf s.mem = true ∧ s.keyed = [] ∧ s.trust.memKeys = [] ∧ s.monitors = [] ∧ s.farWatches = []
    let on := s.down = false ∧ s.portOn port = true
    let block := s.regs.psBase + 128 * port
    let desc := s.regs.rtBase + 64 * m.ring
    let cfg := BitVec.ofNat 32 (s.num desc 4)
    let outside := fun (u : State) (l : List (Nat × Nat)) => ∀ y, (∀ e ∈ l, y < e.1 ∨ e.1 + e.2 ≤ y) → u.byte y = s.byte y
    let plus := fun (u : State) (a n : Nat) => u.num a 8 = (s.num a 8 + n) % 2 ^ 64
    let counts := fun (u : State) (off n : Nat) => plus u (block + off) 1 ∧ plus u (block + off + 8) n
    let told := fun (u : State) => s.psRaised.get? port ≠ some (s.now / 1000) → (0x090 + port) ∈ u.vectors
    let ring := s.rxRing m.ring = some r
    let pass2 := m.parses = true ∧ ∀ d, m.secure = some d → s.trust.portKeys.get? d ≠ none ∧ m.tagOk = true
    let pass4 := pass2 ∧ ring ∧ m.secure = if r.enc then some r.sd else none
    let at_ := fun (k : Nat) (read : Option (RxRing × Nat)) => (⟨port, m, k, read⟩ : Placing)
    let new := at_ 0 none
    let waits := (m.mode = 0 ∧ ∃ q ∈ s.placing ++ [new], q.port = port ∧ q.msg.mode = 0 ∧ m.after = some q.msg.conn) ∨
      64 ≤ (s.placing.filter fun q => q.port == port && q.ring.isSome).length
    let behind := ∃ q ∈ s.placing, q.msg.ring = m.ring
    let clear := desc + 64 ≤ block ∨ block + 128 ≤ desc
    let arrives := on ∧ ¬behind ∧ ¬waits ∧ (s.allReady (s.placeLines new)).1 = true ∧ plain ∧ clear
    let n := countedBytes m
    let comes := fun (P : State → Prop) => ∃ u, exec (.messageArrival port m) s = .next u ∧ counts u 0x00 n ∧ told u ∧ u.tags.Sublist s.tags ∧
      u.sent = (if m.mode = 2 then s.sent else s.sent ++ [Outbound.portAck port m.conn (s.fate m).code]) ∧ P u
    let head := s.num (desc + 0x18) 8
    let tail := s.num (desc + 0x10) 8
    let slot := r.slot tl
    let old := r.slot head
    let placing := fun (u : State) => u.placing = s.placing ++ [at_ 1 (some (r, tail))]
    let go := fun (k : Nat) => at_ k (some (r, tl))
    let steps := fun (k : Nat) (P : State → Prop) => plain → (s.allReady (s.placeLines (go k))).1 = true → P (s.placeStep (go k))
    let goes := fun (u : State) (k : Nat) => u.placing = s.placing.set (s.placing.findIdx (· == go k)) (go (k + 1))
    let free := plain ∧ s.qholds = [] ∧ (s.allReady [(block, 128, true)]).1 = true ∧ ∀ o b, HwWrite.portCount port o b ∉ s.hwWrites
    let expires := fun (c : Nat) => s.partials.find? (fun q => q.port == port && q.conn == c) = some p ∧ p.msg.mode = 2 ∧ p.since + 100000 ≤ s.now
    let same := fun q : Partial => q.port == port && q.conn == pkt.msg.conn
    let q := (s.partials.find? same).getD ⟨port, pkt.msg.conn, [], pkt.total, s.now, pkt.msg⟩
    let q' := { q with got := sInsert q.got pkt.index }
    let joins := on ∧ (port, pkt.msg.conn) ∉ s.arrived ∧ (q.msg.mode ≠ 2 ∨ s.now < q.since + 100000)
    let others := s.partials.filter fun q => !same q
    let s1 := { s with partials := others, arrived := s.arrived ++ [(port, pkt.msg.conn)] }
    let rest := others.erase x
    let came := s1.arrived ++ [(x.port, x.conn)]
    let none_ := fun (u : State) (l : List Partial) => ∀ y ∈ l, u.whole y = false
    (ring → m.ring < 4096 ∧ cfg.getLsbD 31 = true ∧ r.desc = desc ∧ r.dold = cfg.getLsbD 30 ∧ r.enc = cfg.getLsbD 29 ∧
      r.lsz = (cfg.extractLsb' 20 5).toNat ∧ r.lnum = (cfg.extractLsb' 15 5).toNat ∧ r.sd = (cfg.extractLsb' 0 13).toNat ∧
      r.base = s.num (desc + 8) 8 ∧ 8 ≤ r.lsz ∧ r.lsz ≤ 16 ∧ r.lnum ≤ 20 ∧ s.regs.rpBase ≤ r.base ∧
      r.base + 2 ^ (r.lsz + r.lnum) ≤ s.regs.rpBase + s.regs.rpSize * 2 ^ 20) ∧
    (m.parses = false → s.fate m = .malformed) ∧
    (m.parses = true → m.secure = some d → s.trust.portKeys.get? d = none ∨ m.tagOk = false → s.fate m = .auth) ∧
    (pass2 → 4096 ≤ m.ring ∨ cfg.getLsbD 31 = false → s.fate m = .noRing) ∧
    (pass2 → ring → (m.secure ≠ if r.enc then some r.sd else none) → s.fate m = .auth) ∧
    (pass4 → 2 ^ r.lsz < m.len + 16 → s.fate m = .malformed) ∧
    (pass4 → m.len + 16 ≤ 2 ^ r.lsz → 2 ^ r.lnum ≤ (tail + 2 ^ 64 - head) % 2 ^ 64 → r.dold = false → s.fate m = .full) ∧
    (pass4 → m.len + 16 ≤ 2 ^ r.lsz → (tail + 2 ^ 64 - head) % 2 ^ 64 < 2 ^ r.lnum ∨ r.dold = true → s.fate m = .placed) ∧
    (arrives → s.fate m = .malformed → comes fun u => counts u 0x20 n ∧ outside u [(block, 128)] ∧ u.placing = s.placing) ∧
    (arrives → s.fate m = .auth → comes fun u => counts u 0x10 n ∧ outside u [(block, 128)] ∧ u.placing = s.placing) ∧
    (arrives → s.fate m = .noRing → comes fun u => counts u 0x30 n ∧ outside u [(block, 128)] ∧ u.placing = s.placing) ∧
    (arrives → s.fate m = .full → comes fun u => plus u (desc + 0x30) 1 ∧ plus u (desc + 0x38) m.len ∧
      outside u [(block, 16), (desc + 0x30, 16)] ∧ u.placing = s.placing) ∧
    (arrives → s.fate m = .placed → ring → s.rxFull r = false → comes fun u => outside u [(block, 16)] ∧ placing u) ∧
    (arrives → s.fate m = .placed → ring → s.rxFull r = true → old + 16 ≤ block ∨ block + 128 ≤ old → comes fun u =>
      u.num (desc + 0x18) 8 = (head + 1) % 2 ^ 64 ∧ plus u (desc + 0x30) 1 ∧ plus u (desc + 0x38) (s.num (old + 8) 4) ∧
      outside u [(block, 16), (desc + 0x18, 8), (desc + 0x30, 16)] ∧ placing u) ∧
    (on → behind ∨ waits → exec (.messageArrival port m) s = .next { s with placing := s.placing ++ [new] }) ∧
    (¬on → exec (.messageArrival port m) s = .next s ∧ exec (.frameFcsDiscard port) s = .next s ∧ exec (.streamPacketArrival port pkt) s = .next s) ∧
    (steps 1 fun u => u.num slot 8 = 2 ^ 64 - 1 ∧ outside u [(slot, 8)] ∧ goes u 1) ∧
    (steps 2 fun u => u.num (slot + 8) 4 = m.len % 2 ^ 32 ∧ u.num (slot + 0xC) 2 = m.secure.getD 0 % 2 ^ 16 ∧ u.num (slot + 0xE) 1 = port % 256 ∧
      u.num (slot + 0xF) 1 = m.mode % 256 ∧ (∀ j < m.len, u.byte (slot + 16 + j) = m.payload.getD j 0) ∧ outside u [(slot + 8, 8 + m.len)] ∧ goes u 2) ∧
    (steps 3 fun u => u.num slot 8 = tl % 2 ^ 64 ∧ outside u [(slot, 8)] ∧ goes u 3) ∧
    (steps 4 fun u => u.num (r.desc + 0x10) 8 = (tl + 1) % 2 ^ 64 ∧ plus u (r.desc + 0x20) 1 ∧ plus u (r.desc + 0x28) m.len ∧
      outside u [(r.desc + 0x10, 8), (r.desc + 0x20, 16)] ∧ u.placing = s.placing.erase (go 4)) ∧
    (on → free → ∃ u, exec (.frameFcsDiscard port) s = .next u ∧ plus u (block + 0x40) 1 ∧ told u ∧ outside u [(block + 0x40, 8)] ∧ u.sent = s.sent) ∧
    (on → (∃ o b, HwWrite.portCount port o b ∈ s.hwWrites) →
      exec (.frameFcsDiscard port) s = .next { s with hwWrites := s.hwWrites ++ [.portCount port 0x40 none] }) ∧
    (∀ u : State, u.whole x = true ↔ (∀ j < x.total, j ∈ x.got) ∧ (x.msg.mode = 0 → ∀ k, x.msg.after = some k → (x.port, k) ∈ u.arrived)) ∧
    (on → (port, pkt.msg.conn) ∈ s.arrived → exec (.streamPacketArrival port pkt) s = .next s) ∧
    (joins → none_ s (others ++ [q']) → exec (.streamPacketArrival port pkt) s = .next { s with partials := others ++ [q'] }) ∧
    (joins → none_ s others → s.whole q' = true → none_ s1 others → exec (.streamPacketArrival port pkt) s = exec (.messageArrival port q.msg) s1) ∧
    (joins → none_ s others → s.whole q' = true → others.find? s1.whole = some x → none_ { s1 with arrived := came } rest →
      exec (.streamPacketArrival port pkt) s = .next ({ s1.message port q.msg with partials := rest, arrived := came }.message x.port x.msg)) ∧
    (on → (port, pkt.msg.conn) ∉ s.arrived → expires pkt.msg.conn → exec (.streamPacketArrival port pkt) s = exec (.uudTimeout port pkt.msg.conn) s) ∧
    (s.down = false → expires conn → free → ∃ u, exec (.uudTimeout port conn) s = .next u ∧ counts u 0x00 (countedBytes p.msg) ∧
      counts u 0x20 (countedBytes p.msg) ∧ outside u [(block, 128)] ∧ u.partials = s.partials.erase p ∧ u.arrived = s.arrived ++ [(port, conn)]) ∧
    (s.partials.find? (fun q => q.port == port && q.conn == conn) = some p → p.msg.mode ≠ 2 ∨ s.now < p.since + 100000 →
      exec (.uudTimeout port conn) s = .next s) ∧
    (exec (.penWrite v) s = .next { s with regs := { s.regs with pen := v.setWidth 16 } })

/-- R390, R391: transmit rings. -/
def Obligations.TransmitRings : Prop :=
  ∀ (s s' : State) (ring entry w n : Nat) (t : TxRing) (b : TxBusy) (delivered tag : Bool) (ps : List (Nat × Nat)) (who : Who) (bs : List Byte) (req : Req),
    let plain := Memory.wf s.mem = true ∧ s.keyed = [] ∧ s.trust.memKeys = []
    let desc := s.regs.ttBase + 64 * ring
    let cfg := BitVec.ofNat 32 (s.num desc 4)
    let outside := fun (u : State) (l : List (Nat × Nat)) => ∀ y, (∀ e ∈ l, y < e.1 ∨ e.1 + e.2 ≤ y) → u.byte y = s.byte y
    let plus := fun (u : State) (a n : Nat) => u.num a 8 = (s.num a 8 + n) % 2 ^ 64
    let served := s.txRing ring = some t
    let head := s.num (desc + 0x18) 8
    let tail := s.num (desc + 0x10) 8
    let e := t.base + 32 * (head % 2 ^ t.lnum)
    let waits := s.txWait.get? ring = some w
    let fresh := s.txWait.get? ring = none
    let both := fun (P : Instr → Prop) => (fresh → P (.txEntryServe ring)) ∧ (waits → w ≤ s.now → P (.txEntryServe ring) ∧ P (.txRingRecheck ring))
    let idle := served ∧ s.txBusy.get? ring = none ∧ head ≠ tail ∧ (s.allReady [(desc, 64, true), (e, 32, false)]).1 = true
    let next : TxBusy := ⟨head, t, s.bytes (desc + 0x28) 16, e, s.num (e + 4) 4, s.num (e + 8) 4, s.capAt (e + 16), false, none⟩
    let r := b.ring
    let block := s.regs.psBase + 128 * r.port
    let clear := (b.addr + 32 ≤ block ∨ block + 128 ≤ b.addr) ∧ (b.addr + 32 ≤ r.desc ∨ r.desc + 64 ≤ b.addr) ∧
      (r.desc + 64 ≤ block ∨ block + 128 ≤ r.desc)
    let lines := [(b.addr, 32, true), (r.desc, 64, true), (block, 128, true)]
    let taken := s.txBusy.get? ring = some b
    let may := taken ∧ (s.allReady lines).1 = true
    let reads := may ∧ b.sent = false ∧ fresh
    let local_ := reads ∧ s.bufOk r.asn b.len b.buf = true ∧ b.buf.pkg = s.regs.pkg
    let object := local_ ∧ s.findObject r.asn b.buf.index b.buf.cursor b.len = (.places ps, s') ∧
      (s'.allReady (ps.map fun p => (p.1, p.2, false))).1 = true ∧ s.regs.thresh = 0
    let far := reads ∧ s.bufOk r.asn b.len b.buf = true ∧ b.buf.pkg ≠ s.regs.pkg ∧ s.reqs.find? (fun q => q.2.kind == .portRead ring b.len) = some (n, req)
    let sends := fun (data : List Byte) => Outbound.portSend ring r.port r.mode (if r.enc then some r.sd else none) b.dest b.ringx data
    let ends := fun (i : Instr) (status : Nat) (P : State → Prop) => ∃ u, exec i s = .next u ∧ u.num (b.addr + 0xC) 4 = status ∧ plus u (r.desc + 0x20) 1 ∧
      (if status = 1 then plus u (block + 0x48) 1 ∧ plus u (block + 0x50) b.len ∧ outside u [(b.addr + 0xC, 4), (block + 0x48, 16), (r.desc + 0x20, 8)]
       else plus u (block + 0x58) 1 ∧ outside u [(b.addr + 0xC, 4), (block + 0x58, 8), (r.desc + 0x20, 8)]) ∧ u.txBusy = s.txBusy.erase ring ∧ P u
    let any := fun (_ : State) => True
    let outcome := Instr.txDeliveryOutcome ring entry delivered
    let told := s.down = false ∧ taken ∧ b.sent = true ∧ b.entry = entry ∧ b.outcome = none
    (served → ring < 1024 ∧ cfg.getLsbD 31 = true ∧ t.desc = desc ∧ t.enc = cfg.getLsbD 30 ∧ t.port = (cfg.extractLsb' 20 4).toNat ∧
      t.lnum = (cfg.extractLsb' 15 5).toNat ∧ t.lnum ≤ 16 ∧ t.mode = (cfg.extractLsb' 13 2).toNat ∧ t.mode ≠ 3 ∧ t.sd = (cfg.extractLsb' 0 13).toNat ∧
      s.portOn t.port = true ∧ t.asn = s.num (desc + 4) 2 ∧ t.base = s.num (desc + 8) 8) ∧
    (s.txRing ring = none ∨ (served ∧ head = tail) → s.txBusy.get? ring = none → fresh → exec (.txEntryServe ring) s = .next s) ∧
    (idle → s.num e 4 ≠ head % 2 ^ 32 → both fun i => ∃ u, exec i s = .next u ∧ u.txWait.get? ring = some (s.now + 10000) ∧
      u.txBusy = s.txBusy ∧ u.mem = s.mem ∧ u.sent = s.sent) ∧
    (idle → s.num e 4 = head % 2 ^ 32 → plain → both fun i => ∃ u, exec i s = .next u ∧ u.txBusy = s.txBusy.set ring next ∧
      u.txWait.get? ring = none ∧ u.num (desc + 0x18) 8 = (head + 1) % 2 ^ 64 ∧ outside u [(desc + 0x18, 8)]) ∧
    (waits → s.now < w → exec (.txEntryServe ring) s = .next s ∧ exec (.txRingRecheck ring) s = .next s) ∧
    (waits → ring < 1024 → bs.length = 8 → (s.storeAt who (desc + 0x10) bs none).txWait.get? ring = some 0) ∧
    (fresh → exec (.txRingRecheck ring) s = .next s) ∧
    (reads → plain → clear →
      b.buf.tag = false ∨ b.buf.kind ≠ 1 ∨ b.buf.has (permR ||| permE) = false ∨ b.buf.cursor < b.buf.base ∨ b.buf.limit < b.buf.cursor + b.len ∨
        65520 < b.len ∨ (b.buf.pkg = s.regs.pkg ∧ s.revBit r.asn b.buf.index = true) ∨
        (b.buf.pkg ≠ s.regs.pkg ∧ (b.buf.has permQ = false ∨ (b.buf.pkg, r.asn, b.buf.index) ∈ s.farRevoked)) → ends (.txEntryServe ring) 2 any) ∧
    (local_ → s.findObject r.asn b.buf.index b.buf.cursor b.len = (.error, s') → exec (.txEntryServe ring) s = .next (s'.txEnd ring b 2)) ∧
    (object → r.mode ≠ 2 → ∃ u, exec (.txEntryServe ring) s = .next u ∧ u.mem = s.mem ∧ u.tags = s.tags ∧
      u.sent = s.sent ++ [sends (ps.flatMap fun p => s.bytes p.1 p.2)] ∧ u.txBusy = s.txBusy.set ring { b with sent := true }) ∧
    (object → r.mode = 2 → plain → clear → ends (.txEntryServe ring) 1 fun u => sends (ps.flatMap fun p => s.bytes p.1 p.2) ∈ u.sent) ∧
    (far → req.answer = some (.data bs tag) → r.mode ≠ 2 → ∃ u, exec (.txEntryServe ring) s = .next u ∧ u.mem = s.mem ∧
      u.sent = s.sent ++ [sends bs] ∧ u.txBusy = s.txBusy.set ring { b with sent := true } ∧ u.reqs = s.reqs.erase n) ∧
    (told → may → plain → clear → ends outcome (if delivered then 1 else 3) any) ∧
    (told → ¬may → ∃ u, exec outcome s = .next u ∧ u.txBusy.get? ring = some { b with outcome := some delivered } ∧ u.mem = s.mem) ∧
    (may → b.sent = true → fresh → plain → clear → b.outcome = some delivered → ends (.txEntryServe ring) (if delivered then 1 else 3) any) ∧
    (taken → b.sent = true → fresh → b.outcome = none → exec (.txEntryServe ring) s = .next s) ∧
    (taken → b.sent = false ∨ b.entry ≠ entry ∨ b.outcome ≠ none → exec outcome s = .next s)

/-- R392-R394, R397, R398. -/
def Obligations.FabricRequestsAndReplies : Prop :=
  ∀ (s : State) (src obj off n size code v cmp core slot dst first cs : Nat) (num : Option Nat) (asn : BitVec 16) (op : FabricOp) (e : Extent)
    (bs : List Byte) (tag : Bool) (r : Req) (a : FabricAnswer) (wd : Word) (g : Group) (c : CopySlot) (link : Nat) (th : Who),
    let req : FabricReq := ⟨src, num, asn, obj, off, op, cs⟩
    let s1 := { s with cseq := s.cseq.set 16 (max cs (s.cseqOf 16) + 1) }
    let w := s.windows.getD src ⟨0, [], []⟩
    let alone := s.down = false ∧ ∀ q ∈ s.inbound, ¬(q.src = src ∧ q.asn = asn ∧ q.obj = obj ∧ q.off / 128 = off / 128)
    let key : PageKey := ⟨s.regs.pkg, asn.toNat, obj, off / 65536⟩
    let p := e.frame * 65536 + off % 65536
    let new := alone ∧ ∀ n, num = some n → w.high < n + 4096 ∧ n ∉ w.done
    let held := ∃ l ∈ blocks 128 p (fabricBytes op), s.mayTake l (fabricWrites op) none = false
    let open_ := new ∧ s.grantOf src key = some e ∧ ¬held
    let mine := fun (h : QueueHold) => h.line == p / 128 && h.who.isNone && h.pkg == src
    let ending := s.down = false ∧ (∀ n, num = some n → w.high < n + 4096 ∧ n ∉ w.done) ∧ s.grantOf src key = some e ∧
      ∀ l ∈ blocks 128 p (fabricBytes op), ({ s with qholds := s.qholds.filter fun h => !mine h } : State).mayTake l true none = true
    let plain := Memory.wf s.mem = true ∧ s.keyed = [] ∧ s.trust.memKeys = [] ∧ s.monitors = [] ∧ s.farWatches = [] ∧ ∀ j < 128, OffRings s (p + j)
    let arrives := fun (u : State) => exec (.remoteRequest req) s = .next u
    let answers := fun (a : FabricAnswer) => arrives { s1 with sent := s.sent ++ [Outbound.fabricReply src num a (s1.cseqOf 16)] }
    let answered := fun (a : FabricAnswer) (u : State) => u.sent = s.sent ++ [Outbound.fabricReply src num a (u.cseqOf 16)] ∧ u.inbound = s.inbound
    let gives := fun (a : FabricAnswer) (P : State → Prop) => ∃ u, arrives u ∧ answered a u ∧
      (∀ n, num = some n → ∃ w', u.windows.get? src = some w' ∧ w'.high = max w.high n ∧ n ∈ w'.done ∧ w'.replies.get? n = some a) ∧ P u
    let same := fun (u : State) => u.mem = s.mem ∧ u.tags = s.tags
    let stored := fun (bs : List Byte) (u : State) => ∀ y, u.byte y = if p ≤ y ∧ y < p + bs.length then bs.getD (y - p) 0 else s.byte y
    let old := s.num p size
    let here := s.down = false ∧ s.reqs.get? n = some r ∧ r.remote.isSome = true ∧ r.answer = none
    let s2 := { s with cseq := ((s.heard 18 16 cs).cross 16 (s.dieOf r.who)).cseq }
    let loads := (∃ a b, r.kind = .load a b) ∨ (∃ t, r.kind = .loadCap t) ∨ (∃ a b c d, r.kind = .atomic a b c d true) ∨
      (∃ a b c d, r.kind = .copyRead a b c d) ∨ (∃ a b, r.kind = .portRead a b) ∨ (∃ a, r.kind = .loadTags a) ∨ r.kind = .queueBegin ∨
      (∃ a, r.kind = .queueEnd a ∧ r.pc ≠ noPc) ∨ (∃ a, r.kind = .slot a) ∨ (∃ a, r.kind = .watch a) ∨ (∃ a, r.kind = .handler a) ∨
      ∃ a, r.kind = .give a
    let stores := (∃ b, r.kind = .store b) ∨ (∃ b t, r.kind = .storeCap b t) ∨ ∃ a b c d, r.kind = .atomic a b c d false
    let copies := here ∧ r.kind = .copyWrite core slot dst first bs tag ∧ (s.core core).copies.get? slot = some c ∧ c.state = .running ∧ c.stop = none
    let others := ({ s with reqs := s.reqs.erase n } : State).copyReqs core slot false
    let lost := fun (why : Nat) => (why = 1 ∧ a = .unreachable) ∨ (why = 2 ∧ a = .replayLost) ∨ (why = 3 ∧ a = .noAsn)
    let absent := a = .notResident ∨ a = .unmonitored
    let comes := fun (u : State) => exec (.remoteReply n ⟨a, cs⟩) s = .next u
    let takes := fun (P : State → Prop) => ∃ u, comes u ∧ u.mem = s.mem ∧ P u
    let took := { s2 with reqs := s.reqs.set n { r with answer := some a, done := true } }
    let later := { s2 with reqs := s.reqs.set n { r with sends := 0, sentAt := s.now } }
    let fails := fun (cause : Cause) (value : Dword) => takes fun u => u.reqs = s.reqs.erase n ∧
      u.group? r.who = some { g with failed := [⟨cause, r.pc, value, 1#32 <<< r.seat⟩] }
    let outstanding := s.reqs.get? n = some r ∧ r.remote.isSome = true ∧ r.answer = none
    let due := outstanding ∧ r.kind ≠ .parked ∧ (∀ m, r.kind ≠ .invalidate m) ∧ (∀ m o, r.kind ≠ .message m o) ∧ r.sentAt + 1000 * s.regs.rto ≤ s.now
    let nd : BitVec 16 := wd.setWidth 16
    let own := nd.getLsbD (s.regs.pkg % 16) = true ∧ ((List.range 16).filter fun i => nd.getLsbD i).length ≤ 8
    (alone → num = some n → n + 4096 ≤ w.high → answers .replayLost) ∧
    (alone → num = some n → w.high < n + 4096 → n ∈ w.done → w.replies.get? n = some a → answers a) ∧
    (s.down = false → ¬alone → fabricEnds op = false → arrives { s1 with inbound := s.inbound ++ [req] }) ∧
    (new → fabricEnds op = false → s.grantOf src key = some e → held → ∃ u, arrives u ∧ u.inbound = s.inbound ++ [req] ∧ u.sent = s.sent ∧
      u.windows = s.windows ∧ same u) ∧
    (new → op = .translate → s.hasSpace asn.toNat = false → s.lookupHeld key = false → answers .noAsn) ∧
    (new → op = .translate → s.hasSpace asn.toNat = true → s.lookupHeld key = false → s.cachedExtent key = some e → s.regs.thresh = 0 → ∃ u, arrives u ∧
      answered .done u ∧ (u.grantOf src key).map (·.frame) = some e.frame ∧ (asn.toNat, src) ∈ u.takers ∧ same u) ∧
    (∀ d k v vals sc name, new → op = .post d k v vals sc name → arrives { s1 with
      msgs := s.msgs.set s.msgs.fresh (.post (.far src (s1.cseqOf 16)) name ⟨d, k, v, vals, sc⟩) }) ∧
    (∀ hn ws bits name target, new → op = .amsg hn ws bits tag name target → arrives { s1 with
      msgs := s.msgs.set s.msgs.fresh (.amsg (.far src (s1.cseqOf 16)) target hn ws ⟨bits, tag⟩ name) }) ∧
    (∀ name, new → op = .resolve name → s.unrouted (.far src 0) name none = false →
      let alive := ∃ d q, s.lookupName name = some d ∧ s.groups.get? d.1 = some q ∧ q.ended = false
      (alive → answers (.status 3)) ∧ (¬alive → answers (.status 2))) ∧
    (open_ → op = .load size → s.poisoned p size = false → gives (.data (s.bytes p size) false) same) ∧
    (open_ → op = .load size → s.poisoned p size = true → gives .poisoned same) ∧
    (open_ → op = .loadCap → s.poisoned p 16 = false → gives (.data (s.bytes p 16) (s.tagAt p)) same) ∧
    (open_ → op = .loadTags size → s.poisoned p size = false → gives (.granules (s.bytes p size) (s.tagsAt p size)) same) ∧
    (open_ → op = .queueBegin → s.poisoned p 128 = false → gives (.granules (s.bytes p 128) (s.tagsAt p 128)) fun u => same u ∧
      ⟨p / 128, none, 0, src⟩ ∈ u.qholds) ∧
    (ending → plain → op = .queueEnd bs → bs.length ≤ 128 → gives .done fun u => stored bs u ∧ u.qholds = s.qholds.filter fun h => !mine h) ∧
    (open_ → op = .watch th → s.poisoned p 4 = false → gives (.data (s.bytes p 4) false) fun u => same u ∧ (src, th, p / 128) ∈ u.farWatches) ∧
    (∀ v, new → op = .fired th → s.group? th = some g → g.watch = some v → v.pkg = src → ∃ u g', arrives u ∧ u.mem = s.mem ∧ u.sent = s.sent ∧
      u.group? th = some g' ∧ g'.watch = some { v with fired := true }) ∧
    (open_ → plain → op = .store bs → bs.length ≤ 128 → gives .done (stored bs)) ∧
    (open_ → plain → op = .copyWrite bs tag → bs.length ≤ 128 → (tag = true → s.reading (blocks 32 p bs.length) = false) → gives .done fun u => stored bs u ∧
      (tag = true → ∀ l ∈ blocks 32 p bs.length, l ∈ u.poison)) ∧
    (open_ → plain → op = .storeCap bs tag → bs.length = 16 → p % 16 = 0 → gives .done fun u => stored bs u ∧
      ∀ q, u.tags.contains q = if q = p / 16 then tag else s.tags.contains q) ∧
    (open_ → plain → op = .atomic code size v cmp → size = 4 ∨ size = 8 → code ≤ 10 → v < 2 ^ (8 * size) → cmp < 2 ^ (8 * size) →
      s.poisoned p size = false → gives (.data (leBytes size old) false) fun u =>
        match atomicValue code (8 * size) (BitVec.ofNat (8 * size) old) (BitVec.ofNat (8 * size) v) (BitVec.ofNat (8 * size) cmp) with
        | some x => stored (leBytes size x.toNat) u
        | none => u.mem = s.mem) ∧
    (here → loads → comes took) ∧
    (here → stores → r.trail = none → a = .done ∨ a = .data bs tag →
      comes (r.fence.elim { s2 with reqs := s.reqs.erase n } fun k => { s2 with reqs := s.reqs.erase n }.acquire r.who k)) ∧
    (here → stores → absent → comes later) ∧
    (here → stores → a = .extentError → comes s2) ∧
    (∀ why, here → stores → r.trail = none → r.fence = none → lost why → s.group? r.who = some g → g.failed = [] →
      fails .fabric (BitVec.ofNat 64 (why * 2 ^ 56 + r.key.pkg % 256 * 2 ^ 48 + r.num.getD 0 % 2 ^ 48))) ∧
    (here → (∃ i k v c, r.kind = .atomic i k v c false) → r.trail = none → r.fence = none → a = .poisoned → s.group? r.who = some g → g.failed = [] →
      fails .poison (BitVec.ofNat 64 (r.addr / 32 * 32))) ∧
    (here → r.kind = .translate → a = .done → takes fun u => u.reqs = s.reqs.erase n ∧
      (∃ e ∈ u.remotes, e.key = r.key) ∧ (∀ e ∈ u.remotes, e ∈ s.remotes ∨ e.key = r.key) ∧
      (s.remotes.length ≤ 32768 → u.remotes.length ≤ 32768)) ∧
    (here → r.kind = .translate → a ≠ .done → comes took) ∧
    (here → r.kind = .parked → s.group? r.who = some g → (∀ i < g.lanes.length, (g.lane i).tx = none) →
      takes fun u => u.reqs = s.reqs.erase n ∧ ∃ g', u.group? r.who = some g' ∧
      ∀ i < g.lanes.length, (g.lane i).mode = .parked r.key none → (g'.lane i).mode = .running ∧ (g'.lane i).pc = (g.lane i).pc) ∧
    (copies → a = .done → takes fun u => u.reqs = s.reqs.erase n ∧ ∃ c', (u.core core).copies.get? slot = some c' ∧ c'.state = .running ∧
      c'.done = c.done.modify dst fun l => addRange l first (first + bs.length)) ∧
    (copies → a ≠ .done → ¬absent → others = false → takes fun u => u.reqs.get? n = none ∧
      ∃ c', (u.core core).copies.get? slot = some c' ∧ c'.state = .failed ∧ c'.left = c.unwritten) ∧
    (copies → a ≠ .done → ¬absent → others = true → takes fun u => u.reqs.get? n = none ∧
      ∃ c', (u.core core).copies.get? slot = some c' ∧ c'.state = .running ∧ c'.stop = some .failed) ∧
    (copies → absent → comes later) ∧
    (here → r.kind = .invalidate 2 → a = .done → takes fun u => ∀ q, q ∈ u.granted ↔ q ∈ s.granted ∧ ¬(q.1 = r.key.pkg ∧ q.2.key.asn = r.key.asn)) ∧
    (s.down = true → arrives s) ∧
    ((s.down = true ∨ s.reqs.get? n = none ∨ (s.reqs.get? n = some r ∧ (r.remote = none ∨ r.answer ≠ none))) → comes s) ∧
    (here → comes (s2.answer n r a)) ∧
    (due → r.sends < max 1 s.regs.retry → ∃ u, exec (.fabricResend n) s = .next u ∧ u.reqs = s.reqs.set n { r with sends := r.sends + 1, sentAt := s.now } ∧
      u.sent = s.sent ++ [Outbound.fabricRequest r.key.pkg r.num r.key.asn r.key.obj r.addr r.kind.op (s.cseqOf 16)] ∧ u.mem = s.mem ∧ u.groups = s.groups) ∧
    (due → max 1 s.regs.retry ≤ r.sends → ∃ u, exec (.fabricResend n) s = .next u ∧ 0x081 ∈ u.vectors ∧
      { u with vectors := [] } = { s.answer n r .unreachable with vectors := [] }) ∧
    (outstanding → s.now < r.sentAt + 1000 * s.regs.rto → exec (.fabricResend n) s = .next s) ∧
    (own → exec (.nodecfgWrite wd) s = .next { s with regs := { s.regs with node := nd } }) ∧
    (¬own → exec (.nodecfgWrite wd) s = .next s) ∧
    exec (.linkFlitResend link) s = .next s

/-- R400-R403: PCIe and interrupt vectors. -/
def Obligations.PcieAndInterruptVectors : Prop :=
  ∀ (s s' : State) (q : PcieReq) (asn a n port op0 : Nat) (h : HeldPcie) (data wd : Word) (res : BitVec 3) (addr : Dword) (bs : List Byte)
    (ps : List (Nat × Nat)),
    let obj := (q.addr.extractLsb' 42 20).toNat
    let off := (q.addr.extractLsb' 0 42).toNat
    let len := (q.data.map (·.length)).getD q.size
    let sends := fun (status : Nat) (bs : List Byte) => Outbound.pcieCompletion q.port q.rid status bs
    let entry := s.rtable.get? (65536 * q.port + q.rid.toNat)
    let known := s.down = false ∧ entry = some (BitVec.ofNat 16 asn) ∧ asn < 2 ^ 16
    let before := ∃ e ∈ s.held, e.2.req.port = q.port ∧ e.2.req.rid = q.rid
    let key : PageKey := ⟨s.regs.pkg, asn, obj, off / 65536⟩
    let first := known ∧ ¬before
    let okay := first ∧ (q.addr.extractLsb' 62 2) = 0#2 ∧ s.revBit asn obj = false
    let t := { s with held := s.held.set s.held.fresh ⟨q, asn, none⟩ }
    let walks := okay ∧ 0 < len ∧ off % 65536 + len ≤ 65536 ∧ s.lookupHeld key = false ∧ s.cachedExtent key = none ∧
      (∀ r ∈ s.retries, r.1 = key → r.2 ≤ s.now) ∧ ∀ m ∈ s.monitors, (.ctl 0, key) ∉ m.who
    let plain := Memory.wf s.mem = true ∧ s.keyed = [] ∧ s.trust.memKeys = [] ∧ s.monitors = [] ∧ s.farWatches = [] ∧ s.regs.thresh = 0
    let mapped := okay ∧ plain ∧ t.findObject asn obj off len = (.places ps, s') ∧ (s'.allReady (ps.map fun p => (p.1, p.2, q.data.isSome))).1 = true
    let does := fun (P : State → Prop) => ∃ u, exec (.pcieInbound q) s = .next u ∧ P u
    let ended := fun (u : State) => u.held.get? s.held.fresh = none
    let k := 65536 * s.regs.rqPort + s.regs.rqRid.toNat
    let full := (s.rtable.get? k = none) ∧ 256 ≤ (s.rtable.filter fun e => e.1 / 65536 == s.regs.rqPort).length
    let each := fun (P : Instr → Nat → Prop) => P (.pcieMemRead port) 1 ∧ P (.pcieMemWrite port) 2 ∧ P (.pcieCfgRead port) 3
    (s.down = false → entry = none → exec (.pcieInbound q) s = .next { s with sent := s.sent ++ [sends 1 []] }) ∧
    (known → before → exec (.pcieInbound q) s = .next t) ∧
    (first → s.revBit asn obj = true ∨ (q.addr.extractLsb' 62 2) ≠ 0#2 → does fun u => u.sent = s.sent ++ [sends 2 []] ∧ u.mem = s.mem ∧ ended u) ∧
    (walks → (s.walk asn obj (off / 65536)).1 = .error → does fun u => u.sent = s.sent ++ [sends 2 []] ∧ u.mem = s.mem ∧ ended u) ∧
    (∀ at_ e, walks → (s.walk asn obj (off / 65536)).1 = .absent at_ e →
      (∀ l ∈ blocks 128 (s.regs.nqBase + 32 * (s.regs.nqTail.toNat % 2 ^ s.regs.nqLog2)) 32, Unwatched s l) → does fun u =>
      u.held.get? s.held.fresh = some ⟨q, asn, some s.now⟩ ∧ u.sent = s.sent ∧ u.groups = s.groups) ∧
    (mapped → q.data = none → does fun u => u.sent = s.sent ++ [sends 0 (ps.flatMap fun p => s.bytes p.1 p.2)] ∧ u.mem = s.mem ∧ u.tags = s.tags ∧ ended u) ∧
    (mapped → ps = [(a, len)] → (∀ j < len, OffRings s (a + j)) → q.data = some bs → does fun u => u.sent = s.sent ∧ ended u ∧
      ∀ y, u.byte y = if a ≤ y ∧ y < a + len then bs.getD (y - a) 0 else s.byte y) ∧
    (s.down = true → exec (.pcieInbound q) s = .next s ∧ exec (.msixMessage data) s = .next s ∧ exec (.pcieOutboundComplete res data) s = .next s) ∧
    KeepsCsrs [(0xC80, 0xFFFFFFFC#32), (0xC81, 0xFFFFFFFF#32), (0xC82, 0xFFFFFFFF#32), (0xC87, 0x3FFFF#32)] ∧
    (s.held.get? n = some h → (∃ t, h.since = some t ∧ t + 500000 ≤ s.now) → exec (.pcieHoldTimeout n) s =
      .next { s with held := s.held.erase n, sent := s.sent ++ [Outbound.pcieCompletion h.req.port h.req.rid 2 []] }) ∧
    (s.held.get? n = some h → (∀ t, h.since = some t → s.now < t + 500000) → exec (.pcieHoldTimeout n) s = .next s) ∧
    (s.down = false → ∃ l, exec (.msixMessage data) s = .next { s with vectors := l } ∧
      ∀ x, x ∈ l ↔ x = min (0x100 + (data.extractLsb' 0 11).toNat) 0x7FF ∨ x ∈ s.vectors) ∧
    (wd.getLsbD 31 = false → ∃ r, exec (.requesterEntryWrite wd) s = .next { s with rtable := r } ∧ r.get? k = none ∧ ∀ j, j ≠ k → r.get? j = s.rtable.get? j) ∧
    (wd.getLsbD 31 = true → full → exec (.requesterEntryWrite wd) s = .next s) ∧
    (wd.getLsbD 31 = true → ¬full → exec (.requesterEntryWrite wd) s = .next { s with rtable := s.rtable.set k (wd.setWidth 16) }) ∧
    (s.regs.pxBusy = none → each fun i op => exec i s = .next { s with
      regs := { s.regs with pxBusy := some (port, op) }
      sent := s.sent ++ [Outbound.pcieOutbound port op s.regs.pxAddr (if op = 2 then s.regs.pxData else 0)] }) ∧
    (s.regs.pxBusy ≠ none → each fun i _ => exec i s = .next s) ∧
    (s.down = false → s.regs.pxBusy = some (port, op0) → exec (.pcieOutboundComplete res data) s = .next { s with
      regs := { s.regs with pxBusy := none, pxRes := res.toNat, pxData := if op0 ≠ 2 ∧ res = 0 then data else s.regs.pxData } }) ∧
    (s.regs.pxBusy = none → exec (.pcieOutboundComplete res data) s = .next s) ∧
    exec (.pcieCfgWrite port addr data) s = .next { s with sent := s.sent ++ [Outbound.pcieOutbound port 4 addr data] }

/-- R371-R377, R417, R419, R420. -/
def Obligations.TrustMailbox : Prop :=
  ∀ (s : State) (n : Nat) (target : BitVec 2) (token : List Byte) (key : BitVec 256),
    let t := s.trust
    let plain := Memory.wf s.mem = true ∧ s.keyed = [] ∧ t.memKeys = []
    let outside := fun (u : State) (l : List (Nat × Nat)) => ∀ y, (∀ e ∈ l, y < e.1 ∨ e.1 + e.2 ≤ y) → u.byte y = s.byte y
    let there := fun (op len : Nat) => t.busy = some op ∧ (∀ l, t.block / 128 ≤ l → l ≤ (t.block + len - 1) / 128 → s.hasMem (128 * l) = true) ∧
      s.poisoned t.block len = false
    let had := fun (len : Nat) => ∀ l, t.block / 128 ≤ l → l ≤ (t.block + len - 1) / 128 → s.mayTake l true none = true
    let runs := fun (op len : Nat) => there op len ∧ had len
    let fails := fun (op len : Nat) => t.busy = some op ∧
      ((∃ l, t.block / 128 ≤ l ∧ l ≤ (t.block + len - 1) / 128 ∧ s.hasMem (128 * l) = false) ∨ s.poisoned t.block len = true)
    let raised := fun (l : List Nat) => ∀ x, x ∈ l ↔ x = 0x083 ∨ x ∈ s.vectors
    let does := fun (i : Instr) (tr : Trust) (P : State → Prop) => ∃ u, exec i s = .next u ∧ raised u.vectors ∧ u.trust = tr ∧ P u
    let ends := fun (i : Instr) (tr : Trust) => does i tr fun u => u.mem = s.mem ∧ u.tags = s.tags ∧ u.groups = s.groups ∧ u.teams = s.teams ∧
      u.cores = s.cores ∧ ((∀ e ∈ s.ctls, (e.2.thread.lane 0).tx = none) → bare u = bare { s with trust := tr, vectors := u.vectors })
    let res := fun (i : Instr) (r : Nat) => ends i { t with busy := none, res := r }
    let commands := fun (P : Instr → Nat → Nat → Prop) => P .challenge 1 0x28 ∧ P .unlock 2 0x1308 ∧ P .attest 3 0x190 ∧ P .keymem 4 0x4C ∧
      P .keyport 5 0x4C ∧ P .keyzero 6 8 ∧ P .measure 7 0x44
    let mr := fun (k : Nat) (e : List Byte) => t.mrs.modify k fun m => sha384 (m ++ e)
    let word := fun (off : Nat) => s.num (t.block + off) 4
    let head := s.bytes t.block 4851
    let fits := s.tokenOk head t.lifecycle
    let wiped := t.memKeys.length + t.portKeys.length
    let past4 := runs 2 0x1308 ∧ (t.lifecycle = 1 ∨ t.lifecycle = 2) ∧ (t.memKeys = [] ∨ s.tenants = false)
    let open_ := t.dbg = false ∧ t.lifecycle = 1
    let id := word 0
    let base := word 8
    let limit := word 0xC
    let installed := limit ≤ 1536 ∨ (2048 ≤ base ∧ limit ≤ 2048 + s.lpddr)
    let badRange := id = 0 ∨ 63 < id ∨ (t.memKeys.get? id).isSome ∨ limit ≤ base ∨ ¬installed ∨
      ∃ r ∈ t.memKeys, base < r.2.limit ∧ r.2.base < limit
    let badPort := 8191 < id ∨ (t.portKeys.get? id).isSome
    let opens := fun (key : BitVec 256) => ∃ k, t.sessions.get? (word 4) = some (k, true) ∧
      Config.unwrapKey k (s.bytes (t.block + 0x10) 12) (s.bytes (t.block + 0x2C) 32) (s.bytes (t.block + 0x1C) 16) = some key
    let event := fun (op id base limit : Nat) => leBytes 48 0 ++ leBytes 4 op ++ leBytes 4 id ++ leBytes 4 base ++ leBytes 4 limit
    let range := (t.memKeys.get? (word 4)).getD ⟨0, 0, 0⟩
    let moves := (t.lifecycle = 0 ∧ target = 1) ∨ (t.lifecycle = 1 ∧ target = 2) ∨ (t.lifecycle ≠ 3 ∧ target = 3)
    (commands fun i op len => (t.busy ≠ some op → exec i s = .next s) ∧ (fails op len → res i 2) ∧
      (there op len → ¬had len → ∃ u, exec i s = .next u ∧ u.trust = t ∧ u.vectors = s.vectors ∧ u.mem = s.mem ∧ u.groups = s.groups)) ∧
    (∀ k e, ∀ m ∈ mr k e, m ∈ t.mrs ∨ m.length = 48) ∧
    KeepsCsrs [(0xC60, 0xFFFFFFC0#32), (0xC61, 0x3FF#32)] ∧
    (s.tokenOk head t.lifecycle n = true ↔ word 0 = 0x7D910001 ∧ s.num (t.block + 4) 1 = t.lifecycle ∧ s.num (t.block + 5) 1 = 1 ∧
      s.num (t.block + 6) 10 = 0 ∧ s.num (t.block + 0x10) 16 = t.devid.toNat ∧ s.bytes (t.block + 0x20) 32 = leBytes 32 (Config.nonce n).toNat ∧
      s.num (t.block + 0x40) 64 = 0 ∧ sha384 t.authEC = t.authHashEC ∧ sha384 t.authPQ = t.authHashPQ ∧
      Config.ecdsaVerifies t.authEC (s.bytes t.block 128) (s.bytes (t.block + 0x80) 96) = true ∧
      Config.mldsaVerifies t.authPQ (s.bytes t.block 128) (s.bytes (t.block + 0xE0) 4627) = true) ∧
    (runs 1 0x28 → plain → does .challenge { t with busy := none, res := 0, nonce := some t.draws, draws := t.draws + 1, chseq := t.chseq + 1 } fun u =>
      u.bytes t.block 32 = leBytes 32 (Config.nonce t.draws).toNat ∧ u.num (t.block + 0x20) 8 = (t.chseq + 1) % 2 ^ 64 ∧ outside u [(t.block, 40)]) ∧
    (runs 2 0x1308 → t.lifecycle ≠ 1 → t.lifecycle ≠ 2 → res .unlock 3) ∧
    (runs 2 0x1308 → t.lifecycle = 1 ∨ t.lifecycle = 2 → t.memKeys ≠ [] → s.tenants = true → res .unlock 4) ∧
    (past4 → t.nonce = none → res .unlock 5) ∧
    (past4 → t.nonce = some n → fits n = false → ends .unlock { t with busy := none, res := 6, nonce := none }) ∧
    (past4 → t.nonce = some n → fits n = true → Memory.wf s.mem = true → s.keyed = [] → does .unlock
      { t with busy := none, res := 0, nonce := none, memKeys := [], portKeys := [], kw := true, dbg := true,
               mrs := mr 7 (sha384 (head.take 128) ++ leBytes 4 1 ++ leBytes 4 wiped ++ leBytes 8 t.chseq) }
      fun u => u.num (t.block + 0x1300) 4 = wiped % 2 ^ 32 ∧ u.teams = s.teams ∧ u.cores = s.cores) ∧
    (runs 3 0x190 → plain → (∀ m ∈ t.mrs, m.length = 48) → t.mrs.length = 8 → does .attest { t with busy := none, res := 0 } fun u =>
      u.num t.block 1 = t.lifecycle % 256 ∧ u.num (t.block + 1) 1 = t.dbg.toNat ∧ u.num (t.block + 2) 1 = t.kw.toNat ∧ u.num (t.block + 3) 13 = 0 ∧
      (∀ k < 8, u.bytes (t.block + 0x10 + 48 * k) 48 = t.mrs.getD k []) ∧ outside u [(t.block, 0x190)]) ∧
    (runs 4 0x4C → ¬open_ → res .keymem 3) ∧
    (runs 4 0x4C → open_ → badRange → res .keymem 7) ∧
    (runs 4 0x4C → open_ → ¬badRange → (∀ key, ¬opens key) → res .keymem 8) ∧
    (runs 4 0x4C → open_ → ¬badRange → opens key → ends .keymem { t with
      busy := none
      res := 0
      memKeys := t.memKeys.set id ⟨base, limit, key⟩
      mrs := mr 3 (event 4 id base limit) }) ∧
    (runs 5 0x4C → ¬open_ → res .keyport 3) ∧
    (runs 5 0x4C → open_ → badPort → res .keyport 7) ∧
    (runs 5 0x4C → open_ → ¬badPort → (∀ key, ¬opens key) → res .keyport 8) ∧
    (runs 5 0x4C → open_ → ¬badPort → opens key → ends .keyport { t with
      busy := none
      res := 0
      portKeys := t.portKeys.set id key
      mrs := mr 3 (event 5 id 0 0) }) ∧
    (runs 6 8 → word 0 = 0 → 1 ≤ word 4 → word 4 ≤ 63 → ends .keyzero { t with
      busy := none, res := 0, memKeys := t.memKeys.erase (word 4), mrs := mr 3 (event 6 (word 4) range.base range.limit) }) ∧
    (runs 6 8 → word 0 = 1 → word 4 ≤ 8191 → ends .keyzero { t with
      busy := none, res := 0, portKeys := t.portKeys.erase (word 4), mrs := mr 3 (event 6 (word 4) 0 0) }) ∧
    (runs 6 8 → (1 < word 0 ∨ (word 0 = 0 ∧ (word 4 = 0 ∨ 63 < word 4)) ∨ (word 0 = 1 ∧ 8191 < word 4)) → res .keyzero 7) ∧
    (runs 7 0x44 → word 0 = 5 ∨ word 0 = 6 → ends .measure { t with busy := none, res := 0, mrs := mr (word 0) (s.bytes (t.block + 4) 64) }) ∧
    (runs 7 0x44 → word 0 ≠ 5 → word 0 ≠ 6 → res .measure 7) ∧
    (s.down = true ∨ t.nonce = none ∨ ¬moves → exec (.lifecycleMove target token) s = .next s) ∧
    (t.nonce = some n → s.tokenOk token target.toNat n = false → exec (.lifecycleMove target token) s = .next s) ∧
    (s.down = false → t.nonce = some n → moves → target ≠ 3 → s.tokenOk token target.toNat n = true →
      exec (.lifecycleMove target token) s = .next { s with trust := { t with lifecycle := target.toNat } }) ∧
    (s.down = false → t.nonce = some n → moves → target = 3 → s.tokenOk token 3 n = true → exec (.lifecycleMove target token) s = .next { s with
      trust := { t with lifecycle := 3 }
      boot := .scrapped
      agenda := []
      health := { s.health with halted := true } })

/-- R421, with R417 and R422. -/
def Obligations.SpdmResponder : Prop :=
  ∀ (s : State) (k block x : Nat) (done : Bool),
    let t := s.trust
    let h := s.health
    let live := t.lifecycle ≠ 3 ∧ s.down = false
    let answers := fun (i : Instr) (tr : Trust) (code : Nat) (body : List Byte) => exec i s = .next { s with
      trust := { tr with spdmSeq := t.spdmSeq + 1 }
      sent := s.sent ++ [Outbound.spdm code body] }
    let body := fun (code : Nat) => Config.spdmBody code t.spdmSeq
    let plain := fun (P : Instr → Nat → Prop) => P .getCapabilities 2 ∧ P .negotiateAlgorithms 3 ∧ P .getDigests 4 ∧ P .getCertificate 5 ∧ P .spdmChallenge 6
    let taken := fun (j : Nat) => (t.sessions.get? j).isSome = true
    let word := h.replace.toNat * 2 ^ 31 + h.therm.toNat * 2 ^ 30 + h.cores % 256 * 2 ^ 20 + h.slices % 256 * 2 ^ 12 + h.channels % 64 * 2 ^ 6 + h.links % 64
    (t.lifecycle = 3 ∨ s.down = false → answers .getVersion t 1 (body 1)) ∧
    (live → plain fun i code => answers i t code (body code)) ∧
    (live → 1 ≤ block → block ≤ 8 → answers (.getMeasurements block) t 7 (t.mrs.getD (block - 1) [])) ∧
    (live → block = 9 → answers (.getMeasurements block) t 7 (leBytes 4 word ++ leBytes 4 h.ce ++ leBytes 4 h.ue)) ∧
    (live → k < 16 → ¬taken k → (∀ j < k, taken j) →
      answers .keyExchange { t with sessions := t.sessions.set k (t.exchanges, false), exchanges := t.exchanges + 1 } 8 (body 8)) ∧
    (live → (∀ j < 16, taken j) → answers .keyExchange t 8 (body 8)) ∧
    (live → t.sessions.get? k = some (x, done) → answers (.finish k) { t with sessions := t.sessions.set k (x, true) } 9 (body 9)) ∧
    (live → ¬taken k → answers (.finish k) t 9 (body 9)) ∧
    (live → answers (.endSession k) { t with sessions := t.sessions.erase k } 10 (body 10)) ∧
    (t.lifecycle ≠ 3 → s.down = true → exec .getVersion s = .next s) ∧
    (¬live → (plain fun i _ => exec i s = .next s) ∧ exec (.getMeasurements block) s = .next s ∧ exec .keyExchange s = .next s ∧
      exec (.finish k) s = .next s ∧ exec (.endSession k) s = .next s)

/-- R416: the debug port. -/
def Obligations.DebugPort : Prop :=
  ∀ (s : State) (part launch i addr : Nat) (team thread : Option Nat) (a : Dword) (t : ThreadName) (r : DebugReg) (v : Quad) (w : Who) (g : Group)
    (c : Code) (p : BitVec 3) (x : BitVec 2) (n : BitVec 4) (csr : BitVec 12) (y : Word),
    let on := s.trust.dbg = true ∧ s.down = false
    let off := ¬on
    let q := s.part part
    let b : Break := ⟨a, launch, team, thread⟩
    let answers := fun (ok : Bool) (data : List Byte) => s.sent ++ [Outbound.debugReply ok data]
    let refused := fun (e : Instr) => exec e s = .next { s with sent := answers false [] }
    let found := s.threadOf t = some (w, g, i)
    let stopped := found ∧ g.dbgStop = true
    let unstopped := s.threadOf t = none ∨ (found ∧ g.dbgStop = false)
    let due := { g with haltDue := sInsert g.haltDue t.thread }
    let ready := g.dbgStop = false ∧ g.runOpen = false ∧ (isSolo w = true ∨ g.place.isSome = true) ∧ g.away = false ∧ g.ended = false
    let reads := fun (r : DebugReg) (bs : List Byte) => exec (.rdreg t r) s = .next { s with sent := answers true bs }
    let low : Word := v.setWidth 32
    let lane := g.lane i
    let special : Nat → Word := fun k => if k = 112 then 0 else if k = 113 then BitVec.ofNat 32 lane.logical
      else if k = 114 then BitVec.ofNat 32 (lane.thread.getD 0) else if k = 115 then BitVec.ofNat 32 ((s.teamOf g).elim 0 (·.index))
      else if k = 116 then BitVec.ofNat 32 g.gix else if k = 117 then lane.fl.setWidth 32
      else if k = 118 then g.activeMask (g.pathSeats lane.pc.toNat) else 0xFFFFFFFF#32
    let writes := fun (r : DebugReg) (g' : Group) => exec (.wrreg t r v) s = .next { s.setGroup w g' with sent := answers true [] }
    let cap := g.acaps.getD n.toNat Cap.null
    let ix := (g.lane i).idx.getD x.toNat ⟨0, 0, 0⟩
    let windowed := c.toNat < 96 ∧ g.wb + c.toNat < g.alloc
    (off → refused (.arm part a launch team thread) ∧ refused (.disarm part a launch team thread) ∧ refused (.halt t) ∧ refused (.rdreg t r) ∧
      refused (.wrreg t r v) ∧ refused (.rdmem addr) ∧ refused (.resume t)) ∧
    KeepsCsrs [(0x840, 0xFFFFFF80#32), (0x841, 0x3FF#32), (0x842, 0x1F#32), (0x843, 0xFFFFFFFF#32), (0x850, 0xF00FFFFF#32), (0x851, 0xFFFFFFFF#32),
      (0x852, 0x3FF#32), (0x853, 0xFFFFFFFF#32)] ∧
    (on → q.breaks.length < 16 → exec (.arm part a launch team thread) s = .next { s with
      parts := s.parts.set part { q with breaks := q.breaks ++ [b] }
      sent := answers true [] }) ∧
    (on → 16 ≤ q.breaks.length → refused (.arm part a launch team thread)) ∧
    (on → b ∈ q.breaks → exec (.disarm part a launch team thread) s = .next { s with
      parts := s.parts.set part { q with breaks := q.breaks.erase b }
      sent := answers true [] }) ∧
    (on → b ∉ q.breaks → refused (.disarm part a launch team thread)) ∧
    (on → s.threadOf t = none → refused (.halt t)) ∧
    (on → found → ¬ready → exec (.halt t) s = .next { s.setGroup w due with sent := answers true [] }) ∧
    (on → found → ready → ∃ u, exec (.halt t) s = .next u ∧
      (s.monitors = [] → s.farWatches = [] → u.sent = answers true []) ∧ ∃ g', u.group? w = some g' ∧ g'.dbgStop = true ∧ g'.stopCause = 4 ∧
      t.thread ∈ g'.stopFor ∧ (∀ k ∈ g.haltDue, k ∈ g'.stopFor) ∧ g'.stopSeats = [] ∧
      g'.haltDue = [] ∧ g'.issueQ = [] ∧ g'.wb = g.wb ∧ g'.sregs = g.sregs ∧ g'.acaps = g.acaps) ∧
    (on → unstopped → refused (.rdreg t r) ∧ refused (.wrreg t r v) ∧ refused (.resume t)) ∧
    (on → stopped → windowed → reads (.code c) (leBytes 4 (lane.regs.getD (g.wb + c.toNat) Reg.zero).val.toNat)) ∧
    (on → stopped → c.toNat < 96 → g.alloc ≤ g.wb + c.toNat → refused (.rdreg t (.code c)) ∧ refused (.wrreg t (.code c) v)) ∧
    (on → stopped → 96 ≤ c.toNat → reads (.code c) (if c.toNat < 112 then leBytes 4 (g.sregs.getD (c.toNat - 96) 0).toNat
      else if c.toNat < 120 then leBytes 4 (special c.toNat).toNat else leBytes 8 (lane.latches.getD (c.toNat - 120) 0).toNat)) ∧
    (on → stopped → reads (.pred p) (leBytes 1 (lane.pred p.toNat).toNat) ∧
      reads (.index x) (leBytes 4 ix.value.toNat ++ leBytes 4 ix.base ++ leBytes 4 ix.limit) ∧
      reads (.cap n) (leBytes 16 cap.bits.toNat ++ leBytes 1 cap.tag.toNat)) ∧
    (on → stopped → csr.toNat < 0x400 → csrRead s w g csr.toNat = some (y, s) → reads (.csr csr) (leBytes 4 y.toNat)) ∧
    (on → stopped → 0x400 ≤ csr.toNat ∨ csrRead s w g csr.toNat = none → refused (.rdreg t (.csr csr))) ∧
    (on → stopped → windowed → writes (.code c) (g.modLane i fun l => l.setReg (g.wb + c.toNat) low false)) ∧
    (on → stopped → 96 ≤ c.toNat → c.toNat < 112 → ∃ g', writes (.code c) g' ∧ g'.sregs = g.sregs.set (c.toNat - 96) low ∧
      { g' with sregs := [], snap := none, badSregs := [] } = { g with sregs := [], snap := none, badSregs := [] }) ∧
    -- codes 112 to 119 hold nothing that the command can change: DEDUCED, log 91
    (on → stopped → 112 ≤ c.toNat → c.toNat < 120 → writes (.code c) g) ∧
    (on → stopped → 120 ≤ c.toNat → ∃ bad, writes (.code c) (g.modLane i fun l => { l with
      latches := l.latches.set (c.toNat - 120) (v.setWidth 64)
      badLatch := bad })) ∧
    (on → stopped → writes (.pred p) (g.modLane i fun l => l.setPred p.toNat (v.getLsbD 0)) ∧
      writes (.index x) (g.modLane i fun l => { l with
        idx := l.idx.set x.toNat ⟨v.extractLsb' 0 32, (v.extractLsb' 32 32).toNat, (v.extractLsb' 64 32).toNat⟩ }) ∧
      writes (.cap n) { g with acaps := g.acaps.set n.toNat ⟨v, false⟩ }) ∧
    (∀ u, on → stopped → csr.toNat < 0x400 → csrWrite s w g csr.toNat low = some u →
      exec (.wrreg t (.csr csr) v) s = .next { u with sent := answers true [] }) ∧
    (on → stopped → 0x400 ≤ csr.toNat ∨ csrWrite s w g csr.toNat low = none → refused (.wrreg t (.csr csr) v)) ∧
    (on → s.hasMem addr = false ∨ s.hasMem (addr + 63) = false → refused (.rdmem addr)) ∧
    (on → s.hasMem addr = true → s.hasMem (addr + 63) = true → (∃ l ∈ blocks 128 addr 64, s.mayTake l false none = false) → ∃ u, exec (.rdmem addr) s = .next u ∧
      addr ∈ u.rdmems ∧ u.sent = s.sent ∧ u.mem = s.mem ∧ u.tags = s.tags ∧ u.groups = s.groups) ∧
    (on → s.hasMem addr = true → s.hasMem (addr + 63) = true → (∀ l ∈ blocks 128 addr 64, s.mayTake l false none = true) →
      ∃ u, exec (.rdmem addr) s = .next u ∧ u.sent = answers true (s.bytes addr 64) ∧
      u.mem = s.mem ∧ u.tags = s.tags ∧ u.groups = s.groups) ∧
    (on → stopped → exec (.resume t) s = .next { s.setGroup w
      { g.phase 6 s.now with dbgStop := false, stopFor := [], skipStop := g.skipStop ++ g.stopSeats.map (fun i => (g.stopCause, i)), readySince := s.now } with sent := answers true [] })

/-- R417, R420, R422-R425: health, package reset and bring-up. -/
def Obligations.HealthAndBringUp : Prop :=
  ∀ (s : State) (n k cap limit since : Nat) (v : Group) (t : Team) (gr : Grid) (im : FirmwareImage),
    let h := s.health
    let mr := fun (k : Nat) (e : List Byte) (l : List (List Byte)) => l.modify k fun m => sha384 (m ++ e)
    let reported := fun (kind : Nat) (u : State) => u.trust = { s.trust with mrs := mr 4 (leBytes 48 0 ++ leBytes 4 kind ++ leBytes 4 n ++ leBytes 8 0) s.trust.mrs } ∧
      u.health.replace = true ∧ 0x082 ∈ u.vectors ∧ u.sent = s.sent ++ [Outbound.report kind n] ∧ u.health.degrading = s.health.degrading.filter (fun e => kind ≠ 4 || e.1 != n)
    let out := fun (u : Unit_) (P : State → Prop) => s.down = false → ∃ t, exec (.mapOut u) s = .next t ∧ P t
    let sits := fun (v : Group) => v.place.any (fun p => p.core == n) = true ∧ v.ended = false
    let beside := fun (v : Group) => ∃ e ∈ s.groups, sits e.2 ∧ e.2.team = v.team
    let good := s.down = false ∧ h.badChans.contains n = false
    let okay := sha384 im.keyEC = s.trust.imageHashEC ∧ sha384 im.keyPQ = s.trust.imageHashPQ ∧ Config.ecdsaVerifies im.keyEC im.digest im.sigEC = true ∧
      Config.mldsaVerifies im.keyPQ im.digest im.sigPQ = true ∧ s.trust.minVersion ≤ im.version
    let scrapped := s.trust.lifecycle = 3
    let r := s.afterReset
    let pad := fun (bs : List Byte) => (bs ++ leBytes 64 0).take 64
    let booted := fun (f : State) => mr 2 (pad (leBytes 1 f.trust.lifecycle ++ leBytes 15 0 ++ leBytes 16 f.trust.devid.toNat))
      (mr 1 (pad (leBytes 8 im.version ++ sha384 im.config)) (mr 0 (pad im.digest) f.trust.mrs))
    let boots := fun (i : Instr) (f : State) =>
      (scrapped → exec i s = .next { f with
        boot := .scrapped
        health := { f.health with halted := true } }) ∧
      (¬scrapped → ¬okay → exec i s = .next { f with boot := .waiting }) ∧
      (¬scrapped → okay → ∃ u, exec i s = .next u ∧ u.boot = .running ∧ u.regs.psel = 0 ∧ u.regs.astBase = im.astBase ∧ u.regs.astLen = im.astLen ∧
        u.mem = (im.memory.foldl (fun (f : State) p => f.write p.1 p.2) f).mem ∧
        u.trust = { f.trust with mrs := booted f, authEC := im.debugEC, authPQ := im.debugPQ } ∧
        ((f.ctl 0).mappedOut = false → (f.ctl 0).thread.lanes ≠ [] → .controlCore 0 ∉ im.mapOut →
          (u.ctl 0).started = true ∧ ((u.ctl 0).thread.lane 0).pc = im.kernelEntry) ∧
        (let m := f.bootMap im.mapOut
         u.health = m.health ∧ u.stubs = m.stubs ∧ u.smap = m.smap ∧ m.health.slices = min m.stubs.length 255 ∧
         m.health.channels = min m.health.badChans.length 63 ∧ m.health.links = min m.health.badLinks.length 63 ∧
         (m.stubs ≠ [] ∨ m.health.badChans ≠ [] ∨ m.health.badLinks ≠ [] → m.health.replace = true) ∧
         (im.mapOut = [.slice k] → k < 512 → f.stubs = [] → m.stubs = [k])))
    (n < 1280 → (s.core n).mappedOut = false → out (.computeCore n false) fun u => reported 1 u ∧ u.core n = { s.core n with mappedOut := true } ∧
      u.health.cores = min (h.cores + 1) 255 ∧ u.mem = s.mem ∧ ∀ k v, s.groups.get? k = some v →
        (beside v → v.ended = false → v.away = false → u.groups.get? k = some { v with cut := true }) ∧ (¬beside v → u.groups.get? k = some v)) ∧
    (n < 1280 → (s.core n).mappedOut = false → s.groups = [(k, v)] → sits v → s.teams.get? v.team = some t → s.grids.get? t.grid = some gr →
      out (.computeCore n true) fun u => (u.core n).mappedOut = true ∧ 0x082 ∈ u.vectors ∧ ∃ gr', u.grids.get? t.grid = some gr' ∧ gr'.ended = true) ∧
    (n < 128 → (s.ctl n).mappedOut = false → out (.controlCore n) fun u => reported 2 u ∧ u.ctl n = { s.ctl n with mappedOut := true } ∧
      u.health.cores = min (h.cores + 1) 255 ∧ u.mem = s.mem ∧ u.groups = s.groups) ∧
    (s.down = false → exec (.mapOut (.slice n)) s = .next { s with agenda := s.agenda ++ [Instr.sliceMapChange n] }) ∧
    (n < 32 → h.badLinks.contains n = false → out (.link n) fun u => reported 5 u ∧ 0x081 ∈ u.vectors ∧ u.health.badLinks = h.badLinks ++ [n] ∧
      u.health.links = min (h.links + 1) 63 ∧ u.mem = s.mem ∧ u.groups = s.groups) ∧
    ((s.core n).mappedOut = true → ∀ lost, exec (.mapOut (.computeCore n lost)) s = .next s) ∧
    ((s.ctl n).mappedOut = true → exec (.mapOut (.controlCore n)) s = .next s) ∧
    (32 ≤ n ∨ h.badLinks.contains n = true → exec (.mapOut (.link n)) s = .next s) ∧
    (good → h.degrading.get? n = none → ∃ l, exec (.channelMapOut n) s = .next { s with
      health := { h with degrading := h.degrading.set n s.now }
      vectors := l } ∧ ∀ x, x ∈ l ↔ x = 0x082 ∨ x ∈ s.vectors) ∧
    (good → h.degrading.get? n = some since → since + 10000000 ≤ s.now → ∃ u, exec (.channelMapOut n) s = .next u ∧ reported 4 u ∧
      u.health.badChans = h.badChans ++ [n] ∧ u.health.channels = min (h.channels + 1) 63 ∧ u.mem = s.mem ∧
      ∀ e, e ∈ u.extents ↔ e ∈ s.extents ∧ u.frameMem e.frame = true) ∧
    (good → h.degrading.get? n = some since → s.now < since + 10000000 → exec (.channelMapOut n) s = .next s) ∧
    (¬good → exec (.channelMapOut n) s = .next s) ∧
    (s.down = true → ∀ u, exec (.mapOut u) s = .next s) ∧
    (exec .thermalThrottle s = .next { s with health := { h with therm := true } }) ∧
    (exec .throttleEnd s = .next { s with health := { h with therm := false } }) ∧
    (exec (.powerLimitSet cap limit) s = .next { s with health := { h with powerCap := cap, tempLimit := limit } }) ∧
    (exec .criticalTemperature s = .next { s with
      health := { h with halted := true }
      agenda := []
      sent := s.sent ++ [Outbound.report 0 0] }) ∧
    (r.groups = [] ∧ r.teams = [] ∧ r.grids = [] ∧ r.parts = [] ∧ r.mem = s.mem ∧ (∀ c ∈ s.mem, r.keyOf (c.1 / 32) = s.keyOf (c.1 / 32)) ∧
      r.trust.pkgKey = s.trust.pkgKey + 1 ∧ r.tags = [] ∧ r.reqs = [] ∧ r.extents = [] ∧ r.vectors = [] ∧
      r.regs = { State.reset.regs with pkg := s.regs.pkg, node := 1#16 <<< (s.regs.pkg % 16) } ∧
      r.trust.lifecycle = s.trust.lifecycle ∧ r.trust.devid = s.trust.devid ∧ r.trust.minVersion = s.trust.minVersion ∧
      r.trust.authHashEC = s.trust.authHashEC ∧ r.trust.authHashPQ = s.trust.authHashPQ ∧ r.trust.imageHashEC = s.trust.imageHashEC ∧
      r.trust.imageHashPQ = s.trust.imageHashPQ ∧ r.trust.dbg = (s.trust.lifecycle == 0) ∧ r.trust.kw = false ∧ r.trust.nonce = none ∧ r.trust.chseq = 0 ∧
      r.trust.memKeys = [] ∧ r.trust.portKeys = [] ∧ r.trust.sessions = [] ∧ (∀ m ∈ r.trust.mrs, m = leBytes 48 0) ∧ r.trust.mrs.length = 8 ∧
      r.health.ce = 0 ∧ r.health.ue = 0 ∧ r.health.replace = h.replace ∧ r.health.badChans = h.badChans ∧ r.health.badLinks = h.badLinks ∧
      r.stubs = s.stubs ∧ r.smap = s.smap ∧ ((s.cores.map (·.1)).Nodup → ∀ c, (r.core c).mappedOut = (s.core c).mappedOut)) ∧
    boots (.packageReset im) r ∧
    (s.boot = .waiting → boots (.imageRecovery im) s) ∧
    (s.boot ≠ .waiting → exec (.imageRecovery im) s = .next s)

/-- The worked encodings of the spec. -/
def Obligations.DecodesSpecWords : Prop :=
  let two := fun (p w : Nat) => decode (wordBytes p ++ wordBytes w)
  let one := fun (w : Nat) => decode (wordBytes w)
  let pre := fun (ext : BitVec 16) (sc : BitVec 4) (ord : BitVec 3) => (⟨false, false, some ⟨ext, sc, ord⟩⟩ : Hdr)
  let bare : Hdr := ⟨false, false, none⟩
  let ends : Hdr := ⟨true, false, none⟩
  two 0x3F891A00 0x18825678 = .ok (.movi (pre 0x1234 0 0) 2 0x5678, 8) ∧
  two 0x3F800012 0x380920F0 = .ok (.ld (pre 0 2 2) 9 2 7 0x10, 8) ∧
  one 0x88050788 = .ok (.iadd ends 5 3 98 0, 4) ∧
  two 0x3F800024 0x3B051062 = .ok (.atomr (pre 0 4 4) 5 1 3 2, 8) ∧
  two 0x3FD40000 0x3D214E60 = .ok (.copy (pre 0xA800 0 0) 4 2 9 102, 8) ∧
  two 0x3F80048A 0x21840208 = .ok (.ffma (pre 9 1 2) 4 1 2 0, 8) ∧
  two 0x3F800001 0x31020790 = .ok (.mma (pre 0 0 1) 2 3 100 0, 8) ∧
  one 0x341B0245 = .ok (.tst bare 1 true 6 2 0x45, 4) ∧
  one 0x01080004 = .ok (.bra bare 1 4, 4) ∧
  one 0x0317FFEE = .ok (.loop bare 2 (BitVec.ofInt 19 (-18)), 4) ∧
  one 0x3F006703 = .ok (.lwait bare 12 112, 4) ∧
  one 0xBE800006 = .ok (.pdone ends, 4) ∧
  two 0x3F800000 0x3F800000 = .error .doublePfx ∧
  two 0xBF800000 0x88050788 = .error .pfxBits ∧
  one 0x3F800000 = .error .short ∧
  one 0x00000000 = .error .encoding

/-- Decoding and encoding are inverse to each other. -/
def Obligations.DecodeAfterEncode : Prop :=
  (∀ (i : Instr) (bs rest : List Byte), encodeBytes i = some bs → decode (bs ++ rest) = .ok (i, bs.length) ∧ (bs.length = 4 ∨ bs.length = 8)) ∧
  (∀ (bs : List Byte) (i : Instr) (n : Nat), decode bs = .ok (i, n) → encodeBytes i = some (bs.take n))

/-- R12, R32, R354: what a step does. -/
def Obligations.StepRunsDecodedInstruction : Prop :=
  ∀ (s s' s1 : State) (w : Who) (g gr : Group) (a : Dword) (q : IssueSet) (rest : List IssueSet) (w1 w2 : Word) (i : Instr) (len core k f : Nat)
    (c : Cause) (v : Dword) (e : Instr) (es : List Instr) (o : Nat) (l : CodeLine) (ans : Answer),
    let s0 := s.clock.passTurn
    let serves := q.addr = a ∧ q.seats ≠ [] ∧ ∀ j ∈ q.seats, (g.lane j).serves = true ∧ (g.lane j).pc = a
    -- the issue in progress, or a new one
    let issue := (gr.issueQ = q :: rest ∧ g = gr) ∨ (gr.issueQ = [] ∧ s1.beginIssue w gr = (g, q :: rest))
    let control := ∃ n, w = .ctl n ∧ s.turn = .ctl n ∧ (s0.ctl n).runs = true ∧ s0.atBoundary w (s0.ctl n).thread = none ∧ s1 = s0 ∧
      gr = { (s0.ctl n).thread with runOpen := true, issueQ := [] }
    let open_ := fun (m : Nat) => s0.running core k = some (m, gr) ∧ s1 = s0 ∧ (gr.issueQ ≠ [] ∨ gr.nextSets ≠ [])
    let opens := fun (m : Nat) => s0.running core k = none ∧ ∃ g0, s0.winner core k = some (m, g0) ∧ gr = g0.openRun s0.now ∧
      s1 = (s0.setCore core { s0.core core with slots := (s0.core core).slots.set k (some m) }).setGroup w gr
    let slot := ∃ m, w = .grp m ∧ s.turn = .slot core k ∧ s0.slotBoundary core k = none ∧ (s0.core core).busy.getD k 0 ≤ s0.now ∧
      (open_ m ∨ opens m) ∧ gr.steepReached s0.now = false
    let ready := s.agenda = [] ∧ s.boot = .running ∧ s.health.halted = false ∧ s.trust.dbg = false ∧ (control ∨ slot) ∧ issue ∧ serves
    let at_ := (if g.stalled then s1 else s1.leaveStep w).setGroup w { g with issueQ := rest, stalled := false }
    -- a slot is taken for the beats of the instruction
    let taken := fun (i : Instr) (u : State) => match w with
      | .ctl _ => u
      | .grp m => u.takeBeats core k m (Machine.Instr.beatsOf i q.seats)
    let half := fun (h : Nat) => q.seats.any (· / 8 == h)
    let beats := ((List.range 4).filter half).length * if Machine.Instr.isFp64 i then 2 else 1
    let r := at_.fetchAt w a
    let r2 := r.2.fetchAt w (a + 4)
    let runs := fun (i : Instr) (u : State) (w1 w2 : Word) (len : Nat) =>
      step s = exec i (taken i { u with cur := some ⟨w, a, w1, w2, len, q.seats, q.words⟩ })
    let fetched := ready ∧ q.words = none
    let kept := ready ∧ q.words = some (w1, w2)
    let judged := fun (i : Instr) => if wellFormed i then i else .illegalEncoding
    let opcode := fun (w : Word) => w.extractLsb' 23 7
    let bytes := wordBytes w1.toNat
    let both := bytes ++ wordBytes w2.toNat
    let single := fetched ∧ r.1 = .word w1 ∧ opcode w1 ≠ 0x7F#7
    let prefixed := fetched ∧ r.1 = .word w1 ∧ opcode w1 = 0x7F#7
    let asn := s.asnOf w
    let obj := (a.extractLsb' 42 20).toNat
    let off := (a.extractLsb' 0 42).toNat
    let key : PageKey := ⟨s.regs.pkg, asn, obj, off / 65536⟩
    let low := a.extractLsb' 62 2 = 0#2
    let live := low ∧ s.revoked w asn obj = false
    let coded := live ∧ s.objectEntry asn obj = some o ∧ o / 2 ^ 126 = 3
    let within := coded ∧ off + 4 ≤ 65536 * (o / 2 ^ 100 % 2 ^ 26) ∧ s.lookup asn obj (off / 65536) = (ans, s')
    let p := f * 65536 + off % 65536
    let framed := within ∧ ans = .frame f
    let missed := framed ∧ (s'.icache w).get? (p / 128) = none
    let reads := missed ∧ s'.mayTake (p / 128) false none = true ∧ s.regs.thresh = 0
    let hit := framed ∧ (s'.icache w).get? (p / 128) = some l
    let poison := Fetched.fails .poison (BitVec.ofNat 64 (off / 32 * 32))
    (s.agenda = e :: es → step s = exec e { s.clock with agenda := es }) ∧
    (s.agenda = [] → s.boot ≠ .running ∨ s.health.halted = true → step s = .next s0) ∧
    (single → decode bytes = .ok (i, len) → runs (judged i) r.2 w1 0 len) ∧
    (∀ x, single → decode bytes = .error x → runs .illegalEncoding r.2 w1 0 4) ∧
    (prefixed → r2.1 = .word w2 → decode both = .ok (i, len) → runs (judged i) r2.2 w1 w2 len) ∧
    (∀ x, prefixed → r2.1 = .word w2 → decode both = .error x → runs .illegalEncoding r2.2 w1 w2 4) ∧
    (fetched → r.1 = .fails c v → r.2.instrWord w a = w1 →
      runs (.instructionFetchFault c v) r.2 w1 (if opcode w1 = 0x7F#7 then r.2.instrWord w (a + 4) else 0) 4) ∧
    (prefixed → r2.1 = .fails c v → runs (.instructionFetchFault c v) r2.2 w1 (r2.2.instrWord w (a + 4)) 4) ∧
    (kept → opcode w1 ≠ 0x7F#7 → decode bytes = .ok (i, len) → runs (judged i) at_ w1 0 len) ∧
    (kept → opcode w1 = 0x7F#7 → decode both = .ok (i, len) → runs (judged i) at_ w1 w2 len) ∧
    (∀ k' x' e', fetched → r.1 = .absent k' x' e' → step s = .next (r.2.parkPath w q.seats k' x' e')) ∧
    (fetched → r.1 = .waits → step s = .next (r.2.fetchAgain w q q.seats)) ∧
    (∀ (u : State) m, u.groups.get? m = some gr → gr.beats = [] → k < (u.core core).busy.length → (∀ j ∈ q.seats, j < 32) →
      ((u.takeBeats core k m (Machine.Instr.beatsOf i q.seats)).core core).busy.getD k 0 = max ((u.core core).busy.getD k 0) u.now +
        match i with
        | .instructionFetchFault _ _ => 0
        | _ => beats) ∧
    (¬low → s.fetchAt w a = (.fails .capBound a, s)) ∧
    (low → s.revoked w asn obj = true → s.fetchAt w a = (.fails .capRevoked a, s)) ∧
    (live → (s.objectEntry asn obj = none ∨ (s.objectEntry asn obj = some o ∧ o / 2 ^ 126 ≠ 3)) → s.fetchAt w a = (.fails .capPerm a, s)) ∧
    (coded → 65536 * (o / 2 ^ 100 % 2 ^ 26) < off + 4 → s.fetchAt w a = (.fails .capBound a, s)) ∧
    (within → ans = .error → s.fetchAt w a = (.fails .extentError (keyVal key), s')) ∧
    (within → ans = .held → s.fetchAt w a = (.waits, s')) ∧
    (∀ x y, within → ans = .absent x y → s.fetchAt w a = (.absent key x y, s')) ∧
    (missed → s'.mayTake (p / 128) false none = false → (s.fetchAt w a).1 = .waits) ∧
    (reads → s.poisoned p 4 = false → (s.fetchAt w a).1 = .word (BitVec.ofNat 32 (s.num p 4)) ∧ (s.fetchAt w a).2.mem = s.mem) ∧
    (reads → s.poisoned p 4 = true → (s.fetchAt w a).1 = poison) ∧
    (hit → s.fetchAt w a = (if p % 128 / 32 ∈ l.poison then poison else .word (BitVec.ofNat 32 (leNat ((l.bytes.drop (p % 128)).take 4))), s'))

/-- An invariant of every step: canonical memory (the model's form, log 1), eight measurement registers, a legal lifecycle. -/
def Obligations.EveryStepKeepsTheInvariant : Prop :=
  let Inv := fun (s : State) => Memory.wf s.mem = true ∧ s.trust.mrs.length = 8 ∧ s.trust.lifecycle ≤ 3
  ∀ (s t : State), Inv s → step s = .next t → Inv t ∧ s.trust.lifecycle ≤ t.trust.lifecycle

/-- The state after reset (R424). -/
def Obligations.ResetState : Prop :=
  let s := State.reset
  let within := fun (n a b : Nat) => decide (a ≤ n) && decide (n ≤ b)
  -- the registers of a partition, of a control core and of the package
  let numbers := fun (n : Nat) => within n 0x810 0x818 || within n 0x820 0x829 || within n 0x830 0x831 || within n 0x840 0x846 || within n 0x850 0x853 ||
    within n 0xC00 0xC05 || within n 0xC10 0xC17 || within n 0xC40 0xC40 || within n 0xC48 0xC53 || within n 0xC60 0xC67 || within n 0xC70 0xC7B ||
    within n 0xC80 0xC88 || within n 0xC90 0xC92 || within n 0xC98 0xC9B || within n 0xCA0 0xCA7
  -- DIST and MODE, STALLW and HOLDOFF, DEADLINE, EMPTY, RATE; STATE of the model's package and its own column (log 6); RETRY and RTO; IVCLAIM
  let value := fun (n : Nat) => if n = 0x810 then 0x41 else if n = 0x811 then 0x640064 else if n = 0x812 then 50 else if n = 0x816 then 0x10000000
    else if n = 0x846 then 16 else if n = 0xC63 then 1 else if n = 0xC7A then 1 else if n = 0xC7B then 0x814 else if n = 0xC86 then 0xFFFFFFFF else 0
  (∃ t, step s = .next t ∧ t.boot = .waiting ∧ t.mem = []) ∧ s.boot = .waiting ∧ s.mem = [] ∧ Memory.wf s.mem = true ∧ s.tags = [] ∧ s.poison = [] ∧
  s.groups = [] ∧ s.teams = [] ∧ s.grids = [] ∧ s.reqs = [] ∧ s.msgs = [] ∧ s.tickets = [] ∧ s.cosy = none ∧ s.vectors = [] ∧ s.dir = [] ∧
  s.trust.mrs = List.replicate 8 (leBytes 48 0) ∧ s.trust.nonce = none ∧ s.trust.chseq = 0 ∧ s.trust.memKeys = [] ∧ s.trust.portKeys = [] ∧
  s.trust.kw = false ∧ s.trust.busy = none ∧ s.trust.res = 0 ∧ s.smGen = 0 ∧ (∀ i < 4096, s.smap.get? i = none) ∧
  (∀ p, (s.part p).enabled = false) ∧ (∀ n, (s.ctl n).started = false) ∧
  ∀ (c n : Nat) (g : Group), 0x800 ≤ n → csrRead s (.ctl c) g n = if numbers n then some (BitVec.ofNat 32 (value n), s) else none

end
end

