-- ==== Sys2Proof/Laws/Groups.lean ====
section
/-! SUPPORT. Laws of the end of an instruction: what `finish` and `closeRun` can do to a group is bookkeeping, so an
instruction that retires lands on the group its meaning formed. -/

namespace Sys2Proof.Laws

open Sys2Proof Sys2Proof.Machine Sys2Proof.Safety

/-! ### Lanes -/

theorem core_map {l : List Lane} {f : Nat → Lane → Lane} (h : ∀ i a, laneCore (f i a) = laneCore a) :
    (l.mapIdx f).map laneCore = l.map laneCore := by
  apply List.ext_getElem
  · simp
  · intro i h1 h2; simp [h]

/-- Changing lanes in ways that no program sees leaves the group's core as it is. -/
theorem core_modLanes (g : Group) (seats : List Nat) (f : Nat → Lane → Lane) (h : ∀ i l, laneCore (f i l) = laneCore l) :
    groupCore (g.modLanes seats f) = groupCore g := by
  simp only [groupCore, Group.modLanes]
  rw [core_map]
  intro i a; split
  · exact h i a
  · rfl

theorem core_clearRun (l : Lane) : laneCore l.clearRun = laneCore l := rfl

/-- A lane that stops, or goes on from a stop. -/
theorem core_stop (l : Lane) (h : l.mode = .running ∨ l.mode = .stopped) : laneCore { l with mode := .stopped } = laneCore l := by
  rcases h with h | h <;> simp [laneCore, h]

theorem core_go (l : Lane) (h : l.mode = .running ∨ l.mode = .stopped) : laneCore { l with mode := .running } = laneCore l := by
  rcases h with h | h <;> simp [laneCore, h]

theorem lane_getD (g : Group) {i : Nat} (h : i < g.lanes.length) : g.lane i = g.lanes[i] := by
  simp [Group.lane, List.getD, h]

/-- Changing lanes of chosen seats, when each change is one that no program sees. -/
theorem core_modLanes_at (g : Group) (seats : List Nat) (f : Nat → Lane → Lane)
    (h : ∀ i ∈ seats, laneCore (f i (g.lane i)) = laneCore (g.lane i)) : groupCore (g.modLanes seats f) = groupCore g := by
  simp only [groupCore, Group.modLanes]
  have : (g.lanes.mapIdx fun i l => if seats.contains i = true then f i l else l).map laneCore = g.lanes.map laneCore := by
    apply List.ext_getElem
    · simp
    · intro i h1 h2
      simp only [List.length_map, List.length_mapIdx] at h1
      simp only [List.getElem_map, List.getElem_mapIdx]
      split
      · next hc => have := h i (by simpa using hc); rwa [lane_getD g h1] at this
      · rfl
  rw [this]

/-! ### Paths -/

theorem serves_running {l : Lane} (h : l.serves = true) : l.mode = .running := by
  simp only [Lane.serves, Bool.and_eq_true, beq_iff_eq] at h; exact h.1.2

theorem core_stopAt (g : Group) (m : List Nat) : groupCore (g.stopAt m) = groupCore g := by
  apply core_modLanes_at
  intro i hi
  have hs := (List.mem_filter.1 hi).2
  simp only [Bool.and_eq_true] at hs
  exact core_stop _ (.inl (serves_running hs.1))

theorem core_rstack (g : Group) (r : List RPoint) : groupCore { g with rstack := r } = groupCore g := rfl

/-- The lanes stopped at an entry are stopped. -/
theorem stoppedAt_mode {g : Group} {k i : Nat} (h : i ∈ g.stoppedAt k) : (g.lane i).mode = .stopped := by
  have := (List.mem_filter.1 h).2
  simp only [Bool.and_eq_true, beq_iff_eq] at this
  exact this.1

theorem core_release (g : Group) (k : Nat) : groupCore (g.release k) = groupCore g :=
  (core_modLanes_at { g with rstack := g.rstack.eraseIdx k } (g.stoppedAt k) _ fun _ hi =>
    core_go _ (.inr (stoppedAt_mode hi))).trans (core_rstack g _)

theorem core_reconverge (k : Nat) (g : Group) : groupCore (g.reconverge k) = groupCore g := by
  induction k generalizing g with
  | zero => rfl
  | succ k ih =>
    simp only [Group.reconverge]
    split
    · rfl
    · rw [ih, core_release]

theorem core_settlePaths (g : Group) (m : List Nat) : groupCore (g.settlePaths m) = groupCore g :=
  (core_reconverge 9 _).trans (core_stopAt g m)

/-! ### Run boundaries -/

theorem core_ite {c : Prop} [Decidable c] {a b g : Group} (ha : groupCore a = groupCore g) (hb : groupCore b = groupCore g) :
    groupCore (if c then a else b) = groupCore g := by
  split
  · exact ha
  · exact hb

theorem core_moveBroadcast (g : Group) : groupCore g.moveBroadcast = groupCore g := by
  simp only [Group.moveBroadcast]
  split
  · rfl
  · split
    · rfl
    · split
      · split
        · rfl
        · exact core_release _ _
      · rfl

theorem core_takeBroadcast (g : Group) (now : Nat) : groupCore (g.takeBroadcast now) = groupCore g := by
  simp only [Group.takeBroadcast]
  split
  · rfl
  · split <;> rfl

theorem core_syncSteep (g : Group) (now : Nat) : groupCore (g.syncSteep now) = groupCore g := rfl

theorem core_charge (g : Group) (c n : Nat) : groupCore (g.charge c n) = groupCore g := by
  unfold Group.charge; split <;> rfl

theorem core_phase (g : Group) (c now : Nat) : groupCore (g.phase c now) = groupCore g :=
  (rfl : groupCore (g.phase c now) = groupCore (g.charge g.cls _)).trans (core_charge g g.cls _)

theorem core_settle (g : Group) : groupCore g.settle = groupCore g := rfl

theorem core_closeRun (g : Group) (now : Nat) : groupCore (g.closeRun now) = groupCore g := by
  simp only [Group.closeRun]
  rw [core_phase, core_syncSteep, core_takeBroadcast, core_moveBroadcast]
  simp only [groupCore, List.map_map]
  congr 1
  apply List.map_congr_left
  intro l _
  simp only [Function.comp]
  split <;> rfl

theorem core_endIssue (g : Group) (now : Nat) : groupCore (g.endIssue now) = groupCore g :=
  core_ite (core_closeRun g now) rfl

theorem core_executed (g : Group) (seats : List Nat) (now : Nat) : groupCore (g.executed seats now) = groupCore g :=
  (rfl : groupCore (g.executed seats now) = groupCore (g.modLanes seats _)).trans (core_modLanes g seats _ fun _ _ => rfl)

/-- The end of an instruction changes nothing of a group that programs see. -/
theorem core_finish (g : Group) (a : Dword) (seats : List Nat) (now : Nat) (e : Bool) :
    groupCore (g.finish a seats now e) = groupCore g := by
  have h := (core_settlePaths (g.executed seats now) seats).trans (core_executed g seats now)
  simp only [Group.finish]
  rw [core_endIssue]
  exact core_ite h h

/-! ### Where an instruction lands -/

theorem done_lands (s : State) (x : Ctx) (g : Group) (e : Bool) : Lands (.next (s.done x g e)) s x.who g := by
  refine ⟨_, (g.finish x.c.addr x.c.seats s.now e).boundaryEvents x.who, ?_, core_finish g x.c.addr x.c.seats s.now e⟩
  simp only [State.done, State.setGroup]
  cases x.who <;> rfl

theorem retire_lands (s : State) (x : Ctx) (h : Hdr) (g : Group) : Lands (.next (s.retire x h g)) s x.who (x.advance g) :=
  done_lands s x _ _

/-- Free operands turn nothing away. -/
theorem ready_of_free {s : State} {x : Ctx} {os reads : List Opd} {lanes : List Nat} (f : Free s x os reads lanes) :
    s.ready x os reads lanes = none := by
  have hw : x.windowFault os = none := by
    simp only [Ctx.windowFault, List.findSome?_eq_none_iff]
    intro o ho
    simp only [Ctx.beyond]
    rw [if_neg]
    rintro ⟨h1, h2⟩
    exact Nat.not_lt.2 (f.window o ho h1) h2
  have hh : x.g.heldBy x.c.seats (os.flatMap x.keys) = false := by
    simp only [Group.heldBy, Bool.or_eq_false_iff, List.any_eq_false, Bool.and_eq_true, List.contains_eq_mem, decide_eq_true_eq]
    exact ⟨fun h hm hc => f.holds h hm hc.2 hc.1, fun h hm => f.status h hm⟩
  have ho : s.owed x.who x.c.seats (os.flatMap x.keys) = false := by
    simp only [State.owed, List.any_eq_false, Bool.and_eq_true, beq_iff_eq, List.contains_eq_mem, decide_eq_true_eq, not_and]
    intro r hr hc
    split
    · simp
    · next d hd =>
      simp only [List.any_eq_true, List.mem_range, decide_eq_true_eq, not_exists, not_and]
      exact fun j hj => f.owed r hr hc.1 hc.2 d hd j hj
  have hs : (lanes.filter fun i => (x.failing (reads.flatMap x.readKeys) i).isSome) = [] :=
    List.filter_eq_nil_iff.2 fun i hi => by simp [f.sound i hi]
  simp only [State.ready, hw, hh, ho, hs, Bool.false_eq_true, if_false]
  rw [if_neg, if_neg]
  · simp only [Bool.and_eq_true, List.any_eq_true, beq_iff_eq, not_and]
    intro ⟨o, h1, h2⟩; simp [f.flags ⟨o, h1, h2⟩]
  · simp only [Bool.and_eq_true, List.any_eq_true, decide_eq_true_eq, not_and]
    intro ⟨o, h1, h2⟩; simp [f.latch ⟨o, h1, h2⟩]

/-- Operands that are free to be read in some lanes are so in fewer. -/
theorem free_fewer {s : State} {x : Ctx} {os reads : List Opd} {lanes fewer : List Nat} (f : Free s x os reads lanes)
    (h : ∀ i ∈ fewer, i ∈ lanes) : Free s x os reads fewer := { f with sound := fun i hi => f.sound i (h i hi) }

/-- The lane that reads for the group is an active one. -/
theorem readers_mem {x : Ctx} {i : Nat} (h : i ∈ x.readers) : i ∈ x.c.seats := (List.mem_filter.1 h).1

theorem withOps_of_free {s : State} {x : Ctx} {os reads : Ctx → List Opd} {lanes : Ctx → List Nat} {f : Ctx → State}
    (h : Free s x (os x) (reads x) (lanes x)) : withOps s os f reads lanes = .next (f x) := by
  simp [withOps, withCtx, h.issuer, ready_of_free h]

/-- The skeleton of R20, with free operands. -/
theorem compute_lands {s : State} {x : Ctx} {h : Hdr} {d : Code} {wd : Width} {srcs : List Opd} {f : Ctx → Nat → Nat}
    (hf : Free s x (srcs ++ [opd d wd]) srcs) : Lands (compute s h d wd srcs f) s x.who (wrote x h d wd (f x)) := by
  rw [compute, withOps_of_free hf]
  exact retire_lands s x h _

end Sys2Proof.Laws
end

