-- ==== Sys2Proof/Laws/Tables.lean ====
section
/-! SUPPORT. Laws of the tables by number and of the sorted sets: read after write, and a write leaves other keys alone. -/

namespace Sys2Proof.Laws

open Sys2Proof Sys2Proof.Machine

variable {α : Type}

@[simp] theorem get_set_same (m : FMap α) (k : Nat) (v : α) : (FMap.set m k v).get? k = some v := by
  induction m with
  | nil => simp [FMap.set, FMap.get?]
  | cons e m ih =>
    obtain ⟨j, w⟩ := e
    simp only [FMap.set]
    split
    · simp [FMap.get?]
    · split
      · simp [FMap.get?]
      · simp only [FMap.get?]; rw [if_neg (fun h => ‹¬k = j› h.symm)]; exact ih

@[simp] theorem get_set_other (m : FMap α) {k k' : Nat} (v : α) (h : k' ≠ k) : (FMap.set m k v).get? k' = m.get? k' := by
  induction m with
  | nil => simp [FMap.set, FMap.get?, h.symm]
  | cons e m ih =>
    obtain ⟨j, w⟩ := e
    simp only [FMap.set]
    split
    · simp [FMap.get?, h.symm]
    · split
      · next hk => subst hk; simp [FMap.get?, h.symm]
      · simp only [FMap.get?]; split
        · rfl
        · exact ih

@[simp] theorem getD_set_same (m : FMap α) (k : Nat) (v d : α) : (FMap.set m k v).getD k d = v := by
  simp [FMap.getD]

@[simp] theorem getD_set_other (m : FMap α) {k k' : Nat} (v d : α) (h : k' ≠ k) : (FMap.set m k v).getD k' d = m.getD k' d := by
  simp [FMap.getD, h]

/-- Membership in a sorted set after an insertion. -/
theorem mem_sInsert (l : List Nat) (k j : Nat) : j ∈ sInsert l k ↔ j = k ∨ j ∈ l := by
  induction l with
  | nil => simp [sInsert]
  | cons a l ih =>
    simp only [sInsert]
    split
    · simp
    · split
      · next h => subst h; simp
      · simp only [List.mem_cons, ih]
        constructor
        · rintro (h | h | h) <;> simp [h]
        · rintro (h | h | h) <;> simp [h]

end Sys2Proof.Laws
end

