-- ==== Sys2Proof/Laws/Memory.lean ====
section
/-! SUPPORT. Laws of memory: read after write, writes leave other bytes alone, and every operation keeps the canonical
form. -/

namespace Sys2Proof.Laws

open Sys2Proof Sys2Proof.Machine

/-! ### The canonical form -/

theorem wfFrom_cons {lo : Option Nat} {a : Nat} {v : Byte} {m : List Host.Cell} :
    memWfFrom lo ((a, v) :: m) = true ↔ (∀ l, lo = some l → l < a) ∧ v ≠ 0 ∧ memWfFrom (some a) m = true := by
  cases lo <;> simp [memWfFrom, and_assoc]

theorem wfFrom_weaken {lo : Option Nat} {m : List Host.Cell} (h : memWfFrom lo m = true) : memWfFrom none m = true := by
  cases m with
  | nil => rfl
  | cons e m => obtain ⟨a, v⟩ := e; rw [wfFrom_cons] at *; exact ⟨by simp, h.2⟩

/-- Below the first listed address memory reads as an unlisted address. -/
theorem memByte_low {l k : Nat} {m : List Host.Cell} (h : memWfFrom (some l) m = true) (hk : k ≤ l) : memByte m k = 0 := by
  cases m with
  | nil => rfl
  | cons e m =>
    obtain ⟨a, v⟩ := e
    rw [wfFrom_cons] at h
    simp only [memByte]
    rw [if_pos (Nat.lt_of_le_of_lt hk (h.1 l rfl))]

theorem wfFrom_memSet {lo : Option Nat} {m : List Host.Cell} (k : Nat) (v : Byte) (h : memWfFrom lo m = true)
    (hk : ∀ l, lo = some l → l < k) : memWfFrom lo (memSet m k v) = true := by
  induction m generalizing lo with
  | nil =>
    simp only [memSet]; split
    · rfl
    · rw [wfFrom_cons]; exact ⟨hk, ‹_›, rfl⟩
  | cons e m ih =>
    obtain ⟨a, w⟩ := e
    have h' := h
    rw [wfFrom_cons] at h
    simp only [memSet]
    split
    · split
      · exact h'
      · rw [wfFrom_cons, wfFrom_cons]
        exact ⟨hk, ‹_›, by simpa using ‹k < a›, h.2⟩
    · split
      · next hka =>
        subst hka
        split
        · cases m with
          | nil => rfl
          | cons e m =>
            obtain ⟨b, u⟩ := e
            have hb := h.2.2
            rw [wfFrom_cons] at hb ⊢
            exact ⟨fun l hl => Nat.lt_trans (h.1 l hl) (hb.1 _ rfl), hb.2⟩
        · rw [wfFrom_cons]; exact ⟨h.1, ‹_›, h.2.2⟩
      · rw [wfFrom_cons]
        exact ⟨h.1, h.2.1, ih h.2.2 (by intro l hl; cases hl; omega)⟩

/-- A write of one byte keeps the canonical form. -/
theorem memSet_wf {m : List Host.Cell} (k : Nat) (v : Byte) (h : Memory.wf m = true) : Memory.wf (memSet m k v) = true :=
  wfFrom_memSet k v h (by simp)

theorem foldl_memSet_wf {β : Type} (f : β → Nat) (g : β → Byte) (l : List β) {m : List Host.Cell} (h : Memory.wf m = true) :
    Memory.wf (l.foldl (fun m p => memSet m (f p) (g p)) m) = true := by
  induction l generalizing m with
  | nil => exact h
  | cons p l ih => exact ih (memSet_wf _ _ h)

/-! ### Read after write -/

theorem memByte_memSet_from {lo : Option Nat} {m : List Host.Cell} (k j : Nat) (v : Byte) (h : memWfFrom lo m = true) :
    memByte (memSet m k v) j = if j = k then v else memByte m j := by
  induction m generalizing lo with
  | nil =>
    simp only [memSet]
    by_cases hv : v = 0
    · simp [hv, memByte]
    · simp only [if_neg hv, memByte]
      by_cases hj : j = k
      · simp [hj]
      · simp [hj]
  | cons e m ih =>
    obtain ⟨a, w⟩ := e
    rw [wfFrom_cons] at h
    have ih := ih h.2.2
    have low := fun k hk => memByte_low (k := k) h.2.2 hk
    rcases Nat.lt_trichotomy k a with hk | hk | hk
    · by_cases hv : v = 0
      · subst hv
        simp only [memSet, if_pos hk, if_true]
        split
        · next hj => subst hj; simp [memByte, hk]
        · rfl
      · simp only [memSet, if_pos hk, if_neg hv]
        by_cases hj : j = k
        · subst hj; simp [memByte]
        · rw [if_neg hj]; conv => lhs; rw [memByte]
          by_cases hl : j < k
          · rw [if_pos hl, memByte, if_pos (by omega)]
          · rw [if_neg hl, if_neg hj]
    · subst hk
      by_cases hv : v = 0
      · subst hv
        simp only [memSet, Nat.lt_irrefl, if_false, if_true]
        split
        · next hj => subst hj; exact low _ (Nat.le_refl _)
        · next hj =>
          rw [memByte]
          by_cases hl : j < k
          · rw [if_pos hl]; exact low _ (by omega)
          · rw [if_neg hl, if_neg hj]
      · simp only [memSet, Nat.lt_irrefl, if_false, if_true, if_neg hv, memByte]
        by_cases hj : j = k
        · subst hj; simp
        · simp [hj]
    · simp only [memSet, if_neg (Nat.lt_asymm hk), if_neg (Nat.ne_of_gt hk), memByte]
      by_cases hl : j < a
      · rw [if_pos hl, if_pos hl, if_neg (by omega)]
      · rw [if_neg hl, if_neg hl]
        by_cases ha : j = a
        · rw [if_pos ha, if_pos ha, if_neg (by omega)]
        · rw [if_neg ha, if_neg ha]; exact ih

/-- A byte reads as the last value written to it, and a write leaves every other byte alone. -/
theorem memByte_memSet {m : List Host.Cell} (k j : Nat) (v : Byte) (h : Memory.wf m = true) :
    memByte (memSet m k v) j = if j = k then v else memByte m j :=
  memByte_memSet_from k j v h

/-! ### Memory operations keep the canonical form -/

theorem rekey_wf (s : State) (k : Nat) (h : Memory.wf s.mem = true) : Memory.wf (s.rekey k).mem = true := by
  have hf : Memory.wf ((List.range 32).foldl (fun m i => memSet m (32 * k + i) (s.byte (32 * k + i))) s.mem) = true :=
    foldl_memSet_wf _ _ _ h
  generalize hm : (List.range 32).foldl (fun m i => memSet m (32 * k + i) (s.byte (32 * k + i))) s.mem = m at hf
  simp only [State.rekey, hm]
  split
  · exact h
  · split
    · exact h
    · exact hf

theorem foldl_rekey_wf (l : List Nat) (s : State) (h : Memory.wf s.mem = true) : Memory.wf (l.foldl State.rekey s).mem = true := by
  induction l generalizing s with
  | nil => exact h
  | cons k l ih => exact ih _ (rekey_wf s k h)

theorem putBytes_wf (s : State) (a : Nat) (bs : List Byte) (h : Memory.wf s.mem = true) : Memory.wf (s.putBytes a bs).mem = true :=
  foldl_memSet_wf _ _ _ (foldl_rekey_wf _ _ h)

theorem write_wf (s : State) (a : Nat) (bs : List Byte) (h : Memory.wf s.mem = true) : Memory.wf (s.write a bs).mem = true :=
  putBytes_wf s a bs h

theorem writeCap_wf (s : State) (a : Nat) (bs : List Byte) (t : Bool) (h : Memory.wf s.mem = true) :
    Memory.wf (s.writeCap a bs t).mem = true :=
  write_wf s a bs h

/-! ### Bytes after a write -/

theorem foldl_memSet_byte (l : List (Nat × Byte)) {m : List Host.Cell} (a j : Nat) (h : Memory.wf m = true)
    (hj : ∀ p ∈ l, j ≠ a + p.1) : memByte (l.foldl (fun m p => memSet m (a + p.1) p.2) m) j = memByte m j := by
  induction l generalizing m with
  | nil => rfl
  | cons p l ih =>
    rw [List.foldl_cons, ih (memSet_wf _ _ h) fun q hq => hj q (List.mem_cons_of_mem _ hq), memByte_memSet _ _ _ h,
      if_neg (hj p List.mem_cons_self)]

/-- With no memory key in force, a store leaves every byte outside its range alone. -/
theorem byte_write_other (s : State) (a j : Nat) (bs : List Byte) (h : Memory.wf s.mem = true) (hk : s.keyed = [] ∧ s.trust.memKeys = [])
    (hj : j < a ∨ a + bs.length ≤ j) : (s.write a bs).byte j = s.byte j := by
  have hr : ∀ k, s.rekey k = s := fun k => by simp [State.rekey, hk.1, hk.2]
  have hf : ∀ l : List Nat, l.foldl State.rekey s = s := by
    intro l; induction l with
    | nil => rfl
    | cons k l ih => rw [List.foldl_cons, hr, ih]
  simp only [State.write, State.putBytes, hf, State.byte, hk.1, hk.2, List.isEmpty_nil, Bool.and_self, if_true]
  apply foldl_memSet_byte _ _ _ h
  intro p hp
  have := (List.of_mem_zip hp).1
  simp only [List.mem_range] at this
  omega

theorem foldl_memSet_byte_mem {m : List Host.Cell} (bs : List Byte) (a n i : Nat) (h : Memory.wf m = true) (hi : i < bs.length) :
    memByte ((((List.range' n bs.length).zip bs)).foldl (fun m p => memSet m (a + p.1) p.2) m) (a + n + i) = bs[i] := by
  induction bs generalizing m n i with
  | nil => simp at hi
  | cons b bs ih =>
    simp only [List.length_cons, List.range'_succ, List.zip_cons_cons, List.foldl_cons]
    cases i with
    | zero =>
      rw [foldl_memSet_byte _ _ _ (memSet_wf _ _ h)]
      · rw [memByte_memSet _ _ _ h]; simp
      · intro p hp
        have := (List.of_mem_zip hp).1
        simp only [List.mem_range'_1] at this
        omega
    | succ i =>
      have := ih (m := memSet m (a + n) b) (n + 1) i (memSet_wf _ _ h) (by simpa using hi)
      simpa [Nat.add_assoc, Nat.add_comm 1 i] using this

/-- With no memory key in force, a byte of the range stored to reads as the byte stored. -/
theorem byte_write_same (s : State) (a i : Nat) (bs : List Byte) (h : Memory.wf s.mem = true)
    (hk : s.keyed = [] ∧ s.trust.memKeys = []) (hi : i < bs.length) : (s.write a bs).byte (a + i) = bs[i] := by
  have hr : ∀ k, s.rekey k = s := fun k => by simp [State.rekey, hk.1, hk.2]
  have hf : ∀ l : List Nat, l.foldl State.rekey s = s := by
    intro l; induction l with
    | nil => rfl
    | cons k l ih => rw [List.foldl_cons, hr, ih]
  simp only [State.write, State.putBytes, hf, State.byte, hk.1, hk.2, List.isEmpty_nil, Bool.and_self, if_true]
  have := foldl_memSet_byte_mem bs a 0 i h hi
  rwa [List.range_eq_range']

end Sys2Proof.Laws
end

