-- ==== Sys2Proof/Laws/State.lean ====
section
/-! SUPPORT. Laws of the named updates of the state, of a group and of a lane: one lemma per field and update says that the
field is unchanged or what it becomes, so that no later proof unfolds a record update. -/

namespace Sys2Proof.Laws

open Sys2Proof Sys2Proof.Machine

/-! ### setCtl -/

@[simp] theorem setCtl_turn (s : State) (n : Nat) (v : Ctl) : (s.setCtl n v).turn = s.turn := rfl
@[simp] theorem setCtl_agenda (s : State) (n : Nat) (v : Ctl) : (s.setCtl n v).agenda = s.agenda := rfl
@[simp] theorem setCtl_cur (s : State) (n : Nat) (v : Ctl) : (s.setCtl n v).cur = s.cur := rfl
@[simp] theorem setCtl_ticks (s : State) (n : Nat) (v : Ctl) : (s.setCtl n v).ticks = s.ticks := rfl
@[simp] theorem setCtl_bits (s : State) (n : Nat) (v : Ctl) : (s.setCtl n v).bits = s.bits := rfl
@[simp] theorem setCtl_picks (s : State) (n : Nat) (v : Ctl) : (s.setCtl n v).picks = s.picks := rfl
@[simp] theorem setCtl_flaws (s : State) (n : Nat) (v : Ctl) : (s.setCtl n v).flaws = s.flaws := rfl
@[simp] theorem setCtl_tick (s : State) (n : Nat) (v : Ctl) : (s.setCtl n v).tick = s.tick := rfl
@[simp] theorem setCtl_round (s : State) (n : Nat) (v : Ctl) : (s.setCtl n v).round = s.round := rfl
@[simp] theorem setCtl_now (s : State) (n : Nat) (v : Ctl) : (s.setCtl n v).now = s.now := rfl
@[simp] theorem setCtl_cyc (s : State) (n : Nat) (v : Ctl) : (s.setCtl n v).cyc = s.cyc := rfl
@[simp] theorem setCtl_cseq (s : State) (n : Nat) (v : Ctl) : (s.setCtl n v).cseq = s.cseq := rfl
@[simp] theorem setCtl_groups (s : State) (n : Nat) (v : Ctl) : (s.setCtl n v).groups = s.groups := rfl
@[simp] theorem setCtl_teams (s : State) (n : Nat) (v : Ctl) : (s.setCtl n v).teams = s.teams := rfl
@[simp] theorem setCtl_grids (s : State) (n : Nat) (v : Ctl) : (s.setCtl n v).grids = s.grids := rfl
@[simp] theorem setCtl_parts (s : State) (n : Nat) (v : Ctl) : (s.setCtl n v).parts = s.parts := rfl
@[simp] theorem setCtl_shadows (s : State) (n : Nat) (v : Ctl) : (s.setCtl n v).shadows = s.shadows := rfl
@[simp] theorem setCtl_cores (s : State) (n : Nat) (v : Ctl) : (s.setCtl n v).cores = s.cores := rfl
@[simp] theorem setCtl_clusters (s : State) (n : Nat) (v : Ctl) : (s.setCtl n v).clusters = s.clusters := rfl
@[simp] theorem setCtl_queued (s : State) (n : Nat) (v : Ctl) : (s.setCtl n v).queued = s.queued := rfl
@[simp] theorem setCtl_service (s : State) (n : Nat) (v : Ctl) : (s.setCtl n v).service = s.service := rfl
@[simp] theorem setCtl_services (s : State) (n : Nat) (v : Ctl) : (s.setCtl n v).services = s.services := rfl
@[simp] theorem setCtl_mem (s : State) (n : Nat) (v : Ctl) : (s.setCtl n v).mem = s.mem := rfl
@[simp] theorem setCtl_tags (s : State) (n : Nat) (v : Ctl) : (s.setCtl n v).tags = s.tags := rfl
@[simp] theorem setCtl_poison (s : State) (n : Nat) (v : Ctl) : (s.setCtl n v).poison = s.poison := rfl
@[simp] theorem setCtl_keyed (s : State) (n : Nat) (v : Ctl) : (s.setCtl n v).keyed = s.keyed := rfl
@[simp] theorem setCtl_lpddr (s : State) (n : Nat) (v : Ctl) : (s.setCtl n v).lpddr = s.lpddr := rfl
@[simp] theorem setCtl_dir (s : State) (n : Nat) (v : Ctl) : (s.setCtl n v).dir = s.dir := rfl
@[simp] theorem setCtl_copies (s : State) (n : Nat) (v : Ctl) : (s.setCtl n v).copies = s.copies := rfl
@[simp] theorem setCtl_dirty (s : State) (n : Nat) (v : Ctl) : (s.setCtl n v).dirty = s.dirty := rfl
@[simp] theorem setCtl_badCopies (s : State) (n : Nat) (v : Ctl) : (s.setCtl n v).badCopies = s.badCopies := rfl
@[simp] theorem setCtl_nodeNames (s : State) (n : Nat) (v : Ctl) : (s.setCtl n v).nodeNames = s.nodeNames := rfl
@[simp] theorem setCtl_nodeCopies (s : State) (n : Nat) (v : Ctl) : (s.setCtl n v).nodeCopies = s.nodeCopies := rfl
@[simp] theorem setCtl_reqs (s : State) (n : Nat) (v : Ctl) : (s.setCtl n v).reqs = s.reqs := rfl
@[simp] theorem setCtl_smap (s : State) (n : Nat) (v : Ctl) : (s.setCtl n v).smap = s.smap := rfl
@[simp] theorem setCtl_smGen (s : State) (n : Nat) (v : Ctl) : (s.setCtl n v).smGen = s.smGen := rfl
@[simp] theorem setCtl_change (s : State) (n : Nat) (v : Ctl) : (s.setCtl n v).change = s.change := rfl
@[simp] theorem setCtl_stubs (s : State) (n : Nat) (v : Ctl) : (s.setCtl n v).stubs = s.stubs := rfl
@[simp] theorem setCtl_leaving (s : State) (n : Nat) (v : Ctl) : (s.setCtl n v).leaving = s.leaving := rfl
@[simp] theorem setCtl_notes (s : State) (n : Nat) (v : Ctl) : (s.setCtl n v).notes = s.notes := rfl
@[simp] theorem setCtl_extents (s : State) (n : Nat) (v : Ctl) : (s.setCtl n v).extents = s.extents := rfl
@[simp] theorem setCtl_monitors (s : State) (n : Nat) (v : Ctl) : (s.setCtl n v).monitors = s.monitors := rfl
@[simp] theorem setCtl_notices (s : State) (n : Nat) (v : Ctl) : (s.setCtl n v).notices = s.notices := rfl
@[simp] theorem setCtl_xdrain (s : State) (n : Nat) (v : Ctl) : (s.setCtl n v).xdrain = s.xdrain := rfl
@[simp] theorem setCtl_rvsync (s : State) (n : Nat) (v : Ctl) : (s.setCtl n v).rvsync = s.rvsync := rfl
@[simp] theorem setCtl_rvAsn (s : State) (n : Nat) (v : Ctl) : (s.setCtl n v).rvAsn = s.rvAsn := rfl
@[simp] theorem setCtl_acked (s : State) (n : Nat) (v : Ctl) : (s.setCtl n v).acked = s.acked := rfl
@[simp] theorem setCtl_freed (s : State) (n : Nat) (v : Ctl) : (s.setCtl n v).freed = s.freed := rfl
@[simp] theorem setCtl_extinvs (s : State) (n : Nat) (v : Ctl) : (s.setCtl n v).extinvs = s.extinvs := rfl
@[simp] theorem setCtl_takers (s : State) (n : Nat) (v : Ctl) : (s.setCtl n v).takers = s.takers := rfl
@[simp] theorem setCtl_rdmems (s : State) (n : Nat) (v : Ctl) : (s.setCtl n v).rdmems = s.rdmems := rfl
@[simp] theorem setCtl_acks (s : State) (n : Nat) (v : Ctl) : (s.setCtl n v).acks = s.acks := rfl
@[simp] theorem setCtl_farRevoked (s : State) (n : Nat) (v : Ctl) : (s.setCtl n v).farRevoked = s.farRevoked := rfl
@[simp] theorem setCtl_remotes (s : State) (n : Nat) (v : Ctl) : (s.setCtl n v).remotes = s.remotes := rfl
@[simp] theorem setCtl_marks (s : State) (n : Nat) (v : Ctl) : (s.setCtl n v).marks = s.marks := rfl
@[simp] theorem setCtl_qholds (s : State) (n : Nat) (v : Ctl) : (s.setCtl n v).qholds = s.qholds := rfl
@[simp] theorem setCtl_farWatches (s : State) (n : Nat) (v : Ctl) : (s.setCtl n v).farWatches = s.farWatches := rfl
@[simp] theorem setCtl_tickets (s : State) (n : Nat) (v : Ctl) : (s.setCtl n v).tickets = s.tickets := rfl
@[simp] theorem setCtl_nextTicket (s : State) (n : Nat) (v : Ctl) : (s.setCtl n v).nextTicket = s.nextTicket := rfl
@[simp] theorem setCtl_cosy (s : State) (n : Nat) (v : Ctl) : (s.setCtl n v).cosy = s.cosy := rfl
@[simp] theorem setCtl_cosyQ (s : State) (n : Nat) (v : Ctl) : (s.setCtl n v).cosyQ = s.cosyQ := rfl
@[simp] theorem setCtl_msgs (s : State) (n : Nat) (v : Ctl) : (s.setCtl n v).msgs = s.msgs := rfl
@[simp] theorem setCtl_batches (s : State) (n : Nat) (v : Ctl) : (s.setCtl n v).batches = s.batches := rfl
@[simp] theorem setCtl_partials (s : State) (n : Nat) (v : Ctl) : (s.setCtl n v).partials = s.partials := rfl
@[simp] theorem setCtl_arrived (s : State) (n : Nat) (v : Ctl) : (s.setCtl n v).arrived = s.arrived := rfl
@[simp] theorem setCtl_hwWrites (s : State) (n : Nat) (v : Ctl) : (s.setCtl n v).hwWrites = s.hwWrites := rfl
@[simp] theorem setCtl_retries (s : State) (n : Nat) (v : Ctl) : (s.setCtl n v).retries = s.retries := rfl
@[simp] theorem setCtl_placing (s : State) (n : Nat) (v : Ctl) : (s.setCtl n v).placing = s.placing := rfl
@[simp] theorem setCtl_txBusy (s : State) (n : Nat) (v : Ctl) : (s.setCtl n v).txBusy = s.txBusy := rfl
@[simp] theorem setCtl_txWait (s : State) (n : Nat) (v : Ctl) : (s.setCtl n v).txWait = s.txWait := rfl
@[simp] theorem setCtl_psRaised (s : State) (n : Nat) (v : Ctl) : (s.setCtl n v).psRaised = s.psRaised := rfl
@[simp] theorem setCtl_inbound (s : State) (n : Nat) (v : Ctl) : (s.setCtl n v).inbound = s.inbound := rfl
@[simp] theorem setCtl_granted (s : State) (n : Nat) (v : Ctl) : (s.setCtl n v).granted = s.granted := rfl
@[simp] theorem setCtl_seqNums (s : State) (n : Nat) (v : Ctl) : (s.setCtl n v).seqNums = s.seqNums := rfl
@[simp] theorem setCtl_windows (s : State) (n : Nat) (v : Ctl) : (s.setCtl n v).windows = s.windows := rfl
@[simp] theorem setCtl_held (s : State) (n : Nat) (v : Ctl) : (s.setCtl n v).held = s.held := rfl
@[simp] theorem setCtl_rtable (s : State) (n : Nat) (v : Ctl) : (s.setCtl n v).rtable = s.rtable := rfl
@[simp] theorem setCtl_vectors (s : State) (n : Nat) (v : Ctl) : (s.setCtl n v).vectors = s.vectors := rfl
@[simp] theorem setCtl_sent (s : State) (n : Nat) (v : Ctl) : (s.setCtl n v).sent = s.sent := rfl
@[simp] theorem setCtl_regs (s : State) (n : Nat) (v : Ctl) : (s.setCtl n v).regs = s.regs := rfl
@[simp] theorem setCtl_trust (s : State) (n : Nat) (v : Ctl) : (s.setCtl n v).trust = s.trust := rfl
@[simp] theorem setCtl_health (s : State) (n : Nat) (v : Ctl) : (s.setCtl n v).health = s.health := rfl
@[simp] theorem setCtl_boot (s : State) (n : Nat) (v : Ctl) : (s.setCtl n v).boot = s.boot := rfl

@[simp] theorem setCtl_same (s : State) (k : Nat) (v : Ctl) : (s.setCtl k v).ctl k = v := getD_set_same ..
@[simp] theorem setCtl_other (s : State) {k d : Nat} (v : Ctl) (h : d ≠ k) : (s.setCtl k v).ctl d = s.ctl d := getD_set_other _ _ _ h

/-! ### setPart -/

@[simp] theorem setPart_turn (s : State) (p : Nat) (v : Part) : (s.setPart p v).turn = s.turn := rfl
@[simp] theorem setPart_agenda (s : State) (p : Nat) (v : Part) : (s.setPart p v).agenda = s.agenda := rfl
@[simp] theorem setPart_cur (s : State) (p : Nat) (v : Part) : (s.setPart p v).cur = s.cur := rfl
@[simp] theorem setPart_ticks (s : State) (p : Nat) (v : Part) : (s.setPart p v).ticks = s.ticks := rfl
@[simp] theorem setPart_bits (s : State) (p : Nat) (v : Part) : (s.setPart p v).bits = s.bits := rfl
@[simp] theorem setPart_picks (s : State) (p : Nat) (v : Part) : (s.setPart p v).picks = s.picks := rfl
@[simp] theorem setPart_flaws (s : State) (p : Nat) (v : Part) : (s.setPart p v).flaws = s.flaws := rfl
@[simp] theorem setPart_tick (s : State) (p : Nat) (v : Part) : (s.setPart p v).tick = s.tick := rfl
@[simp] theorem setPart_round (s : State) (p : Nat) (v : Part) : (s.setPart p v).round = s.round := rfl
@[simp] theorem setPart_now (s : State) (p : Nat) (v : Part) : (s.setPart p v).now = s.now := rfl
@[simp] theorem setPart_cyc (s : State) (p : Nat) (v : Part) : (s.setPart p v).cyc = s.cyc := rfl
@[simp] theorem setPart_cseq (s : State) (p : Nat) (v : Part) : (s.setPart p v).cseq = s.cseq := rfl
@[simp] theorem setPart_ctls (s : State) (p : Nat) (v : Part) : (s.setPart p v).ctls = s.ctls := rfl
@[simp] theorem setPart_groups (s : State) (p : Nat) (v : Part) : (s.setPart p v).groups = s.groups := rfl
@[simp] theorem setPart_teams (s : State) (p : Nat) (v : Part) : (s.setPart p v).teams = s.teams := rfl
@[simp] theorem setPart_grids (s : State) (p : Nat) (v : Part) : (s.setPart p v).grids = s.grids := rfl
@[simp] theorem setPart_shadows (s : State) (p : Nat) (v : Part) : (s.setPart p v).shadows = s.shadows := rfl
@[simp] theorem setPart_cores (s : State) (p : Nat) (v : Part) : (s.setPart p v).cores = s.cores := rfl
@[simp] theorem setPart_clusters (s : State) (p : Nat) (v : Part) : (s.setPart p v).clusters = s.clusters := rfl
@[simp] theorem setPart_queued (s : State) (p : Nat) (v : Part) : (s.setPart p v).queued = s.queued := rfl
@[simp] theorem setPart_service (s : State) (p : Nat) (v : Part) : (s.setPart p v).service = s.service := rfl
@[simp] theorem setPart_services (s : State) (p : Nat) (v : Part) : (s.setPart p v).services = s.services := rfl
@[simp] theorem setPart_mem (s : State) (p : Nat) (v : Part) : (s.setPart p v).mem = s.mem := rfl
@[simp] theorem setPart_tags (s : State) (p : Nat) (v : Part) : (s.setPart p v).tags = s.tags := rfl
@[simp] theorem setPart_poison (s : State) (p : Nat) (v : Part) : (s.setPart p v).poison = s.poison := rfl
@[simp] theorem setPart_keyed (s : State) (p : Nat) (v : Part) : (s.setPart p v).keyed = s.keyed := rfl
@[simp] theorem setPart_lpddr (s : State) (p : Nat) (v : Part) : (s.setPart p v).lpddr = s.lpddr := rfl
@[simp] theorem setPart_dir (s : State) (p : Nat) (v : Part) : (s.setPart p v).dir = s.dir := rfl
@[simp] theorem setPart_copies (s : State) (p : Nat) (v : Part) : (s.setPart p v).copies = s.copies := rfl
@[simp] theorem setPart_dirty (s : State) (p : Nat) (v : Part) : (s.setPart p v).dirty = s.dirty := rfl
@[simp] theorem setPart_badCopies (s : State) (p : Nat) (v : Part) : (s.setPart p v).badCopies = s.badCopies := rfl
@[simp] theorem setPart_nodeNames (s : State) (p : Nat) (v : Part) : (s.setPart p v).nodeNames = s.nodeNames := rfl
@[simp] theorem setPart_nodeCopies (s : State) (p : Nat) (v : Part) : (s.setPart p v).nodeCopies = s.nodeCopies := rfl
@[simp] theorem setPart_reqs (s : State) (p : Nat) (v : Part) : (s.setPart p v).reqs = s.reqs := rfl
@[simp] theorem setPart_smap (s : State) (p : Nat) (v : Part) : (s.setPart p v).smap = s.smap := rfl
@[simp] theorem setPart_smGen (s : State) (p : Nat) (v : Part) : (s.setPart p v).smGen = s.smGen := rfl
@[simp] theorem setPart_change (s : State) (p : Nat) (v : Part) : (s.setPart p v).change = s.change := rfl
@[simp] theorem setPart_stubs (s : State) (p : Nat) (v : Part) : (s.setPart p v).stubs = s.stubs := rfl
@[simp] theorem setPart_leaving (s : State) (p : Nat) (v : Part) : (s.setPart p v).leaving = s.leaving := rfl
@[simp] theorem setPart_notes (s : State) (p : Nat) (v : Part) : (s.setPart p v).notes = s.notes := rfl
@[simp] theorem setPart_extents (s : State) (p : Nat) (v : Part) : (s.setPart p v).extents = s.extents := rfl
@[simp] theorem setPart_monitors (s : State) (p : Nat) (v : Part) : (s.setPart p v).monitors = s.monitors := rfl
@[simp] theorem setPart_notices (s : State) (p : Nat) (v : Part) : (s.setPart p v).notices = s.notices := rfl
@[simp] theorem setPart_xdrain (s : State) (p : Nat) (v : Part) : (s.setPart p v).xdrain = s.xdrain := rfl
@[simp] theorem setPart_rvsync (s : State) (p : Nat) (v : Part) : (s.setPart p v).rvsync = s.rvsync := rfl
@[simp] theorem setPart_rvAsn (s : State) (p : Nat) (v : Part) : (s.setPart p v).rvAsn = s.rvAsn := rfl
@[simp] theorem setPart_acked (s : State) (p : Nat) (v : Part) : (s.setPart p v).acked = s.acked := rfl
@[simp] theorem setPart_freed (s : State) (p : Nat) (v : Part) : (s.setPart p v).freed = s.freed := rfl
@[simp] theorem setPart_extinvs (s : State) (p : Nat) (v : Part) : (s.setPart p v).extinvs = s.extinvs := rfl
@[simp] theorem setPart_takers (s : State) (p : Nat) (v : Part) : (s.setPart p v).takers = s.takers := rfl
@[simp] theorem setPart_rdmems (s : State) (p : Nat) (v : Part) : (s.setPart p v).rdmems = s.rdmems := rfl
@[simp] theorem setPart_acks (s : State) (p : Nat) (v : Part) : (s.setPart p v).acks = s.acks := rfl
@[simp] theorem setPart_farRevoked (s : State) (p : Nat) (v : Part) : (s.setPart p v).farRevoked = s.farRevoked := rfl
@[simp] theorem setPart_remotes (s : State) (p : Nat) (v : Part) : (s.setPart p v).remotes = s.remotes := rfl
@[simp] theorem setPart_marks (s : State) (p : Nat) (v : Part) : (s.setPart p v).marks = s.marks := rfl
@[simp] theorem setPart_qholds (s : State) (p : Nat) (v : Part) : (s.setPart p v).qholds = s.qholds := rfl
@[simp] theorem setPart_farWatches (s : State) (p : Nat) (v : Part) : (s.setPart p v).farWatches = s.farWatches := rfl
@[simp] theorem setPart_tickets (s : State) (p : Nat) (v : Part) : (s.setPart p v).tickets = s.tickets := rfl
@[simp] theorem setPart_nextTicket (s : State) (p : Nat) (v : Part) : (s.setPart p v).nextTicket = s.nextTicket := rfl
@[simp] theorem setPart_cosy (s : State) (p : Nat) (v : Part) : (s.setPart p v).cosy = s.cosy := rfl
@[simp] theorem setPart_cosyQ (s : State) (p : Nat) (v : Part) : (s.setPart p v).cosyQ = s.cosyQ := rfl
@[simp] theorem setPart_msgs (s : State) (p : Nat) (v : Part) : (s.setPart p v).msgs = s.msgs := rfl
@[simp] theorem setPart_batches (s : State) (p : Nat) (v : Part) : (s.setPart p v).batches = s.batches := rfl
@[simp] theorem setPart_partials (s : State) (p : Nat) (v : Part) : (s.setPart p v).partials = s.partials := rfl
@[simp] theorem setPart_arrived (s : State) (p : Nat) (v : Part) : (s.setPart p v).arrived = s.arrived := rfl
@[simp] theorem setPart_hwWrites (s : State) (p : Nat) (v : Part) : (s.setPart p v).hwWrites = s.hwWrites := rfl
@[simp] theorem setPart_retries (s : State) (p : Nat) (v : Part) : (s.setPart p v).retries = s.retries := rfl
@[simp] theorem setPart_placing (s : State) (p : Nat) (v : Part) : (s.setPart p v).placing = s.placing := rfl
@[simp] theorem setPart_txBusy (s : State) (p : Nat) (v : Part) : (s.setPart p v).txBusy = s.txBusy := rfl
@[simp] theorem setPart_txWait (s : State) (p : Nat) (v : Part) : (s.setPart p v).txWait = s.txWait := rfl
@[simp] theorem setPart_psRaised (s : State) (p : Nat) (v : Part) : (s.setPart p v).psRaised = s.psRaised := rfl
@[simp] theorem setPart_inbound (s : State) (p : Nat) (v : Part) : (s.setPart p v).inbound = s.inbound := rfl
@[simp] theorem setPart_granted (s : State) (p : Nat) (v : Part) : (s.setPart p v).granted = s.granted := rfl
@[simp] theorem setPart_seqNums (s : State) (p : Nat) (v : Part) : (s.setPart p v).seqNums = s.seqNums := rfl
@[simp] theorem setPart_windows (s : State) (p : Nat) (v : Part) : (s.setPart p v).windows = s.windows := rfl
@[simp] theorem setPart_held (s : State) (p : Nat) (v : Part) : (s.setPart p v).held = s.held := rfl
@[simp] theorem setPart_rtable (s : State) (p : Nat) (v : Part) : (s.setPart p v).rtable = s.rtable := rfl
@[simp] theorem setPart_vectors (s : State) (p : Nat) (v : Part) : (s.setPart p v).vectors = s.vectors := rfl
@[simp] theorem setPart_sent (s : State) (p : Nat) (v : Part) : (s.setPart p v).sent = s.sent := rfl
@[simp] theorem setPart_regs (s : State) (p : Nat) (v : Part) : (s.setPart p v).regs = s.regs := rfl
@[simp] theorem setPart_trust (s : State) (p : Nat) (v : Part) : (s.setPart p v).trust = s.trust := rfl
@[simp] theorem setPart_health (s : State) (p : Nat) (v : Part) : (s.setPart p v).health = s.health := rfl
@[simp] theorem setPart_boot (s : State) (p : Nat) (v : Part) : (s.setPart p v).boot = s.boot := rfl

@[simp] theorem setPart_same (s : State) (k : Nat) (v : Part) : (s.setPart k v).part k = v := getD_set_same ..
@[simp] theorem setPart_other (s : State) {k d : Nat} (v : Part) (h : d ≠ k) : (s.setPart k v).part d = s.part d := getD_set_other _ _ _ h

/-! ### setCore -/

@[simp] theorem setCore_turn (s : State) (c : Nat) (v : Core) : (s.setCore c v).turn = s.turn := rfl
@[simp] theorem setCore_agenda (s : State) (c : Nat) (v : Core) : (s.setCore c v).agenda = s.agenda := rfl
@[simp] theorem setCore_cur (s : State) (c : Nat) (v : Core) : (s.setCore c v).cur = s.cur := rfl
@[simp] theorem setCore_ticks (s : State) (c : Nat) (v : Core) : (s.setCore c v).ticks = s.ticks := rfl
@[simp] theorem setCore_bits (s : State) (c : Nat) (v : Core) : (s.setCore c v).bits = s.bits := rfl
@[simp] theorem setCore_picks (s : State) (c : Nat) (v : Core) : (s.setCore c v).picks = s.picks := rfl
@[simp] theorem setCore_flaws (s : State) (c : Nat) (v : Core) : (s.setCore c v).flaws = s.flaws := rfl
@[simp] theorem setCore_tick (s : State) (c : Nat) (v : Core) : (s.setCore c v).tick = s.tick := rfl
@[simp] theorem setCore_round (s : State) (c : Nat) (v : Core) : (s.setCore c v).round = s.round := rfl
@[simp] theorem setCore_now (s : State) (c : Nat) (v : Core) : (s.setCore c v).now = s.now := rfl
@[simp] theorem setCore_cyc (s : State) (c : Nat) (v : Core) : (s.setCore c v).cyc = s.cyc := rfl
@[simp] theorem setCore_cseq (s : State) (c : Nat) (v : Core) : (s.setCore c v).cseq = s.cseq := rfl
@[simp] theorem setCore_ctls (s : State) (c : Nat) (v : Core) : (s.setCore c v).ctls = s.ctls := rfl
@[simp] theorem setCore_groups (s : State) (c : Nat) (v : Core) : (s.setCore c v).groups = s.groups := rfl
@[simp] theorem setCore_teams (s : State) (c : Nat) (v : Core) : (s.setCore c v).teams = s.teams := rfl
@[simp] theorem setCore_grids (s : State) (c : Nat) (v : Core) : (s.setCore c v).grids = s.grids := rfl
@[simp] theorem setCore_parts (s : State) (c : Nat) (v : Core) : (s.setCore c v).parts = s.parts := rfl
@[simp] theorem setCore_shadows (s : State) (c : Nat) (v : Core) : (s.setCore c v).shadows = s.shadows := rfl
@[simp] theorem setCore_clusters (s : State) (c : Nat) (v : Core) : (s.setCore c v).clusters = s.clusters := rfl
@[simp] theorem setCore_queued (s : State) (c : Nat) (v : Core) : (s.setCore c v).queued = s.queued := rfl
@[simp] theorem setCore_service (s : State) (c : Nat) (v : Core) : (s.setCore c v).service = s.service := rfl
@[simp] theorem setCore_services (s : State) (c : Nat) (v : Core) : (s.setCore c v).services = s.services := rfl
@[simp] theorem setCore_mem (s : State) (c : Nat) (v : Core) : (s.setCore c v).mem = s.mem := rfl
@[simp] theorem setCore_tags (s : State) (c : Nat) (v : Core) : (s.setCore c v).tags = s.tags := rfl
@[simp] theorem setCore_poison (s : State) (c : Nat) (v : Core) : (s.setCore c v).poison = s.poison := rfl
@[simp] theorem setCore_keyed (s : State) (c : Nat) (v : Core) : (s.setCore c v).keyed = s.keyed := rfl
@[simp] theorem setCore_lpddr (s : State) (c : Nat) (v : Core) : (s.setCore c v).lpddr = s.lpddr := rfl
@[simp] theorem setCore_dir (s : State) (c : Nat) (v : Core) : (s.setCore c v).dir = s.dir := rfl
@[simp] theorem setCore_copies (s : State) (c : Nat) (v : Core) : (s.setCore c v).copies = s.copies := rfl
@[simp] theorem setCore_dirty (s : State) (c : Nat) (v : Core) : (s.setCore c v).dirty = s.dirty := rfl
@[simp] theorem setCore_badCopies (s : State) (c : Nat) (v : Core) : (s.setCore c v).badCopies = s.badCopies := rfl
@[simp] theorem setCore_nodeNames (s : State) (c : Nat) (v : Core) : (s.setCore c v).nodeNames = s.nodeNames := rfl
@[simp] theorem setCore_nodeCopies (s : State) (c : Nat) (v : Core) : (s.setCore c v).nodeCopies = s.nodeCopies := rfl
@[simp] theorem setCore_reqs (s : State) (c : Nat) (v : Core) : (s.setCore c v).reqs = s.reqs := rfl
@[simp] theorem setCore_smap (s : State) (c : Nat) (v : Core) : (s.setCore c v).smap = s.smap := rfl
@[simp] theorem setCore_smGen (s : State) (c : Nat) (v : Core) : (s.setCore c v).smGen = s.smGen := rfl
@[simp] theorem setCore_change (s : State) (c : Nat) (v : Core) : (s.setCore c v).change = s.change := rfl
@[simp] theorem setCore_stubs (s : State) (c : Nat) (v : Core) : (s.setCore c v).stubs = s.stubs := rfl
@[simp] theorem setCore_leaving (s : State) (c : Nat) (v : Core) : (s.setCore c v).leaving = s.leaving := rfl
@[simp] theorem setCore_notes (s : State) (c : Nat) (v : Core) : (s.setCore c v).notes = s.notes := rfl
@[simp] theorem setCore_extents (s : State) (c : Nat) (v : Core) : (s.setCore c v).extents = s.extents := rfl
@[simp] theorem setCore_monitors (s : State) (c : Nat) (v : Core) : (s.setCore c v).monitors = s.monitors := rfl
@[simp] theorem setCore_notices (s : State) (c : Nat) (v : Core) : (s.setCore c v).notices = s.notices := rfl
@[simp] theorem setCore_xdrain (s : State) (c : Nat) (v : Core) : (s.setCore c v).xdrain = s.xdrain := rfl
@[simp] theorem setCore_rvsync (s : State) (c : Nat) (v : Core) : (s.setCore c v).rvsync = s.rvsync := rfl
@[simp] theorem setCore_rvAsn (s : State) (c : Nat) (v : Core) : (s.setCore c v).rvAsn = s.rvAsn := rfl
@[simp] theorem setCore_acked (s : State) (c : Nat) (v : Core) : (s.setCore c v).acked = s.acked := rfl
@[simp] theorem setCore_freed (s : State) (c : Nat) (v : Core) : (s.setCore c v).freed = s.freed := rfl
@[simp] theorem setCore_extinvs (s : State) (c : Nat) (v : Core) : (s.setCore c v).extinvs = s.extinvs := rfl
@[simp] theorem setCore_takers (s : State) (c : Nat) (v : Core) : (s.setCore c v).takers = s.takers := rfl
@[simp] theorem setCore_rdmems (s : State) (c : Nat) (v : Core) : (s.setCore c v).rdmems = s.rdmems := rfl
@[simp] theorem setCore_acks (s : State) (c : Nat) (v : Core) : (s.setCore c v).acks = s.acks := rfl
@[simp] theorem setCore_farRevoked (s : State) (c : Nat) (v : Core) : (s.setCore c v).farRevoked = s.farRevoked := rfl
@[simp] theorem setCore_remotes (s : State) (c : Nat) (v : Core) : (s.setCore c v).remotes = s.remotes := rfl
@[simp] theorem setCore_marks (s : State) (c : Nat) (v : Core) : (s.setCore c v).marks = s.marks := rfl
@[simp] theorem setCore_qholds (s : State) (c : Nat) (v : Core) : (s.setCore c v).qholds = s.qholds := rfl
@[simp] theorem setCore_farWatches (s : State) (c : Nat) (v : Core) : (s.setCore c v).farWatches = s.farWatches := rfl
@[simp] theorem setCore_tickets (s : State) (c : Nat) (v : Core) : (s.setCore c v).tickets = s.tickets := rfl
@[simp] theorem setCore_nextTicket (s : State) (c : Nat) (v : Core) : (s.setCore c v).nextTicket = s.nextTicket := rfl
@[simp] theorem setCore_cosy (s : State) (c : Nat) (v : Core) : (s.setCore c v).cosy = s.cosy := rfl
@[simp] theorem setCore_cosyQ (s : State) (c : Nat) (v : Core) : (s.setCore c v).cosyQ = s.cosyQ := rfl
@[simp] theorem setCore_msgs (s : State) (c : Nat) (v : Core) : (s.setCore c v).msgs = s.msgs := rfl
@[simp] theorem setCore_batches (s : State) (c : Nat) (v : Core) : (s.setCore c v).batches = s.batches := rfl
@[simp] theorem setCore_partials (s : State) (c : Nat) (v : Core) : (s.setCore c v).partials = s.partials := rfl
@[simp] theorem setCore_arrived (s : State) (c : Nat) (v : Core) : (s.setCore c v).arrived = s.arrived := rfl
@[simp] theorem setCore_hwWrites (s : State) (c : Nat) (v : Core) : (s.setCore c v).hwWrites = s.hwWrites := rfl
@[simp] theorem setCore_retries (s : State) (c : Nat) (v : Core) : (s.setCore c v).retries = s.retries := rfl
@[simp] theorem setCore_placing (s : State) (c : Nat) (v : Core) : (s.setCore c v).placing = s.placing := rfl
@[simp] theorem setCore_txBusy (s : State) (c : Nat) (v : Core) : (s.setCore c v).txBusy = s.txBusy := rfl
@[simp] theorem setCore_txWait (s : State) (c : Nat) (v : Core) : (s.setCore c v).txWait = s.txWait := rfl
@[simp] theorem setCore_psRaised (s : State) (c : Nat) (v : Core) : (s.setCore c v).psRaised = s.psRaised := rfl
@[simp] theorem setCore_inbound (s : State) (c : Nat) (v : Core) : (s.setCore c v).inbound = s.inbound := rfl
@[simp] theorem setCore_granted (s : State) (c : Nat) (v : Core) : (s.setCore c v).granted = s.granted := rfl
@[simp] theorem setCore_seqNums (s : State) (c : Nat) (v : Core) : (s.setCore c v).seqNums = s.seqNums := rfl
@[simp] theorem setCore_windows (s : State) (c : Nat) (v : Core) : (s.setCore c v).windows = s.windows := rfl
@[simp] theorem setCore_held (s : State) (c : Nat) (v : Core) : (s.setCore c v).held = s.held := rfl
@[simp] theorem setCore_rtable (s : State) (c : Nat) (v : Core) : (s.setCore c v).rtable = s.rtable := rfl
@[simp] theorem setCore_vectors (s : State) (c : Nat) (v : Core) : (s.setCore c v).vectors = s.vectors := rfl
@[simp] theorem setCore_sent (s : State) (c : Nat) (v : Core) : (s.setCore c v).sent = s.sent := rfl
@[simp] theorem setCore_regs (s : State) (c : Nat) (v : Core) : (s.setCore c v).regs = s.regs := rfl
@[simp] theorem setCore_trust (s : State) (c : Nat) (v : Core) : (s.setCore c v).trust = s.trust := rfl
@[simp] theorem setCore_health (s : State) (c : Nat) (v : Core) : (s.setCore c v).health = s.health := rfl
@[simp] theorem setCore_boot (s : State) (c : Nat) (v : Core) : (s.setCore c v).boot = s.boot := rfl

@[simp] theorem setCore_same (s : State) (k : Nat) (v : Core) : (s.setCore k v).core k = v := getD_set_same ..
@[simp] theorem setCore_other (s : State) {k d : Nat} (v : Core) (h : d ≠ k) : (s.setCore k v).core d = s.core d := getD_set_other _ _ _ h

/-! ### setCluster -/

@[simp] theorem setCluster_turn (s : State) (c : Nat) (v : Cluster) : (s.setCluster c v).turn = s.turn := rfl
@[simp] theorem setCluster_agenda (s : State) (c : Nat) (v : Cluster) : (s.setCluster c v).agenda = s.agenda := rfl
@[simp] theorem setCluster_cur (s : State) (c : Nat) (v : Cluster) : (s.setCluster c v).cur = s.cur := rfl
@[simp] theorem setCluster_ticks (s : State) (c : Nat) (v : Cluster) : (s.setCluster c v).ticks = s.ticks := rfl
@[simp] theorem setCluster_bits (s : State) (c : Nat) (v : Cluster) : (s.setCluster c v).bits = s.bits := rfl
@[simp] theorem setCluster_picks (s : State) (c : Nat) (v : Cluster) : (s.setCluster c v).picks = s.picks := rfl
@[simp] theorem setCluster_flaws (s : State) (c : Nat) (v : Cluster) : (s.setCluster c v).flaws = s.flaws := rfl
@[simp] theorem setCluster_tick (s : State) (c : Nat) (v : Cluster) : (s.setCluster c v).tick = s.tick := rfl
@[simp] theorem setCluster_round (s : State) (c : Nat) (v : Cluster) : (s.setCluster c v).round = s.round := rfl
@[simp] theorem setCluster_now (s : State) (c : Nat) (v : Cluster) : (s.setCluster c v).now = s.now := rfl
@[simp] theorem setCluster_cyc (s : State) (c : Nat) (v : Cluster) : (s.setCluster c v).cyc = s.cyc := rfl
@[simp] theorem setCluster_cseq (s : State) (c : Nat) (v : Cluster) : (s.setCluster c v).cseq = s.cseq := rfl
@[simp] theorem setCluster_ctls (s : State) (c : Nat) (v : Cluster) : (s.setCluster c v).ctls = s.ctls := rfl
@[simp] theorem setCluster_groups (s : State) (c : Nat) (v : Cluster) : (s.setCluster c v).groups = s.groups := rfl
@[simp] theorem setCluster_teams (s : State) (c : Nat) (v : Cluster) : (s.setCluster c v).teams = s.teams := rfl
@[simp] theorem setCluster_grids (s : State) (c : Nat) (v : Cluster) : (s.setCluster c v).grids = s.grids := rfl
@[simp] theorem setCluster_parts (s : State) (c : Nat) (v : Cluster) : (s.setCluster c v).parts = s.parts := rfl
@[simp] theorem setCluster_shadows (s : State) (c : Nat) (v : Cluster) : (s.setCluster c v).shadows = s.shadows := rfl
@[simp] theorem setCluster_cores (s : State) (c : Nat) (v : Cluster) : (s.setCluster c v).cores = s.cores := rfl
@[simp] theorem setCluster_queued (s : State) (c : Nat) (v : Cluster) : (s.setCluster c v).queued = s.queued := rfl
@[simp] theorem setCluster_service (s : State) (c : Nat) (v : Cluster) : (s.setCluster c v).service = s.service := rfl
@[simp] theorem setCluster_services (s : State) (c : Nat) (v : Cluster) : (s.setCluster c v).services = s.services := rfl
@[simp] theorem setCluster_mem (s : State) (c : Nat) (v : Cluster) : (s.setCluster c v).mem = s.mem := rfl
@[simp] theorem setCluster_tags (s : State) (c : Nat) (v : Cluster) : (s.setCluster c v).tags = s.tags := rfl
@[simp] theorem setCluster_poison (s : State) (c : Nat) (v : Cluster) : (s.setCluster c v).poison = s.poison := rfl
@[simp] theorem setCluster_keyed (s : State) (c : Nat) (v : Cluster) : (s.setCluster c v).keyed = s.keyed := rfl
@[simp] theorem setCluster_lpddr (s : State) (c : Nat) (v : Cluster) : (s.setCluster c v).lpddr = s.lpddr := rfl
@[simp] theorem setCluster_dir (s : State) (c : Nat) (v : Cluster) : (s.setCluster c v).dir = s.dir := rfl
@[simp] theorem setCluster_copies (s : State) (c : Nat) (v : Cluster) : (s.setCluster c v).copies = s.copies := rfl
@[simp] theorem setCluster_dirty (s : State) (c : Nat) (v : Cluster) : (s.setCluster c v).dirty = s.dirty := rfl
@[simp] theorem setCluster_badCopies (s : State) (c : Nat) (v : Cluster) : (s.setCluster c v).badCopies = s.badCopies := rfl
@[simp] theorem setCluster_nodeNames (s : State) (c : Nat) (v : Cluster) : (s.setCluster c v).nodeNames = s.nodeNames := rfl
@[simp] theorem setCluster_nodeCopies (s : State) (c : Nat) (v : Cluster) : (s.setCluster c v).nodeCopies = s.nodeCopies := rfl
@[simp] theorem setCluster_reqs (s : State) (c : Nat) (v : Cluster) : (s.setCluster c v).reqs = s.reqs := rfl
@[simp] theorem setCluster_smap (s : State) (c : Nat) (v : Cluster) : (s.setCluster c v).smap = s.smap := rfl
@[simp] theorem setCluster_smGen (s : State) (c : Nat) (v : Cluster) : (s.setCluster c v).smGen = s.smGen := rfl
@[simp] theorem setCluster_change (s : State) (c : Nat) (v : Cluster) : (s.setCluster c v).change = s.change := rfl
@[simp] theorem setCluster_stubs (s : State) (c : Nat) (v : Cluster) : (s.setCluster c v).stubs = s.stubs := rfl
@[simp] theorem setCluster_leaving (s : State) (c : Nat) (v : Cluster) : (s.setCluster c v).leaving = s.leaving := rfl
@[simp] theorem setCluster_notes (s : State) (c : Nat) (v : Cluster) : (s.setCluster c v).notes = s.notes := rfl
@[simp] theorem setCluster_extents (s : State) (c : Nat) (v : Cluster) : (s.setCluster c v).extents = s.extents := rfl
@[simp] theorem setCluster_monitors (s : State) (c : Nat) (v : Cluster) : (s.setCluster c v).monitors = s.monitors := rfl
@[simp] theorem setCluster_notices (s : State) (c : Nat) (v : Cluster) : (s.setCluster c v).notices = s.notices := rfl
@[simp] theorem setCluster_xdrain (s : State) (c : Nat) (v : Cluster) : (s.setCluster c v).xdrain = s.xdrain := rfl
@[simp] theorem setCluster_rvsync (s : State) (c : Nat) (v : Cluster) : (s.setCluster c v).rvsync = s.rvsync := rfl
@[simp] theorem setCluster_rvAsn (s : State) (c : Nat) (v : Cluster) : (s.setCluster c v).rvAsn = s.rvAsn := rfl
@[simp] theorem setCluster_acked (s : State) (c : Nat) (v : Cluster) : (s.setCluster c v).acked = s.acked := rfl
@[simp] theorem setCluster_freed (s : State) (c : Nat) (v : Cluster) : (s.setCluster c v).freed = s.freed := rfl
@[simp] theorem setCluster_extinvs (s : State) (c : Nat) (v : Cluster) : (s.setCluster c v).extinvs = s.extinvs := rfl
@[simp] theorem setCluster_takers (s : State) (c : Nat) (v : Cluster) : (s.setCluster c v).takers = s.takers := rfl
@[simp] theorem setCluster_rdmems (s : State) (c : Nat) (v : Cluster) : (s.setCluster c v).rdmems = s.rdmems := rfl
@[simp] theorem setCluster_acks (s : State) (c : Nat) (v : Cluster) : (s.setCluster c v).acks = s.acks := rfl
@[simp] theorem setCluster_farRevoked (s : State) (c : Nat) (v : Cluster) : (s.setCluster c v).farRevoked = s.farRevoked := rfl
@[simp] theorem setCluster_remotes (s : State) (c : Nat) (v : Cluster) : (s.setCluster c v).remotes = s.remotes := rfl
@[simp] theorem setCluster_marks (s : State) (c : Nat) (v : Cluster) : (s.setCluster c v).marks = s.marks := rfl
@[simp] theorem setCluster_qholds (s : State) (c : Nat) (v : Cluster) : (s.setCluster c v).qholds = s.qholds := rfl
@[simp] theorem setCluster_farWatches (s : State) (c : Nat) (v : Cluster) : (s.setCluster c v).farWatches = s.farWatches := rfl
@[simp] theorem setCluster_tickets (s : State) (c : Nat) (v : Cluster) : (s.setCluster c v).tickets = s.tickets := rfl
@[simp] theorem setCluster_nextTicket (s : State) (c : Nat) (v : Cluster) : (s.setCluster c v).nextTicket = s.nextTicket := rfl
@[simp] theorem setCluster_cosy (s : State) (c : Nat) (v : Cluster) : (s.setCluster c v).cosy = s.cosy := rfl
@[simp] theorem setCluster_cosyQ (s : State) (c : Nat) (v : Cluster) : (s.setCluster c v).cosyQ = s.cosyQ := rfl
@[simp] theorem setCluster_msgs (s : State) (c : Nat) (v : Cluster) : (s.setCluster c v).msgs = s.msgs := rfl
@[simp] theorem setCluster_batches (s : State) (c : Nat) (v : Cluster) : (s.setCluster c v).batches = s.batches := rfl
@[simp] theorem setCluster_partials (s : State) (c : Nat) (v : Cluster) : (s.setCluster c v).partials = s.partials := rfl
@[simp] theorem setCluster_arrived (s : State) (c : Nat) (v : Cluster) : (s.setCluster c v).arrived = s.arrived := rfl
@[simp] theorem setCluster_hwWrites (s : State) (c : Nat) (v : Cluster) : (s.setCluster c v).hwWrites = s.hwWrites := rfl
@[simp] theorem setCluster_retries (s : State) (c : Nat) (v : Cluster) : (s.setCluster c v).retries = s.retries := rfl
@[simp] theorem setCluster_placing (s : State) (c : Nat) (v : Cluster) : (s.setCluster c v).placing = s.placing := rfl
@[simp] theorem setCluster_txBusy (s : State) (c : Nat) (v : Cluster) : (s.setCluster c v).txBusy = s.txBusy := rfl
@[simp] theorem setCluster_txWait (s : State) (c : Nat) (v : Cluster) : (s.setCluster c v).txWait = s.txWait := rfl
@[simp] theorem setCluster_psRaised (s : State) (c : Nat) (v : Cluster) : (s.setCluster c v).psRaised = s.psRaised := rfl
@[simp] theorem setCluster_inbound (s : State) (c : Nat) (v : Cluster) : (s.setCluster c v).inbound = s.inbound := rfl
@[simp] theorem setCluster_granted (s : State) (c : Nat) (v : Cluster) : (s.setCluster c v).granted = s.granted := rfl
@[simp] theorem setCluster_seqNums (s : State) (c : Nat) (v : Cluster) : (s.setCluster c v).seqNums = s.seqNums := rfl
@[simp] theorem setCluster_windows (s : State) (c : Nat) (v : Cluster) : (s.setCluster c v).windows = s.windows := rfl
@[simp] theorem setCluster_held (s : State) (c : Nat) (v : Cluster) : (s.setCluster c v).held = s.held := rfl
@[simp] theorem setCluster_rtable (s : State) (c : Nat) (v : Cluster) : (s.setCluster c v).rtable = s.rtable := rfl
@[simp] theorem setCluster_vectors (s : State) (c : Nat) (v : Cluster) : (s.setCluster c v).vectors = s.vectors := rfl
@[simp] theorem setCluster_sent (s : State) (c : Nat) (v : Cluster) : (s.setCluster c v).sent = s.sent := rfl
@[simp] theorem setCluster_regs (s : State) (c : Nat) (v : Cluster) : (s.setCluster c v).regs = s.regs := rfl
@[simp] theorem setCluster_trust (s : State) (c : Nat) (v : Cluster) : (s.setCluster c v).trust = s.trust := rfl
@[simp] theorem setCluster_health (s : State) (c : Nat) (v : Cluster) : (s.setCluster c v).health = s.health := rfl
@[simp] theorem setCluster_boot (s : State) (c : Nat) (v : Cluster) : (s.setCluster c v).boot = s.boot := rfl

@[simp] theorem setCluster_same (s : State) (k : Nat) (v : Cluster) : (s.setCluster k v).cluster k = v := getD_set_same ..
@[simp] theorem setCluster_other (s : State) {k d : Nat} (v : Cluster) (h : d ≠ k) : (s.setCluster k v).cluster d = s.cluster d := getD_set_other _ _ _ h

/-! ### raise -/

@[simp] theorem raise_turn (s : State) (v : Nat) : (s.raise v).turn = s.turn := rfl
@[simp] theorem raise_agenda (s : State) (v : Nat) : (s.raise v).agenda = s.agenda := rfl
@[simp] theorem raise_cur (s : State) (v : Nat) : (s.raise v).cur = s.cur := rfl
@[simp] theorem raise_ticks (s : State) (v : Nat) : (s.raise v).ticks = s.ticks := rfl
@[simp] theorem raise_bits (s : State) (v : Nat) : (s.raise v).bits = s.bits := rfl
@[simp] theorem raise_picks (s : State) (v : Nat) : (s.raise v).picks = s.picks := rfl
@[simp] theorem raise_flaws (s : State) (v : Nat) : (s.raise v).flaws = s.flaws := rfl
@[simp] theorem raise_tick (s : State) (v : Nat) : (s.raise v).tick = s.tick := rfl
@[simp] theorem raise_round (s : State) (v : Nat) : (s.raise v).round = s.round := rfl
@[simp] theorem raise_now (s : State) (v : Nat) : (s.raise v).now = s.now := rfl
@[simp] theorem raise_cyc (s : State) (v : Nat) : (s.raise v).cyc = s.cyc := rfl
@[simp] theorem raise_cseq (s : State) (v : Nat) : (s.raise v).cseq = s.cseq := rfl
@[simp] theorem raise_ctls (s : State) (v : Nat) : (s.raise v).ctls = s.ctls := rfl
@[simp] theorem raise_groups (s : State) (v : Nat) : (s.raise v).groups = s.groups := rfl
@[simp] theorem raise_teams (s : State) (v : Nat) : (s.raise v).teams = s.teams := rfl
@[simp] theorem raise_grids (s : State) (v : Nat) : (s.raise v).grids = s.grids := rfl
@[simp] theorem raise_parts (s : State) (v : Nat) : (s.raise v).parts = s.parts := rfl
@[simp] theorem raise_shadows (s : State) (v : Nat) : (s.raise v).shadows = s.shadows := rfl
@[simp] theorem raise_cores (s : State) (v : Nat) : (s.raise v).cores = s.cores := rfl
@[simp] theorem raise_clusters (s : State) (v : Nat) : (s.raise v).clusters = s.clusters := rfl
@[simp] theorem raise_queued (s : State) (v : Nat) : (s.raise v).queued = s.queued := rfl
@[simp] theorem raise_service (s : State) (v : Nat) : (s.raise v).service = s.service := rfl
@[simp] theorem raise_services (s : State) (v : Nat) : (s.raise v).services = s.services := rfl
@[simp] theorem raise_mem (s : State) (v : Nat) : (s.raise v).mem = s.mem := rfl
@[simp] theorem raise_tags (s : State) (v : Nat) : (s.raise v).tags = s.tags := rfl
@[simp] theorem raise_poison (s : State) (v : Nat) : (s.raise v).poison = s.poison := rfl
@[simp] theorem raise_keyed (s : State) (v : Nat) : (s.raise v).keyed = s.keyed := rfl
@[simp] theorem raise_lpddr (s : State) (v : Nat) : (s.raise v).lpddr = s.lpddr := rfl
@[simp] theorem raise_dir (s : State) (v : Nat) : (s.raise v).dir = s.dir := rfl
@[simp] theorem raise_copies (s : State) (v : Nat) : (s.raise v).copies = s.copies := rfl
@[simp] theorem raise_dirty (s : State) (v : Nat) : (s.raise v).dirty = s.dirty := rfl
@[simp] theorem raise_badCopies (s : State) (v : Nat) : (s.raise v).badCopies = s.badCopies := rfl
@[simp] theorem raise_nodeNames (s : State) (v : Nat) : (s.raise v).nodeNames = s.nodeNames := rfl
@[simp] theorem raise_nodeCopies (s : State) (v : Nat) : (s.raise v).nodeCopies = s.nodeCopies := rfl
@[simp] theorem raise_reqs (s : State) (v : Nat) : (s.raise v).reqs = s.reqs := rfl
@[simp] theorem raise_smap (s : State) (v : Nat) : (s.raise v).smap = s.smap := rfl
@[simp] theorem raise_smGen (s : State) (v : Nat) : (s.raise v).smGen = s.smGen := rfl
@[simp] theorem raise_change (s : State) (v : Nat) : (s.raise v).change = s.change := rfl
@[simp] theorem raise_stubs (s : State) (v : Nat) : (s.raise v).stubs = s.stubs := rfl
@[simp] theorem raise_leaving (s : State) (v : Nat) : (s.raise v).leaving = s.leaving := rfl
@[simp] theorem raise_notes (s : State) (v : Nat) : (s.raise v).notes = s.notes := rfl
@[simp] theorem raise_extents (s : State) (v : Nat) : (s.raise v).extents = s.extents := rfl
@[simp] theorem raise_monitors (s : State) (v : Nat) : (s.raise v).monitors = s.monitors := rfl
@[simp] theorem raise_notices (s : State) (v : Nat) : (s.raise v).notices = s.notices := rfl
@[simp] theorem raise_xdrain (s : State) (v : Nat) : (s.raise v).xdrain = s.xdrain := rfl
@[simp] theorem raise_rvsync (s : State) (v : Nat) : (s.raise v).rvsync = s.rvsync := rfl
@[simp] theorem raise_rvAsn (s : State) (v : Nat) : (s.raise v).rvAsn = s.rvAsn := rfl
@[simp] theorem raise_acked (s : State) (v : Nat) : (s.raise v).acked = s.acked := rfl
@[simp] theorem raise_freed (s : State) (v : Nat) : (s.raise v).freed = s.freed := rfl
@[simp] theorem raise_extinvs (s : State) (v : Nat) : (s.raise v).extinvs = s.extinvs := rfl
@[simp] theorem raise_takers (s : State) (v : Nat) : (s.raise v).takers = s.takers := rfl
@[simp] theorem raise_rdmems (s : State) (v : Nat) : (s.raise v).rdmems = s.rdmems := rfl
@[simp] theorem raise_acks (s : State) (v : Nat) : (s.raise v).acks = s.acks := rfl
@[simp] theorem raise_farRevoked (s : State) (v : Nat) : (s.raise v).farRevoked = s.farRevoked := rfl
@[simp] theorem raise_remotes (s : State) (v : Nat) : (s.raise v).remotes = s.remotes := rfl
@[simp] theorem raise_marks (s : State) (v : Nat) : (s.raise v).marks = s.marks := rfl
@[simp] theorem raise_qholds (s : State) (v : Nat) : (s.raise v).qholds = s.qholds := rfl
@[simp] theorem raise_farWatches (s : State) (v : Nat) : (s.raise v).farWatches = s.farWatches := rfl
@[simp] theorem raise_tickets (s : State) (v : Nat) : (s.raise v).tickets = s.tickets := rfl
@[simp] theorem raise_nextTicket (s : State) (v : Nat) : (s.raise v).nextTicket = s.nextTicket := rfl
@[simp] theorem raise_cosy (s : State) (v : Nat) : (s.raise v).cosy = s.cosy := rfl
@[simp] theorem raise_cosyQ (s : State) (v : Nat) : (s.raise v).cosyQ = s.cosyQ := rfl
@[simp] theorem raise_msgs (s : State) (v : Nat) : (s.raise v).msgs = s.msgs := rfl
@[simp] theorem raise_batches (s : State) (v : Nat) : (s.raise v).batches = s.batches := rfl
@[simp] theorem raise_partials (s : State) (v : Nat) : (s.raise v).partials = s.partials := rfl
@[simp] theorem raise_arrived (s : State) (v : Nat) : (s.raise v).arrived = s.arrived := rfl
@[simp] theorem raise_hwWrites (s : State) (v : Nat) : (s.raise v).hwWrites = s.hwWrites := rfl
@[simp] theorem raise_retries (s : State) (v : Nat) : (s.raise v).retries = s.retries := rfl
@[simp] theorem raise_placing (s : State) (v : Nat) : (s.raise v).placing = s.placing := rfl
@[simp] theorem raise_txBusy (s : State) (v : Nat) : (s.raise v).txBusy = s.txBusy := rfl
@[simp] theorem raise_txWait (s : State) (v : Nat) : (s.raise v).txWait = s.txWait := rfl
@[simp] theorem raise_psRaised (s : State) (v : Nat) : (s.raise v).psRaised = s.psRaised := rfl
@[simp] theorem raise_inbound (s : State) (v : Nat) : (s.raise v).inbound = s.inbound := rfl
@[simp] theorem raise_granted (s : State) (v : Nat) : (s.raise v).granted = s.granted := rfl
@[simp] theorem raise_seqNums (s : State) (v : Nat) : (s.raise v).seqNums = s.seqNums := rfl
@[simp] theorem raise_windows (s : State) (v : Nat) : (s.raise v).windows = s.windows := rfl
@[simp] theorem raise_held (s : State) (v : Nat) : (s.raise v).held = s.held := rfl
@[simp] theorem raise_rtable (s : State) (v : Nat) : (s.raise v).rtable = s.rtable := rfl
@[simp] theorem raise_sent (s : State) (v : Nat) : (s.raise v).sent = s.sent := rfl
@[simp] theorem raise_regs (s : State) (v : Nat) : (s.raise v).regs = s.regs := rfl
@[simp] theorem raise_trust (s : State) (v : Nat) : (s.raise v).trust = s.trust := rfl
@[simp] theorem raise_health (s : State) (v : Nat) : (s.raise v).health = s.health := rfl
@[simp] theorem raise_boot (s : State) (v : Nat) : (s.raise v).boot = s.boot := rfl

@[simp] theorem raise_vectors (s : State) (v : Nat) : (s.raise v).vectors = sInsert s.vectors v := rfl

/-! ### setGroup -/

@[simp] theorem setGroup_turn (s : State) (w : Who) (g : Group) : (s.setGroup w g).turn = s.turn := by cases w <;> rfl
@[simp] theorem setGroup_agenda (s : State) (w : Who) (g : Group) : (s.setGroup w g).agenda = s.agenda := by cases w <;> rfl
@[simp] theorem setGroup_cur (s : State) (w : Who) (g : Group) : (s.setGroup w g).cur = s.cur := by cases w <;> rfl
@[simp] theorem setGroup_ticks (s : State) (w : Who) (g : Group) : (s.setGroup w g).ticks = s.ticks := by cases w <;> rfl
@[simp] theorem setGroup_bits (s : State) (w : Who) (g : Group) : (s.setGroup w g).bits = s.bits := by cases w <;> rfl
@[simp] theorem setGroup_picks (s : State) (w : Who) (g : Group) : (s.setGroup w g).picks = s.picks := by cases w <;> rfl
@[simp] theorem setGroup_flaws (s : State) (w : Who) (g : Group) : (s.setGroup w g).flaws = s.flaws := by cases w <;> rfl
@[simp] theorem setGroup_tick (s : State) (w : Who) (g : Group) : (s.setGroup w g).tick = s.tick := by cases w <;> rfl
@[simp] theorem setGroup_round (s : State) (w : Who) (g : Group) : (s.setGroup w g).round = s.round := by cases w <;> rfl
@[simp] theorem setGroup_now (s : State) (w : Who) (g : Group) : (s.setGroup w g).now = s.now := by cases w <;> rfl
@[simp] theorem setGroup_cyc (s : State) (w : Who) (g : Group) : (s.setGroup w g).cyc = s.cyc := by cases w <;> rfl
@[simp] theorem setGroup_cseq (s : State) (w : Who) (g : Group) : (s.setGroup w g).cseq = s.cseq := by cases w <;> rfl
@[simp] theorem setGroup_teams (s : State) (w : Who) (g : Group) : (s.setGroup w g).teams = s.teams := by cases w <;> rfl
@[simp] theorem setGroup_grids (s : State) (w : Who) (g : Group) : (s.setGroup w g).grids = s.grids := by cases w <;> rfl
@[simp] theorem setGroup_parts (s : State) (w : Who) (g : Group) : (s.setGroup w g).parts = s.parts := by cases w <;> rfl
@[simp] theorem setGroup_shadows (s : State) (w : Who) (g : Group) : (s.setGroup w g).shadows = s.shadows := by cases w <;> rfl
@[simp] theorem setGroup_cores (s : State) (w : Who) (g : Group) : (s.setGroup w g).cores = s.cores := by cases w <;> rfl
@[simp] theorem setGroup_clusters (s : State) (w : Who) (g : Group) : (s.setGroup w g).clusters = s.clusters := by cases w <;> rfl
@[simp] theorem setGroup_queued (s : State) (w : Who) (g : Group) : (s.setGroup w g).queued = s.queued := by cases w <;> rfl
@[simp] theorem setGroup_service (s : State) (w : Who) (g : Group) : (s.setGroup w g).service = s.service := by cases w <;> rfl
@[simp] theorem setGroup_services (s : State) (w : Who) (g : Group) : (s.setGroup w g).services = s.services := by cases w <;> rfl
@[simp] theorem setGroup_mem (s : State) (w : Who) (g : Group) : (s.setGroup w g).mem = s.mem := by cases w <;> rfl
@[simp] theorem setGroup_tags (s : State) (w : Who) (g : Group) : (s.setGroup w g).tags = s.tags := by cases w <;> rfl
@[simp] theorem setGroup_poison (s : State) (w : Who) (g : Group) : (s.setGroup w g).poison = s.poison := by cases w <;> rfl
@[simp] theorem setGroup_keyed (s : State) (w : Who) (g : Group) : (s.setGroup w g).keyed = s.keyed := by cases w <;> rfl
@[simp] theorem setGroup_lpddr (s : State) (w : Who) (g : Group) : (s.setGroup w g).lpddr = s.lpddr := by cases w <;> rfl
@[simp] theorem setGroup_dir (s : State) (w : Who) (g : Group) : (s.setGroup w g).dir = s.dir := by cases w <;> rfl
@[simp] theorem setGroup_copies (s : State) (w : Who) (g : Group) : (s.setGroup w g).copies = s.copies := by cases w <;> rfl
@[simp] theorem setGroup_dirty (s : State) (w : Who) (g : Group) : (s.setGroup w g).dirty = s.dirty := by cases w <;> rfl
@[simp] theorem setGroup_badCopies (s : State) (w : Who) (g : Group) : (s.setGroup w g).badCopies = s.badCopies := by cases w <;> rfl
@[simp] theorem setGroup_nodeNames (s : State) (w : Who) (g : Group) : (s.setGroup w g).nodeNames = s.nodeNames := by cases w <;> rfl
@[simp] theorem setGroup_nodeCopies (s : State) (w : Who) (g : Group) : (s.setGroup w g).nodeCopies = s.nodeCopies := by cases w <;> rfl
@[simp] theorem setGroup_reqs (s : State) (w : Who) (g : Group) : (s.setGroup w g).reqs = s.reqs := by cases w <;> rfl
@[simp] theorem setGroup_smap (s : State) (w : Who) (g : Group) : (s.setGroup w g).smap = s.smap := by cases w <;> rfl
@[simp] theorem setGroup_smGen (s : State) (w : Who) (g : Group) : (s.setGroup w g).smGen = s.smGen := by cases w <;> rfl
@[simp] theorem setGroup_change (s : State) (w : Who) (g : Group) : (s.setGroup w g).change = s.change := by cases w <;> rfl
@[simp] theorem setGroup_stubs (s : State) (w : Who) (g : Group) : (s.setGroup w g).stubs = s.stubs := by cases w <;> rfl
@[simp] theorem setGroup_leaving (s : State) (w : Who) (g : Group) : (s.setGroup w g).leaving = s.leaving := by cases w <;> rfl
@[simp] theorem setGroup_notes (s : State) (w : Who) (g : Group) : (s.setGroup w g).notes = s.notes := by cases w <;> rfl
@[simp] theorem setGroup_extents (s : State) (w : Who) (g : Group) : (s.setGroup w g).extents = s.extents := by cases w <;> rfl
@[simp] theorem setGroup_monitors (s : State) (w : Who) (g : Group) : (s.setGroup w g).monitors = s.monitors := by cases w <;> rfl
@[simp] theorem setGroup_notices (s : State) (w : Who) (g : Group) : (s.setGroup w g).notices = s.notices := by cases w <;> rfl
@[simp] theorem setGroup_xdrain (s : State) (w : Who) (g : Group) : (s.setGroup w g).xdrain = s.xdrain := by cases w <;> rfl
@[simp] theorem setGroup_rvsync (s : State) (w : Who) (g : Group) : (s.setGroup w g).rvsync = s.rvsync := by cases w <;> rfl
@[simp] theorem setGroup_rvAsn (s : State) (w : Who) (g : Group) : (s.setGroup w g).rvAsn = s.rvAsn := by cases w <;> rfl
@[simp] theorem setGroup_acked (s : State) (w : Who) (g : Group) : (s.setGroup w g).acked = s.acked := by cases w <;> rfl
@[simp] theorem setGroup_freed (s : State) (w : Who) (g : Group) : (s.setGroup w g).freed = s.freed := by cases w <;> rfl
@[simp] theorem setGroup_extinvs (s : State) (w : Who) (g : Group) : (s.setGroup w g).extinvs = s.extinvs := by cases w <;> rfl
@[simp] theorem setGroup_takers (s : State) (w : Who) (g : Group) : (s.setGroup w g).takers = s.takers := by cases w <;> rfl
@[simp] theorem setGroup_rdmems (s : State) (w : Who) (g : Group) : (s.setGroup w g).rdmems = s.rdmems := by cases w <;> rfl
@[simp] theorem setGroup_acks (s : State) (w : Who) (g : Group) : (s.setGroup w g).acks = s.acks := by cases w <;> rfl
@[simp] theorem setGroup_farRevoked (s : State) (w : Who) (g : Group) : (s.setGroup w g).farRevoked = s.farRevoked := by cases w <;> rfl
@[simp] theorem setGroup_remotes (s : State) (w : Who) (g : Group) : (s.setGroup w g).remotes = s.remotes := by cases w <;> rfl
@[simp] theorem setGroup_marks (s : State) (w : Who) (g : Group) : (s.setGroup w g).marks = s.marks := by cases w <;> rfl
@[simp] theorem setGroup_qholds (s : State) (w : Who) (g : Group) : (s.setGroup w g).qholds = s.qholds := by cases w <;> rfl
@[simp] theorem setGroup_farWatches (s : State) (w : Who) (g : Group) : (s.setGroup w g).farWatches = s.farWatches := by cases w <;> rfl
@[simp] theorem setGroup_tickets (s : State) (w : Who) (g : Group) : (s.setGroup w g).tickets = s.tickets := by cases w <;> rfl
@[simp] theorem setGroup_nextTicket (s : State) (w : Who) (g : Group) : (s.setGroup w g).nextTicket = s.nextTicket := by cases w <;> rfl
@[simp] theorem setGroup_cosy (s : State) (w : Who) (g : Group) : (s.setGroup w g).cosy = s.cosy := by cases w <;> rfl
@[simp] theorem setGroup_cosyQ (s : State) (w : Who) (g : Group) : (s.setGroup w g).cosyQ = s.cosyQ := by cases w <;> rfl
@[simp] theorem setGroup_msgs (s : State) (w : Who) (g : Group) : (s.setGroup w g).msgs = s.msgs := by cases w <;> rfl
@[simp] theorem setGroup_batches (s : State) (w : Who) (g : Group) : (s.setGroup w g).batches = s.batches := by cases w <;> rfl
@[simp] theorem setGroup_partials (s : State) (w : Who) (g : Group) : (s.setGroup w g).partials = s.partials := by cases w <;> rfl
@[simp] theorem setGroup_arrived (s : State) (w : Who) (g : Group) : (s.setGroup w g).arrived = s.arrived := by cases w <;> rfl
@[simp] theorem setGroup_hwWrites (s : State) (w : Who) (g : Group) : (s.setGroup w g).hwWrites = s.hwWrites := by cases w <;> rfl
@[simp] theorem setGroup_retries (s : State) (w : Who) (g : Group) : (s.setGroup w g).retries = s.retries := by cases w <;> rfl
@[simp] theorem setGroup_placing (s : State) (w : Who) (g : Group) : (s.setGroup w g).placing = s.placing := by cases w <;> rfl
@[simp] theorem setGroup_txBusy (s : State) (w : Who) (g : Group) : (s.setGroup w g).txBusy = s.txBusy := by cases w <;> rfl
@[simp] theorem setGroup_txWait (s : State) (w : Who) (g : Group) : (s.setGroup w g).txWait = s.txWait := by cases w <;> rfl
@[simp] theorem setGroup_psRaised (s : State) (w : Who) (g : Group) : (s.setGroup w g).psRaised = s.psRaised := by cases w <;> rfl
@[simp] theorem setGroup_inbound (s : State) (w : Who) (g : Group) : (s.setGroup w g).inbound = s.inbound := by cases w <;> rfl
@[simp] theorem setGroup_granted (s : State) (w : Who) (g : Group) : (s.setGroup w g).granted = s.granted := by cases w <;> rfl
@[simp] theorem setGroup_seqNums (s : State) (w : Who) (g : Group) : (s.setGroup w g).seqNums = s.seqNums := by cases w <;> rfl
@[simp] theorem setGroup_windows (s : State) (w : Who) (g : Group) : (s.setGroup w g).windows = s.windows := by cases w <;> rfl
@[simp] theorem setGroup_held (s : State) (w : Who) (g : Group) : (s.setGroup w g).held = s.held := by cases w <;> rfl
@[simp] theorem setGroup_rtable (s : State) (w : Who) (g : Group) : (s.setGroup w g).rtable = s.rtable := by cases w <;> rfl
@[simp] theorem setGroup_vectors (s : State) (w : Who) (g : Group) : (s.setGroup w g).vectors = s.vectors := by cases w <;> rfl
@[simp] theorem setGroup_sent (s : State) (w : Who) (g : Group) : (s.setGroup w g).sent = s.sent := by cases w <;> rfl
@[simp] theorem setGroup_regs (s : State) (w : Who) (g : Group) : (s.setGroup w g).regs = s.regs := by cases w <;> rfl
@[simp] theorem setGroup_trust (s : State) (w : Who) (g : Group) : (s.setGroup w g).trust = s.trust := by cases w <;> rfl
@[simp] theorem setGroup_health (s : State) (w : Who) (g : Group) : (s.setGroup w g).health = s.health := by cases w <;> rfl
@[simp] theorem setGroup_boot (s : State) (w : Who) (g : Group) : (s.setGroup w g).boot = s.boot := by cases w <;> rfl

@[simp] theorem setGroup_grp_groups (s : State) (k : Nat) (g : Group) : (s.setGroup (.grp k) g).groups = s.groups.set k g := rfl
@[simp] theorem setGroup_grp_ctls (s : State) (k : Nat) (g : Group) : (s.setGroup (.grp k) g).ctls = s.ctls := rfl
@[simp] theorem setGroup_ctl_groups (s : State) (n : Nat) (g : Group) : (s.setGroup (.ctl n) g).groups = s.groups := rfl

/-- The group read back; a number of 128 or more names no control core. -/
theorem setGroup_same (s : State) (w : Who) (g : Group) (h : ∀ n, w = .ctl n → n < 128) : (s.setGroup w g).group? w = some g := by
  cases w with
  | ctl n => simp [State.setGroup, State.group?, h n rfl]
  | grp k => simp [State.setGroup, State.group?]

/-- Another group is not changed. -/
theorem setGroup_other (s : State) (w d : Who) (g : Group) (h : d ≠ w) : (s.setGroup w g).group? d = s.group? d := by
  cases w <;> cases d <;> simp_all [State.setGroup, State.group?, State.setCtl, State.ctl]

/-! ### modLane -/

@[simp] theorem modLane_sregs (g : Group) (i : Nat) (f : Lane → Lane) : (g.modLane i f).sregs = g.sregs := rfl
@[simp] theorem modLane_acaps (g : Group) (i : Nat) (f : Lane → Lane) : (g.modLane i f).acaps = g.acaps := rfl
@[simp] theorem modLane_wb (g : Group) (i : Nat) (f : Lane → Lane) : (g.modLane i f).wb = g.wb := rfl
@[simp] theorem modLane_rstack (g : Group) (i : Nat) (f : Lane → Lane) : (g.modLane i f).rstack = g.rstack := rfl
@[simp] theorem modLane_bcast (g : Group) (i : Nat) (f : Lane → Lane) : (g.modLane i f).bcast = g.bcast := rfl
@[simp] theorem modLane_holder (g : Group) (i : Nat) (f : Lane → Lane) : (g.modLane i f).holder = g.holder := rfl
@[simp] theorem modLane_crossing (g : Group) (i : Nat) (f : Lane → Lane) : (g.modLane i f).crossing = g.crossing := rfl
@[simp] theorem modLane_snap (g : Group) (i : Nat) (f : Lane → Lane) : (g.modLane i f).snap = g.snap := rfl
@[simp] theorem modLane_issueQ (g : Group) (i : Nat) (f : Lane → Lane) : (g.modLane i f).issueQ = g.issueQ := rfl
@[simp] theorem modLane_stalled (g : Group) (i : Nat) (f : Lane → Lane) : (g.modLane i f).stalled = g.stalled := rfl
@[simp] theorem modLane_endPending (g : Group) (i : Nat) (f : Lane → Lane) : (g.modLane i f).endPending = g.endPending := rfl
@[simp] theorem modLane_runOpen (g : Group) (i : Nat) (f : Lane → Lane) : (g.modLane i f).runOpen = g.runOpen := rfl
@[simp] theorem modLane_served (g : Group) (i : Nat) (f : Lane → Lane) : (g.modLane i f).served = g.served := rfl
@[simp] theorem modLane_period (g : Group) (i : Nat) (f : Lane → Lane) : (g.modLane i f).period = g.period := rfl
@[simp] theorem modLane_expired (g : Group) (i : Nat) (f : Lane → Lane) : (g.modLane i f).expired = g.expired := rfl
@[simp] theorem modLane_steep (g : Group) (i : Nat) (f : Lane → Lane) : (g.modLane i f).steep = g.steep := rfl
@[simp] theorem modLane_steepAt (g : Group) (i : Nat) (f : Lane → Lane) : (g.modLane i f).steepAt = g.steepAt := rfl
@[simp] theorem modLane_steepDue (g : Group) (i : Nat) (f : Lane → Lane) : (g.modLane i f).steepDue = g.steepDue := rfl
@[simp] theorem modLane_yieldDue (g : Group) (i : Nat) (f : Lane → Lane) : (g.modLane i f).yieldDue = g.yieldDue := rfl
@[simp] theorem modLane_laneProg (g : Group) (i : Nat) (f : Lane → Lane) : (g.modLane i f).laneProg = g.laneProg := rfl
@[simp] theorem modLane_gstat (g : Group) (i : Nat) (f : Lane → Lane) : (g.modLane i f).gstat = g.gstat := rfl
@[simp] theorem modLane_role (g : Group) (i : Nat) (f : Lane → Lane) : (g.modLane i f).role = g.role := rfl
@[simp] theorem modLane_alloc (g : Group) (i : Nat) (f : Lane → Lane) : (g.modLane i f).alloc = g.alloc := rfl
@[simp] theorem modLane_tcore (g : Group) (i : Nat) (f : Lane → Lane) : (g.modLane i f).tcore = g.tcore := rfl
@[simp] theorem modLane_team (g : Group) (i : Nat) (f : Lane → Lane) : (g.modLane i f).team = g.team := rfl
@[simp] theorem modLane_gix (g : Group) (i : Nat) (f : Lane → Lane) : (g.modLane i f).gix = g.gix := rfl
@[simp] theorem modLane_launch (g : Group) (i : Nat) (f : Lane → Lane) : (g.modLane i f).launch = g.launch := rfl
@[simp] theorem modLane_asn (g : Group) (i : Nat) (f : Lane → Lane) : (g.modLane i f).asn = g.asn := rfl
@[simp] theorem modLane_svpart (g : Group) (i : Nat) (f : Lane → Lane) : (g.modLane i f).svpart = g.svpart := rfl
@[simp] theorem modLane_fpRM (g : Group) (i : Nat) (f : Lane → Lane) : (g.modLane i f).fpRM = g.fpRM := rfl
@[simp] theorem modLane_fpARM (g : Group) (i : Nat) (f : Lane → Lane) : (g.modLane i f).fpARM = g.fpARM := rfl
@[simp] theorem modLane_txRetry (g : Group) (i : Nat) (f : Lane → Lane) : (g.modLane i f).txRetry = g.txRetry := rfl
@[simp] theorem modLane_txValp (g : Group) (i : Nat) (f : Lane → Lane) : (g.modLane i f).txValp = g.txValp := rfl
@[simp] theorem modLane_trap (g : Group) (i : Nat) (f : Lane → Lane) : (g.modLane i f).trap = g.trap := rfl
@[simp] theorem modLane_trapSave (g : Group) (i : Nat) (f : Lane → Lane) : (g.modLane i f).trapSave = g.trapSave := rfl
@[simp] theorem modLane_stc (g : Group) (i : Nat) (f : Lane → Lane) : (g.modLane i f).stc = g.stc := rfl
@[simp] theorem modLane_charges (g : Group) (i : Nat) (f : Lane → Lane) : (g.modLane i f).charges = g.charges := rfl
@[simp] theorem modLane_paid (g : Group) (i : Nat) (f : Lane → Lane) : (g.modLane i f).paid = g.paid := rfl
@[simp] theorem modLane_cls (g : Group) (i : Nat) (f : Lane → Lane) : (g.modLane i f).cls = g.cls := rfl
@[simp] theorem modLane_beats (g : Group) (i : Nat) (f : Lane → Lane) : (g.modLane i f).beats = g.beats := rfl
@[simp] theorem modLane_watch (g : Group) (i : Nat) (f : Lane → Lane) : (g.modLane i f).watch = g.watch := rfl
@[simp] theorem modLane_holds (g : Group) (i : Nat) (f : Lane → Lane) : (g.modLane i f).holds = g.holds := rfl
@[simp] theorem modLane_status (g : Group) (i : Nat) (f : Lane → Lane) : (g.modLane i f).status = g.status := rfl
@[simp] theorem modLane_wait (g : Group) (i : Nat) (f : Lane → Lane) : (g.modLane i f).wait = g.wait := rfl
@[simp] theorem modLane_waitDone (g : Group) (i : Nat) (f : Lane → Lane) : (g.modLane i f).waitDone = g.waitDone := rfl
@[simp] theorem modLane_name (g : Group) (i : Nat) (f : Lane → Lane) : (g.modLane i f).name = g.name := rfl
@[simp] theorem modLane_place (g : Group) (i : Nat) (f : Lane → Lane) : (g.modLane i f).place = g.place := rfl
@[simp] theorem modLane_marked (g : Group) (i : Nat) (f : Lane → Lane) : (g.modLane i f).marked = g.marked := rfl
@[simp] theorem modLane_trapDue (g : Group) (i : Nat) (f : Lane → Lane) : (g.modLane i f).trapDue = g.trapDue := rfl
@[simp] theorem modLane_pdone (g : Group) (i : Nat) (f : Lane → Lane) : (g.modLane i f).pdone = g.pdone := rfl
@[simp] theorem modLane_inPreempt (g : Group) (i : Nat) (f : Lane → Lane) : (g.modLane i f).inPreempt = g.inPreempt := rfl
@[simp] theorem modLane_postBox (g : Group) (i : Nat) (f : Lane → Lane) : (g.modLane i f).postBox = g.postBox := rfl
@[simp] theorem modLane_readySince (g : Group) (i : Nat) (f : Lane → Lane) : (g.modLane i f).readySince = g.readySince := rfl
@[simp] theorem modLane_lastIssue (g : Group) (i : Nat) (f : Lane → Lane) : (g.modLane i f).lastIssue = g.lastIssue := rfl
@[simp] theorem modLane_dbgStop (g : Group) (i : Nat) (f : Lane → Lane) : (g.modLane i f).dbgStop = g.dbgStop := rfl
@[simp] theorem modLane_haltDue (g : Group) (i : Nat) (f : Lane → Lane) : (g.modLane i f).haltDue = g.haltDue := rfl
@[simp] theorem modLane_stopCause (g : Group) (i : Nat) (f : Lane → Lane) : (g.modLane i f).stopCause = g.stopCause := rfl
@[simp] theorem modLane_stopSeats (g : Group) (i : Nat) (f : Lane → Lane) : (g.modLane i f).stopSeats = g.stopSeats := rfl
@[simp] theorem modLane_stopFor (g : Group) (i : Nat) (f : Lane → Lane) : (g.modLane i f).stopFor = g.stopFor := rfl
@[simp] theorem modLane_skipStop (g : Group) (i : Nat) (f : Lane → Lane) : (g.modLane i f).skipStop = g.skipStop := rfl
@[simp] theorem modLane_badSregs (g : Group) (i : Nat) (f : Lane → Lane) : (g.modLane i f).badSregs = g.badSregs := rfl
@[simp] theorem modLane_fmts (g : Group) (i : Nat) (f : Lane → Lane) : (g.modLane i f).fmts = g.fmts := rfl
@[simp] theorem modLane_failed (g : Group) (i : Nat) (f : Lane → Lane) : (g.modLane i f).failed = g.failed := rfl
@[simp] theorem modLane_cut (g : Group) (i : Nat) (f : Lane → Lane) : (g.modLane i f).cut = g.cut := rfl
@[simp] theorem modLane_moveDue (g : Group) (i : Nat) (f : Lane → Lane) : (g.modLane i f).moveDue = g.moveDue := rfl
@[simp] theorem modLane_saved (g : Group) (i : Nat) (f : Lane → Lane) : (g.modLane i f).saved = g.saved := rfl
@[simp] theorem modLane_halted (g : Group) (i : Nat) (f : Lane → Lane) : (g.modLane i f).halted = g.halted := rfl
@[simp] theorem modLane_ended (g : Group) (i : Nat) (f : Lane → Lane) : (g.modLane i f).ended = g.ended := rfl

/-! ### modLanes -/

@[simp] theorem modLanes_sregs (g : Group) (seats : List Nat) (f : Nat → Lane → Lane) : (g.modLanes seats f).sregs = g.sregs := rfl
@[simp] theorem modLanes_acaps (g : Group) (seats : List Nat) (f : Nat → Lane → Lane) : (g.modLanes seats f).acaps = g.acaps := rfl
@[simp] theorem modLanes_wb (g : Group) (seats : List Nat) (f : Nat → Lane → Lane) : (g.modLanes seats f).wb = g.wb := rfl
@[simp] theorem modLanes_rstack (g : Group) (seats : List Nat) (f : Nat → Lane → Lane) : (g.modLanes seats f).rstack = g.rstack := rfl
@[simp] theorem modLanes_bcast (g : Group) (seats : List Nat) (f : Nat → Lane → Lane) : (g.modLanes seats f).bcast = g.bcast := rfl
@[simp] theorem modLanes_holder (g : Group) (seats : List Nat) (f : Nat → Lane → Lane) : (g.modLanes seats f).holder = g.holder := rfl
@[simp] theorem modLanes_crossing (g : Group) (seats : List Nat) (f : Nat → Lane → Lane) : (g.modLanes seats f).crossing = g.crossing := rfl
@[simp] theorem modLanes_snap (g : Group) (seats : List Nat) (f : Nat → Lane → Lane) : (g.modLanes seats f).snap = g.snap := rfl
@[simp] theorem modLanes_issueQ (g : Group) (seats : List Nat) (f : Nat → Lane → Lane) : (g.modLanes seats f).issueQ = g.issueQ := rfl
@[simp] theorem modLanes_stalled (g : Group) (seats : List Nat) (f : Nat → Lane → Lane) : (g.modLanes seats f).stalled = g.stalled := rfl
@[simp] theorem modLanes_endPending (g : Group) (seats : List Nat) (f : Nat → Lane → Lane) : (g.modLanes seats f).endPending = g.endPending := rfl
@[simp] theorem modLanes_runOpen (g : Group) (seats : List Nat) (f : Nat → Lane → Lane) : (g.modLanes seats f).runOpen = g.runOpen := rfl
@[simp] theorem modLanes_served (g : Group) (seats : List Nat) (f : Nat → Lane → Lane) : (g.modLanes seats f).served = g.served := rfl
@[simp] theorem modLanes_period (g : Group) (seats : List Nat) (f : Nat → Lane → Lane) : (g.modLanes seats f).period = g.period := rfl
@[simp] theorem modLanes_expired (g : Group) (seats : List Nat) (f : Nat → Lane → Lane) : (g.modLanes seats f).expired = g.expired := rfl
@[simp] theorem modLanes_steep (g : Group) (seats : List Nat) (f : Nat → Lane → Lane) : (g.modLanes seats f).steep = g.steep := rfl
@[simp] theorem modLanes_steepAt (g : Group) (seats : List Nat) (f : Nat → Lane → Lane) : (g.modLanes seats f).steepAt = g.steepAt := rfl
@[simp] theorem modLanes_steepDue (g : Group) (seats : List Nat) (f : Nat → Lane → Lane) : (g.modLanes seats f).steepDue = g.steepDue := rfl
@[simp] theorem modLanes_yieldDue (g : Group) (seats : List Nat) (f : Nat → Lane → Lane) : (g.modLanes seats f).yieldDue = g.yieldDue := rfl
@[simp] theorem modLanes_laneProg (g : Group) (seats : List Nat) (f : Nat → Lane → Lane) : (g.modLanes seats f).laneProg = g.laneProg := rfl
@[simp] theorem modLanes_gstat (g : Group) (seats : List Nat) (f : Nat → Lane → Lane) : (g.modLanes seats f).gstat = g.gstat := rfl
@[simp] theorem modLanes_role (g : Group) (seats : List Nat) (f : Nat → Lane → Lane) : (g.modLanes seats f).role = g.role := rfl
@[simp] theorem modLanes_alloc (g : Group) (seats : List Nat) (f : Nat → Lane → Lane) : (g.modLanes seats f).alloc = g.alloc := rfl
@[simp] theorem modLanes_tcore (g : Group) (seats : List Nat) (f : Nat → Lane → Lane) : (g.modLanes seats f).tcore = g.tcore := rfl
@[simp] theorem modLanes_team (g : Group) (seats : List Nat) (f : Nat → Lane → Lane) : (g.modLanes seats f).team = g.team := rfl
@[simp] theorem modLanes_gix (g : Group) (seats : List Nat) (f : Nat → Lane → Lane) : (g.modLanes seats f).gix = g.gix := rfl
@[simp] theorem modLanes_launch (g : Group) (seats : List Nat) (f : Nat → Lane → Lane) : (g.modLanes seats f).launch = g.launch := rfl
@[simp] theorem modLanes_asn (g : Group) (seats : List Nat) (f : Nat → Lane → Lane) : (g.modLanes seats f).asn = g.asn := rfl
@[simp] theorem modLanes_svpart (g : Group) (seats : List Nat) (f : Nat → Lane → Lane) : (g.modLanes seats f).svpart = g.svpart := rfl
@[simp] theorem modLanes_fpRM (g : Group) (seats : List Nat) (f : Nat → Lane → Lane) : (g.modLanes seats f).fpRM = g.fpRM := rfl
@[simp] theorem modLanes_fpARM (g : Group) (seats : List Nat) (f : Nat → Lane → Lane) : (g.modLanes seats f).fpARM = g.fpARM := rfl
@[simp] theorem modLanes_txRetry (g : Group) (seats : List Nat) (f : Nat → Lane → Lane) : (g.modLanes seats f).txRetry = g.txRetry := rfl
@[simp] theorem modLanes_txValp (g : Group) (seats : List Nat) (f : Nat → Lane → Lane) : (g.modLanes seats f).txValp = g.txValp := rfl
@[simp] theorem modLanes_trap (g : Group) (seats : List Nat) (f : Nat → Lane → Lane) : (g.modLanes seats f).trap = g.trap := rfl
@[simp] theorem modLanes_trapSave (g : Group) (seats : List Nat) (f : Nat → Lane → Lane) : (g.modLanes seats f).trapSave = g.trapSave := rfl
@[simp] theorem modLanes_stc (g : Group) (seats : List Nat) (f : Nat → Lane → Lane) : (g.modLanes seats f).stc = g.stc := rfl
@[simp] theorem modLanes_charges (g : Group) (seats : List Nat) (f : Nat → Lane → Lane) : (g.modLanes seats f).charges = g.charges := rfl
@[simp] theorem modLanes_paid (g : Group) (seats : List Nat) (f : Nat → Lane → Lane) : (g.modLanes seats f).paid = g.paid := rfl
@[simp] theorem modLanes_cls (g : Group) (seats : List Nat) (f : Nat → Lane → Lane) : (g.modLanes seats f).cls = g.cls := rfl
@[simp] theorem modLanes_beats (g : Group) (seats : List Nat) (f : Nat → Lane → Lane) : (g.modLanes seats f).beats = g.beats := rfl
@[simp] theorem modLanes_watch (g : Group) (seats : List Nat) (f : Nat → Lane → Lane) : (g.modLanes seats f).watch = g.watch := rfl
@[simp] theorem modLanes_holds (g : Group) (seats : List Nat) (f : Nat → Lane → Lane) : (g.modLanes seats f).holds = g.holds := rfl
@[simp] theorem modLanes_status (g : Group) (seats : List Nat) (f : Nat → Lane → Lane) : (g.modLanes seats f).status = g.status := rfl
@[simp] theorem modLanes_wait (g : Group) (seats : List Nat) (f : Nat → Lane → Lane) : (g.modLanes seats f).wait = g.wait := rfl
@[simp] theorem modLanes_waitDone (g : Group) (seats : List Nat) (f : Nat → Lane → Lane) : (g.modLanes seats f).waitDone = g.waitDone := rfl
@[simp] theorem modLanes_name (g : Group) (seats : List Nat) (f : Nat → Lane → Lane) : (g.modLanes seats f).name = g.name := rfl
@[simp] theorem modLanes_place (g : Group) (seats : List Nat) (f : Nat → Lane → Lane) : (g.modLanes seats f).place = g.place := rfl
@[simp] theorem modLanes_marked (g : Group) (seats : List Nat) (f : Nat → Lane → Lane) : (g.modLanes seats f).marked = g.marked := rfl
@[simp] theorem modLanes_trapDue (g : Group) (seats : List Nat) (f : Nat → Lane → Lane) : (g.modLanes seats f).trapDue = g.trapDue := rfl
@[simp] theorem modLanes_pdone (g : Group) (seats : List Nat) (f : Nat → Lane → Lane) : (g.modLanes seats f).pdone = g.pdone := rfl
@[simp] theorem modLanes_inPreempt (g : Group) (seats : List Nat) (f : Nat → Lane → Lane) : (g.modLanes seats f).inPreempt = g.inPreempt := rfl
@[simp] theorem modLanes_postBox (g : Group) (seats : List Nat) (f : Nat → Lane → Lane) : (g.modLanes seats f).postBox = g.postBox := rfl
@[simp] theorem modLanes_readySince (g : Group) (seats : List Nat) (f : Nat → Lane → Lane) : (g.modLanes seats f).readySince = g.readySince := rfl
@[simp] theorem modLanes_lastIssue (g : Group) (seats : List Nat) (f : Nat → Lane → Lane) : (g.modLanes seats f).lastIssue = g.lastIssue := rfl
@[simp] theorem modLanes_dbgStop (g : Group) (seats : List Nat) (f : Nat → Lane → Lane) : (g.modLanes seats f).dbgStop = g.dbgStop := rfl
@[simp] theorem modLanes_haltDue (g : Group) (seats : List Nat) (f : Nat → Lane → Lane) : (g.modLanes seats f).haltDue = g.haltDue := rfl
@[simp] theorem modLanes_stopCause (g : Group) (seats : List Nat) (f : Nat → Lane → Lane) : (g.modLanes seats f).stopCause = g.stopCause := rfl
@[simp] theorem modLanes_stopSeats (g : Group) (seats : List Nat) (f : Nat → Lane → Lane) : (g.modLanes seats f).stopSeats = g.stopSeats := rfl
@[simp] theorem modLanes_stopFor (g : Group) (seats : List Nat) (f : Nat → Lane → Lane) : (g.modLanes seats f).stopFor = g.stopFor := rfl
@[simp] theorem modLanes_skipStop (g : Group) (seats : List Nat) (f : Nat → Lane → Lane) : (g.modLanes seats f).skipStop = g.skipStop := rfl
@[simp] theorem modLanes_badSregs (g : Group) (seats : List Nat) (f : Nat → Lane → Lane) : (g.modLanes seats f).badSregs = g.badSregs := rfl
@[simp] theorem modLanes_fmts (g : Group) (seats : List Nat) (f : Nat → Lane → Lane) : (g.modLanes seats f).fmts = g.fmts := rfl
@[simp] theorem modLanes_failed (g : Group) (seats : List Nat) (f : Nat → Lane → Lane) : (g.modLanes seats f).failed = g.failed := rfl
@[simp] theorem modLanes_cut (g : Group) (seats : List Nat) (f : Nat → Lane → Lane) : (g.modLanes seats f).cut = g.cut := rfl
@[simp] theorem modLanes_moveDue (g : Group) (seats : List Nat) (f : Nat → Lane → Lane) : (g.modLanes seats f).moveDue = g.moveDue := rfl
@[simp] theorem modLanes_saved (g : Group) (seats : List Nat) (f : Nat → Lane → Lane) : (g.modLanes seats f).saved = g.saved := rfl
@[simp] theorem modLanes_halted (g : Group) (seats : List Nat) (f : Nat → Lane → Lane) : (g.modLanes seats f).halted = g.halted := rfl
@[simp] theorem modLanes_ended (g : Group) (seats : List Nat) (f : Nat → Lane → Lane) : (g.modLanes seats f).ended = g.ended := rfl

@[simp] theorem modLanes_length (g : Group) (seats : List Nat) (f : Nat → Lane → Lane) : (g.modLanes seats f).lanes.length = g.lanes.length := by
  simp [Group.modLanes]

/-- The lane of a seat that is named, and of one that is not. -/
theorem modLanes_lane (g : Group) (seats : List Nat) (f : Nat → Lane → Lane) {i : Nat} (h : i < g.lanes.length) :
    (g.modLanes seats f).lane i = if seats.contains i then f i (g.lane i) else g.lane i := by
  simp [Group.modLanes, Group.lane, List.getD, h]

/-! ### setReg -/

@[simp] theorem setReg_thread (l : Lane) (n : Nat) (v : Word) (tag : Bool) : (l.setReg n v tag).thread = l.thread := rfl
@[simp] theorem setReg_pc (l : Lane) (n : Nat) (v : Word) (tag : Bool) : (l.setReg n v tag).pc = l.pc := rfl
@[simp] theorem setReg_mode (l : Lane) (n : Nat) (v : Word) (tag : Bool) : (l.setReg n v tag).mode = l.mode := rfl
@[simp] theorem setReg_held (l : Lane) (n : Nat) (v : Word) (tag : Bool) : (l.setReg n v tag).held = l.held := rfl
@[simp] theorem setReg_preds (l : Lane) (n : Nat) (v : Word) (tag : Bool) : (l.setReg n v tag).preds = l.preds := rfl
@[simp] theorem setReg_idx (l : Lane) (n : Nat) (v : Word) (tag : Bool) : (l.setReg n v tag).idx = l.idx := rfl
@[simp] theorem setReg_fl (l : Lane) (n : Nat) (v : Word) (tag : Bool) : (l.setReg n v tag).fl = l.fl := rfl
@[simp] theorem setReg_latches (l : Lane) (n : Nat) (v : Word) (tag : Bool) : (l.setReg n v tag).latches = l.latches := rfl
@[simp] theorem setReg_pushes (l : Lane) (n : Nat) (v : Word) (tag : Bool) : (l.setReg n v tag).pushes = l.pushes := rfl
@[simp] theorem setReg_badLatch (l : Lane) (n : Nat) (v : Word) (tag : Bool) : (l.setReg n v tag).badLatch = l.badLatch := rfl
@[simp] theorem setReg_count (l : Lane) (n : Nat) (v : Word) (tag : Bool) : (l.setReg n v tag).count = l.count := rfl
@[simp] theorem setReg_replays (l : Lane) (n : Nat) (v : Word) (tag : Bool) : (l.setReg n v tag).replays = l.replays := rfl
@[simp] theorem setReg_woke (l : Lane) (n : Nat) (v : Word) (tag : Bool) : (l.setReg n v tag).woke = l.woke := rfl
@[simp] theorem setReg_loopBuf (l : Lane) (n : Nat) (v : Word) (tag : Bool) : (l.setReg n v tag).loopBuf = l.loopBuf := rfl
@[simp] theorem setReg_tries (l : Lane) (n : Nat) (v : Word) (tag : Bool) : (l.setReg n v tag).tries = l.tries := rfl
@[simp] theorem setReg_tx (l : Lane) (n : Nat) (v : Word) (tag : Bool) : (l.setReg n v tag).tx = l.tx := rfl
@[simp] theorem setReg_lastExec (l : Lane) (n : Nat) (v : Word) (tag : Bool) : (l.setReg n v tag).lastExec = l.lastExec := rfl
@[simp] theorem setReg_meetFault (l : Lane) (n : Nat) (v : Word) (tag : Bool) : (l.setReg n v tag).meetFault = l.meetFault := rfl

/-! ### setPred -/

@[simp] theorem setPred_thread (l : Lane) (p : Nat) (v : Bool) : (l.setPred p v).thread = l.thread := by unfold Lane.setPred; split <;> rfl
@[simp] theorem setPred_pc (l : Lane) (p : Nat) (v : Bool) : (l.setPred p v).pc = l.pc := by unfold Lane.setPred; split <;> rfl
@[simp] theorem setPred_mode (l : Lane) (p : Nat) (v : Bool) : (l.setPred p v).mode = l.mode := by unfold Lane.setPred; split <;> rfl
@[simp] theorem setPred_held (l : Lane) (p : Nat) (v : Bool) : (l.setPred p v).held = l.held := by unfold Lane.setPred; split <;> rfl
@[simp] theorem setPred_regs (l : Lane) (p : Nat) (v : Bool) : (l.setPred p v).regs = l.regs := by unfold Lane.setPred; split <;> rfl
@[simp] theorem setPred_idx (l : Lane) (p : Nat) (v : Bool) : (l.setPred p v).idx = l.idx := by unfold Lane.setPred; split <;> rfl
@[simp] theorem setPred_fl (l : Lane) (p : Nat) (v : Bool) : (l.setPred p v).fl = l.fl := by unfold Lane.setPred; split <;> rfl
@[simp] theorem setPred_latches (l : Lane) (p : Nat) (v : Bool) : (l.setPred p v).latches = l.latches := by unfold Lane.setPred; split <;> rfl
@[simp] theorem setPred_pushes (l : Lane) (p : Nat) (v : Bool) : (l.setPred p v).pushes = l.pushes := by unfold Lane.setPred; split <;> rfl
@[simp] theorem setPred_badLatch (l : Lane) (p : Nat) (v : Bool) : (l.setPred p v).badLatch = l.badLatch := by unfold Lane.setPred; split <;> rfl
@[simp] theorem setPred_count (l : Lane) (p : Nat) (v : Bool) : (l.setPred p v).count = l.count := by unfold Lane.setPred; split <;> rfl
@[simp] theorem setPred_replays (l : Lane) (p : Nat) (v : Bool) : (l.setPred p v).replays = l.replays := by unfold Lane.setPred; split <;> rfl
@[simp] theorem setPred_woke (l : Lane) (p : Nat) (v : Bool) : (l.setPred p v).woke = l.woke := by unfold Lane.setPred; split <;> rfl
@[simp] theorem setPred_loopBuf (l : Lane) (p : Nat) (v : Bool) : (l.setPred p v).loopBuf = l.loopBuf := by unfold Lane.setPred; split <;> rfl
@[simp] theorem setPred_tries (l : Lane) (p : Nat) (v : Bool) : (l.setPred p v).tries = l.tries := by unfold Lane.setPred; split <;> rfl
@[simp] theorem setPred_tx (l : Lane) (p : Nat) (v : Bool) : (l.setPred p v).tx = l.tx := by unfold Lane.setPred; split <;> rfl
@[simp] theorem setPred_lastExec (l : Lane) (p : Nat) (v : Bool) : (l.setPred p v).lastExec = l.lastExec := by unfold Lane.setPred; split <;> rfl
@[simp] theorem setPred_meetFault (l : Lane) (p : Nat) (v : Bool) : (l.setPred p v).meetFault = l.meetFault := by unfold Lane.setPred; split <;> rfl

/-- A register read after a write to it, and after a write to another (R18 keeps n inside the allocation). -/
theorem setReg_same (l : Lane) {n : Nat} (v : Word) (tag : Bool) (h : n < l.regs.length) (d : Reg) :
    (l.setReg n v tag).regs.getD n d = ⟨v, tag, false⟩ := by
  simp [Lane.setReg, List.getD, h]

theorem setReg_other (l : Lane) {n m : Nat} (v : Word) (tag : Bool) (h : m ≠ n) (d : Reg) :
    (l.setReg n v tag).regs.getD m d = l.regs.getD m d := by
  simp [Lane.setReg, List.getD, h.symm]

end Sys2Proof.Laws
end

