-- ==== Sys2Proof/Laws/Trust.lean ====
section
/-! SUPPORT. Laws of the trust core: SHA-384 has 48 bytes, and extending a measurement register keeps the others (R420). -/

namespace Sys2Proof.Laws

open Sys2Proof Sys2Proof.Machine

@[simp] theorem leBytes_length (n v : Nat) : (leBytes n v).length = n := by
  induction n generalizing v with
  | zero => rfl
  | succ n ih => simp [leBytes, ih]

/-- SHA-384 of any message has 48 bytes. -/
@[simp] theorem sha384_length (bs : List Byte) : (sha384 bs).length = 48 := by
  simp [sha384, beBytes, List.length_flatMap] <;> rfl

/-- A measurement register after an extension is one of those before it, or the SHA-384 of one with the event's bytes (R420). -/
theorem extendMr_mem (s : State) (k : Nat) (e m : List Byte) (h : m ∈ (s.extendMr k e).trust.mrs) :
    m ∈ s.trust.mrs ∨ ∃ o ∈ s.trust.mrs, m = sha384 (o ++ e) := by
  obtain ⟨i, hi, rfl⟩ := List.getElem_of_mem h
  simp only [State.extendMr, List.getElem_modify]
  have hi' : i < s.trust.mrs.length := by simpa [State.extendMr] using hi
  split
  · exact .inr ⟨_, List.getElem_mem hi', rfl⟩
  · exact .inl (List.getElem_mem hi')

end Sys2Proof.Laws
end

