-- ==== Sys2Proof/Tests/Slice0.lean ====
section
/-! SUPPORT. Tests: ill-formed instructions that the checks refuse, words written out from the spec's encodings, single
steps on small states, and for each statement with hypotheses a witness that meets them. -/

namespace Sys2Proof.Tests

open Sys2Proof Sys2Proof.Machine Sys2Proof.Safety

/-! ### Ill-formed terms: one for each check of R32 -/

/-- A header without prefix, and one with a prefix. -/
def bare0 : Hdr := ⟨false, false, none⟩
def pre (ext : BitVec 16) (sc : BitVec 4) (ord : BitVec 3) : Hdr := ⟨false, false, some ⟨ext, sc, ord⟩⟩
def hN : Hdr := ⟨false, true, none⟩

theorem smoke_dest : illFormedBy (.iadd bare0 5 2 4 2) = [.dest] := by decide
theorem smoke_dest_special : illFormedBy (.iadd bare0 113 2 4 0) = [.dest] := by decide
theorem smoke_source : illFormedBy (.iadd bare0 4 3 2 2) = [.source] := by decide
theorem smoke_modifier : illFormedBy (.mov bare0 4 2 1) = [.modifier] := by decide
theorem smoke_pfxField : illFormedBy (.iadd (pre 1 0 0) 4 2 6 0) = [.pfxField] := by decide
theorem smoke_size : illFormedBy (.atom (pre 0x2000 0 1) 4 1 5 0) = [.size] := by decide
theorem smoke_order : illFormedBy (.ld (pre 0 0 3) 4 1 5 0) = [.order] := by decide
theorem smoke_rounding : illFormedBy (.fadd (pre 0 0 6) 4 2 6 0) = [.rounding] := by decide
theorem smoke_reserved : illFormedBy (.capset bare0 1 2 0 3) = [.reserved] := by decide
theorem smoke_condition : illFormedBy (.bra bare0 15 4) = [.condition] := by decide
theorem smoke_amount : illFormedBy (.shlRolImm bare0 4 2 false false 32) = [.amount] := by decide
theorem smoke_offset : illFormedBy (.loop bare0 0 1) = [.offset] := by decide
theorem smoke_noResult : illFormedBy (.nop hN) = [.noResult] := by decide

/-! ### Words written out from the worked encodings of the spec -/

/-- Words as the memory holds them. -/
def image (ws : List Nat) : List Byte := (ws.map wordBytes).flatten

/-- R14's first worked example: MOVI v2 with 0x12345678. -/
theorem decode_movi : decode (image [0x3F891A00, 0x18825678]) = .ok (.movi (pre 0x1234 0 0) 2 0x5678, 8) := rfl
/-- LD.acq.team v9, [a2 + v7 - 64]. -/
theorem decode_ld : decode (image [0x3F800012, 0x380920F0]) = .ok (.ld (pre 0 2 2) 9 2 7 0x10, 8) := rfl
/-- IADD with B set: v5, v3, s2. -/
theorem decode_iadd : decode (image [0x88050788]) = .ok (.iadd ⟨true, false, none⟩ 5 3 98 0, 4) := rfl
theorem decode_atomr : decode (image [0x3F800024, 0x3B051062]) = .ok (.atomr (pre 0 4 4) 5 1 3 2, 8) := rfl
theorem decode_copy : decode (image [0x3FD40000, 0x3D214E60]) = .ok (.copy (pre 0xA800 0 0) 4 2 9 102, 8) := rfl
theorem decode_hgive : decode (image [0x3DA91EC0]) = .ok (.hgive bare0 5 2 3 108, 4) := rfl
theorem decode_hmapr : decode (image [0x3D800291]) = .ok (.hmapr bare0 0 0 false 41, 4) := rfl
theorem decode_post : decode (image [0x3F80A043, 0x3E10A885]) = .ok (.post (pre 320 8 3) 2 1 5 8, 8) := rfl
theorem decode_tbegin : decode (image [0x3E800140]) = .ok (.tbegin bare0 20, 4) := rfl
theorem decode_csrr : decode (image [0x3F008E30]) = .ok (.csrr bare0 0x011 99, 4) := rfl
theorem decode_csrw : decode (image [0x3F630681]) = .ok (.csrw bare0 0xC60 104, 4) := rfl
theorem decode_larm : decode (image [0x3F105EA2]) = .ok (.larm bare0 2 11 106, 4) := rfl
theorem decode_lwait : decode (image [0x3F006703]) = .ok (.lwait bare0 12 112, 4) := rfl
theorem decode_ffma : decode (image [0x3F80048A, 0x21840208]) = .ok (.ffma (pre 9 1 2) 4 1 2 0, 8) := rfl
theorem decode_mma : decode (image [0x3F800001, 0x31020790]) = .ok (.mma (pre 0 0 1) 2 3 100 0, 8) := rfl
theorem decode_tst : decode (image [0x341B0245]) = .ok (.tst bare0 1 true 6 2 0x45, 4) := rfl
theorem decode_swapw : decode (image [0x3F800001, 0x30800000]) = .ok (.swapw (pre 0 0 1), 8) := rfl
theorem decode_scacc : decode (image [0x2B80CE01]) = .ok (.scacc bare0 0 103 0 1, 4) := rfl
/-- LOOP p2, 18 words back: OFS19 holds -18. -/
theorem decode_loop : decode (image [0x0317FFEE]) = .ok (.loop bare0 2 0x7FFEE, 4) := rfl
theorem decode_bsync : decode (image [0x03B8000D]) = .ok (.bsync bare0 13, 4) := rfl
theorem decode_andImm : decode (image [0x1595280F]) = .ok (.andImm bare0 21 20 15, 4) := rfl
/-- imm17 = 33 of a store: prefix bits [16:5] = 1, imm5 = 1. -/
theorem decode_st : decode (image [0x3F800080, 0xB8E70E01]) = .ok (.st ⟨true, false, some ⟨1, 0, 0⟩⟩ 103 0 112 1, 8) := rfl
theorem decode_stc : decode (image [0x3A041E03]) = .ok (.stc bare0 4 1 112 3, 4) := rfl
theorem decode_capset : decode (image [0x3B89C000]) = .ok (.capset bare0 1 3 8 0, 4) := rfl
theorem decode_reduce : decode (image [0x1C993003]) = .ok (.reduce bare0 25 24 0 0 3, 4) := rfl
theorem decode_mov : decode (image [0x180FD600]) = .ok (.mov bare0 15 107 0, 4) := rfl
theorem decode_spawn : decode (image [0x3E082000]) = .ok (.spawn bare0 1 4, 4) := rfl
theorem decode_join : decode (image [0x3E200661]) = .ok (.join bare0 4 102, 4) := rfl
theorem decode_hold : decode (image [0x3E000286]) = .ok (.hold bare0 false 40, 4) := rfl
theorem decode_name : decode (image [0x3E081647]) = .ok (.name bare0 true 2 100, 4) := rfl
theorem decode_pdone : decode (image [0xBE800006]) = .ok (.pdone ⟨true, false, none⟩, 4) := rfl
/-- R28: opcode 0 is unassigned. R32: two prefixes, and a prefix with B. -/
theorem reject_unassigned : decode (image [0x00000000]) = .error .encoding := rfl
theorem reject_two_prefixes : decode (image [0x3F800000, 0x3F800000]) = .error .doublePfx := rfl
theorem reject_prefix_with_b : decode (image [0xBF800000, 0x18825678]) = .error .pfxBits := rfl
theorem reject_short : decode [0x88, 0x07] = .error .short := rfl

/-! ### Small states -/

/-- The capability of object `obj`, its first 64 KiB, with permissions `perm`. -/
def cap (perm obj : Nat) : Cap := ⟨capBits 1 perm obj 0 0 65536 0, true⟩
/-- The kind-2 capability of hamper 0 of cluster 1 with its cursor. -/
def kcap (perm cursor : Nat) : Cap := ⟨capBits 2 perm (2 ^ 12) 0 0 0x20000 cursor, true⟩

/-- The lane of thread t, register n holding r t n. -/
def laneAt (r : Nat → Nat → Nat) (t : Nat) : Lane :=
  { Lane.fresh (some t) 32 0x1000 with regs := (List.range 32).map fun n => ⟨BitVec.ofNat 32 (r t n), false, false⟩ }

/-- Two threads of team 3 on core 9; every capability register holds `c`. -/
def pair (r : Nat → Nat → Nat) (c : Cap) : Group :=
  { Group.fresh [laneAt r 0, laneAt r 1] 32 with
    team := 3, launch := 1, runOpen := true, place := some ⟨9, 1, 4⟩, acaps := (List.range 16).map fun _ => c }

/-- Its team: one barrier, one map entry on its core that has hamper 0 attached. -/
def team : Team :=
  { grid := 1, index := 0, launch := 1, part := some 0, phase := .resident, cluster := 1, base := 9, span := 1, threads := 2, groups := [5],
    fmts := List.replicate 8 0, barriers := [⟨0, 0, 0, [], []⟩], maps := [[⟨0, some 0, false⟩, ⟨1, none, false⟩]], matrix := [none],
    copies := [], evicted := false, savedAt := 0, swapped := false, seated := true, advances := 1 }

/-- The instruction in progress is the group's, at 0x1000. -/
def issueOf (w : Who) (seats : List Nat) : Issue := ⟨w, 0x1000, 0, 0, 4, seats, none⟩

/-- The package with the group at work; page 0 of object 2 lies at 0x100000, its translation cached. -/
def stateOf (g : Group) : State :=
  { State.reset with
    boot := .running, groups := [(5, g)], teams := [(3, team)], parts := [(0, { Part.reset with enabled := true, clusters := 3 })],
    cur := some (issueOf (.grp 5) [0, 1]),
    extents := [⟨⟨0, 0, 2, 0⟩, BitVec.ofNat 64 (2 ^ 63 + 16 * 65536), 0, 0⟩] }

/-- The context that the issue in progress names. -/
def ctxOf (s : State) : Ctx := s.ctx?.getD ⟨.grp 5, Group.fresh [] 0, issueOf (.grp 5) [], 0, (Group.fresh [] 0).uniforms, false⟩

/-- Registers 4t to 4t+3 and so on hold small numbers: register n of thread t holds 16 n + 4 t. -/
def bench : State := stateOf (pair (fun t n => 16 * n + 4 * t) (cap 0xFF 2))
def x0 : Ctx := ctxOf bench

/-- A control core in kernel mode with its thread. -/
def ctlThread : Group := Group.fresh [{ Lane.fresh (some 0) 128 0x1000 with mode := .running }] 128
def kernelBench : State :=
  { State.reset with
    boot := .running, ctls := [(0, { Ctl.reset with started := true, thread := { ctlThread with acaps := (List.range 16).map fun _ => cap 0xFF 2 } })],
    cur := some (issueOf (.ctl 0) [0]), extents := [⟨⟨0, 0, 2, 0⟩, BitVec.ofNat 64 (2 ^ 63 + 16 * 65536), 0, 0⟩] }
def xk : Ctx := ctxOf kernelBench

/-- Whether an outcome is a next state with a property. -/
def nextHas (r : Result) (p : State → Bool) : Bool := match r with | .next t => p t | _ => false
/-- Lane 0 or 1 of the group after the step. -/
def laneOf (s : State) (i : Nat) : Lane := ((s.groups.get? 5).getD (Group.fresh [] 0)).lane i
/-- A register of a lane after the step. -/
def regOf (s : State) (i n : Nat) : Nat := (((laneOf s i).regs.getD n Reg.zero).val).toNat

/-- A check that decides Free on states without holds, loads outstanding or matrix work. -/
def freeOk (s : State) (x : Ctx) (os : List Opd) (reads : List Opd := os) (lanes : List Nat := x.c.seats) : Bool :=
  decide (s.ctx? = some x) && os.all (fun o => decide (96 ≤ o.1.toNat) || decide (x.wb + o.1.toNat + o.2 ≤ x.g.alloc)) &&
  x.g.holds.isEmpty && x.g.status.isEmpty && s.reqs.all (fun r => r.2.dest.isNone) && !s.owedLatch x.who x.c.seats &&
  (!(os.any fun o => o.1.toNat == 117) || !s.matrixPending x.who) &&
  lanes.all (fun i => (x.failing (reads.flatMap x.readKeys) i).isNone)

theorem free_of {s : State} {x : Ctx} {os reads : List Opd} {lanes : List Nat} (h : freeOk s x os reads lanes = true) : Free s x os reads lanes := by
  simp only [freeOk, Bool.and_eq_true, decide_eq_true_eq, List.all_eq_true, Bool.or_eq_true, List.isEmpty_iff, Bool.not_eq_true',
    Option.isNone_iff_eq_none, List.any_eq_false, beq_iff_eq] at h
  obtain ⟨⟨⟨⟨⟨⟨⟨h1, h2⟩, h3⟩, h4⟩, h5⟩, h6⟩, h7⟩, h8⟩ := h
  refine ⟨h1, fun o ho hw => (h2 o ho).resolve_left (by omega), ?_, ?_, ?_, fun _ => h6, fun ⟨o, ho, hf⟩ => h7.resolve_left fun h => h o ho hf, h8⟩
  · simp [h3]
  · simp [h4]
  · intro r hr _ _ d hd
    simp [h5 r hr] at hd

/-- A check that decides Served. -/
def reachedOk (s : State) (x : Ctx) (a : Access) (p : Nat → Nat) : Bool :=
  !x.c.seats.isEmpty && (a.lanes x).all (fun i => (s.check x.who x.g.team (a.cap i) (a.e i) a.size [1] (a.perms i) true).isNone) &&
  (a.lanes x ++ x.c.seats).all (fun i => (a.cap i).pkg == s.regs.pkg) && (a.lanes x).all (fun i => decide (s.peek (a.key s x i) (a.offset i) = some (p i))) &&
  (a.lanes x).all (fun i => !s.held_ x.who a.writes (a.key s x i) (a.offset i) a.size) && s.ctls.all (fun e => (e.2.thread.lane 0).tx.isNone) &&
  (!a.reads || (a.lanes x).all fun i => !s.badAt x (p i) a.size) && (s.watched x a).isEmpty && !s.fenced x.who && decide (s.regs.thresh = 0) &&
  (match s.partOf x.who with | none => true | some q => decide ((s.part q).pfMode ≠ 2) && !(s.part q).oqTrail) && s.bits.isEmpty
def servedOk (s : State) (x : Ctx) (a : Access) (p : Nat → Nat) : Bool :=
  reachedOk s x a p && x.c.seats.all (fun i => (x.g.lane i).tx.isNone) && x.g.failed.isEmpty && !s.unperformed x.who

theorem reached_of {s : State} {x : Ctx} {a : Access} {p : Nat → Nat} (h : reachedOk s x a p = true) : Reached s x a p := by
  simp only [reachedOk, Bool.and_eq_true, Bool.not_eq_true', List.isEmpty_eq_false_iff, List.all_eq_true, Option.isNone_iff_eq_none, beq_iff_eq,
    decide_eq_true_eq, Bool.or_eq_true, List.isEmpty_iff] at h
  obtain ⟨⟨⟨⟨⟨⟨⟨⟨⟨⟨⟨h1, h2⟩, h3⟩, h4⟩, h5⟩, h6⟩, h7⟩, h8⟩, h9⟩, h10⟩, h11⟩, h12⟩ := h
  refine ⟨h1, h2, h3, h4, h5, h6, fun hr => h7.resolve_left (by simp [hr]), h8, h9, h10, fun q hq => ?_, h12, fun q hq ht => ?_⟩ <;>
    rw [hq] at h11 <;> simp_all
theorem served_of {s : State} {x : Ctx} {a : Access} {p : Nat → Nat} (h : servedOk s x a p = true) : Served s x a p := by
  simp only [servedOk, Bool.and_eq_true, Bool.not_eq_true', List.all_eq_true, Option.isNone_iff_eq_none, List.isEmpty_iff] at h
  obtain ⟨⟨⟨h1, h2⟩, h3⟩, h4⟩ := h
  exact ⟨reached_of h1, h2, fun _ => ⟨h3, h4⟩⟩

/-- A check that decides Heedless for a group that watches nothing. -/
def heedlessOk (g : Group) (line : Nat) : Bool := g.watch.isNone && decide (g.awaits line = none)

theorem heedless_of {s : State} {g : Group} {line : Nat} (h : heedlessOk g line = true) : Heedless s g line := by
  simp only [heedlessOk, Bool.and_eq_true, Option.isNone_iff_eq_none, decide_eq_true_eq] at h
  exact ⟨by simp [h.1], h.2⟩

def unwatchedOk (s : State) (line : Nat) : Bool :=
  s.ctls.all (fun e => heedlessOk e.2.thread line) && s.groups.all (fun e => heedlessOk e.2 line) && s.monitors.isEmpty && s.farWatches.isEmpty

theorem unwatched_of {s : State} {line : Nat} (h : unwatchedOk s line = true) : Unwatched s line := by
  simp only [unwatchedOk, Bool.and_eq_true, List.all_eq_true, List.isEmpty_iff] at h
  exact ⟨fun e he => heedless_of (h.1.1.1 e he), fun e he => heedless_of (h.1.1.2 e he), by simp [h.1.2], by simp [h.2]⟩

/-- A check that decides Quiet on states whose threads watch nothing. -/
def quietOk (s : State) (x : Ctx) (a : Access) (p : Nat → Nat) : Bool :=
  (a.lanes x).all (fun i => unwatchedOk s (p i / 128) && (List.range a.size).all fun j =>
    let q := (p i + j) / 8 * 8
    (decide (q < s.regs.rtBase) || decide (s.regs.rtBase + 64 * 4096 ≤ q)) &&
    (decide (q < s.regs.ttBase) || decide (s.regs.ttBase + 64 * 1024 ≤ q))) &&
  (match s.coreOf x.who with | some c => (s.core c).near.isEmpty | none => true)

theorem quiet_of {s : State} {x : Ctx} {a : Access} {p : Nat → Nat} (h : quietOk s x a p = true) : Quiet s x a p := by
  simp only [quietOk, Bool.and_eq_true, List.all_eq_true, List.mem_range, Bool.or_eq_true, decide_eq_true_eq] at h
  refine ⟨fun i hi => unwatched_of (h.1 i hi).1, fun i hi j hj => (h.1 i hi).2 j hj, fun c hc => ?_⟩
  have h2 := h.2
  rw [hc] at h2
  exact List.isEmpty_iff.mp h2

/-- The operands that most witnesses name: register codes at every width up to the last of the allocation, an s-register
pair, zero, all ones, FL and a latch. -/
def someOperands : List Opd :=
  [opd 4 .w32, opd 8 .w64, opd 12 .w128, opd 28 .w128, opd 31 .w32, opd 98 .w64, opd 108 .w128, opd 111 .w32, opd 112 .w64, opd 119 .w32,
   opd 117 .w32, opd 118 .w32, opd 120 .w64, opd 127 .w32]
theorem free_some : Free bench x0 someOperands := free_of (by decide)
/-- A register beyond the allocation is not free. -/
theorem beyond_not_free : ¬ Free bench x0 [opd 31 .w64] := fun h => absurd (h.window (31, 2) (by decide) (by decide)) (by decide)

/-! ### Witnesses: states and operands that meet the statements' hypotheses -/

theorem witness_IntegerArithmeticResults :
    bare0.ord ≠ 1 ∧ (pre 0 0 1).ord = 1 ∧ bare0.ord = 0 ∧
    Free bench x0 ([opd 4 .w32, opd 8 .w32, opd 31 .w32] ++ [opd 112 .w32]) ∧
    Free bench x0 ([opd 4 .w64, opd 98 .w64, opd 119 .w64] ++ [opd 30 .w64]) :=
  ⟨by decide, by decide, by decide, free_of (by decide), free_of (by decide)⟩

theorem witness_DivisionCarryAndImmediates :
    bare0.ord = 0 ∧ bare0.ord ≠ 1 ∧ (pre 1 0 1).ord = 1 ∧ (31#6).toNat < 32 ∧ 32 ≤ (32#6).toNat ∧ bare0.pfx = none ∧ (pre 1 0 1).pfx = some ⟨1, 0, 1⟩ ∧
    Free bench x0 ([opd 4 .w64, opd 8 .w64] ++ [opd 30 .w64]) ∧ Free bench x0 ([opd 4 .w32] ++ [opd 31 .w32]) :=
  ⟨by decide, by decide, by decide, by decide, by decide, rfl, rfl, free_of (by decide), free_of (by decide)⟩

theorem witness_LogicShiftsAndBitFields :
    Free bench x0 ([opd 4 .w64, opd 8 .w64] ++ [opd 30 .w64]) ∧ Free bench x0 ([opd 4 .w64, opd 120 .w32, opd 6 .w64] ++ [opd 6 .w64]) :=
  ⟨free_of (by decide), free_of (by decide)⟩

theorem witness_MovesAndTags :
    isV 98#7 = false ∧ isV 8#7 = true ∧ isV 28#7 = true ∧ bare0.n = false ∧ hN.n = true ∧ bare0.pfx = none ∧ (pre 1 0 0).pfx = some ⟨1, 0, 0⟩ ∧
    Free bench x0 ([opd 100 .w128] ++ [opd 28 .w128]) ∧ Free bench x0 [opd 8 .w128, opd 28 .w128] ∧ Free bench x0 ([] ++ [opd 4 .w32]) :=
  ⟨by decide, by decide, by decide, rfl, rfl, rfl, rfl, free_of (by decide), free_of (by decide), free_of (by decide)⟩

theorem witness_CompareAndPredicates :
    Free bench x0 ([opd 4 .w32, opd 8 .w32] ++ [opd 31 .w32]) ∧ Free bench x0 [opd 4 .w32, opd 8 .w32] ∧ Free bench x0 [] :=
  ⟨free_of (by decide), free_of (by decide), free_of (by decide)⟩

theorem witness_CrossLaneResults :
    Free bench x0 ([opd 4 .w64] ++ [opd 31 .w32]) ∧ (true = true → x0.solo = false) ∧ okReduce 2 5 = true ∧ okReduce 5 7 = true ∧
    okReduce 3 5 = false ∧ Free bench x0 [opd 4 .w64, opd 30 .w64] :=
  ⟨free_of (by decide), fun _ => rfl, by decide, by decide, by decide, free_of (by decide)⟩

/-- v8 and v4 hold multiples of 4; v9:v8 read as a pair is a multiple of 4 too, v7 is no such number in benchOdd. -/
def benchOdd : State := stateOf (pair (fun t n => if n = 6 then 2 * t + 1 else 0) (cap 0xFF 2))
theorem witness_BranchesAndIndirectBranches :
    bench.ctx? = some x0 ∧ Free bench x0 [(30, 2)] ∧ Free bench x0 [opd 8 .w64, opd 30 .w64] ∧
    (∀ i ∈ x0.c.seats, (x0.src64 i 8).toNat % 4 = 0) ∧
    Free benchOdd (ctxOf benchOdd) [opd 6 .w64, opd 30 .w64] ∧ ¬ (∀ i ∈ (ctxOf benchOdd).c.seats, ((ctxOf benchOdd).src64 i 6).toNat % 4 = 0) ∧
    196 ≤ x0.c.addr.toNat + x0.c.len - (x0.c.addr + BitVec.ofNat 64 (x0.c.len - 4) + BitVec.ofInt 64 (4 * brOffset bare0 (-48))).toNat ∧
    ¬ 196 ≤ x0.c.addr.toNat + x0.c.len - (x0.c.addr + BitVec.ofNat 64 (x0.c.len - 4) + BitVec.ofInt 64 (4 * brOffset bare0 (-47))).toNat :=
  ⟨by decide, free_of (by decide), free_of (by decide), by decide, free_of (by decide), by decide, by decide, by decide⟩

/-- CALL's link lies in v94:v95: an allocation of 96. -/
def bench96 : State := stateOf { pair (fun _ _ => 0) (cap 0xFF 2) with alloc := 96 }
theorem witness_call_link : Free bench96 (ctxOf bench96) [(94#7, 2)] := free_of (by decide)

/-- A group with points on its reconvergence stack: one of them the issuing lanes', and a full one. -/
def benchStack (n : Nat) : State :=
  stateOf { pair (fun _ _ => 0) (cap 0xFF 2) with rstack := (List.range n).map fun k => ⟨BitVec.ofNat 64 (0x2000 + 4 * k), [0, 1]⟩ }
theorem witness_PathsRunsAndExits :
    (∀ n ∈ [0, 1, 8], let s := benchStack n; let x := ctxOf s
      s.ctx? = some x ∧ x.c.seats ≠ [] ∧
      x.c.addr + BitVec.ofNat 64 (x.c.len - 4) + BitVec.ofInt 64 (4 * brOffset bare0 4) ≠ x.c.addr + BitVec.ofNat 64 x.c.len ∧
      (∀ i ∈ x.c.seats, i < x.g.lanes.length ∧ (x.g.lane i).serves = true ∧ (x.g.lane i).pc = x.c.addr) ∧ x.g.rstack.length ≤ 8 ∧
      (∀ e ∈ x.g.rstack, ∃ i ∈ e.members, i < x.g.lanes.length ∧ (x.g.lane i).mode = .running) ∧
      x.g.steepDue = false ∧ x.g.yieldDue = false ∧ x.solo = false ∧ x.g.issueQ = [] ∧
      (∀ i ∈ x.c.seats, (x.g.lane i).tx = none) ∧ x.g.ended = false) ∧
    x0.who = .grp 5 := by
  refine ⟨?_, rfl⟩
  decide

/-- Index register 0 points at register 8 within [8, 12); register 4 holds 32 in lane 0 (a window base), register 5 holds 8. -/
def benchIndex (v b l : Nat) : State :=
  let g := pair (fun _ n => if n = 4 then 0 else if n = 5 then 16 else 0) (cap 0xFF 2)
  stateOf { g with lanes := g.lanes.map fun (l' : Lane) => { l' with idx := l'.idx.set 0 ⟨BitVec.ofNat 32 v, b, l⟩ } }
/-- The bank's ECC fails for register 4 of lane 1. -/
def benchBad : State :=
  let g := pair (fun _ n => n) (cap 0xFF 2)
  stateOf { g with lanes := g.lanes.modify 1 fun (l : Lane) => { l with regs := l.regs.modify 4 fun r => { r with bad := true } } }
theorem witness_WindowsAndIndexRegisters :
    (let s := benchIndex 8 8 12; let x := ctxOf s
     let w := ((x.src32 (x.g.lowest x.c.seats) 4).toNat : Int) + 32 * riImm bare0 0
     Free s x [opd 4 .w32] ∧ (0 ≤ w ∧ w < x.g.alloc ∧ w % 32 = 0)) ∧
    (let s := benchIndex 8 8 12; let x := ctxOf s
     let w := ((x.src32 (x.g.lowest x.c.seats) 4).toNat : Int) + 32 * riImm bare0 1
     Free s x [opd 4 .w32] ∧ ¬ (0 ≤ w ∧ w < x.g.alloc ∧ w % 32 = 0)) ∧
    (∀ v ∈ [8, 11], let s := benchIndex v 8 12; let x := ctxOf s
     let t := fun i => ((x.g.lane i).idx.getD 0 ⟨0, 0, 0⟩).value.toInt + riImm bare0 0
     Free s x [opd 6 .w32] ∧ ∀ i ∈ x.c.seats, (8 ≤ t i ∧ t i < 12) ∧ t i < x.g.alloc ∧
       x.g.heldBy [i] [(t i).toNat] = false ∧ s.owed x.who [i] [(t i).toNat] = false) ∧
    (∀ v ∈ [7, 12], let s := benchIndex v 8 12; let x := ctxOf s
     Free s x [opd 6 .w32] ∧ ∃ i ∈ x.c.seats, ¬ (8 ≤ ((x.g.lane i).idx.getD 0 ⟨0, 0, 0⟩).value.toInt + riImm bare0 0 ∧
       ((x.g.lane i).idx.getD 0 ⟨0, 0, 0⟩).value.toInt + riImm bare0 0 < 12)) ∧
    (let s := benchIndex 32 8 40; let x := ctxOf s
     let t := fun i => ((x.g.lane i).idx.getD 0 ⟨0, 0, 0⟩).value.toInt + riImm bare0 0
     Free s x [opd 6 .w32] ∧ (∀ i ∈ x.c.seats, 8 ≤ t i ∧ t i < 40) ∧ ∃ i ∈ x.c.seats, (x.g.alloc : Int) ≤ t i) ∧
    (bench.ctx? = some x0 ∧ ∃ o ∈ [opd 4 .w64, opd 6 .w64, opd 31 .w64], o.1.toNat < 96 ∧ x0.g.alloc < x0.wb + o.1.toNat + o.2) ∧
    (let s := benchIndex 8 8 12; let x := ctxOf s
     s.ctx? = some x ∧ (∀ i ∈ x.c.seats, let t := ((x.g.lane i).idx.getD 0 ⟨0, 0, 0⟩).value.toInt + riImm bare0 0
       (8 ≤ t ∧ t < 12) ∧ t < x.g.alloc ∧ ((x.g.lane i).regs.getD t.toNat Reg.zero).bad = false) ∧
     (32#7).toNat < 96 ∧ x.g.alloc < x.wb + (32#7).toNat + 1) ∧
    (let s := benchBad; let x := ctxOf s
     Free s x [opd 4 .w32, opd 6 .w32, opd 31 .w32] [] ∧ x.g.alloc ≤ 1024 ∧
     ∃ i ∈ x.c.seats, (4#7).toNat < 96 ∧ ((x.g.lane i).regs.getD (x.wb + (4#7).toNat) Reg.zero).bad = true) := by
  refine ⟨⟨free_of (by decide), by decide⟩, ⟨free_of (by decide), by decide⟩, ?_, ?_, ⟨free_of (by decide), by decide, by decide⟩, ⟨by decide, by decide⟩,
    by decide, free_of (by decide), by decide, by decide⟩
  · intro v hv
    have h : v = 8 ∨ v = 11 := by simpa using hv
    rcases h with rfl | rfl <;> exact ⟨free_of (by decide), by decide⟩
  · intro v hv
    have h : v = 7 ∨ v = 12 := by simpa using hv
    rcases h with rfl | rfl <;> exact ⟨free_of (by decide), by decide⟩

theorem witness_ResultsReachRegistersAndLatches :
    1 < x0.g.lanes.length ∧ (31#7).toNat ≤ 112 ∧ (112#7).toNat ≤ 112 ∧ isV 31#7 = true ∧ isS 96#7 = true ∧ x0.wb + (31#7).toNat < (x0.g.lane 1).regs.length ∧
    1 ∈ x0.c.seats ∧ 1 ∉ ({ x0 with c := issueOf (.grp 5) [0] } : Ctx).c.seats ∧
    Free bench x0 ([opd 4 .w64, opd 8 .w64, opd 10 .w64] ++ [opd 30 .w64]) [opd 4 .w64, opd 8 .w64, opd 10 .w64] ∧ 0#2 ≠ 1#2 ∧
    (let s := benchIndex 8 8 12; let x := ctxOf s
     let base := ((x.src32 (x.g.lowest x.c.seats) 4).toNat : Int) + 32 * riImm bare0 0
     Free s x [opd 4 .w32] ∧ (0 ≤ base ∧ base < x.g.alloc ∧ base % 32 = 0) ∧ Free s x [opd 6 .w32] [] ∧
     ∀ i ∈ x.c.seats, let r := (x.g.lane i).idx.getD 0 ⟨0, 0, 0⟩; let t := r.value.toInt + riImm bare0 0
       (r.base : Int) ≤ t ∧ t < r.limit ∧ t < x.g.alloc ∧ x.g.heldBy [i] [t.toNat] = false ∧ s.owed x.who [i] [t.toNat] = false ∧
       ((x.g.lane i).regs.getD t.toNat Reg.zero).bad = false) :=
  ⟨by decide, by decide, by decide, by decide, by decide, by decide, by decide, by decide, free_of (by decide), by decide, free_of (by decide),
    by decide, free_of (by decide), by decide⟩

theorem witness_FloatResultsAndApproximations :
    Free bench x0 ([opd 4 .w64, opd 8 .w64, opd 10 .w64] ++ [opd 30 .w64]) ∧ Free bench x0 ([opd 4 .w32, opd 8 .w32] ++ [opd 31 .w32]) ∧ 0#2 ≠ 1#2 :=
  ⟨free_of (by decide), free_of (by decide), by decide⟩

theorem witness_InvalidCasesAndExactRounding :
    f16 ∈ [f32, f64, f16, bf16] ∧ (1 : Nat) ≠ 0 ∧ (Val.inf true).isNaN = false ∧ (Val.fin true 3 (-1)).isNaN = false ∧ (Val.fin true 3 (-1)).isInf = false ∧
    f32 ∈ [f32, f64, f16, bf16, a40, sx8] ∧ 0x7F7FFFFF < 2 ^ f32.width ∧ (f32.val 0x7F7FFFFF).isNaN = false ∧ (f32.val 0x7F7FFFFF).isInf = false ∧
    Desc.fmtValid 0x00000443#32 = true := by decide

theorem witness_MinMaxCompareClassify :
    Free bench x0 ([opd 4 .w64, opd 8 .w64] ++ [opd 30 .w64]) ∧ Free bench x0 ([opd 4 .w32] ++ [opd 31 .w32]) :=
  ⟨free_of (by decide), free_of (by decide)⟩

/-- Format registers f0 (8 bits wide) and f1 (4 bits wide) hold valid formats, the others none. -/
def benchFmt : State :=
  { bench with teams := [(3, { team with fmts := [0x07000143#32, 0x01000121#32, 0, 0, 0, 0, 0, 0] })] }
theorem witness_ConversionsAndPacking :
    Free bench x0 ([opd 4 .w64] ++ [opd 30 .w32]) ∧ (3#3).toNat ≤ 3 ∧ ¬ (4#3).toNat ≤ 3 ∧
    (let s := benchFmt; let x := ctxOf s
     Free s x [opd 4 .w128, opd 31 .w32] ∧ Free s x [opd 31 .w32, opd 4 .w128] ∧
     (Desc.fmtValid (s.fmtReg x.who 0) = true ∧ (0#2 = 1#2 ↔ (fmtOf (s.fmtReg x.who 0)).width ≤ 4)) ∧
     (Desc.fmtValid (s.fmtReg x.who 1) = true ∧ (1#2 = 1#2 ↔ (fmtOf (s.fmtReg x.who 1)).width ≤ 4)) ∧
     s.ctx? = some x ∧ Desc.fmtValid (s.fmtReg x.who 2) = false ∧ s.matrixPending x.who = false ∧ x.solo = false ∧
     s.teams.get? x.g.team ≠ none) ∧
    Free kernelBench xk [opd 4 .w32] ∧ xk.solo = true := by
  refine ⟨free_of (by decide), by decide, by decide, ⟨free_of (by decide), free_of (by decide), by decide, by decide, by decide, by decide,
    by decide, by decide, by decide⟩, free_of (by decide), by decide⟩

/-- The lanes' offsets, in register 4, are 64 and 68. -/
def at4 (i : Nat) : Nat := 0x100000 + 64 + 4 * i
/-- The state whose register 4 holds multiples of 16 and whose registers 8 to 11 hold an address-free capability of object 2. -/
def bench16 : State :=
  let c := (cap 0xFF 2).bits
  let g := pair (fun t n => if 8 ≤ n ∧ n < 12 then (c >>> (32 * (n - 8))).toNat else 16 * (n + t)) (cap 0xFF 2)
  stateOf { g with lanes := g.lanes.map fun (l : Lane) =>
    { l with regs := l.regs.mapIdx fun n r => ⟨r.val, decide (8 ≤ n ∧ n < 12), false⟩ } }
def x16 : Ctx := ctxOf bench16
def at16 (i : Nat) : Nat := 0x100000 + 64 + 16 * i

theorem witness_LoadsReadMemory :
    Free bench x0 ([opd 4 .w32, opd 31 .w32] ++ capOpd 1 bare0.laneCap) ∧
    Served bench x0 (memAccess x0 bare0 1 4 0 4 false (fun _ => permR) true false 0x70) at4 ∧
    Free bench16 x16 ([opd 4 .w32, opd 31 .w32] ++ capOpd 2 (pre 0x1000 0 0).laneCap) ∧
    Served bench16 x16 (memAccess x16 (pre 0x1000 4 2) 2 4 0 4 false (fun _ => permR) true false 0x70) at16 ∧
    Free bench x0 [opd 112 .w32, opd 31 .w32] [opd 112 .w32] x0.readers ∧
    Served bench x0 (let a := memAccess x0 bare0 1 112 0 4 false (fun _ => permR) true false 0x70
      { a with e := fun _ => a.e x0.lowest, whole := true, op := 0x72 }) (fun _ => 0x100000) := by
  exact ⟨free_of (by decide), served_of (by decide), free_of (by decide), served_of (by decide), free_of (by decide), served_of (by decide)⟩

theorem witness_CapabilitiesThroughMemory :
    Free bench16 x16 ([opd 4 .w32, opd 28 .w128] ++ capOpd 1 bare0.laneCap) ∧
    Served bench16 x16 (memAccess x16 bare0 1 4 0 16 false (fun _ => permR) true false 0x73) at16 ∧
    Free bench16 x16 ([opd 4 .w32, opd 8 .w128] ++ capOpd 1 bare0.laneCap) ∧
    x16.quadTag 8 1 = true ∧
    Served bench16 x16 (memAccess x16 bare0 1 4 0 16 false (fun i => if x16.quadTag 8 i then permW ||| permSC else permW) false true 0x74) at16 ∧
    Quiet bench16 x16 (memAccess x16 bare0 1 4 0 16 false (fun i => if x16.quadTag 8 i then permW ||| permSC else permW) false true 0x74) at16 ∧
    Free bench x0 ([opd 4 .w32, opd 31 .w32] ++ capOpd 1 bare0.laneCap) ∧
    Served bench x0 (memAccess x0 bare0 1 4 0 4 false (fun _ => permW) false true 0x71) at4 ∧
    Quiet bench x0 (memAccess x0 bare0 1 4 0 4 false (fun _ => permW) false true 0x71) at4 ∧
    bench16.check x16.who x16.g.team (cap 0xFF 2) 64 16 [1] permR true = none := by
  exact ⟨free_of (by decide), served_of (by decide), free_of (by decide), by decide, served_of (by decide), quiet_of (by decide), free_of (by decide),
    served_of (by decide), quiet_of (by decide), by decide⟩

theorem witness_StoredBytesReadBack : Memory.wf bench.mem = true ∧ bench.keyed = [] ∧ bench.trust.memKeys = [] ∧
    Memory.wf (bench.write 0x100000 [1, 0, 2]).mem = true := by decide

theorem witness_AtomicsAtTheirHome :
    (∀ op ∈ [0, 9, 10], let h := pre (BitVec.ofNat 16 (256 * op)) 4 4
      h.aop = op ∧ wellFormed (.atom h 4 1 4 0) = true ∧ wellFormed (.atomr h 4 1 4 0) = true) ∧
    10 < (pre 0xB00 4 4).aop ∧
    Free bench x0 ([opd 4 .w32, opd 8 .w64] ++ capOpd 1 (pre 0x900 4 4).laneCap) ∧
    Served bench x0 (memAccess x0 (pre 0x900 4 4) 1 4 0 4 true (fun _ => permW ||| permA) true true 0x75) at4 ∧
    Quiet bench x0 (memAccess x0 (pre 0x900 4 4) 1 4 0 4 true (fun _ => permW ||| permA) true true 0x75) at4 ∧
    Served bench x0 (memAccess x0 (pre 0x900 4 4) 1 4 0 4 true (fun _ => permR ||| permW ||| permA) true true 0x76) at4 ∧
    Quiet bench x0 (memAccess x0 (pre 0x900 4 4) 1 4 0 4 true (fun _ => permR ||| permW ||| permA) true true 0x76) at4 := by
  exact ⟨by decide, by decide, free_of (by decide), served_of (by decide), quiet_of (by decide), served_of (by decide), quiet_of (by decide)⟩

theorem witness_FencesAndCacheControl :
    bench.ctx? = some x0 ∧ x0.g.failed = [] ∧ bench.unperformed x0.who = false ∧ bench.matrixPending x0.who = false ∧
    Free bench x0 ([opd 4 .w32] ++ capOpd 1 false) ∧
    Served bench x0 (lineAccess x0 1 false 4 fun i => if (x0.capOf i 1 false).has permR then permR else permW) at4 ∧
    Served bench x0 (lineAccess x0 1 false 4 fun _ => permR) at4 ∧
    Free kernelBench xk ([opd 4 .w32] ++ capOpd 1 false) ∧
    Served kernelBench xk (lineAccess xk 1 false 4 fun _ => permR) (fun _ => 0x100000) ∧ xk.who = .ctl 0 ∧ 0 ∈ xk.c.seats := by
  exact ⟨by decide, by decide, by decide, by decide, free_of (by decide), served_of (by decide), served_of (by decide), free_of (by decide),
    served_of (by decide), by decide, by decide⟩

/-- Object 2's capability covers offsets 0 to 65,535: the first and the last word pass, one byte further they do not. -/
theorem witness_ChecksOfAnAccess :
    (∀ e ∈ [0, 65532], bench.check x0.who 3 (cap 0xFF 2) e 4 [1] permR true = none) ∧
    (cap 0xFF 2).tag = true ∧ (cap 0xFF 2).kind = 1 ∧ (cap 0xFF 2).perm &&& permR = permR ∧ (cap 0xFF 2).pkg = bench.regs.pkg ∧
    (cap 0x7F 2).perm &&& permR ≠ permR ∧ Cap.null.tag = false ∧ (kcap 0xFF 0).kind ≠ 1 ∧
    (-1 : Int) < (cap 0xFF 2).base ∧ (cap 0xFF 2).limit < (65533 : Int) + 4 ∧ (2 : Int) % 4 ≠ 0 ∧
    (let s := stateOf (pair (fun t _ => 65533 * t) (cap 0xFF 2)); let x := ctxOf s
     Free s x ([opd 4 .w32, opd 31 .w32] ++ capOpd 1 bare0.laneCap) ∧
     (x.c.seats.filterMap fun (i : Nat) => (s.check x.who x.g.team (cap 0xFF 2) (65533 * (i : Nat)) 4 [1] permR true).map fun f => ((i : Nat), f)) = [(1, 3, .capBound)]) :=
  ⟨by decide, by decide, by decide, by decide, by decide, by decide, by decide, by decide, by decide, by decide, by decide, free_of (by decide), by decide⟩

/-- Operands of the matrix instructions: s4:s5 a row descriptor for 128 rows of 256 bytes, s6:s7 an index and an offset at the
hamper's end, register 4 the offset of a plane at the end, registers 8 to 11 row numbers with one that stands for none. -/
def matrixGroup : Group :=
  { pair (fun t n => if n = 4 then 98304 else if n = 8 then 0xFFFFFFFF else if n = 9 then 127 else if n = 10 then t else 0) (cap 0xFF 2) with
    sregs := [0, 0, 0, 0, 98304, BitVec.ofNat 32 (127 * 256 + 32 * 2 ^ 20), 64, 130560, 0, 0, 0, 0, 0, 0, 0, 0] }
def benchMatrix : State := stateOf matrixGroup
def xm : Ctx := ctxOf benchMatrix

/-- A check that decides ArrayOpen. -/
def openOk (s : State) (x : Ctx) (os : List Opd) (c : Nat) (reads : List Opd := os) (lanes : List Nat := x.c.seats) : Bool :=
  freeOk s x os reads lanes && !x.solo && !x.c.seats.isEmpty && x.c.seats.all (fun i => (x.g.lane i).tx.isNone) && x.sharing.isEmpty &&
  decide (s.coreOf x.who = some c) && (decide ((s.core c).matrix.claim = none) || decide ((s.core c).matrix.claim = some x.g.team)) &&
  decide ((s.core c).matrix.queue.length < 32) && (decide ((s.core c).lastTrd.1 ≠ s.now) || decide ((s.core c).lastTrd.2 ≤ x.g.place.elim 4 (·.slot)))

theorem open_of {s : State} {x : Ctx} {os reads : List Opd} {lanes : List Nat} {c : Nat} (h : openOk s x os c reads lanes = true) :
    ArrayOpen s x os c reads lanes := by
  simp only [openOk, Bool.and_eq_true, Bool.not_eq_true', List.isEmpty_iff, List.isEmpty_eq_false_iff, List.all_eq_true, Option.isNone_iff_eq_none,
    Bool.or_eq_true, decide_eq_true_eq] at h
  obtain ⟨⟨⟨⟨⟨⟨⟨⟨h1, h2⟩, h3⟩, h4⟩, h5⟩, h6⟩, h7⟩, h8⟩, h9⟩ := h
  exact ⟨free_of h1, h2, h3, h4, h5, h6, h7, h8, h9⟩

theorem witness_MatrixInstructionsAreAccepted :
    ArrayOpen benchMatrix xm [(4, 1)] 9 (lanes := xm.readers) ∧ ArrayOpen benchMatrix xm [(100, 2)] 9 (lanes := xm.readers) ∧ benchMatrix.attached xm.g 0 = some (1, 0) ∧ benchMatrix.rowFmt xm 0 2 = some 0 ∧
    (xm.uni32 4).toNat + 128 * 256 ≤ 131072 ∧ (xm.uni32 4).toNat % 8 = 0 ∧ ArrayOpen benchMatrix xm [] 9 ∧
    ArrayOpen benchMatrix xm [(100, 2), (8, 4)] 9 ∧
    (let w0 := (xm.uni32 100).toNat
     let w1 := (xm.uni32 101).toNat
     w1 / 2 ^ 19 % 2 = 0 ∧ w1 / 2 ^ 15 % 2 = 0 ∧ w1 / 2 ^ 7 % 2 = 0 ∧ BitVec.ofNat 3 (w1 / 2 ^ 16) = 0#3 ∧ w1 % 128 + w1 / 256 % 128 ≤ 127 ∧ w0 % 8 = 0 ∧
     (∀ i ∈ xm.c.seats, ∀ r < 128, r % 32 = i → w1 % 128 ≤ r → r ≤ w1 % 128 + w1 / 256 % 128 →
        w0 + (r - w1 % 128) * (8 * (w1 / 2 ^ 20)) + 256 ≤ 131072) ∧
     (∀ i ∈ xm.c.seats, ∀ r < 128, r % 32 = i →
        let row := (xm.src32 i (8 + BitVec.ofNat 7 (r / 32))).toNat
        row = 0xFFFFFFFF ∨ w0 + row * (8 * (w1 / 2 ^ 20)) + 256 ≤ 131072)) ∧
    (let s := benchFmt; let x := ctxOf s
     ArrayOpen s x [(4, 1)] 9 (lanes := x.readers) ∧ s.rowFmt x 0 0 = some 0x07000143#32 ∧ s.rowFmt x 1 1 = some 0x01000121#32) ∧
    ArrayOpen benchMatrix xm [(8, 4)] 9 ∧ ArrayOpen benchMatrix xm [(112, 4)] 9 ∧ ArrayOpen benchMatrix xm [(102, 1), (16, 8)] 9 ∧
    (xm.sreg 6).toNat + 63 ≤ 127 ∧ ArrayOpen benchMatrix xm [(102, 2)] 9 ∧
    (xm.g.sregs.getD 7 0).toNat + 8 * 0 + 128 * 4 ≤ 131072 ∧ (xm.g.sregs.getD 7 0).toNat % 4 = 0 := by
  refine ⟨open_of (by decide), open_of (by decide), by decide, by decide, by decide, by decide, open_of (by decide), open_of (by decide), by decide,
    ⟨open_of (by decide), by decide, by decide⟩, open_of (by decide), open_of (by decide), open_of (by decide), by decide, open_of (by decide), by decide, by decide⟩

/-- Core 9 with an operation at the head of its array's queue; its hamper is hamper 0 of cluster 1. -/
def opOf (i : Instr) (o0 o1 : Nat) : MatrixOp :=
  { instr := i, group := 5, owners := [(0, 0), (1, 1)], o0, o1, vals := [(0, [1, 2, 3, 4]), (1, [5, 6, 7, 8])], fmt := 0, hamper := some (1, 0), rm := 1,
    arm := 1, sh := none, rows := none, home := true, slot := 1, time := 0, raised := [] }
def benchArray (o : MatrixOp) : State :=
  { bench with now := 1 }.setCore 9 { bench.core 9 with matrix := { Matrix.reset with claim := some 3, queue := [o], acc := [(130, ⟨0x5, false⟩)] } }
theorem head_of {o : MatrixOp} (h : (benchArray o).core 9 = { bench.core 9 with matrix := { Matrix.reset with claim := some 3, queue := [o], acc := [(130, ⟨0x5, false⟩)] } })
    (h2 : o.sh = none ∧ o.lanes.Nodup ∧ ∀ l ∈ o.lanes, l < 32) (h3 : o.time < 1) : AtHead (benchArray o) 9 o [] :=
  ⟨by rw [h], h2.1, h3, h2.2⟩

theorem witness_ArrayPerformsPlanesAndTiles :
    (∀ i ∈ [Instr.swapw bare0, .ldw bare0 0 4 0 2, .tzero bare0 1, .scacc bare0 0 8 0 0, .scacc bare0 0 8 0 1, .twr bare0 0 true 6 4 0x3F,
        .tscl bare0 0 false 6 4 0, .tld bare0 7 true 6 0 0xC0, .tst bare0 0 false 6 0 0, .tst bare0 0 false 6 0 0xC0], ∀ o0 ∈ [0, 127],
      AtHead (benchArray (opOf i o0 512)) 9 (opOf i o0 512) [] ∧ (opOf i o0 512).o0 ≤ 127 ∧ (opOf i o0 512).hamper = some (1, 0) ∧
      (opOf i o0 512).o1 + 128 * 8 ≤ 131072) ∧
    AtHead (benchArray (opOf (.ldw bare0 0 4 0 2) 98304 0)) 9 (opOf (.ldw bare0 0 4 0 2) 98304 0) [] ∧ 512 % 8 = 0 ∧
    (∀ bad ∈ [false, true], ({ Matrix.reset with acc := [(0, ⟨if bad then 0 else 5, bad⟩)] }.elem 0 0).poison = bad) := by
  refine ⟨fun i _ o0 ho => ⟨head_of rfl ⟨rfl, (by decide : [0, 1].Nodup ∧ ∀ l ∈ [0, 1], l < 32)⟩ Nat.one_pos, ?_, rfl, (by decide : 512 + 128 * 8 ≤ 131072)⟩,
    head_of rfl (by decide) (by decide), rfl, by decide⟩
  have h : o0 = 0 ∨ o0 = 127 := by simpa using ho
  rcases h with rfl | rfl
  · exact (by decide : 0 ≤ 127)
  · exact Nat.le_refl 127

/-- The K-step's operands: an accumulator, 128 pairs and 32 scales. -/
theorem kstep_zero :
    let xs := List.replicate 128 (Val.fin false 0 0); let ws := List.replicate 128 (Val.fin true 3 1); let sx := List.replicate 32 (Val.fin false 1 0)
    (0 : Nat) < 2 ^ 40 ∧ xs.length = 128 ∧ ws.length = 128 ∧ sx.length = 32 ∧ (∀ v ∈ xs ++ ws ++ sx ++ sx, v.isNaN = false) ∧
    (a40.val 0).isNaN = false ∧ (∀ v ∈ xs, v.isZero = true) ∧ (∀ v ∈ ws ++ sx ++ sx, v.isNaN = false ∧ v.isInf = false) := by
  refine ⟨by decide, List.length_replicate, List.length_replicate, List.length_replicate, ?_, by decide, ?_, ?_⟩ <;> intro v hv <;>
    simp only [List.mem_append, List.mem_replicate] at hv
  · rcases hv with ((⟨-, rfl⟩ | ⟨-, rfl⟩) | ⟨-, rfl⟩) | ⟨-, rfl⟩ <;> decide
  · rw [hv.2]; decide
  · rcases hv with (⟨-, rfl⟩ | ⟨-, rfl⟩) | ⟨-, rfl⟩ <;> decide
/-- A descriptor for rows 1 to 127. -/
theorem witness_ArrayMultipliesRowsByKSteps :
    (let o := opOf (.mma bare0 0 0 100 2) 0 (1 + 126 * 256 + 32 * 2 ^ 20)
     AtHead (benchArray o) 9 o [] ∧ o.rows = none ∧ o.o1 % 128 + o.o1 / 256 % 128 ≤ 127) ∧
    (let o := opOf (.mmq (pre 8 1 0) 0 0 100 2) 0 (1 + 126 * 256 + 32 * 2 ^ 20)
     AtHead (benchArray o) 9 o [] ∧ o.rows = none ∧ o.o1 % 128 + o.o1 / 256 % 128 ≤ 127) ∧
    (let xs := List.replicate 128 (Val.fin false 0 0); let ws := List.replicate 128 (Val.fin true 3 1); let sx := List.replicate 32 (Val.fin false 1 0)
     (0 : Nat) < 2 ^ 40 ∧ xs.length = 128 ∧ ws.length = 128 ∧ sx.length = 32 ∧ (∀ v ∈ xs ++ ws ++ sx ++ sx, v.isNaN = false) ∧
     (a40.val 0).isNaN = false ∧ (∀ v ∈ xs, v.isZero = true) ∧ (∀ v ∈ ws ++ sx ++ sx, v.isNaN = false ∧ v.isInf = false)) ∧
    (a40.val (a40.infMag + 1)).isNaN = true ∧ a40.infMag + 1 < 2 ^ 40 ∧ (a40.val a40.infMag).isInf = true ∧
    (((List.replicate 128 (Val.inf false)).getD 127 (.inf false)).isInf = true ∧ ((List.replicate 128 (Val.fin true 0 0)).getD 127 (.inf false)).isZero = true) := by
  refine ⟨⟨head_of rfl (by decide) (by decide), rfl, by decide⟩, ⟨head_of rfl (by decide) (by decide), rfl, by decide⟩, kstep_zero, by decide, by decide, by decide, by simp [Val.isInf], by simp [Val.isZero]⟩

theorem witness_TileReadsAndSharedProducts :
    ArrayOpen benchMatrix xm [(102, 1), (8, 8)] 9 [] ∧ (xm.sreg 6).toNat + 63 ≤ 127 ∧ (claimed (benchMatrix.core 9).matrix xm.g.team).queue = [] ∧
    (∀ i ∈ xm.c.seats, ∀ j < 4,
      ((claimed (benchMatrix.core 9).matrix xm.g.team).elem (cellAt 7 true 127 (shareAt true i j)).1
        (cellAt 7 true 127 (shareAt true i j)).2).poison = false) ∧
    (let o := opOf (.swapw (pre 0 0 1)) 0 0
     let other : MatrixOp := { o with group := 6 }
     let team := fun (s : State) (q : MatrixOp) => (s.groups.get? q.group).elim 0 (·.team)
     let with_ := fun (cl : Option Nat) (l : List MatrixOp) =>
       bench.setCore 9 { bench.core 9 with matrix := { Matrix.reset with claim := cl, incoming := l } }
     ((with_ (some 3) [other, o]).core 9).matrix.incoming = [other] ++ o :: [] ∧ ((with_ (some 3) [other, o]).core 9).matrix.claim = some 3 ∧
     team bench other ≠ 3 ∧ team bench o = 3 ∧ ((with_ none [o]).core 9).matrix.claim = none ∧ ((with_ none [o]).core 9).matrix.incoming = [] ++ o :: [] ∧
     ((with_ (some 4) [o]).core 9).matrix.claim = some 4) := by
  refine ⟨open_of (by decide), by decide, by decide, by decide, ?_⟩
  decide

/-- Hamper 0 of cluster 1 is the team's. A kettle word of target 2 and count 1 stands at its start. -/
def hamper0 : Hamper := { Hamper.reset with team := some 3, bytes := [(0, 1), (3, 2), (6, 7)] }
def withHamper (s : State) : State := { s with clusters := [(1, { Cluster.reset with hampers := [(0, hamper0)] })] }
/-- Offsets in register 4 (the last word of a hamper in lane 1), 5 (one word further), 6 (odd) and zeros elsewhere; s4 is 64,
s8 to s11 the shape of four rows of 32 bytes. -/
def benchHamper : State :=
  withHamper (stateOf { pair (fun t n => if n = 4 then 131068 * t else if n = 5 then 131072 * t else if n = 6 then t else 0) (cap 0xFF 2) with
    sregs := [0, 0, 0, 0, 64, 0, 0, 0, 32, 4, 64, 32, 65536, 65536, 0, 0] })
def xh : Ctx := ctxOf benchHamper

theorem witness_HamperAccesses :
    Free benchHamper xh [opd 4 .w32, opd 31 .w32] ∧ xh.solo = false ∧ benchHamper.attached xh.g 0 = some (1, 0) ∧
    (∀ i ∈ xh.c.seats, (0 ≤ (xh.src32 i 4).toInt ∧ (xh.src32 i 4).toInt + 4 ≤ 131072) ∧ (xh.src32 i 4).toInt % 4 = 0 ∧
      (benchHamper.hamper 1 0).isPoisoned (xh.src32 i 4).toNat 4 = false) ∧
    benchHamper.matrixPending xh.who = false ∧ benchHamper.fenced xh.who = false ∧ (∀ r ∈ benchHamper.groups, r.2.wait = none) ∧
    benchHamper.attached xh.g 1 = none ∧ Free benchHamper xh [opd 5 .w32, opd 31 .w32] ∧
    (xh.c.seats.filter fun i => !(decide (0 ≤ (xh.src32 i 5).toInt) && decide ((xh.src32 i 5).toInt + 4 ≤ 131072))) = [1] ∧
    Free benchHamper xh [opd 6 .w32, opd 31 .w32] ∧ (xh.c.seats.filter fun i => (xh.src32 i 6).toInt % 4 != 0) = [1] ∧
    131068 + [1, 2, 3, 4].length ≤ 131072 ∧ 131071 < 131072 ∧ Free benchHamper xh [opd 31 .w32] [] ∧ Free benchHamper xh [opd 4 .w32, opd 31 .w32] [opd 4 .w32] ∧
    benchHamper.teamOf xh.g = some team ∧ benchHamper.mapEntry xh.g 0 = some ⟨0, some 0, false⟩ ∧ benchHamper.mapEntry xh.g 2 = none ∧ Free benchHamper xh [] := by
  and_intros
  all_goals first | exact free_of (by decide) | decide

/-- The kettle word at offset 0 of hamper 0. -/
def benchKettle : State := withHamper (stateOf { pair (fun _ _ => 0) (kcap 0xFF 0) with sregs := [0, 7, 0, 0, 64, 0, 0, 0, 0, 0, 0, 0, 0, 0, 0, 0] })
def xkt : Ctx := ctxOf benchKettle
theorem witness_KettleWords :
    Free benchKettle xkt [opd 112 .w32, (96, 1)] (lanes := xkt.readers) ∧ xkt.solo = false ∧ xkt.c.seats ≠ [] ∧ (∀ i ∈ xkt.c.seats, (xkt.g.lane i).tx = none) ∧
    (∀ p ∈ [permW, permR], benchKettle.check xkt.who xkt.g.team (kcap 0xFF 0) 0 8 [2] p true = none) ∧
    benchKettle.matrixUses xkt.who (1, 0) = false ∧ (kcap 0xFF 0).hamper = (1, 0) ∧ xkt.address xkt.lowest (kcap 0xFF 0) 112 0 = 0 ∧ (∀ r ∈ benchKettle.groups, r.2.wait = none) ∧ xkt.g.failed = [] ∧
    benchKettle.unperformed xkt.who = false ∧ leNat ((benchKettle.hamper 1 0).read 0 8) / 2 ^ 48 = 7 ∧ (xkt.sreg 0).toNat % 2 ^ 16 ≠ 7 ∧
    (xkt.sreg 1).toNat % 2 ^ 16 = 7 ∧ leNat ((benchKettle.hamper 1 0).read 0 8) % 2 ^ 24 + 1 = leNat ((benchKettle.hamper 1 0).read 0 8) / 2 ^ 24 % 2 ^ 24 :=
  ⟨free_of (by decide), by decide⟩

/-- A request of lane 1 of group 5 to 0x100040. -/
def reqOf (kind : ReqKind) (done : Bool) : Req :=
  { who := .grp 5, seat := 1, kind, strong := false, addr := 0x100040, key := ⟨0, 0, 2, 0⟩, asn := 0, dest := some 8, latch := [], done, answer := none, value := [1, 2, 3, 4],
    tag := false, gen := 0, rehome := false, bounced := false, remote := none, num := none, sends := 0, sentAt := 0, pc := 0 }
/-- A copy slot of core 9 in a state; object 2 to itself, 64 bytes further, in rows of 32. -/
def slotOf (st : CopyState) (done : List (Nat × Nat)) (tm : Nat) : CopySlot :=
  { state := st, seq := 3, team := tm, group := 5, rowLen := 32, rows := 4, srcPitch := 64, dstPitch := 32, src := some (.mem 0 0 2 0),
    dsts := [.mem 0 0 2 4096], taken := [], done := [done], want := [], absent := [], stop := none, kettle := none, left := 5 }
/-- The slot of a copy that begins: object 2 to itself, 64 bytes in one row. -/
def newSlot (r k sp dp : Nat) : CopySlot :=
  { state := .running, seq := 0, team := 3, group := 5, rowLen := r, rows := k, srcPitch := sp, dstPitch := dp, src := some (.mem 0 0 2 0),
    dsts := [.mem 0 0 2 0], taken := [], done := [[]], want := [], absent := [], stop := none, kettle := none, left := 0 }
def benchCopy (st : CopyState) (done : List (Nat × Nat)) (tm : Nat) (hd : Nat) : State :=
  let s := stateOf { pair (fun _ _ => 0) (cap 0xFF 2) with sregs := [0, 0, 0, 0, BitVec.ofNat 32 hd, 0, 0, 0, 0, 0, 0, 0, 0, 0, 0, 0] }
  s.setCore 9 { s.core 9 with copies := [(0, slotOf st done tm)] }

theorem witness_CopiesStart :
    Free benchHamper xh [(100, 1), (98, 1)] (lanes := xh.readers) ∧ Free benchHamper xh [(104, 4), (98, 1)] (lanes := xh.readers) ∧ xh.solo = false ∧ xh.c.seats ≠ [] ∧
    (∀ i ∈ xh.c.seats, (xh.g.lane i).tx = none) ∧ benchHamper.coreOf xh.who = some 9 ∧ (cap 0xFF 2).pkg = benchHamper.regs.pkg ∧
    benchHamper.matrixPending xh.who = false ∧ benchHamper.unperformed xh.who = false ∧ xh.g.failed = [] ∧
    (∀ e ∈ benchHamper.ctls, (e.2.thread.lane 0).tx = none) ∧ (xh.uni32 100).toNat = 64 ∧ (xh.uni32 112).toNat = 0 ∧
    benchHamper.copyFails xh (cap 0xFF 2) [cap 0xFF 2] none ⟨64, 1, 0, 0⟩ = none ∧
    benchHamper.copyFails xh (cap 0xFF 2) [cap 0xFF 2] none ⟨0, 0, 0, 0⟩ = none ∧
    benchHamper.copyFails xh (cap 0xFF 2) [cap 0xFF 2, cap 0xFF 2] none ⟨32, 4, 64, 32⟩ = none ∧
    benchHamper.copyFails xh (cap 0xFF 2) [Cap.null] none ⟨64, 1, 0, 0⟩ = some (.capTag, 0) ∧
    (benchHamper.core 9).copies.get? 0 = none ∧
    (let s := benchCopy .running [] 3 0
     (∀ c, (s.core 9).copies.get? 1 = some c → c.state ≠ .running) ∧ ∀ j < 1, ∃ c, (s.core 9).copies.get? j = some c ∧ c.state = .running) ∧
    2 ^ 32 ≤ (xh.src128 xh.lowest 108).toNat % 2 ^ 32 * ((xh.src128 xh.lowest 108).toNat / 2 ^ 32 % 2 ^ 32) ∧ Free benchHamper xh [(108, 4), (98, 1)] (lanes := xh.readers) ∧
    (cap 0xFF 2).tag = true ∧ (cap 0xFF 2).kind = 1 ∧ (cap 0xFF 2).has (permR ||| permE) = true ∧ (cap 0xFF 2).has (permW ||| permE) = true ∧
    (∀ c ∈ [newSlot 64 1 0 0, newSlot 32 4 64 32], ∀ l ∈ benchHamper.copyLines c, benchHamper.engineCan 9 l true = true) ∧
    (∀ c ∈ [cap 0xFF 2, kcap 0xFF 0], c.kind = 2 ∨ c.pkg = benchHamper.regs.pkg) ∧ benchHamper.reqs = [] ∧
    benchHamper.peek ⟨0, 0, 2, 1⟩ 0 = none := by
  and_intros
  all_goals first | exact free_of (by decide) | decide

theorem witness_CopiesRunAndEnd :
    (∀ st ∈ [CopyState.complete, .failed, .cancelled, .running], ∀ tm ∈ [3, 4], let s := benchCopy st [(0, 32)] tm (3 * 65536); let x := ctxOf s
      freeOk s x [opd 100 .w32, (98, 1)] (lanes := x.readers) = true ∧ x.solo = false ∧ x.c.seats ≠ [] ∧ (∀ i ∈ x.c.seats, (x.g.lane i).tx = none) ∧
      s.coreOf x.who = some 9 ∧ (s.core 9).copies.get? 0 = some (slotOf st [(0, 32)] tm) ∧ (x.uni32 100).toNat % 64 = 0 ∧
      (x.uni32 100).toNat / 65536 = 3 ∧ x.g.team = 3 ∧ (slotOf st [(0, 32)] tm).stop = none ∧ (slotOf st [(0, 32)] tm).want = [] ∧ s.copyReqs 9 0 false = false) ∧
    (let s := { benchCopy .running [(0, 32)] 3 (3 * 65536) with reqs := [(4, { reqOf (.copyWrite 9 0 0 32 [1] false) false with dest := none })] }; let x := ctxOf s
     Free s x [opd 100 .w32, (98, 1)] (lanes := x.readers) ∧ (s.core 9).copies.get? 0 = some (slotOf .running [(0, 32)] 3) ∧ s.copyReqs 9 0 false = true) ∧
    (let s := benchCopy .running [] 3 (4 * 65536); let x := ctxOf s
     Free s x [opd 100 .w32, (98, 1)] (lanes := x.readers) ∧ (x.uni32 100).toNat / 65536 ≠ 3) ∧
    (let s := benchCopy .running [(0, 128)] 3 0
     (∀ l ∈ (slotOf .running [(0, 128)] 3).done, (l.map fun r => r.2 - r.1).sum = 32 * 4) ∧ s.copyReqs 9 0 true = false) ∧
    (let s := benchCopy .running [] 3 0
     s.bits = [] ∧ s.regs.thresh = 0 ∧ (∀ e ∈ s.ctls, (e.2.thread.lane 0).tx = none) ∧ s.copyReqs 9 0 true = false ∧ s.regs.pkg = 0 ∧
     (slotOf .running [] 3).piece 32 32 = (32, 32) ∧ s.peek ⟨0, 0, 2, 0⟩ (0 + (32 / 32 * 64 + 32 % 32)) = some (0x100000 + 64) ∧
     s.peek ⟨0, 0, 2, 0⟩ (4096 + (32 / 32 * 32 + 32 % 32)) = some (0x100000 + 4128) ∧ s.engineCan 9 ((0x100000 + 4128) / 128) true = true ∧
     s.engineCan 9 ((0x100000 + 64) / 128) false = true ∧ s.poisoned (0x100000 + 64) 32 = false ∧ s.keyed = [] ∧ s.trust.memKeys = [] ∧
     s.retries = [] ∧ s.monitors = [] ∧ s.lookupHeld ⟨0, 0, 2, 0⟩ = false ∧ (slotOf .running [] 3).overtaken 32 = false) ∧
    (∀ j < 32, OffRings (benchCopy .running [] 3 0) (0x100000 + 4128 + j)) := by
  refine ⟨by decide, ⟨free_of (by decide), by decide, by decide⟩, ⟨free_of (by decide), by decide⟩, by decide, by decide, ?_⟩
  intro j hj
  have hr : (benchCopy .running [] 3 0).regs.rtBase = 0 ∧ (benchCopy .running [] 3 0).regs.ttBase = 0 := by decide
  constructor
  · rw [hr.1]; omega
  · rw [hr.2]; omega

/-- The group waits for its give of hamper 0 to a name of the package. -/
def giveOf (name : Dword) (target : Nat) : Give := ⟨9, 0, 0, target, name, 2⟩
/-- Group 6, of team 4 in the cluster `cl`, holds name entry 0 of core 10; group 5 waits for its give. -/
def benchGive (name : Dword) (target cl : Nat) (full : Bool) : State :=
  let s := withHamper (stateOf { pair (fun _ _ => 0) (cap 0xFF 2) with wait := some (.hgive (giveOf name target)) })
  let g6 := { pair (fun _ _ => 0) (cap 0xFF 2) with team := 4, place := some ⟨10, 0, 0⟩ }
  let s := { s with
    groups := [(5, { pair (fun _ _ => 0) (cap 0xFF 2) with wait := some (.hgive (giveOf name target)) }), (6, g6)]
    teams := [(3, { team with maps := [[⟨0, some 0, true⟩]] }),
      (4, { team with groups := [6], base := 10, cluster := cl, maps := [[⟨0, if full then some 1 else none, false⟩]] })] }
  s.setCore 10 { s.core 10 with names := [(0, ⟨1, some 6, 32, false⟩)] }
def name6 : Dword := nameOf 0 10 0 1

theorem witness_HampersAreGiven :
    (∀ st ∈ [none, some 2], let s := withHamper (stateOf { pair (fun _ _ => 0) (cap 0xFF 2) with waitDone := st }); let x := ctxOf s
     freeOk s x [opd 100 .w64, (98, 1)] (lanes := x.readers) = true ∧ x.solo = false ∧ x.c.seats ≠ [] ∧ (∀ i ∈ x.c.seats, (x.g.lane i).tx = none) ∧
     s.teamOf x.g = some team ∧ s.mapEntry x.g 0 = some ⟨0, some 0, false⟩ ∧ s.mapEntry x.g 1 = some ⟨1, none, false⟩ ∧ s.coreOf x.who = some 9 ∧
     x.g.waitDone = st) ∧
    (∀ q ∈ [(name6, 0, 1, false), (name6, 0, 1, true), (name6, 3, 1, false), (name6, 0, 0, false), (nameOf 0 10 1 1, 0, 1, false)],
     let s := benchGive q.1 q.2.1 q.2.2.1 q.2.2.2
     (s.groups.get? 5).bind (·.wait) = some (.hgive (giveOf q.1 q.2.1)) ∧ s.drained 1 0 = true ∧ s.unperformed (.grp 5) = false ∧ s.msgs = [] ∧ s.nameHere q.1 = true) ∧
    (benchGive name6 0 1 false).lookupName name6 = some (6, ⟨1, some 6, 32, false⟩) ∧ (benchGive name6 0 1 false).lookupName (nameOf 0 10 1 1) = none ∧
    (let s := benchGive name6 0 1 false
     (s.groups.get? 6).map (·.ended) = some false ∧ (s.teams.get? 4).bind (fun t => t.entry 0 0) = some ⟨0, none, false⟩ ∧
     (s.teams.get? 4).bind (fun t => t.entry 0 3) = none) ∧
    ((benchGive name6 0 1 true).teams.get? 4).bind (fun t => t.entry 0 0) = some ⟨0, some 1, false⟩ ∧
    ((benchGive name6 0 0 false).teams.get? 4).map (·.cluster) = some 0 ∧ (pair (fun _ _ => 0) (cap 0xFF 2)).trapSave.bind (fun q => q.wait) = none ∧
    (let s := (benchGive name6 0 1 false).setCore 9 { Core.reset with copies := [(0, { slotOf .running [] 3 with dsts := [.hamper 1 0 0] })] }
     s.drained 1 0 = false) := by
  refine ⟨?_, ?_, by decide, by decide, by decide, by decide, by decide, by decide, by decide⟩
  · decide
  · decide

/-- Capability registers hold a tagged capability of object 2; registers 8 to 11 of the lanes an untagged one; register 4 a length. -/
def benchCaps : State := stateOf (pair (fun t n => if n = 4 then 16 * (t + 1) else 0) (cap 0xFF 2))
def xc : Ctx := ctxOf benchCaps
theorem witness_CapabilityInstructions :
    Free benchCaps xc (capOpd 1 false ++ capOpd 2 true) (capOpd 2 true) ∧
    Free benchCaps xc (capOpd 1 true ++ capOpd 2 false ++ [opd 4 .w64]) (capOpd 2 false ++ [opd 4 .w64]) ∧ xc.c.seats ≠ [] ∧
    (0#4).toNat % 4 = 0 ∧ (9#4).toNat % 4 = 1 ∧ (2#4).toNat % 4 = 2 ∧ (3#4).toNat % 4 = 3 ∧
    benchCaps.ctx? = some xc ∧ benchCaps.privileged xc.who = false ∧
    Free kernelBench xk (capOpd 1 false ++ capOpd 2 false) (capOpd 2 false) ∧ kernelBench.privileged xk.who = true ∧
    (∀ i ∈ xk.c.seats, ((xk.capOf i 2 false).kind = 1 ∨ (xk.capOf i 2 false).kind = 2) ∧ (xk.capOf i 2 false).gexp ≤ 22 ∧
      (xk.capOf i 2 false).lower ≤ (xk.capOf i 2 false).upper) ∧
    (xc.c.seats.filter fun i => !(xc.capOf i 2 false).tag) = [] ∧ (xc.c.seats.filter fun i => !(xc.capOf i 2 true).tag) ≠ [] ∧
    (8#4).toNat ≤ 8 ∧ Free benchCaps xc (capOpd 2 true ++ [opd 30 .w64]) ∧ Free benchCaps xc (capOpd 2 false ++ [opd 31 .w32]) :=
  ⟨free_of (by decide), free_of (by decide), by decide, by decide, by decide, by decide, by decide, by decide, by decide, free_of (by decide), by decide,
    by decide, by decide, by decide, by decide, free_of (by decide), free_of (by decide)⟩

/-- Barrier 0 of the team with a count and arrivals; s2 holds a count; group 5 alone, at work. -/
def benchBar (cnt arr : Nat) : State :=
  { stateOf { pair (fun _ _ => 0) (cap 0xFF 2) with sregs := [0, 0, 2, 3, 0, 0, 0, 0, 0, 0, 0, 0, 0, 0, 0, 0] } with
    teams := [(3, { team with barriers := [⟨cnt, arr, 4, [], []⟩] })] }
/-- Group 5 with 32 seats, two of them with threads at the meeting; group 6 too, with another window base if `w`. -/
def benchMeet (w : Bool) : State :=
  let g := pair (fun _ _ => 0) (cap 0xFF 2)
  let at_ (k : Nat) := { g with
    lanes := (List.range 32).map fun i => if i < 2 then { laneAt (fun _ _ => 0) (32 * k + i) with mode := .atMeeting 0x3000 } else Lane.fresh none 32 0, gix := k }
  { bench with groups := [(5, at_ 0), (6, { at_ 1 with wb := if w then 8 else 0 })], teams := [(3, { team with groups := [5, 6], threads := 34 })] }

theorem witness_BarriersAndMeetings :
    (∀ q ∈ [(4, 1), (2, 0), (3, 1)], let s := benchBar q.1 q.2; let x := ctxOf s
     freeOk s x [(98, 1)] = true ∧ freeOk s x [opd 4 .w64] = true ∧ x.solo = false ∧ x.c.seats ≠ [] ∧ (∀ i ∈ x.c.seats, (x.g.lane i).tx = none) ∧
     (s.teamOf x.g).map (·.barriers) = some [⟨q.1, q.2, 4, [], []⟩] ∧ x.g.place ≠ none ∧ q.1 ≠ 0 ∧ q.2 + x.c.seats.length ≤ q.1 ∧
     (⟨q.1, q.2, 4, [], []⟩ : Barrier).again = [] ∧
     (∀ t, s.teamOf x.g = some t → ∀ e ∈ s.teamGroups t, e.2.trapSave = none ∧ ∀ l ∈ e.2.lanes, l.mode = .running) ∧
     s.matrixPending x.who = false ∧ x.g.failed = [] ∧ s.unperformed x.who = false ∧ (x.sreg 2).toNat = 2 ∧ (x.sreg 3).toNat = 3 ∧ s.reqs = [] ∧
     (∀ i ∈ x.c.seats, (x.g.lane i).meetFault = none ∧ (x.src64 i 4).toNat % 4 = 0)) ∧
    (let s := benchArray (opOf (.swapw bare0) 0 0); let x := ctxOf s
     Free s x [] ∧ s.matrixPending x.who = true ∧ (s.teamOf x.g).map (·.barriers) = some [⟨0, 0, 0, [], []⟩] ∧ x.g.place ≠ none) ∧
    (∀ t, (benchBar 2 2).teams.get? 3 = some t → t.barriers[0]? = some ⟨2, 2, 4, [], []⟩ ∧
      (⟨2, 2, 4, [], []⟩ : Barrier).isOver ((benchBar 2 2).liveThreads t) = true) ∧
    (1 + 2 < 4 ∧ 0 + 2 = 2 ∧ 1 + 2 = 3 ∧ (2 : Nat) ≤ team.threads ∧ team.threads < 3) ∧
    (∀ w ∈ [false, true], let s := benchMeet w
     ∀ t, s.teams.get? 3 = some t → t.groups.Nodup ∧ (∀ e ∈ s.teamGroups t, e.2.lanes.length = 32 ∧ e.2.live ≠ [] ∧ e.2.role < 8) ∧ s.meeting t = some true) ∧
    (∀ t, (benchMeet false).teams.get? 3 = some t → ∀ e ∈ (benchMeet false).teamGroups t, ∀ f ∈ (benchMeet false).teamGroups t, e.2.wb = f.2.wb) ∧
    (∀ t, (benchMeet true).teams.get? 3 = some t → ∃ e ∈ (benchMeet true).teamGroups t, ∃ f ∈ (benchMeet true).teamGroups t, e.2.wb ≠ f.2.wb) := by
  refine ⟨?_, ⟨free_of (by decide), by decide⟩, ?_, by decide, ?_, ?_, ?_⟩ <;> decide

/-- A descriptor of one team of one thread with 32 registers stands at object 2's start, and a counter at offset 4,096. -/
def descMem : List Host.Cell :=
  [(0x100010, 1), (0x100014, 1), (0x100018, 1), (0x10001C, 1), (0x10001E, 1), (0x100020, 1), (0x100022, 1), (0x100024, 32), (0x101000, 5)]
def grid0 (src : Source) : Grid :=
  { launch := 1, part := some 0, desc := descOf [] false false, asn := 0, args := [], a0 := Cap.null, source := src, teams := 1, next := 0, held := false,
    reported := false, ended := false, order := 0 }
def benchSpawn (grids : Nat) (f : Group → Group) : State :=
  { stateOf (f { pair (fun _ n => if n = 4 then 5 else if n = 6 then 6 else 0) (cap 0xFF 2) with
      acaps := (cap 0xFF 2) :: (cap 0xFF 2).setCursor 4096 :: List.replicate 14 Cap.null }) with
    mem := descMem, grids := (List.range grids).map fun k => (k, grid0 .spawn) }

theorem witness_SpawnAndJoin :
    (let s := benchSpawn 0 id; let x := ctxOf s
     Free s x [(100, 2), (96, 8)] (lanes := x.readers) ∧ x.c.seats ≠ [] ∧ Served s x (cursorAccess (cap 0xFF 2) 256 permR false) (fun _ => 0x100000) ∧ x.g.waitDone = none ∧
     x.g.failed = [] ∧ s.unperformed x.who = false ∧ s.reqs = [] ∧
     (let d := descOf (s.bytes 0x100000 256) false false
      d.valid true = true ∧ d.capsOk true = true ∧ s.partFits 0 d = true ∧ s.queueLen 0 d.priority < 256) ∧ s.partOf x.who = some 0 ∧
     (descOf (s.bytes 0x101000 256) false false).valid true = false ∧
     Served s x (cursorAccess ((cap 0xFF 2).setCursor 4096) 256 permR false) (fun _ => 0x101000) ∧
     Free s x [opd 4 .w64] (lanes := x.readers) ∧ Free s x [opd 6 .w64] (lanes := x.readers) ∧ Served s x (cursorAccess ((cap 0xFF 2).setCursor 4096) 8 permR false) (fun _ => 0x101000) ∧
     s.num 0x101000 8 = 5 ∧ (x.uni64 4).toNat = 5 ∧ (x.uni64 6).toNat = 6) ∧
    256 ≤ (benchSpawn 256 id).queueLen 0 0 ∧ (benchSpawn 255 id).queueLen 0 0 < 256 ∧
    (let s := benchSpawn 0 fun g => { g with waitDone := some 1 }; let x := ctxOf s
     Free s x [(100, 2), (96, 8)] ∧ (∀ i ∈ x.c.seats, (x.g.lane i).tx = none) ∧ x.g.waitDone = some 1) ∧
    (let d := descOf [] false false
     let s := benchSpawn 0 fun g => { g with wait := some (.spawnRoom d [7]) }
     (s.group? (.grp 5)).bind (·.wait) = some (.spawnRoom d [7]) ∧ s.partOf (.grp 5) = some 0) ∧
    ((benchSpawn 0 fun g => { g with wait := some (.join 0x2020) }).group? (.grp 5)).bind (·.wait) = some (.join 0x2020) ∧
    (let g := { pair (fun _ _ => 0) (cap 0xFF 2) with lanes := [{ laneAt (fun _ _ => 0) 0 with count := 24 }] }
     (stateOf g).group? (.grp 5) = some g ∧ g.runOpen = true ∧ g.issueQ = [] ∧ ∃ l ∈ g.lanes, 24 ≤ l.count) := by
  exact ⟨⟨free_of (by decide), by decide, served_of (by decide), by decide, by decide, by decide, by decide, by decide +kernel, by decide, by decide +kernel,
    served_of (by decide), free_of (by decide), free_of (by decide), served_of (by decide), by decide, by decide, by decide⟩, by decide +kernel, by decide +kernel,
    ⟨free_of (by decide), by decide, by decide⟩, by decide, by decide, by decide⟩

/-- Group 5 with holds, statuses and seats for POST and HOLD; the number of registers held and of messages out. -/
def benchPost (holds out : Nat) : State :=
  stateOf { pair (fun _ n => n) (cap 0xFF 2) with
    holds := (List.range holds).map fun k => (31 - k, 1), status := (List.range out).map fun k => (k % 2, k) }
/-- Message 7 of a group to group 6 (name entry 0 of core 10), whose group is resident or saved with a post box. -/
def cardOf (d : Nat) (u : Bool) : Postcard := ⟨d, 2, u, [(0, [1, 2]), (1, [3, 4])], 4⟩
def benchRoute (m : Msg) (saved : Bool) (box : Nat) : State :=
  let s := benchGive name6 0 1 false
  let cards := (List.range box).map fun _ => cardOf 4 false
  let g6 := { pair (fun _ _ => 0) (cap 0xFF 2) with team := 4, place := some ⟨10, 0, 0⟩, saved, holds := [(4, 0)], status := [(2, 7)], postBox := cards }
  { s with groups := s.groups.set 6 g6, msgs := [(7, m)] }
def g6Of (s : State) : Group := (s.groups.get? 6).getD (Group.fresh [] 0)

theorem witness_PostcardsAndHolds :
    (let s := benchPost 0 15; let x := ctxOf s
     s.ctx? = some x ∧ x.g.status.length < 16 ∧ (x.g.status.all fun h => h.1 < 2) = true) ∧ (ctxOf (benchPost 0 16)).g.status.length = 16 ∧
    (let s := bench; let x := x0
     Free s x [(98, 2), (101, 1), (8, 4)] ∧ (∀ i ∈ x.c.seats, (x.g.lane i).tx = none) ∧ x.g.failed = [] ∧ s.unperformed x.who = false) ∧
    Free bench x0 [] ∧ x0.solo = false ∧ (111#7).toNat < 112 ∧ ¬ (96 ≤ (32#7).toNat ∨ x0.g.wb + (32#7).toNat < x0.g.alloc) ∧
    (96 ≤ (111#7).toNat ∨ x0.g.wb + (111#7).toNat < x0.g.alloc) ∧ (96 ≤ (31#7).toNat ∨ x0.g.wb + (31#7).toNat < x0.g.alloc) ∧
    (∀ n ∈ [15, 16], let ks := (List.range n).map fun k => 31 - k
     ks.Nodup ∧ (∀ a ∈ ks, ∃ b ∈ (ctxOf (benchPost n 0)).g.holds, b.1 = a) ∧ (∀ b ∈ (ctxOf (benchPost n 0)).g.holds, b.1 ∈ ks) ∧ ks.length = n ∧ 4 ∉ ks) ∧
    Free bench x0 [(100, 2), opd 4 .w32] (lanes := x0.readers) ∧ Free bench x0 [(100, 2)] (lanes := x0.readers) ∧ bench.teamOf x0.g = some team ∧
    (∀ w ∈ [Sender.here (.grp 5) 2 3, .far 1 3], let s := benchRoute (.post w name6 (cardOf 31 false)) false 0
     s.msgs.get? 7 = some (.post w name6 (cardOf 31 false)) ∧ s.unrouted w name6 (some 7) = false ∧ s.nameHere name6 = true ∧
     s.lookupName name6 = some (6, ⟨1, some 6, 32, false⟩) ∧ s.lookupName (nameOf 0 10 1 1) = none ∧ 32 ≤ 31 + 2 - 1 ∧ 30 + 2 - 1 < 32 ∧
     (g6Of s).ended = false ∧ (g6Of s).preempted = false ∧ s.forwardedTo 6 none = false) ∧
    (let f : Dword := name6 ||| 5#64 <<< 56; let s := benchRoute (.post (.here (.grp 5) 2 3) f (cardOf 31 false)) false 0
     s.msgs.get? 7 = some (.post (.here (.grp 5) 2 3) f (cardOf 31 false)) ∧ s.unrouted (.here (.grp 5) 2 3) f (some 7) = false ∧ s.nameHere f = false) ∧
    (g6Of (benchRoute (.post (.here (.grp 5) 2 3) name6 (cardOf 4 false)) true 31)).preempted = true ∧
    (g6Of (benchRoute (.post (.here (.grp 5) 2 3) name6 (cardOf 4 false)) true 31)).postBox.length < 32 ∧
    32 ≤ (g6Of (benchRoute (.post (.here (.grp 5) 2 3) name6 (cardOf 4 false)) true 32)).postBox.length ∧
    (∀ w ∈ [Sender.here (.grp 5) 2 3, .far 1 3], let c := cardOf 30 false; let s := benchRoute (.forwarded 6 w c 0 3) false 0; let v := g6Of s
     s.msgs.get? 7 = some (.forwarded 6 w c 0 3) ∧ v.ended = false ∧ v.preempted = false ∧ s.forwardedTo 6 (some 7) = false ∧ v.betweenIssues = true ∧
     (c.vals.map (·.1)).Nodup ∧ (∀ a ∈ c.vals, a.2.length = c.n ∧ a.1 < v.lanes.length) ∧ c.u = false ∧
     (∀ l ∈ v.lanes, l.thread.isSome = true → c.d + c.n ≤ l.regs.length)) ∧
    ((cardOf 14 true).u = true ∧ (cardOf 14 true).vals ≠ [] ∧ (cardOf 14 true).d + (cardOf 14 true).n ≤ 16 ∧
      (g6Of (benchRoute (.forwarded 6 (.here (.grp 5) 2 3) (cardOf 14 true) 0 3) false 0)).sregs.length = 16) ∧
    (let s := benchRoute (.status (.grp 6) 2 0 0 3) false 0
     s.msgs.get? 7 = some (.status (.grp 6) 2 0 0 3) ∧ s.group? (.grp 6) = some (g6Of s) ∧ (g6Of s).ended = false) := by
  refine ⟨by decide, by decide, ⟨free_of (by decide), by decide, by decide, by decide⟩, free_of (by decide), by decide, by decide, by decide, by decide, by decide,
    ?_, free_of (by decide), free_of (by decide), ?_, ?_, ?_, ?_, ?_, ?_, ?_, ?_, ?_⟩ <;> decide

/-- Bytes of a value in memory, zeros left out. -/
def cells (a n v : Nat) : List Host.Cell := ((List.range n).map fun i => (a + i, BitVec.ofNat 8 (v / 2 ^ (8 * i)))).filter fun c => c.2 != 0
/-- The tables of address space 0: object 2 has one page at frame 16. -/
def tables : List Host.Cell :=
  cells 0x800000 8 0x801000 ++ [(0x800008, 4), (0x80000C, 1)] ++ cells 0x800010 8 0x803000 ++
  cells 0x801020 16 (2 ^ 127 + 2 ^ 100 + 0x802000) ++ cells 0x802000 8 (2 ^ 63 + 0x100000)
/-- Handler 1 of partition 0, with a depth. -/
def handler (depth : Nat) (c : Cap) : List Host.Cell := cells 0x810020 16 c.bits.toNat ++ cells 0x810032 2 depth
/-- The same with the page absent. -/
def noPage : List Host.Cell := tables.filter fun (c : Host.Cell) => c.1 / 4096 != 0x802
def withTables (s : State) (low high : List Host.Cell) : State :=
  { s with mem := low ++ tables ++ high, lpddr := 64, regs := { s.regs with astBase := 0x800000, astLen := 1 } }
def benchAmsg (depth : Nat) (c : Cap) (desc : List Host.Cell) (waiting : Nat) : State :=
  let s := withTables (stateOf (pair (fun _ _ => 0) (cap 0xFF 2))) desc (handler depth c)
  { s with parts := [(0, { Part.reset with enabled := true, clusters := 3, amBase := 0x810000 })], tags := [0x810020 / 16],
           grids := (List.range waiting).map fun k => (k, grid0 (.amsg 1 0)),
           msgs := [(7, .amsg (.here (.grp 5) 2 3) name6 1 [] Cap.null 0)] }

/-- Message 7 has come to core 10's die. -/
def arrived (s : State) : State := { s with msgs := [] }.heardBy (coreDie 10) (.here (.grp 5) 2 3)

theorem witness_ActiveMessages :
    Free bench x0 [(98, 2), (101, 1), (104, 8)] ∧ (∀ i ∈ x0.c.seats, (x0.g.lane i).tx = none) ∧
    ((pre 0x101 0 0).ext / 2 ^ 8 % 2 = 1 ∧ (cap 0xFF 2).tag = true ∧ Cap.null.tag = false) ∧ x0.g.status.length < 16 ∧ x0.g.failed = [] ∧
    bench.unperformed x0.who = false ∧
    (∀ d ∈ [0, 1], let s := benchAmsg d (cap 0xFF 2) descMem 0
     s.msgs.get? 7 = some (.amsg (.here (.grp 5) 2 3) name6 1 [] Cap.null 0) ∧ s.nameHere name6 = true ∧ nameCore name6 = some 10 ∧ s.partOfCore 10 = some 0 ∧
     s.num (0x810020 + 0x12) 2 = d ∧ s.tagAt 0x810020 = true ∧ s.regs.thresh = 0) ∧
    bench.nameHere (name6 ||| 5#64 <<< 56) = false ∧ nameCore (name6 ||| 5#64 <<< 56) ≠ none ∧
    nameCore (nameOf 0 10 0 1 ||| 0xFF#64 <<< 45) = none ∧ (benchAmsg 1 (cap 0xFF 2) descMem 0).partOfCore 16 = none ∧
    ((benchAmsg 1 (cap 0xFF 2) descMem 1).grids.filter fun e => e.2.part == some 0 && !e.2.ended && decide (e.2.next < e.2.teams)).length = 1 ∧
    (let s := arrived (benchAmsg 1 (cap 0x7F 2) descMem 0)
     (match s.handlerDesc 7 (.grp 5) (s.capAt 0x810020) 0 with | .inr (none, _) => true | _ => false) = true) := by
  refine ⟨free_of (by decide), by decide, by decide, by decide, by decide, by decide, ?_, by decide, by decide, by decide, by decide, by decide, by decide +kernel⟩
  decide +kernel

/-- The handler's descriptor is read; it fits, and one of zeros does not; a page that is absent holds the message back. -/
theorem witness_amsg_descriptor :
    (let s := arrived (benchAmsg 1 (cap 0xFF 2) descMem 0)
     (match s.handlerDesc 7 (.grp 5) (s.capAt 0x810020) 0 with
      | .inr (some d, _) => d.valid false && decide (d.threads ≤ 32) && s.partFits 0 d && d.capsOk false
      | _ => false) = true) ∧
    (let s := arrived (benchAmsg 1 (cap 0xFF 2) [] 0)
     (match s.handlerDesc 7 (.grp 5) (s.capAt 0x810020) 0 with | .inr (some d, _) => !d.valid false | _ => false) = true) ∧
    (let s := { arrived (benchAmsg 1 (cap 0xFF 2) descMem 0) with extents := [], mem := descMem ++ noPage ++ handler 1 (cap 0xFF 2) }
     (s.handlerDesc 7 (.grp 5) (s.capAt 0x810020) 0).isLeft = true) := by
  refine ⟨by decide +kernel, by decide +kernel, by decide +kernel⟩

/-- A queue header at object 2's start: slots of 16 bytes from offset 4,096, a consumer descriptor at offset 512. -/
def queueMem (mode tail head free : Nat) : List Host.Cell :=
  cells 0x100000 8 tail ++ cells 0x100008 8 head ++ cells 0x100010 8 free ++ [(0x100018, 4)] ++ cells 0x10001C 1 mode ++ [(0x10001D, 0x80)] ++
  cells 0x100020 16 ((cap 0xFF 2).setCursor 4096).bits.toNat ++ cells 0x100030 16 ((cap 0xFF 2).setCursor 512).bits.toNat ++
  [(0x100210, 1), (0x100214, 1), (0x100218, 1), (0x10021C, 1), (0x10021E, 1), (0x100220, 1), (0x100222, 1), (0x100224, 32)]
def benchQueue (mode tail head free : Nat) : State :=
  { stateOf (pair (fun t n => n + t) (cap 0xFF 2)) with mem := queueMem mode tail head free, tags := [0x10002, 0x10003] }
def headerAccess : Access := { cursorAccess (cap 0xFF 2) 128 (permR ||| permW ||| permA) true with ord := 0 }
def headerOf (s : State) : QHeader := qHeader (s.bytes 0x100000 128) true true

theorem queue_ready (mode tail head free : Nat) (h : (mode, tail, head, free) ∈ [(1, 2, 0, 2), (1, 1, 0, 3), (1, 3, 0, 1), (0, 2, 2, 4), (2, 0, 0, 4)]) :
    let s := benchQueue mode tail head free; let x := ctxOf s
    Free s x [opd 8 .w128] ∧ Free s x [opd 8 .w128] [] ∧ (∀ i ∈ x.c.seats, (x.g.lane i).tx = none) ∧ Served s x headerAccess (fun _ => 0x100000) ∧
    Quiet s x headerAccess (fun _ => 0x100000) ∧ x.g.failed = [] ∧ s.unperformed x.who = false ∧ s.reqs = [] ∧ s.qholds = [] := by
  simp only [List.mem_cons, Prod.mk.injEq, List.not_mem_nil, or_false] at h
  rcases h with ⟨rfl, rfl, rfl, rfl⟩ | ⟨rfl, rfl, rfl, rfl⟩ | ⟨rfl, rfl, rfl, rfl⟩ | ⟨rfl, rfl, rfl, rfl⟩ | ⟨rfl, rfl, rfl, rfl⟩ <;>
    exact ⟨free_of (by decide), free_of (by decide), by decide, served_of (by decide), quiet_of (by decide), by decide, by decide, by decide, by decide⟩

/-- What the statement asks of slot n, at 0x101000 + 16 (n mod 4). -/
def reachOk (s : State) (n : Nat) (p : BitVec 8) : Bool :=
  let x := ctxOf s; let c := (cap 0xFF 2).setCursor 4096
  let e := c.cursor + 16 * (n % 4); let a := 0x101000 + 16 * (n % 4)
  decide (s.check x.who x.g.team c e 16 [1] p true = none) && c.pkg == s.regs.pkg && s.peek ⟨c.pkg, s.asnOf x.who, c.index, e / 65536⟩ e == some a &&
  !s.lookupHeld ⟨c.pkg, s.asnOf x.who, c.index, e / 65536⟩ && !s.lineHeld x.who (a / 128) true && !s.lineHeld x.who (a / 128) false && unwatchedOk s (a / 128) && (List.range 16).all fun j =>
    decide (s.regs.rtBase + 64 * 4096 ≤ (a + j) / 8 * 8) && decide (s.regs.ttBase + 64 * 1024 ≤ (a + j) / 8 * 8)
theorem queue_reach :
    ∀ n ∈ [0, 1, 2, 3, 4], reachOk (benchQueue 1 2 0 2) n permR = true ∧ reachOk (benchQueue 1 2 0 2) n permW = true ∧
      reachOk (benchQueue 0 2 2 4) n permW = true := by decide

/-- Full and empty queues: two lanes push into two free slots, or wait with one; pop two items, or wait with one. -/
theorem witness_EdgeQueues :
    (let q := headerOf (benchQueue 1 2 0 2)
     q.fails 2 false = none ∧ q.fails 2 true = none ∧ q.mode = 1 ∧ q.slots = 4 ∧ q.items = (cap 0xFF 2).setCursor 4096 ∧ q.free = 2 ∧ q.tail - q.head = 2) ∧
    (let q := headerOf (benchQueue 1 3 0 1); q.fails 2 false = none ∧ q.mode = 1 ∧ q.free < 2) ∧
    (let q := headerOf (benchQueue 1 1 0 3); q.fails 2 true = none ∧ (q.tail + 2 ^ 64 - q.head) % 2 ^ 64 < 2) ∧
    (headerOf (benchQueue 2 0 0 4)).fails 2 false = some .capBound ∧ (headerOf (benchQueue 0 2 2 4)).fails 2 true = some .capPerm ∧
    (let s := benchQueue 0 2 2 4; let x := ctxOf s; let q := headerOf s
     q.fails 2 false = none ∧ q.args.length = 7 ∧ s.partOf x.who = some 0 ∧
     let d := descOf (s.bytes 0x100200 256) false false
     s.check x.who x.g.team q.desc q.desc.cursor 256 [1] permR true = none ∧ q.desc.pkg = s.regs.pkg ∧
     s.peek ⟨q.desc.pkg, s.asnOf x.who, q.desc.index, q.desc.cursor / 65536⟩ q.desc.cursor = some 0x100200 ∧
     s.lookupHeld ⟨q.desc.pkg, s.asnOf x.who, q.desc.index, q.desc.cursor / 65536⟩ = false ∧ (∀ b ∈ blocks 128 0x100200 256, s.lineHeld x.who b false = false) ∧ d.valid false = true ∧ s.partFits 0 d = true ∧ d.capsOk false = true) ∧
    ((stateOf { pair (fun _ _ => 0) (cap 0xFF 2) with wait := some (.eqpush 0x2000) }).group? (.grp 5)).bind (·.wait) = some (.eqpush 0x2000) ∧
    (let s := { benchQueue 2 0 0 4 with grids := [(1, { grid0 .spawn with desc := { descOf [] false false with traph := 0x4000 } })] }
     s.traphOf (ctxOf s).g ≠ 0 ∧ (ctxOf s).g.trap.inHandler = false) := by
  refine ⟨by decide +kernel, by decide +kernel, by decide +kernel, by decide +kernel, by decide +kernel, by decide +kernel, by decide, by decide⟩

/-- A batch of group 5 for service n, one lane, with its request words; the service team of die 0 is team 7. -/
def batchOf (n : Nat) (a0 : Cap) (taken : Bool) (w0 w1 w2 w3 : Nat) : Batch :=
  { group := 5, part := 0, die := 0, name := 0, launch := 1, team := 0, threads := [1], n, keep := false, a0, asn := 0, seats := [1], quads := [BitVec.ofNat 128 (w0 + 2 ^ 32 * w1 + 2 ^ 64 * w2 + 2 ^ 96 * w3)],
    dest := 28, sreg := 4, taken, replies := [], freeing := [], issued := 0, asked := [], answers := [] }
def benchSvc (b : Batch) (f : Group → Group) : State :=
  { withTables (stateOf (f (pair (fun _ _ => 0) (cap 0xFF 2)))) (cells 0x100100 16 (cap 0xFF 3).bits.toNat) [] with
    service := [(0, 7)], teams := [(3, team), (7, { team with part := none, groups := [] })], batches := [(1, b)], tags := [0x10010], picks := [3, 0x10041, 9] }
def askedOk (s : State) (b : Batch) (n : Nat) : Bool :=
  decide (s.batches.get? 1 = some b) && b.taken && b.n == n && (b.replies.get? 0).isNone && decide (0 < b.seats.length)

/-- What the statement asks of a range of the object of a0. -/
def spansOk (s : State) (b : Batch) (off n : Nat) (perms : BitVec 8) (align : Bool) : Bool :=
  b.a0.pkg == s.regs.pkg && decide (b.a0.cursor + off + n ≤ b.a0.limit) &&
  (s.check (.grp b.group) 0 b.a0 (b.a0.cursor + off : Nat) (if align then n else 0) [1] perms align).isNone

theorem witness_Services :
    (let s := benchSvc (batchOf 1 Cap.null true 0 0 0 0) id; let x := ctxOf s
     Free s x [opd 28 .w128, (100, 1)] ∧ x.solo = false ∧ (∀ i ∈ x.c.seats, (x.g.lane i).tx = none) ∧ x.g.waitDone = none ∧
     s.services.contains 1 = true ∧ s.serviceUp (s.dieOf x.who) = true ∧ s.services.contains 3 = false ∧ x.g.failed = [] ∧ s.unperformed x.who = false ∧
     x.who = .grp 5) ∧
    (let s := benchSvc (batchOf 1 Cap.null true 0 0 0 0) fun g => { g with waitDone := some 0 }; let x := ctxOf s
     Free s x [opd 28 .w128, (100, 1)] ∧ x.g.waitDone = some 0) ∧
    (kernelBench.ctx? = some xk ∧ xk.who = .ctl 0 ∧ (xk.g.lane 0).tx = none) ∧
    (let b := batchOf 1 Cap.null false 0 0 0 0; let s := benchSvc b id
     s.batches.get? 1 = some b ∧ b.taken = false ∧ ∀ e ∈ s.batches, e.1 < 1 → e.2.die = b.die → e.2.taken = true) ∧
    (∀ n ∈ [3, 18], let b := { batchOf n Cap.null true 0 0 0 0 with replies := if n = 18 then [(0, 3)] else [] }
     let s := benchSvc b fun g => { g with wait := some (.svc 1) }
     s.batches.get? 1 = some b ∧ b.taken = true ∧ (s.groups.get? 5).bind (·.wait) = some (.svc 1) ∧ b.seats.Nodup ∧
     (∀ g, s.groups.get? 5 = some g → (∀ j ∈ b.seats, j < g.lanes.length) ∧ ∀ l ∈ g.lanes, b.dest + 4 ≤ l.regs.length) ∧
     (b.n ∉ [1, 2, 16, 17, 18] ∨ b.seats.length ≤ b.replies.length)) ∧
    (∀ n ∈ [1, 2, 16, 17, 18], ∀ c ∈ [Cap.null, cap 0xFF 2], let b := batchOf n c true 0 0 0 0; askedOk (benchSvc b id) b n = true) ∧
    ((cap 0x40 2).has (permW ||| permSC) = false ∧ (cap 0x40 2).has (permW ||| permE) = false ∧ (cap 0x80 2).has (permR ||| permE) = false ∧
      (cap 0xFF 2).has (permW ||| permSC) = true ∧ (cap 0xFF 2).has (permW ||| permE) = true ∧ (cap 0xFF 2).has (permR ||| permE) = true) ∧
    (let b := batchOf 1 (cap 0xFF 2) true 100 0 0xFF 0x100; let s := benchSvc b id; let f := s.findObject 0 2 0x100 16
     Memory.wf s.mem = true ∧ s.keyed = [] ∧ s.trust.memKeys = [] ∧ s.regs.thresh = 0 ∧ f.1 = .places [(0x100100, 16)] ∧ spansOk s b 0x100 16 (permW ||| permSC) true = true ∧
     boundsOf 0 100 = some (0, 0, 100) ∧ s.picks = [3, 0x10041, 9] ∧ s.revBit 0 3 = false ∧ s.objectEntry 0 3 = some 0 ∧ s.freed = [] ∧
     s.freeRange (128 * 0x10041) 8 = true ∧ s.freeRange (65536 * 9) 65536 = true ∧
     s.num (s.regs.astBase + 32 * 0) 8 + 16 * 3 = 0x801030 ∧ s.capAt 0x100100 = cap 0xFF 3 ∧ (cap 0xFF 3).pkg = s.regs.pkg ∧
     (cap 0xFF 3).tag = true ∧ (cap 0xFF 3).kind = 1 ∧ b.freeing.get? 0 = none ∧
     (f.2.allReady [(128 * 0x10041, 8, true), (0x801030, 16, true), (0x100100, 16, true)]).1 = true ∧
     (f.2.allReady [(0x100100, 16, false), (0x803000, 1, true)]).1 = true ∧ s.num (s.regs.astBase + 0x10) 8 + (cap 0xFF 3).index / 8 = 0x803000) ∧
    (let b := batchOf 1 (cap 0xFF 2) true 100 0 0xFF 0x100; let s := { benchSvc b id with marks := [⟨0x2002, 5, true⟩] }; let f := (s.findObject 0 2 0x100 16).2
     (f.allReady [(128 * 0x10041, 8, true), (0x801030, 16, true), (0x100100, 16, true)]).1 = false ∧
     (f.allReady [(0x100100, 16, false), (0x803000, 1, true)]).1 = false ∧ (f.allReady [(0x100100, 65536, true)]).1 = false) ∧
    (let b := batchOf 1 (cap 0xFF 2) true 100 0 0xFF 0x100; let s := { benchSvc b id with extents := [], mem := noPage }
     (s.findObject 0 2 0x100 16).1 = .absent) ∧
    (∀ done ∈ [false, true], let v : OpenWork := ⟨[4], [], []⟩
     let b := { batchOf 2 (cap 0xFF 2) true 0x100 0 0 0 with freeing := [(0, (3, v))] }
     let s := { benchSvc b id with reqs := [(4, reqOf (.invalidate 3) done)] }; let f := s.findObject 0 2 0x100 16
     askedOk s b 2 = true ∧ b.freeing.get? 0 = some (3, v) ∧ f.1 = .places [(0x100100, 16)] ∧ f.2.workOpen v = !done) ∧
    (boundsOf 0 0 ≠ none ∧ boundsOf 0 (2 ^ 22 * (2 ^ 20 - 1)) ≠ none ∧ (2 ^ 22 * (2 ^ 20 - 1) + 65535) / 65536 < 2 ^ 26) ∧
    (∀ n ∈ [16, 17, 18], ∀ asked ∈ [[], [0]], let b := { batchOf n (cap 0xFF 2) true 16 0 0 0 with asked }; let s := benchSvc b id; let f := s.findObject 0 2 0 (16 * 4096)
     askedOk s b n = true ∧ b.asked.contains 0 = !asked.isEmpty ∧ b.answers.get? 0 = none ∧ spansOk s b 0 (16 * 4096) permW false = true ∧
     spansOk s b 4096 (16 * 4096) permW false = false ∧ f.1 = .places [(0x100000, 65536)] ∧ spansOk s b 0 (16 * 4096) permR false = true ∧
     (f.2.allReady [(0x100000, 65536, true)]).1 = true ∧ (f.2.allReady [(0x100000, 65536, false)]).1 = true) := by
  refine ⟨⟨free_of (by decide), by decide, by decide, by decide, by decide, by decide, by decide, by decide, by decide, by decide⟩,
    ⟨free_of (by decide), by decide⟩, by decide, by decide, by decide, by decide, by decide, by decide +kernel, by decide +kernel, by decide +kernel,
    by decide +kernel, by decide, by decide +kernel⟩

/-- A lane's open transaction of depth d that has read and written granule 0x10000 (line 0x2000). -/
def txOf (d : Nat) (ticket : Option Nat) (seen : Nat) : Tx :=
  { depth := d, retryPc := 0x2000, reg := 31, cosy := false,
    log := [⟨0x10001, (List.range 16).map fun _ => some (BitVec.ofNat 8 seen), some false⟩],
    buf := [⟨0x10000, (List.range 16).map fun i => if i < 4 then some 7 else none, false, (.other, .other)⟩], rset := [], wset := [], since := 0, born := 0, valp := 6, ticket }
def benchTx (t : Option Tx) (tries retry : Nat) : State :=
  let g := pair (fun _ _ => 0) (cap 0xFF 2)
  stateOf { g with lanes := g.lanes.map fun (l : Lane) => { l with tx := t, tries }, txRetry := retry }
def benchTicket (marked : Bool) (seen : Nat) : State :=
  { benchTx (some (txOf 1 (some 5) seen)) 0 8 with
    tickets := [⟨5, 5, 5, 0⟩], nextTicket := 6, marks := if marked then [⟨0x2000, 5, true⟩] else [] }

/-- The states of the loads and stores, with a transaction open in both lanes. -/
def inTx (s : State) (t : Tx) : State :=
  { s with groups := s.groups.map fun e => (e.1, { e.2 with lanes := e.2.lanes.map fun (l : Lane) => { l with tx := some t } }) }
/-- A transaction whose log holds n granules, and its write buffer m. -/
def txFull (n m : Nat) : Tx :=
  { txOf 1 none 0 with log := (List.range n).map fun k => ⟨k, [], none⟩, buf := (List.range m).map fun k => ⟨k, [], false, (.other, .other)⟩ }

theorem witness_transactional_accesses :
    (∀ q ∈ [txFull 63 31, txFull 64 32], let s := inTx bench q; let x := ctxOf s
     x.solo = false ∧ x.c.seats.Nodup ∧ (∀ i ∈ x.c.seats, i < x.g.lanes.length ∧ (x.g.lane i).tx = some q) ∧
     (∀ i ∈ x.c.seats, (∀ e ∈ q.log, e.granule ≠ at4 i / 16) ∧ (∀ e ∈ q.buf, e.granule ≠ at4 i / 16) ∧ ∀ j < 4, q.buffered (at4 i + j) = none) ∧
     s.coreOf x.who = some 9 ∧ s.bufUsed 9 + 2 ≤ 2048 ∧ q.log.length = q.buf.length + 32) ∧
    (let s := inTx bench (txFull 63 31); let x := ctxOf s
     Free s x ([opd 31 .w32, opd 4 .w32] ++ capOpd 1 false) ([opd 4 .w32] ++ capOpd 1 false) ∧ Free s x [opd 112 .w32, opd 31 .w32] [opd 112 .w32] x.readers ∧
     Free s x ([opd 31 .w32, opd 4 .w32] ++ capOpd 1 false) ∧ Free s x ([opd 8 .w64, opd 4 .w32] ++ capOpd 1 false) ∧
     Reached s x (memAccess x bare0 1 4 0 4 false (fun _ => permR) true false 0x70) at4 ∧
     Reached s x { memAccess x bare0 1 112 0 4 false (fun _ => permR) true false 0x72 with
       e := fun _ => (memAccess x bare0 1 112 0 4 false (fun _ => permR) true false 0x70).e x.lowest, whole := true } (fun _ => 0x100000) ∧
     Reached s x (memAccess x bare0 1 4 0 4 false (fun _ => permW) false true 0x71) at4 ∧
     Reached s x (memAccess x (pre 0x900 4 4) 1 4 0 4 true (fun _ => permW ||| permA) true true 0x75) at4 ∧
     Reached s x (memAccess x (pre 0x900 4 4) 1 4 0 4 true (fun _ => permR ||| permW ||| permA) true true 0x76) at4) ∧
    (let s := inTx bench16 (txFull 63 31); let x := ctxOf s
     Free s x ([opd 28 .w128, opd 4 .w32] ++ capOpd 1 false) ([opd 4 .w32] ++ capOpd 1 false) ∧ Free s x ([opd 8 .w128, opd 4 .w32] ++ capOpd 1 false) ∧
     Reached s x (memAccess x bare0 1 4 0 16 false (fun _ => permR) true false 0x73) at16 ∧
     Reached s x (memAccess x bare0 1 4 0 16 false (fun i => if x.quadTag 8 i then permW ||| permSC else permW) false true 0x74) at16) := by
  refine ⟨by decide +kernel, ⟨free_of ?_, free_of ?_, free_of ?_, free_of ?_, reached_of ?_, reached_of ?_, reached_of ?_, reached_of ?_, reached_of ?_⟩,
    free_of ?_, free_of ?_, reached_of ?_, reached_of ?_⟩ <;> decide

theorem witness_TransactionsOpenAndEnd :
    (∀ q ∈ [(none, 0, 8), (none, 7, 8), (none, 8, 8), (none, 255, 0), (some (txOf 1 none 0), 0, 8), (some (txOf 14 none 0), 0, 8), (some (txOf 15 none 0), 0, 8)],
     let s := benchTx q.1 q.2.1 q.2.2; let x := ctxOf s
     freeOk s x [opd 31 .w32] [] = true ∧ x.c.seats.Nodup ∧ x.c.seats ≠ [] ∧ (∀ i ∈ x.c.seats, i < x.g.lanes.length ∧ (x.g.lane i).tx = q.1) ∧
     x.g.failed = [] ∧ s.unperformed x.who = false ∧ x.who = .grp 5) ∧
    (let w := fun (tries retry : Nat) => decide (retry ≠ 0 ∧ retry ≤ tries)
     w 7 8 = false ∧ w 8 8 = true ∧ w 255 0 = false) ∧
    ((txOf 14 none 0).depth ≠ 15 ∧ (txOf 15 none 0).depth = 15 ∧ (txOf 1 none 0).depth = 1 ∧ (txOf 1 none 0).ticket = none ∧ (txOf 2 none 0).depth ≠ 1 ∧
      (txOf 1 none 0).reg < 32) ∧
    (∀ n ∈ [false, true], let g := { pair (fun _ _ => 0) (cap 0xFF 2) with lanes := [{ laneAt (fun _ _ => 0) 0 with mode := .cosyWait }] }
     let s := { stateOf g with cosyQ := [⟨.grp 5, 0, 31, 0x2000, n⟩] }
     s.cosy = none ∧ s.group? (.grp 5) = some g ∧ g.trapSave = none ∧ 0 < g.lanes.length) ∧
    (∀ m ∈ [false, true], ∀ seen ∈ [0, 1], let s := benchTicket m seen; let t := txOf 1 (some 5) seen
     s.tickets = [] ++ ⟨5, 5, 5, 0⟩ :: [] ∧ ((s.group? (.grp 5)).map fun v => ((v.lane 0).tx, (v.lane 0).mode, v.lanes.length)) = some (some t, .running, 2) ∧ s.change = none ∧ s.leaving = [] ∧
     s.ticketLets ⟨5, 5, 5, 0⟩ = true ∧ s.locked ⟨5, 5, 5, 0⟩ = m ∧ Memory.wf s.mem = true ∧ s.keyed = [] ∧ s.trust.memKeys = [] ∧ (∀ e ∈ s.ctls, (e.2.thread.lane 0).tx = none) ∧
     (s.marks.any fun k => k.ticket == 5) = m ∧ t.lines = [(0x2000, true)] ∧ s.blocked 0x2000 true = m ∧ (m = false → s.mayTake 0x2000 true none = true) ∧
     s.regs.rtBase + 64 * 4096 ≤ 16 * 0x10000 ∧ s.regs.ttBase + 64 * 1024 ≤ 16 * 0x10000 ∧ s.validate t = decide (seen = 0) ∧
     (t.buf.map (·.granule)).Nodup ∧ ∀ e ∈ t.buf, e.bytes.length = 16) ∧
    (let s := { benchTicket false 0 with tickets := [⟨4, 4, 6, 0⟩, ⟨5, 5, 5, 0⟩], cosy := some (.grp 5, 0) }
     s.tickets = [⟨4, 4, 6, 0⟩] ++ ⟨5, 5, 5, 0⟩ :: [] ∧ (∀ q ∈ ([⟨4, 4, 6, 0⟩] : List Ticket), s.locked q = false ∧ s.ticketLets q = false) ∧
     s.ticketLets ⟨5, 5, 5, 0⟩ = true) ∧
    (Free bench x0 ([] ++ [opd 31 .w32])) ∧ (∀ now ∈ [65535, 65536], ({ benchTx (some (txOf 1 none 0)) 0 8 with now } : State).now - (txOf 1 none 0).since = now) ∧
    65535 < 2 ^ ((txOf 1 none 0).valp + 10) ∧ 2 ^ ((txOf 1 none 0).valp + 10) ≤ 65536 := by
  refine ⟨by decide, by decide, by decide, by decide, by decide, by decide, free_of (by decide), by decide, by decide, by decide⟩

/-- The grid has a handler at `traph`; the group may be in it. -/
def benchTrap (traph : Nat) (inH : Bool) (f : Group → Group) : State :=
  let g := pair (fun _ _ => 0) (cap 0xFF 2)
  let saved : TrapSave := ⟨[⟨0x1000, .running, List.replicate 8 0, 0, 0, false, false, true, true⟩, ⟨0x3000, .running, List.replicate 8 0, 0, 0, false, false, false, false⟩],
    [], 0x1000, 0x1004, [], false, none, [], [], false, [], none, none⟩
  let g := if inH then { g with trap := { TrapRegs.reset with inHandler := true, tpc := 0x1000 }, trapSave := some saved } else g
  { stateOf (f g) with grids := [(1, { grid0 .spawn with desc := { descOf [] false false with traph := BitVec.ofNat 64 traph } })] }

theorem witness_TrapsAndReturns :
    (∀ q ∈ [(0, false), (0x4000, false), (0x4000, true)], let s := benchTrap q.1 q.2 id; let x := ctxOf s
     s.ctx? = some x ∧ x.who = .grp 5 ∧ (∀ i ∈ x.c.seats, (x.g.lane i).tx = none) ∧ x.c.seats ≠ [] ∧ s.traphOf x.g = BitVec.ofNat 64 q.1 ∧
     x.g.trap.inHandler = q.2 ∧ s.teamOf x.g = some team ∧ (s.grids.get? team.grid).isSome = true ∧ x.g.skipStop = [] ∧ s.armedFor x = false ∧ x.solo = false ∧
     x.g.endPending = false ∧ (∀ e ∈ s.teams, e.2.phase ≠ .retired ∧ s.teams.get? e.1 = some e.2) ∧ x.g.trapSave.isSome = q.2 ∧ x.g.inPreempt = false) ∧
    (let s := { benchTrap 0x4000 false id with
       trust := { Trust.reset with dbg := true }, parts := [(0, { Part.reset with enabled := true, clusters := 3, breaks := [⟨0x9000, 1, none, none⟩] })] }
     s.armedFor (ctxOf s) = true ∧ (ctxOf s).g.skipStop = []) ∧
    (let s := benchTrap 0x4000 false fun g => { g with skipStop := [(3, 0), (3, 1)] }; s.ctx? = some (ctxOf s) ∧ ∀ i ∈ (ctxOf s).c.seats, (3, i) ∈ (ctxOf s).g.skipStop) ∧
    (let s := benchTrap 0x4000 true fun g => { g with inPreempt := true }; (ctxOf s).g.trap.inHandler = true ∧ (ctxOf s).g.inPreempt = true) := by
  refine ⟨by decide, by decide, by decide, by decide⟩

/-- Control core 0, in kernel or user mode, with its EPC; vector 3 pends and is routed to it if `irq`. -/
def benchCtl (kernel : Bool) (epc : Nat) (irq ie : Bool) (w : Option Wait) (done : Option Nat) : State :=
  { kernelBench with
    ctls := [(0, { Ctl.reset with started := true, kernel, ie, epc := BitVec.ofNat 64 epc, thread := { ctlThread with wait := w, waitDone := done } })],
    vectors := if irq then [3] else [], regs := { Regs.reset with ivBase := 0x900000 }, mem := [(0x900018, 1)] }

theorem witness_ControlCoreExceptions :
    (∀ q ∈ [(true, 0x2000, none), (false, 0x2002, some 0)], let s := benchCtl q.1 q.2.1 false false none q.2.2; let x := ctxOf s
     s.ctx? = some x ∧ x.who = .ctl 0 ∧ (∀ i ∈ x.c.seats, (x.g.lane i).tx = none) ∧ (x.g.lane 0).tx = none ∧ (s.ctl 0).kernel = q.1 ∧ x.g.skipStop = [] ∧
     s.armedFor x = false ∧ s.reqs = [] ∧ x.c.seats = [0] ∧ x.g.lanes.length = 1 ∧ (s.ctl 0).epc.toNat % 4 = (if q.1 then 0 else 2) ∧ x.g.waitDone = q.2.2 ∧
     s.pendingFor 0 = []) ∧
    ((benchCtl true 0x2002 false false none none).ctl 0).epc.toNat % 4 ≠ 0 ∧
    (let s := benchCtl true 0x2000 true true (some .wfi) none; s.pendingFor 0 ≠ [] ∧ (s.ctl 0).thread.wait = some .wfi) ∧
    (let s := benchCtl true 0x2000 true true none none
     s.canInterrupt 0 = true ∧ (s.ctl 0).thread.wait = none ∧ (s.ctl 0).thread.lanes ≠ [] ∧ ((s.ctl 0).thread.lane 0).tx = none) ∧
    ((kernelBench.ctl 0).thread.lanes.length = 1) ∧
    (let s := benchCtl true 0x2000 true true none none; let x := ctxOf s
     s.ctx? = some x ∧ x.who = .ctl 0 ∧ (s.ctl 0).kernel = true ∧ (s.ctl 0).ie = true ∧ s.pendingFor 0 ≠ []) := by
  refine ⟨by decide, by decide, by decide, by decide, by decide, by decide⟩

theorem witness_ControlAndStatusRegisters :
    (∀ n ∈ [0x010, 0x011, 0x029], (csrRead bench x0.who x0.g n).isSome = true) ∧ csrRead bench x0.who x0.g 0x7FF = none ∧
    csrRead bench x0.who x0.g 0x800 = none ∧ Free bench x0 [opd 31 .w32] (lanes := x0.readers) ∧ Free bench x0 [opd 31 .w32] [] ∧ (∀ i ∈ x0.c.seats, (x0.g.lane i).tx = none) ∧
    (csrWrite bench x0.who x0.g 0x011 0).isSome = true ∧ (csrWrite bench x0.who x0.g 0x011 (x0.uni32 31)).isSome = true ∧ 0x011 / 16 ≠ 0x42 ∧
    (csrWrite bench x0.who x0.g 0x010 0).isSome = false ∧ bench.privileged x0.who = false ∧ (kernelBench.ctl 0).kernel = true ∧ x0.solo = false ∧ xk.solo = true ∧
    Free bench x0 [opd 30 .w64] [] ∧ bench.ctx? = some x0 ∧ (csrRead kernelBench (.ctl 0) xk.g 0xC87).isSome = true :=
  ⟨by decide, by decide, by decide, free_of (by decide), free_of (by decide), by decide, by decide, by decide, by decide, by decide, by decide, by decide, by decide, by decide,
    free_of (by decide), by decide, by decide⟩

/-- Group 5 with a watch, a wait and the end of a wait. -/
def benchWatch (y : Option Watch) (w : Option Wait) (done : Option Nat) (now steep : Nat) : State :=
  { stateOf { pair (fun t n => 16 * n + 4 * t) (cap 0xFF 2) with watch := y, wait := w, waitDone := done, steep } with now }
theorem witness_WatchAndSteepTimer :
    (Free bench x0 [opd 4 .w32, (106, 1)] (lanes := x0.readers) ∧ (∀ i ∈ x0.c.seats, (x0.g.lane i).tx = none) ∧ x0.c.seats ≠ [] ∧
      Served bench x0 { cursorAccess (cap 0xFF 2) 4 permR false with e := fun _ => 64 } (fun _ => 0x100040) ∧
      ((cap 0xFF 2).cursor : Int) + (x0.src32 x0.lowest 4).toInt = 64) ∧
    (∀ q ∈ [(none, some 2), (none, none), (some ⟨0, 0x2000, true⟩, none), (some ⟨0, 0x2000, false⟩, none)],
     let s := benchWatch q.1 none q.2 0 0; let x := ctxOf s
     freeOk s x [opd 4 .w32, (106, 1)] (lanes := x.readers) = true ∧ x.g.watch = q.1 ∧ x.g.waitDone = q.2) ∧
    (∀ q ∈ [(0, 10, 9), (0, 10, 10), (0, 0, 10)], let s := benchWatch none (some (.lwait q.1 q.2.1 10)) none q.2.2 0
     (s.group? (.grp 5)).bind (·.wait) = some (.lwait q.1 q.2.1 10)) ∧
    (∀ w ∈ [none, some (.lwait 0 10 10)], ((benchWatch (some ⟨0, 0x2000, false⟩) w none 0 0).group? (.grp 5)).map (fun v => (v.watch, v.wait)) =
      some (some ⟨0, 0x2000, false⟩, w)) ∧
    ((benchWatch none none none 2047 0).group? (.grp 5)).map (fun v => v.steepReached 2047) = some false ∧
    (let g := pair (fun _ _ => 0) (cap 0xFF 2)
     let v := { g with steepAt := some 0, lanes := [laneAt (fun _ _ => 0) 0, { laneAt (fun _ _ => 0) 1 with pc := 0x2000 }] }
     (stateOf v).group? (.grp 5) = some v ∧ v.steepReached 2048 = true ∧ v.steepReached 2047 = false ∧ v.runOpen = true ∧
     v.laneProg = true ∧ v.place ≠ none ∧ v.waiting ≠ []) ∧
    (let v := { pair (fun _ _ => 0) (cap 0xFF 2) with lanes := [{ laneAt (fun _ _ => 0) 0 with mode := .stopped }, laneAt (fun _ _ => 0) 1] }
     v.laneProg = true ∧ v.place ≠ none ∧ v.waiting = [] ∧ v.stoppedSeats ≠ [] ∧ 1 ∈ v.nextServed) ∧
    Free bench x0 [opd 30 .w64] [] := by
  refine ⟨⟨free_of (by decide), by decide, by decide, served_of (by decide), by decide⟩, by decide, by decide, by decide, by decide, by decide, by decide, free_of (by decide)⟩

/-- A request of this package to package 1 that awaits its answer. -/
def farReq (k : ReqKind) (sends : Nat) : Req :=
  { reqOf k false with key := ⟨1, 0, 2, 0⟩, remote := some 1, num := some 7, sends, dest := none }

/-- Service-team code is privileged: team 3 without a partition. Register pairs name an address space, an object and a page. -/
def benchInv (takers : List (Nat × Nat)) (done : Option Nat) (hi : Nat) : State :=
  { stateOf { pair (fun _ n => if n = 4 then 2 * 65536 else if n = 5 then hi else 0) (cap 0xFF 2) with waitDone := done } with
    teams := [(3, { team with part := none })], takers }
def invOf : ExtInv := ⟨.grp 5, 2, 0, 0, 0, [4]⟩
theorem witness_InvalidationsAndDrains :
    (∀ q ∈ [([], none, 0), ([(0, 3), (1, 4)], none, 0), ([], some 0, 0), ([], none, 2 ^ 30)], let s := benchInv q.1 q.2.1 q.2.2; let x := ctxOf s
     freeOk s x [opd 4 .w64] (lanes := x.readers) = true ∧ (∀ i ∈ x.c.seats, (x.g.lane i).tx = none) ∧ s.privileged x.who = true ∧ x.g.waitDone = q.2.1 ∧
     ((x.uni64 4).toNat < 2 ^ 62 ↔ q.2.2 = 0) ∧ (x.uni64 4).toNat % 2 ^ 16 = 0 ∧ (x.uni64 4).toNat / 2 ^ 16 % 2 ^ 20 = 2) ∧
    bench.privileged x0.who = false ∧
    (∀ d ∈ [false, true], let s := { stateOf { pair (fun _ _ => 0) (cap 0xFF 2) with wait := some .extinv } with extinvs := [invOf], reqs := [(4, reqOf (.load 4 0) d)] }
     s.extinvs = [] ++ invOf :: [] ∧ (s.group? invOf.who).bind (·.wait) = some .extinv ∧ (s.reqs.get? 4).map (·.done) = some d) ∧
    bench.xdrain = none ∧ ({ bench with xdrain := some ⟨[4], [], []⟩ } : State).xdrain = some ⟨[4], [], []⟩ ∧ bench.rvsync = none ∧
    (∀ d ∈ [false, true], let l : OpenWork := ⟨[4], [(.grp 5, 0, if d then 1 else 0)], [(9, 0, if d then 2 else 3)]⟩
     let s := { benchCopy .running [] 3 0 with
       groups := (benchTx (some (txOf 1 none 0)) 0 8).groups, reqs := [(4, reqOf (.load 4 0) d)], xdrain := some l, rvsync := some ⟨0, l⟩ }
     s.xdrain = some l ∧ s.rvsync = some ⟨0, l⟩ ∧ (∀ n ∈ l.reqs, (s.reqs.get? n).map (·.done) = some d) ∧
     (∀ q ∈ l.txs, q.1 ∈ s.threads ∧ ((s.group? q.1).bind fun g => (g.lane q.2.1).tx).map (fun t => decide (t.born = q.2.2)) = some (!d)) ∧
     ∀ c ∈ l.copies, ((s.core c.1).copies.get? c.2.1).map (fun b => decide (b.state = .running ∧ b.seq = c.2.2)) = some (!d)) ∧
    (∀ d ∈ [false, true], let k : TakerAck := ⟨3, 0, ⟨[4], [], []⟩⟩; let s := { bench with acks := [k], reqs := [(4, { farReq (.load 4 0) 0 with done := d })] }
     s.down = false ∧ k ∈ s.acks ∧ s.workOpen k.work = !d) := by
  refine ⟨by decide, by decide, by decide, by decide, by decide, by decide, by decide, by decide⟩

/-- Slice 3 leaves the map; a change of another slice is in progress at a step, with or without acknowledgements to come. -/
def changeOf (step : Nat) (acks : List Nat) : MapChange := ⟨4, step, [4], acks⟩
/-- One request at its home slice, with the directory entry of its line. -/
def benchReq (kind : ReqKind) (done : Bool) (d : DirEntry) : State :=
  { bench with reqs := [(4, reqOf kind done)], dir := [(0x2000, d)], copies := [(136, 0x2000), (3, 0x2000)], dirty := [(3, 0x2000)],
               notes := [⟨3, 0x2000, false⟩, ⟨3, 0x2000, true⟩] }
def dirOf (st : DirState) (busy : Bool) (recalls : Bool) (acks : Nat) : DirEntry :=
  { DirEntry.reset with st, busy, acks, recalls, ptrs := if st = .P ∨ st = .O then [3] else [], wait := if busy then some 4 else none,
                        owed := if busy then [3] else [], acked := if busy then [(5, 0)] else [] }
theorem witness_RequestsAtTheHomeSlice :
    (∀ k ∈ [.load 4 0, .load 8 4, .loadCap true, .store [1, 2, 3, 4], .storeCap (List.replicate 16 1) true, .atomic 9 4 1 0 true, .atomic 10 8 1 0 true],
     let s := benchReq k false DirEntry.reset; let r := reqOf k false
     s.reqs.get? 4 = some r ∧ s.oldest 4 r = true ∧ s.atStub r = false ∧ s.blocked (r.addr / 128) r.kind.changes = false ∧
     s.toTell (r.addr / 128) r.kind.changes r.agent = [] ∧ s.coinciding 4 r = [] ∧ r.addr % 16 = 0) ∧
    (let k := ReqKind.atomic 0 4 1 0 true; let s := { benchReq k false DirEntry.reset with reqs := [(4, reqOf k false), (5, { reqOf k false with seat := 0 })] }
     s.oldest 4 (reqOf k false) = true ∧ s.coinciding 4 (reqOf k false) = [(5, { reqOf k false with seat := 0 })]) ∧
    (∀ st ∈ [.P, .O], let k := ReqKind.store [1, 2, 3, 4]; let s := benchReq k false (dirOf st false false 0); s.toTell 0x2000 k.changes (reqOf k false).agent ≠ []) ∧
    (let s := { benchReq (.load 4 0) false DirEntry.reset with marks := [⟨0x2000, 5, true⟩] }; s.blocked 0x2000 false = true) ∧
    (let c := { changeOf 5 [] with moved := [hash12 6 0x2000] }
     ({ benchReq (.load 4 0) false DirEntry.reset with change := some c, smGen := 1 } : State).atStub (reqOf (.load 4 0) false) = true) ∧
    (let s := benchCopy .running [] 3 0; s.stillWrites 145 0x2020 = true ∧ s.stillWrites 145 0x2000 = false ∧ s.stillWrites 3 0x2000 = false) ∧
    ({ benchReq (.load 4 0) false DirEntry.reset with stubs := [7] } : State).atStub { reqOf (.load 4 0) false with gen := 0 } = false ∧
    (Memory.wf bench.mem = true ∧ bench.regs.rtBase + 64 * 4096 ≤ 0x100040 ∧ bench.regs.ttBase + 64 * 1024 ≤ 0x100040) ∧
    (∀ r ∈ [false, true], ∀ n ∈ [1, 2], let d := dirOf .P true r n; let s := benchReq (.load 4 0) false d
     s.down = false ∧ s.dirAt 0x2000 = d ∧ d.busy = true ∧ d.recalls = r ∧ 3 ∈ d.owed ∧ (∃ a ∈ d.acked, a.1 = 5) ∧ d.acks = n ∧ d.wait = some 4) ∧
    (let d := { dirOf .P true false 1 with owed := [129] }; (benchReq (.load 4 0) false d).dirAt 0x2000 = d ∧ 129 ∈ d.owed) ∧
    (let s := benchReq (.load 4 0) false (dirOf .O false false 0)
     s.notes.contains ⟨3, 0x2000, false⟩ = true ∧ s.notes.contains ⟨3, 0x2000, true⟩ = true ∧ (s.dirAt 0x2000).ptrs.head? = some 3 ∧ (s.dirAt 0x2000).busy = false) ∧
    (let r := reqOf (.load 4 0) true; let s := benchReq (.load 4 0) true DirEntry.reset
     s.reqs.get? 4 = some r ∧ r.done = true ∧ r.remote = none ∧ (∀ q ∈ s.reqs, q.1 < 4 → q.2.who ≠ r.who) ∧ r.dest = some 8 ∧ s.group? r.who = some x0.g ∧
     r.trail = none ∧ r.latch = [] ∧ r.seat < x0.g.lanes.length ∧ 8 + 2 ≤ (x0.g.lane r.seat).regs.length ∧ r.value.length = 4) := by
  refine ⟨by decide, by decide, by decide, by decide, by decide, by decide, by decide, by decide, by decide, by decide, by decide, by decide⟩

/-- A notice that waits. -/
def noteOf : Notice := ⟨1, 0, ⟨0, 0, 2, 0⟩, 5⟩
/-- The page of object 2 in the tables, counted beyond the threshold. -/
def counted (q : Bool) (log2 tail head : Nat) : State :=
  { withTables bench [] [] with
    extents := [⟨⟨0, 0, 2, 0⟩, BitVec.ofNat 64 (2 ^ 63 + (if q then 2 ^ 62 else 0) + 2 ^ 60 + 9 * 2 ^ 42 + 16 * 65536), 0, 0x802000⟩]
    regs := { Regs.reset with thresh := 9, nqBase := 0xA00000, nqLog2 := log2, nqTail := BitVec.ofNat 32 tail, nqHead := BitVec.ofNat 32 head }, notices := [noteOf] }
theorem witness_MapChangesTranslationAndCaches :
    (3 < 512 ∧ 3 ∉ bench.stubs ∧ bench.stubs.length < 511 ∧ bench.change = none ∧
      bench.marks = [] ∧ bench.dir = []) ∧
    (let s := { bench with dir := [(3, dirOf .P false false 0)] }; ∃ d ∈ s.dir, s.sliceOf d.1 = 3 ∧ s.toTell d.1 true none ≠ [] ∧ (s.dirAt d.1).busy = false) ∧
    (let s := { bench with marks := [⟨0x2000, 5, true⟩] }; s.change = none ∧ s.marks ≠ [] ∧ 3 ∉ s.leaving) ∧
    (let c := { changeOf 5 [] with moved := [hash12 6 0x2000] }; let s := { benchReq (.load 4 0) false DirEntry.reset with change := some c, smGen := 1 }
     ∃ r ∈ s.reqs, r.2.done = false ∧ r.2.remote = none ∧ r.2.rehome = false ∧ s.atStub r.2 = true) ∧
    (({ bench with change := some ⟨32, 1, [], []⟩ } : State).lookupHeld ⟨0, 0, 2, 0⟩ = true ∧ bench.lookupHeld ⟨0, 0, 2, 0⟩ = false) ∧
    (∀ c ∈ [changeOf 1 [], changeOf 5 [], changeOf 5 [0]], ({ bench with change := some c } : State).change = some c ∧ c.slice ≠ 3) ∧
    (let s := withTables bench [] []
     s.cachedExtent ⟨0, 0, 2, 1⟩ = none ∧ s.regs.thresh = 0 ∧ ({ s with extents := [] } : State).cachedExtent ⟨0, 0, 2, 0⟩ = none ∧ (s.walk 0 2 0).1 = .frame 16 ∧
     (s.walk 0 2 1).1 = .error ∧ (s.walk 0 3 0).1 = .error ∧ unwatchedOk s (0x802000 / 128) = true) ∧
    (let s := { bench with change := some (changeOf 5 []) }; s.translationSlice ⟨0, 0, 2, 0⟩ ≠ 3 ∧ 3 ∉ s.leaving) ∧
    (∀ now ∈ [9, 10], let g := { pair (fun _ _ => 0) (cap 0xFF 2) with lanes := [{ laneAt (fun _ _ => 0) 0 with mode := .parked ⟨0, 0, 2, 0⟩ (some 10) }] }
     let s := { stateOf g with now }
     s.group? (.grp 5) = some g ∧ (∀ i ∈ g.lanes, i.tx = none) ∧ (g.lane 0).mode = .parked ⟨0, 0, 2, 0⟩ (some 10) ∧ (g.lane 0).thread.isSome = true ∧ s.now = now) ∧
    (∀ q ∈ [true, false], let s := counted q 6 0 0
     (∃ e, s.cachedExtent ⟨0, 0, 2, 0⟩ = some e ∧ s.regs.thresh ≠ 0 ∧ e.entry.toNat / 2 ^ 60 % 4 ≠ 0 ∧ s.regs.thresh ≤ e.entry.toNat / 2 ^ 42 % 2 ^ 14 ∧
       e.entry.getLsbD 62 = q)) ∧
    (counted false 6 0 0).noticeRoom = true ∧ (counted false 6 64 0).noticeRoom = false ∧
    (let s := counted false 6 0 0; s.notices = noteOf :: [] ∧ Memory.wf s.mem = true ∧ s.keyed = [] ∧ s.trust.memKeys = [] ∧
     ∀ l ∈ blocks 128 0xA00000 32, unwatchedOk s l = true ∧ s.mayTake l true none = true) ∧
    ({ counted false 6 0 0 with marks := [⟨0xA00000 / 128, 5, true⟩] }.mayTake (0xA00000 / 128) true none = false) ∧ (counted false 6 0 0).noticeFree = true ∧
    ({ counted false 6 64 0 with notices := [] } : State).noticeFree = false ∧ bench.down = false ∧
    (∀ w ∈ [[0x2000], []], let t := { txOf 1 none 0 with wset := w, rset := [0x2000] }
     let s := { kernelBench with ctls := [(0, { Ctl.reset with thread := { ctlThread with lanes := ctlThread.lanes.map fun (l : Lane) => { l with tx := some t } } })], copies := [(0, 0x2000)] }
     s.copies.contains (0, 0x2000) = true ∧ ((s.ctl 0).thread.lane 0).tx = some t ∧ t.wset.contains 0x2000 = !w.isEmpty ∧ t.rset.contains 0x2000 = true) := by
  refine ⟨by decide, by decide, by decide, by decide, by decide, by decide, by decide +kernel, by decide +kernel, by decide, ?_, by decide, by decide, by decide, by decide,
    by decide, by decide, by decide, by decide⟩
  intro q _
  have h : q = true ∨ q = false := by cases q <;> simp
  rcases h with rfl | rfl
  · exact ⟨_, rfl, by decide⟩
  · exact ⟨_, rfl, by decide⟩

/-- One team of 40 threads: two groups, two hampers, a barrier. -/
def desc1 : Desc :=
  { descOf [] false false with
    entry := 0x1000, gridX := 1, gridY := 1, gridZ := 1, teamX := 40, teamY := 1, teamZ := 1, span := 1, regs := 32, hampers := 2, barriers := 1 }
def gridOf (d : Desc) (src : Source) (next : Nat) : Grid := { grid0 src with desc := d, next }
/-- A partition of clusters 0 and 1 with a grid that has one team to dispatch, and the team `t`. -/
def benchPlace (e : Grid) (ts : FMap Team) (gs : FMap Group) : State :=
  { State.reset with boot := .running, parts := [(0, { Part.reset with enabled := true, clusters := 3 })], grids := [(1, e)], teams := ts, groups := gs }
/-- Team 3 retires and is at a step. -/
def benchRetire (i adv : Nat) (d : Desc) (src : Source) : State :=
  { withTables bench [] [] with
    grids := [(1, gridOf d src 1)], teams := [(3, { team with phase := .retiring i, advances := adv })]
    groups := [(5, { pair (fun _ _ => 0) (cap 0xFF 2) with ended := true, place := none })], cur := none }

theorem witness_PlacementAndRetirementOfTeams :
    (let e := gridOf desc1 .spawn 0; let s := benchPlace e [] []
     s.places 0 = true ∧ (s.part 0).heads = [] ∧ s.picks = [] ∧ (∀ q < 8, 0 < q → s.candidate 0 q = none) ∧ s.candidate 0 0 = some (.fresh 1 e) ∧
     (s.blocksFor 0 (s.needOf (.fresh 1 e))).head? = some 1) ∧
    (let t := { team with phase := .saved, seated := false, groups := [5], cluster := 1 }; let e := gridOf desc1 .spawn 1
     let s := benchPlace e [(3, t)] [(5, { pair (fun _ _ => 0) (cap 0xFF 2) with place := none, saved := true })]
     s.candidate 0 0 = some (.saved 3 t) ∧ (s.blocksFor 0 (s.teamNeed t)).head? = some 8) ∧
    (let e := gridOf desc1 .spawn 0; let s := { benchPlace e [] [] with parts := [(0, { Part.reset with enabled := true })] }
     s.places 0 = true ∧ (s.candidate 0 0) = some (.fresh 1 e) ∧ s.blocksFor 0 (s.needOf (.fresh 1 e)) = []) ∧
    (∀ i ∈ [1, 2, 3, 4, 5, 6, 7, 8], let s := benchRetire i 1 desc1 .spawn
     (s.teams.get? 3).map (fun t => (t.phase, t.swapped, decide (t.advances ≤ 1))) = some (.retiring i, false, true) ∧ (s.grids.get? 1).isSome = true ∧ (s.cores.map (·.1)).Pairwise (· < ·) ∧
     (∀ t, s.teams.get? 3 = some t → s.settled t = true) ∧ Memory.wf s.mem = true ∧ s.keyed = [] ∧ s.trust.memKeys = []) ∧
    (let s := { benchRetire 2 1 desc1 .spawn with msgs := [(4, .post (.here (.grp 5) 2 3) name6 (cardOf 4 false))] }
     ∀ t, s.teams.get? 3 = some t → s.settled t = false) ∧
    (let s := benchRetire 6 1 desc1 .spawn
     desc1.joincap.tag = false ∧ s.joinCheck 0 ((cap 0xFF 2).setCursor 64) (permW ||| permA) = none ∧ s.joinCheck 0 (cap 0x80 2) (permW ||| permA) = some .capPerm ∧
     s.peek ⟨0, 0, 2, 0⟩ 64 = some 0x100040 ∧ (s.engineReady 0x100040 8 true none).1 = true ∧ s.regs.thresh = 0 ∧ s.lookupHeld ⟨0, 0, 2, 0⟩ = false ∧ s.monitors = [] ∧ s.retries = [] ∧
     s.regs.rtBase + 64 * 4096 ≤ 0x100040 ∧ s.regs.ttBase + 64 * 1024 ≤ 0x100040) ∧
    (let s := benchRetire 8 1 desc1 (.edge 0 0 (cap 0xFF 2))
     (cap 0xFF 2).cursor % 128 = 0 ∧ s.peek ⟨0, 0, 2, (0 + 0x10) / 65536⟩ (0 + 0x10) = some 0x100010 ∧ (s.engineReady 0x100010 8 true none).1 = true ∧
     s.regs.thresh = 0 ∧ s.regs.rtBase + 64 * 4096 ≤ 0x100010 ∧ s.regs.ttBase + 64 * 1024 ≤ 0x100010) ∧
    (let s := { benchRetire 1 1 desc1 .spawn with
       clusters := [(1, { Cluster.reset with hampers := [(0, hamper0)] })]
       cores := [(9, { Core.reset with copies := [(0, { slotOf .running [] 3 with dsts := [.hamper 1 0 0] })] })] }
     (s.cores.map (·.1)).Pairwise (· < ·) ∧ (∀ k ∈ s.cores, (k.2.copies.map (·.1)).Pairwise (· < ·)) ∧ (s.hamper 1 0).team = some 3 ∧ s.copyReqs 9 0 false = false ∧
     ((s.core 9).copies.get? 0).map (fun c => (c.state, c.stop, c.dsts)) = some (.running, none, [.hamper 1 0 0])) := by
  refine ⟨by decide +kernel, by decide +kernel, by decide +kernel, by decide +kernel, by decide, by decide +kernel, by decide +kernel, by decide⟩

/-- Partition 0 names a grid and a team; team 3 of grid 1 is resident, or gone. -/
def benchPrq (id tm : Nat) (pre : Option Preemption) (ts : FMap Team) (next : Nat) : State :=
  { bench with
    parts := [(0, { Part.reset with enabled := true, clusters := 3, prqid := BitVec.ofNat 32 id, prqteam := BitVec.ofNat 32 tm, preempt := pre })]
    grids := [(1, { gridOf desc1 .spawn next with teams := 2 })], teams := ts }
/-- Group 5, between runs, with a handler or none. -/
def benchDue (traph : Nat) (f : Group → Group) : State :=
  { stateOf (f { pair (fun _ _ => 0) (cap 0xFF 2) with runOpen := false }) with
    grids := [(1, gridOf { desc1 with traph := BitVec.ofNat 64 traph } .spawn 1)], cur := none }
/-- Grid 1 stalls: its resident team waits and another does not fit, the partition's clusters being full. -/
def benchStall (since : Option Nat) (now res : Nat) (reported : Bool) : State :=
  { stateOf { pair (fun _ _ => 0) (cap 0xFF 2) with runOpen := false, wait := some (.join 0x9000) } with
    parts := [(0, { Part.reset with enabled := true, stalls := match since with | some v => [(1, v)] | none => [] })]
    teams := [(3, team), (4, { team with index := 1, groups := [] })]
    grids := [(1, { gridOf { desc1 with residency := res } .spawn 2 with teams := 3, reported })], cur := none, now }

theorem witness_PreemptionAndTheStallWatch :
    ((benchPrq 1 0 (some ⟨[3], 0, false⟩) [(3, team)] 1).part 0).preempt ≠ none ∧
    (let s := benchPrq 1 0 none [(3, { team with swapped := true })] 1
     (s.teams.find? fun t => t.2.grid == 1 && t.2.index == 0 && t.2.seated) = some (3, { team with swapped := true })) ∧
    (let s := benchPrq 1 0 none [(3, team)] 1
     (s.part 0).preempt = none ∧ s.gridNamed 0 (s.part 0).prqid = some (1, { gridOf desc1 .spawn 1 with teams := 2 }) ∧ (s.part 0).prqteam.toNat < 2 ∧
     (s.teams.find? fun t => t.2.grid == 1 && t.2.index == 0 && t.2.seated) = some (3, team) ∧ team.phase = .resident ∧
     ((s.teams.filter fun t => t.2.grid == 1 && t.2.phase == .resident).map (·.1)) = [3]) ∧
    (let s := benchPrq 2 0 none [(3, team)] 1; s.gridNamed 0 (s.part 0).prqid = none) ∧
    (let s := benchPrq 1 2 none [(3, team)] 1; (s.gridNamed 0 (s.part 0).prqid).isSome = true ∧ 2 ≤ (s.part 0).prqteam.toNat) ∧
    (let s := benchPrq 1 1 none [(3, team)] 1
     (s.gridNamed 0 (s.part 0).prqid).isSome = true ∧ (s.teams.find? fun t => t.2.grid == 1 && t.2.index == 1 && t.2.seated) = none ∧ 1 ≤ (s.part 0).prqteam.toNat) ∧
    (let s := benchPrq 1 0 none [] 1
     (s.gridNamed 0 (s.part 0).prqid).isSome = true ∧ (s.teams.filter fun t => t.2.grid == 1 && t.2.phase == .resident) = []) ∧
    (∀ q ∈ [(0, true, false, false), (0x4000, true, false, false), (0, false, true, false), (0, false, false, true), (0, false, false, false)],
     let s := benchDue q.1 fun g => { g with trapDue := q.2.1, pdone := q.2.2.1, cut := q.2.2.2 }
     (s.groups.get? 5).map (fun v => (v.trapDue, v.pdone, v.cut)) = some q.2 ∧
     (∀ v, s.groups.get? 5 = some v → v.ended = false ∧ v.saved = false ∧ v.halted = false ∧ v.runOpen = false ∧ v.moveDue = none ∧ v.trap.inHandler = false ∧
       v.waitDone = none ∧ v.wait = none ∧ s.traphOf v = BitVec.ofNat 64 q.1 ∧ v.preemptLanes = [0, 1]) ∧ (s.part 0).swap = none ∧ s.change = none ∧ s.partOf (.grp 5) = some 0) ∧
    (let s := benchDue 0 fun g => { g with trapDue := true, wait := some (.lwait 0 10 10) }
     ∀ v, s.groups.get? 5 = some v → v.ended = false ∧ v.saved = false ∧ v.halted = false ∧ v.runOpen = false ∧ v.moveDue = none ∧ v.cut = false ∧ v.pdone = false ∧
       v.trapDue = true ∧ v.trap.inHandler = false ∧ v.waitDone = none ∧ v.wait = some (.lwait 0 10 10)) ∧
    (let s := { benchDue 0 id with change := some (changeOf 5 []) }
     s.change ≠ none ∧ (s.groups.get? 5).map (fun v => (v.runOpen, v.moveDue)) = some (false, none)) ∧
    (let s := { benchPrq 1 0 none [(3, { team with phase := .saved, seated := false })] 1 with cur := none }
     (s.gridNamed 0 (s.part 0).prqid).isSome = true ∧ (s.teams.find? fun t => t.2.grid == 1 && t.2.index == 0 && t.2.seated) = none ∧
     ∃ t ∈ s.teams, t.2.grid = 1 ∧ t.2.index = 0 ∧ t.2.phase = .saved) ∧
    (let s := benchDue 0 fun g => { g with saved := true }; ∀ v, s.groups.get? 5 = some v → v.saved = true ∧ s.teamSavable team = true) ∧
    (benchDue 0 id).teamSavable team = false ∧ team.part = some 0 ∧ (benchDue 0 id).teams.get? 3 = some team ∧
    (∀ q ∈ [(none, 0, 0, false), (some 0, 99999, 0, false), (some 0, 100000, 0, true), (some 0, 100000, 0, false), (some 0, 100000, 1, false)],
     let s := benchStall q.1 q.2.1 q.2.2.1 q.2.2.2
     ∀ e, s.grids.get? 1 = some e → e.part = some 0 ∧ s.stallsNow 1 e = true ∧ (s.part 0).stalls.get? 1 = q.1 ∧ (s.part 0).stallw = 100 ∧ e.desc.residency = q.2.2.1 ∧
       e.reported = q.2.2.2 ∧ (s.part 0).evicting = none ∧ s.victim 0 1 e = some 4 ∧
       s.stalledSince 1 (q.1.getD 0) = 0 ∧ ∀ l ∈ blocks 128 ((s.part 0).tq.base + 64 * ((s.part 0).tq.tail.toNat % 2 ^ (s.part 0).tq.log2)) 64, unwatchedOk s l = true) ∧
    (let s := { benchStall none 0 0 false with teams := [] }; ∀ e, s.grids.get? 1 = some e → s.stallsNow 1 e = false) := by
  refine ⟨by decide, by decide, by decide, by decide, by decide, by decide, by decide, by decide, by decide, by decide, ⟨by decide, by decide, (3, { team with phase := .saved, seated := false }), by decide⟩,
    by decide, by decide, by decide, by decide, by decide +kernel, by decide⟩

theorem witness_PartitionsSwapsAndMigration :
    (let s := { bench with parts := [(0, { Part.reset with enabled := true, clusters := 3, swap := some 1 })] }
     (s.part 0).swap ≠ none ∧ s.swapDrained 0 = false) ∧ (bench.part 0).swap = none ∧
    (let s := { benchDue 0 fun g => { g with saved := true } with parts := [(0, { Part.reset with enabled := true, clusters := 3, swap := some 1 })] }
     (s.part 0).swap ≠ none ∧ s.swapDrained 0 = true) ∧
    (let s := { bench with parts := [(0, { Part.reset with enabled := true, clusters := 3 }), (1, { Part.reset with clusters := 0 })], regs := { Regs.reset with psel := 1 } }
     (s.part s.regs.psel).enabled = false ∧ (∃ e ∈ s.parts, e.1 ≠ s.regs.psel ∧ e.2.clusters.getLsbD 1 = true) ∧ s.busyPart 1 = false ∧ s.busyPart 0 = true) ∧
    (bench.part 0).enabled = true ∧ (1#32).getLsbD 0 = true ∧ (2#32).getLsbD 0 = false ∧
    (∀ o ∈ [true, false], let s := stateOf { pair (fun _ _ => 0) (cap 0xFF 2) with runOpen := o }
     ∀ g, s.groups.get? 5 = some g → g.runOpen = o ∧ s.seatFor 5 g ⟨10, 0, 15⟩ = true ∧ s.seatFor 5 g ⟨10, 4, 0⟩ = false ∧ s.seatFor 5 g ⟨10, 0, 16⟩ = false) ∧
    (let s := stateOf { pair (fun _ _ => 0) (cap 0xFF 2) with runOpen := false, wait := some (.lwait 0 10 10) }
     ∀ g, s.groups.get? 5 = some g → g.runOpen = false ∧ s.seatFor 5 g ⟨10, 0, 15⟩ = true ∧ g.wait = some (.lwait 0 10 10)) ∧
    (let s := { stateOf { pair (fun _ _ => 0) (cap 0xFF 2) with runOpen := false, moveDue := some ⟨10, 4, 0⟩ } with change := some (changeOf 5 []) }
     s.change ≠ none ∧ ∀ g, s.groups.get? 5 = some g → g.runOpen = false ∧ g.moveDue = some ⟨10, 4, 0⟩ ∧ g.ended = false ∧ g.saved = false ∧ g.halted = false ∧
       s.seatFor 5 g ⟨10, 4, 0⟩ = false) ∧ bench.down = false := by
  refine ⟨by decide, by decide, by decide, ⟨by decide, ⟨(0, { Part.reset with enabled := true, clusters := 3 }), by decide⟩, by decide, by decide⟩, by decide, by decide, by decide, by decide, by decide, by decide, by decide⟩

/-- Stream ports are enabled; receive ring 1 has two slots of 256 bytes, transmit ring 1 two entries with one at 0xB70000. -/
def portRegs : Regs := { Regs.reset with pen := 3, rtBase := 0xB00000, ttBase := 0xB60000, psBase := 0xA00000, rpBase := 0xB80000, rpSize := 1, astBase := 0x800000, astLen := 1 }
def ringCfg (dold enc : Bool) (lsz : Nat) : Nat := 2 ^ 31 + dold.toNat * 2 ^ 30 + enc.toNat * 2 ^ 29 + lsz * 2 ^ 20 + 1 * 2 ^ 15 + 5
def benchPort (cfg tail head thead : Nat) (f : State → State) : State :=
  f { bench with
    mem := tables ++ cells 0xB00040 4 cfg ++ cells 0xB00048 8 0xB80000 ++ cells 0xB00050 8 tail ++ cells 0xB00058 8 head ++
      cells 0xB60040 4 (2 ^ 31 + 2 ^ 15) ++ cells 0xB60048 8 0xB70000 ++ cells 0xB60050 8 2 ++ cells 0xB60058 8 thead ++
      cells 0xB70000 4 0 ++ cells 0xB70004 4 4 ++ cells 0xB70010 16 (cap 0xFF 2).bits.toNat ++ cells 0xB70020 4 7
    regs := portRegs, lpddr := 64, tags := [0xB7001], cur := none, extents := [] }
def msgOf (ring len : Nat) (parses : Bool) (secure : Option Nat) : PortMsg :=
  { conn := 9, parses, secure, tagOk := true, ring, len, mode := 0, payload := [1, 2, 3, 4] }
def pktOf (i : Nat) : PortPacket := ⟨i, 2, msgOf 1 4 true none⟩

/-- Receive ring 1 as its port reads it, and a placement of a message there at step k. -/
def rxOfRing (dold enc : Bool) : RxRing := ⟨0xB00040, dold, enc, 8, 1, 5, 0xB80000⟩
def placingOf (k : Nat) : Placing := ⟨1, msgOf 1 4 true none, k, some (rxOfRing false false, 1)⟩

theorem witness_StreamPortMessages :
    (let s := benchPort (ringCfg false false 8) 1 0 0 id; let new : Placing := ⟨1, msgOf 1 4 true none, 0, none⟩
     s.down = false ∧ s.portOn 1 = true ∧ s.portOn 2 = false ∧ Memory.wf s.mem = true ∧ s.keyed = [] ∧ s.trust.memKeys = [] ∧ s.monitors = [] ∧ s.farWatches = [] ∧
     s.placing = [] ∧ s.hwWrites = [] ∧ s.qholds = [] ∧ (s.allReady [(0xA00080, 128, true)]).1 = true ∧
     (msgOf 1 4 true none).after = none ∧ (s.allReady (s.placeLines new)).1 = true ∧
     (∀ k ∈ [1, 2, 3, 4], (s.allReady (s.placeLines (placingOf k))).1 = true) ∧
     s.rxRing 1 = some (rxOfRing false false) ∧ s.rxRing 2 = none ∧ s.rxFull (rxOfRing false false) = false ∧
     0xA00000 + 128 * 1 + 128 ≤ 0xB00040 ∧ s.psRaised.get? 1 = none ∧
     s.fate (msgOf 1 4 false none) = .malformed ∧ s.fate (msgOf 1 4 true (some 5)) = .auth ∧ s.fate (msgOf 2 4 true none) = .noRing ∧
     s.fate (msgOf 1 240 true none) = .placed ∧ s.fate (msgOf 1 241 true none) = .malformed) ∧
    (let s := benchPort (ringCfg false false 8) 2 0 0 id; s.fate (msgOf 1 4 true none) = .full) ∧
    (let s := benchPort (ringCfg true false 8) 2 0 0 id
     s.fate (msgOf 1 4 true none) = .placed ∧ s.rxFull (rxOfRing true false) = true ∧ 0xA00080 + 128 ≤ 0xB80000) ∧
    (let s := benchPort (ringCfg false true 8) 0 0 0 fun s => { s with trust := { Trust.reset with portKeys := [(5, 1), (6, 2)] } }
     s.fate (msgOf 1 4 true (some 5)) = .placed ∧ s.fate (msgOf 1 4 true (some 6)) = .auth ∧ s.fate (msgOf 1 4 true none) = .auth ∧
     s.fate (msgOf 1 4 true (some 7)) = .auth) ∧
    (let s := benchPort (ringCfg false false 8) 1 0 0 fun s => { s with placing := [placingOf 2] }
     ∃ q ∈ s.placing, q.msg.ring = (msgOf 1 4 true none).ring) ∧
    (let m := { msgOf 3 4 true none with conn := 10, after := some 9 }; let s := benchPort (ringCfg false false 8) 1 0 0 fun s => { s with placing := [placingOf 2] }
     m.mode = 0 ∧ (∃ q ∈ s.placing ++ [⟨1, m, 0, none⟩], q.port = 1 ∧ q.msg.mode = 0 ∧ m.after = some q.msg.conn) ∧ ¬∃ q ∈ s.placing, q.msg.ring = m.ring) ∧
    (64 ≤ ((List.replicate 64 (placingOf 2)).filter fun q => q.port == 1 && q.ring.isSome).length) ∧
    (let s := { bench with hwWrites := [HwWrite.portCount 1 0 none] }; ∃ o b, HwWrite.portCount 1 o b ∈ s.hwWrites) ∧
    (∃ j < (pktOf 0).total, j ∉ ([] : List Nat) ∧ j ≠ (pktOf 0).index) ∧ (∀ j < (pktOf 1).total, j ∈ [0] ∨ j = (pktOf 1).index) ∧
    (let s := benchPort (ringCfg false false 8) 1 0 0 fun s => { s with arrived := [(1, 9)] }; (1, (pktOf 0).msg.conn) ∈ s.arrived) ∧
    (let s := benchPort (ringCfg false false 8) 1 0 0 id
     (1, (pktOf 0).msg.conn) ∉ s.arrived ∧ (pktOf 0).msg.mode ≠ 2 ∧ s.whole ⟨1, 9, [0], 2, 0, (pktOf 0).msg⟩ = false ∧ s.whole ⟨1, 9, [0, 1], 2, 0, (pktOf 0).msg⟩ = true) ∧
    (let x : Partial := ⟨1, 10, [0], 1, 0, { msgOf 1 4 true none with conn := 10, after := some 9 }⟩
     let s := benchPort (ringCfg false false 8) 1 0 0 fun s => { s with partials := [x] }; let s1 := { s with arrived := s.arrived ++ [(1, 9)] }
     s.partials.filter (fun q => !(q.port == 1 && q.conn == 9)) = [x] ∧ s.whole x = false ∧ s.partials.find? s1.whole = some x ∧ s.partials.erase x = []) ∧
    (∀ now ∈ [99999, 100000], let p : Partial := ⟨1, 9, [0], 2, 0, { msgOf 1 4 true none with mode := 2 }⟩
     let s := benchPort (ringCfg false false 8) 1 0 0 fun s => { s with partials := [p], now }
     s.partials.find? (fun q => q.port == 1 && q.conn == 9) = some p ∧ p.msg.mode = 2 ∧ (1, 9) ∉ s.arrived ∧ (now = 100000 → p.since + 100000 ≤ s.now) ∧
     (now = 99999 → s.now < p.since + 100000)) ∧
    ({ bench with boot := .scrapped } : State).down = true ∧ bench.portOn 1 = false := by
  and_intros
  all_goals first | exact ⟨_, _, List.mem_singleton.2 rfl⟩ | decide +kernel

def txOfRing : TxRing := ⟨0xB60040, false, 0, 1, 0, 0, 0, 0xB70000⟩
def busyOf (mode : Nat) (c : Cap) (sent : Bool) (outcome : Option Bool) : TxBusy := ⟨0, { txOfRing with mode }, [], 0xB70000, 4, 0, c, sent, outcome⟩
/-- Object 2 of package 1, with permission to read and to leave the package; the read of its bytes, answered. -/
def farCap : Cap := ⟨(cap 0xFF 2).bits + 1#128 <<< 108, true⟩
def portReq : Req := { farReq (.portRead 1 4) 1 with answer := some (.data [1, 2, 3, 4] false) }
theorem witness_TransmitRings :
    (let s := benchPort (ringCfg false false 8) 0 0 0 id
     s.txRing 1 = some txOfRing ∧ s.txRing 2 = none ∧ s.txBusy.get? 1 = none ∧ s.txWait.get? 1 = none ∧ (s.allReady [(0xB60040, 64, true), (0xB70000, 32, false)]).1 = true ∧ s.num (0xB60040 + 0x18) 8 = 0 ∧
     s.num (0xB60040 + 0x10) 8 = 2 ∧ s.num (0xB70000 + 32 * (0 % 2)) 4 = 0 ∧ Memory.wf s.mem = true ∧ s.keyed = [] ∧ s.trust.memKeys = [] ∧ s.capAt 0xB70010 = cap 0xFF 2 ∧
     (s.allReady [(0xB70000, 32, true), (0xB60040, 64, true), (0xA00000, 128, true)]).1 = true ∧ s.regs.thresh = 0 ∧ 0xA00000 + 128 ≤ 0xB60040 ∧ 0xB60040 + 64 ≤ 0xB70000 ∧
     s.bufOk 0 4 (cap 0xFF 2) = true ∧ (cap 0xFF 2).pkg = s.regs.pkg ∧ Cap.null.tag = false ∧ (cap 0x40 2).has (permR ||| permE) = false ∧ 1 < 1024 ∧
     s.bufOk 0 4 farCap = true ∧ farCap.pkg = 1 ∧ farCap.pkg ≠ s.regs.pkg) ∧
    (let s := benchPort (ringCfg false false 8) 0 0 1 id; s.num (0xB70000 + 32 * (1 % 2)) 4 ≠ 1 % 2 ^ 32) ∧
    (let s := benchPort (ringCfg false false 8) 0 0 2 id; s.num (0xB60040 + 0x18) 8 = s.num (0xB60040 + 0x10) 8) ∧
    (∀ now ∈ [9, 10], let s := benchPort (ringCfg false false 8) 0 0 1 fun s => { s with txWait := [(1, 10)], now }; s.txWait.get? 1 = some 10 ∧ s.txBusy.get? 1 = none) ∧
    (∀ b ∈ [busyOf 0 (cap 0xFF 2) false none, busyOf 2 (cap 0xFF 2) false none, busyOf 0 (cap 0xFF 2) true none, busyOf 0 (cap 0xFF 2) true (some true), busyOf 0 Cap.null false none],
     let s := benchPort (ringCfg false false 8) 0 0 1 fun s => { s with txBusy := [(1, b)] }
     s.txBusy.get? 1 = some b ∧ s.txWait.get? 1 = none ∧ s.down = false ∧ (s.allReady [(b.addr, 32, true), (b.ring.desc, 64, true), (0xA00000, 128, true)]).1 = true) ∧
    (let s := benchPort (ringCfg false false 8) 0 0 1 fun s => { s with marks := [⟨0xB70000 / 128, 5, true⟩] }
     (s.allReady [(0xB70000, 32, true), (0xB60040, 64, true), (0xA00000, 128, true)]).1 = false) ∧
    (let s := benchPort (ringCfg false false 8) 0 0 1 fun s => { s with txBusy := [(1, busyOf 0 farCap false none)], reqs := [(4, portReq)] }
     s.reqs.find? (fun q => q.2.kind == .portRead 1 4) = some (4, portReq)) ∧
    (let s := benchPort (ringCfg false false 8) 0 0 1 fun s => { s with txBusy := [(1, busyOf 0 (cap 0xFF 2) false none)], extents := bench.extents }
     s.findObject 0 2 0 4 = (.places [(0x100000, 4)], s) ∧ (s.allReady [(0x100000, 4, false)]).1 = true) ∧
    (let s := benchPort (ringCfg false false 8) 0 0 1 fun s => { s with txBusy := [(1, busyOf 0 (cap 0xFF 3) false none)] }
     (s.findObject 0 3 0 4).1 = .error) := by
  and_intros
  all_goals decide +kernel

/-- Package 1 has the translation of object 2's page; its window; a request of this package that awaits its answer. -/
def grantOf2 : Nat × Extent := (1, ⟨⟨0, 0, 2, 0⟩, BitVec.ofNat 64 (2 ^ 63 + 16 * 65536), 0, 0⟩)
def benchFar (w : Option Window) (reqs : FMap Req) (now : Nat) : State :=
  { bench with granted := [grantOf2], windows := match w with | some w => [(1, w)] | none => [], reqs, now, cur := none }
theorem witness_FabricRequestsAndReplies :
    (let s := benchFar none [] 0
     s.down = false ∧ s.inbound = [] ∧ (s.windows.getD 1 ⟨0, [], []⟩).high < 1 + 4096 ∧ 1 ∉ (s.windows.getD 1 ⟨0, [], []⟩).done ∧ s.grantOf 1 ⟨0, 0, 2, 0⟩ = some grantOf2.2 ∧
     grantOf2.2.frame * 65536 + 64 % 65536 = 0x100040 ∧ (∀ l ∈ blocks 128 0x100040 128, s.mayTake l true none = true ∧ s.mayTake l false none = true) ∧ s.poisoned 0x100040 16 = false ∧
     s.poisoned 0x100040 128 = false ∧ Memory.wf s.mem = true ∧ s.keyed = [] ∧ s.trust.memKeys = [] ∧ s.reading (blocks 32 0x100040 1) = false ∧
     s.monitors = [] ∧ s.farWatches = [] ∧ s.regs.rtBase + 64 * 4096 ≤ 0x100040 ∧ s.regs.ttBase + 64 * 1024 ≤ 0x100040 ∧ s.hasSpace 0 = false ∧ s.lookupHeld ⟨0, 0, 2, 0⟩ = false ∧
     s.unrouted (.far 1 0) name6 none = false ∧ s.lookupName name6 = none ∧ 0x100040 % 16 = 0) ∧
    (let s := withTables (benchFar none [] 0) [] []; s.hasSpace 0 = true ∧ s.lookupHeld ⟨0, 0, 2, 0⟩ = false ∧ (s.cachedExtent ⟨0, 0, 2, 0⟩).isSome = true ∧ s.regs.thresh = 0) ∧
    (let s := { benchFar none [] 0 with qholds := [⟨0x2000, none, 0, 1⟩] }
     (∃ l ∈ blocks 128 0x100040 4, s.mayTake l true none = false) ∧
     ∀ l ∈ blocks 128 0x100040 24, ({ s with qholds := s.qholds.filter fun h => !(h.line == 0x100040 / 128 && h.who.isNone && h.pkg == 1) } : State).mayTake l true none = true) ∧
    (∃ d q, (benchGive name6 0 1 false).lookupName name6 = some d ∧ (benchGive name6 0 1 false).groups.get? d.1 = some q ∧ q.ended = false) ∧
    (let s := stateOf { pair (fun _ _ => 0) (cap 0xFF 2) with watch := some ⟨1, 0x40, false⟩ }; (s.group? (.grp 5)).bind (·.watch) = some ⟨1, 0x40, false⟩) ∧
    (let s := { benchFar none [] 0 with poison := [0x100040 / 32] }; s.poisoned 0x100040 4 = true) ∧
    (let s := benchFar (some ⟨4097, [4097], [(4097, .done)]⟩) [] 0; let w := s.windows.getD 1 ⟨0, [], []⟩
     1 + 4096 ≤ w.high ∧ w.high < 2 + 4096 ∧ 4097 ∈ w.done ∧ w.replies.get? 4097 = some .done) ∧
    (let s := { benchFar none [] 0 with inbound := [⟨1, some 1, 0, 2, 64, .loadCap, 0⟩] }
     ¬ ∀ q ∈ s.inbound, ¬(q.src = 1 ∧ q.asn = (0 : BitVec 16) ∧ q.obj = 2 ∧ q.off / 128 = 64 / 128)) ∧
    (let s := { benchFar none [] 0 with marks := [⟨0x2000, 5, true⟩] }; (∃ l ∈ blocks 128 0x100040 4, s.mayTake l true none = false)) ∧
    (∀ k ∈ [.load 4 0, .store [1, 2, 3, 4], .atomic 0 4 1 0 false, .translate, .parked, .invalidate 2, .copyWrite 9 0 0 0 [1] false, .loadTags 128, .queueBegin, .queueEnd [], .slot [1],
        .watch (.grp 5), .handler 7, .give name6, .message 2 (.post 4 1 false [] 4 name6), .copyRead 9 0 0 32, .portRead 1 4], let s := benchFar none [(4, farReq k 1)] 0; let r := farReq k 1
     s.reqs.get? 4 = some r ∧ r.remote.isSome = true ∧ r.answer = none ∧ r.trail = none ∧ r.fence = none ∧ r.pc ≠ noPc ∧ (s.group? r.who).map (·.failed) = some [] ∧
     ∀ i < x0.g.lanes.length, (x0.g.lane i).tx = none) ∧
    (let r := { farReq (.atomic 0 4 1 0 false) 1 with fence := some 2 }; (benchFar none [(4, r)] 0).reqs.get? 4 = some r) ∧
    (∀ n ∈ [7, 8], let r := farReq (.store [1]) n; let s := benchFar none [(4, r)] 20000
     s.reqs.get? 4 = some r ∧ r.sentAt + 1000 * s.regs.rto ≤ s.now ∧ s.regs.retry = 8 ∧ s.regs.rto = 20) ∧
    (let s := benchFar none [(4, farReq (.store [1]) 0)] 19999; s.now < (farReq (.store [1]) 0).sentAt + 1000 * s.regs.rto) ∧
    (let s := { benchFar none [(4, farReq (.copyWrite 9 0 0 0 [1] false) 1)] 0 with cores := [(9, { Core.reset with copies := [(0, slotOf .running [] 3)] })] }
     ((s.core 9).copies.get? 0).map (fun c => (c.state, c.stop)) = some (.running, none) ∧ ({ s with reqs := s.reqs.erase 4 } : State).copyReqs 9 0 false = false) ∧
    (let w := { farReq (.copyWrite 9 0 0 0 [1] false) 1 with num := some 8 }
     let s := { benchFar none [(4, farReq (.copyWrite 9 0 0 0 [1] false) 1), (5, w)] 0 with cores := [(9, { Core.reset with copies := [(0, slotOf .running [] 3)] })] }
     ({ s with reqs := s.reqs.erase 4 } : State).copyReqs 9 0 false = true) ∧
    (let d : BitVec 16 := 0x00FF; d.getLsbD (0 % 16) = true ∧ ((List.range 16).filter fun i => d.getLsbD i).length ≤ 8) ∧
    (let d : BitVec 16 := 0x01FF; ¬ ((List.range 16).filter fun i => d.getLsbD i).length ≤ 8) := by
  and_intros
  all_goals first | exact ⟨_, _, rfl, rfl, rfl⟩ | decide +kernel

def pcieOf (off : Nat) (d : Option (List Byte)) : PcieReq := ⟨2, 0x11, BitVec.ofNat 64 (2 * 2 ^ 42 + off), d, 4⟩
def benchPcie (held : FMap HeldPcie) (now : Nat) : State :=
  { withTables bench [] [] with rtable := [(65536 * 2 + 0x11, 0)], held, now, cur := none }
theorem witness_PcieAndInterruptVectors :
    (let s := benchPcie [] 0; let q := pcieOf 64 none
     s.rtable.get? (65536 * 2 + 0x11) = some 0 ∧ s.rtable.get? (65536 * 2 + 0x12) = none ∧ s.held = [] ∧ q.addr.extractLsb' 62 2 = 0#2 ∧ s.revBit 0 2 = false ∧
     (q.addr.extractLsb' 42 20).toNat = 2 ∧ (q.addr.extractLsb' 0 42).toNat = 64 ∧ 65532 + 4 ≤ 65536 ∧ Memory.wf s.mem = true ∧ s.monitors = [] ∧ s.regs.thresh = 0 ∧
     s.peek ⟨0, 0, 2, 0⟩ 64 = some 0x100040 ∧ (∀ l ∈ [0x100040 / 128], s.mayTake l true none = true ∧ s.mayTake l false none = true) ∧
     (0x100040 + 4 - 1) / 128 = 0x100040 / 128 ∧ s.regs.rtBase + 64 * 4096 ≤ 0x100040 ∧ s.regs.ttBase + 64 * 1024 ≤ 0x100040 ∧
     s.cachedExtent ⟨0, 0, 3, 0⟩ = none ∧ (s.walk 0 3 0).1 = .error ∧ s.down = false ∧ s.farWatches = [] ∧ s.lookupHeld ⟨0, 0, 3, 0⟩ = false ∧ s.retries = [] ∧
     (∀ d ∈ [none, some [1, 2, 3, 4]], let t := { s with held := s.held.set s.held.fresh ⟨pcieOf 64 d, 0, none⟩ }
      t.findObject 0 2 64 4 = (.places [(0x100040, 4)], t) ∧ (t.allReady [(0x100040, 4, d.isSome)]).1 = true)) ∧
    (let s := benchPcie [(1, ⟨pcieOf 64 none, 0, none⟩)] 0; ∃ e ∈ s.held, e.2.req.port = 2 ∧ e.2.req.rid = 0x11) ∧
    ({ bench with boot := .scrapped } : State).down = true ∧
    (let s := { benchPcie [] 0 with mem := cells 0x800000 8 0x801000 ++ [(0x800008, 4), (0x80000C, 1)] ++ cells 0x801030 16 (2 ^ 127 + 2 ^ 100 + 0x802000) }
     (s.walk 0 3 0).1 = .absent 0x802000 0 ∧ s.cachedExtent ⟨0, 0, 3, 0⟩ = none ∧
     ∀ l ∈ blocks 128 (s.regs.nqBase + 32 * (s.regs.nqTail.toNat % 2 ^ s.regs.nqLog2)) 32, unwatchedOk s l = true) ∧
    (let s := { benchPcie [] 0 with mem := cells 0x800000 8 0x801000 ++ [(0x800008, 4), (0x80000C, 1)] ++ cells 0x800010 8 0x803000 ++ [(0x803000, 4)] }
     s.revBit 0 2 = true) ∧
    (∀ now ∈ [499999, 500000], let h : HeldPcie := ⟨pcieOf 64 none, 0, some 0⟩; let s := benchPcie [(1, h)] now
     s.held.get? 1 = some h ∧ h.req.port = 2 ∧ h.req.rid = 0x11) ∧
    ((0x80000000#32).getLsbD 31 = true ∧ (0x7FFFFFFF#32).getLsbD 31 = false) ∧
    (let s := { bench with rtable := (List.range 256).map fun k => (k + 1, 0) }
     s.rtable.get? (65536 * s.regs.rqPort + s.regs.rqRid.toNat) = none ∧ 256 ≤ (s.rtable.filter fun e => e.1 / 65536 == s.regs.rqPort).length) ∧
    bench.regs.pxBusy = none ∧ ({ bench with regs := { Regs.reset with pxBusy := some (1, 3) } } : State).regs.pxBusy ≠ none := by
  and_intros
  all_goals first | exact ⟨_, List.mem_singleton.2 rfl, rfl, rfl⟩ | decide +kernel

/-- The trust controller runs a command on the block at 0xA00000. -/
def benchTrust (op : Nat) (f : Trust → Trust) (block : List Host.Cell) : State :=
  { bench with mem := block, lpddr := 64, trust := f { Trust.reset with block := 0xA00000, busy := some op }, cur := none }
def blockOf (w0 w1 w2 w3 : Nat) : List Host.Cell := cells 0xA00000 4 w0 ++ cells 0xA00004 4 w1 ++ cells 0xA00008 4 w2 ++ cells 0xA0000C 4 w3

theorem witness_TrustMailbox :
    (∀ c ∈ [(1, 0x28), (2, 0x1308), (3, 0x190), (4, 0x4C), (5, 0x4C), (6, 8), (7, 0x44)], let s := benchTrust c.1 id []
     s.trust.busy = some c.1 ∧ ((List.range ((0xA00000 + c.2 - 1) / 128 + 1 - 0xA00000 / 128)).all fun k => s.hasMem (128 * (0xA00000 / 128 + k))) = true ∧
     ((List.range ((0xA00000 + c.2 - 1) / 128 + 1 - 0xA00000 / 128)).all fun k => s.mayTake (0xA00000 / 128 + k) true none) = true ∧
     s.poisoned 0xA00000 c.2 = false ∧ Memory.wf s.mem = true ∧ s.keyed = [] ∧ s.trust.memKeys = [] ∧ s.trust.nonce = none ∧ s.trust.lifecycle = 1 ∧ s.trust.dbg = false) ∧
    ({ benchTrust 1 id [] with poison := [0xA00020 / 32] } : State).poisoned 0xA00000 0x28 = true ∧
    ({ benchTrust 1 id [] with marks := [⟨0xA00000 / 128, 5, true⟩] } : State).mayTake (0xA00000 / 128) true none = false ∧
    (benchTrust 2 (fun t => { t with memKeys := [(1, ⟨0, 1, 1#256⟩)] }) []).tenants = true ∧
    (benchTrust 2 (fun t => { t with lifecycle := 0 }) []).trust.lifecycle ≠ 1 ∧ ({ benchTrust 2 id [] with teams := [] } : State).tenants = false ∧
    ((∀ m ∈ Trust.reset.mrs, m.length = 48) ∧ Trust.reset.mrs.length = 8) ∧
    (let s := benchTrust 4 id (blockOf 63 2 2048 2112)
     s.num 0xA00000 4 = 63 ∧ s.num 0xA00008 4 = 2048 ∧ s.num 0xA0000C 4 = 2112 ∧ s.num 0xA0000C 4 ≤ 2048 + s.lpddr ∧ s.trust.memKeys.get? 63 = none) ∧
    (let s := benchTrust 4 id (blockOf 64 2 0 1536); 63 < s.num 0xA00000 4 ∧ s.num 0xA0000C 4 ≤ 1536) ∧
    (let s := benchTrust 4 id (blockOf 1 2 2048 2113); ¬(s.num 0xA0000C 4 ≤ 1536 ∨ (2048 ≤ s.num 0xA00008 4 ∧ s.num 0xA0000C 4 ≤ 2048 + s.lpddr))) ∧
    (let s := benchTrust 6 id (blockOf 0 63 0 0); s.num 0xA00000 4 = 0 ∧ s.num 0xA00004 4 = 63) ∧
    (let s := benchTrust 6 id (blockOf 1 8191 0 0); s.num 0xA00000 4 = 1 ∧ s.num 0xA00004 4 = 8191) ∧
    (let s := benchTrust 7 id (blockOf 5 0 0 0); s.num 0xA00000 4 = 5) ∧ (let s := benchTrust 7 id (blockOf 4 0 0 0); s.num 0xA00000 4 = 4) ∧
    (let t := (benchTrust 1 (fun t => { t with lifecycle := 0, nonce := some 0 }) []).trust; t.nonce = some 0 ∧ t.lifecycle = 0 ∧ t.lifecycle ≠ 3) ∧
    (benchTrust 1 id []).tokenOk [] 1 0 = false ∧
    -- what the trust controller keeps sealed is free (log 9): the rest of a sealed command's premises, and of a good token's
    (let s := benchTrust 4 (fun t => { t with sessions := [(2, (0, true))] }) (blockOf 63 2 2048 2112); s.trust.sessions.get? (s.num 0xA00004 4) = some (0, true)) ∧
    ((benchTrust 4 id (blockOf 63 2 2048 2112)).trust.sessions.get? 2 = none) ∧
    (let t := { Trust.reset with authEC := [1], authHashEC := sha384 [1], authPQ := [2], authHashPQ := sha384 [2] }
     sha384 t.authEC = t.authHashEC ∧ sha384 t.authPQ = t.authHashPQ) ∧ (∀ l, benchTrust 1 id l = { bench with mem := l, lpddr := 64, trust := { Trust.reset with block := 0xA00000, busy := some 1 }, cur := none }) := by
  and_intros
  all_goals first | exact fun _ => rfl | decide +kernel

theorem witness_SpdmResponder :
    bench.trust.lifecycle ≠ 3 ∧ bench.down = false ∧ ({ bench with trust := { Trust.reset with lifecycle := 3 } } : State).trust.lifecycle = 3 ∧ 1 ≤ 8 ∧
    ({ bench with health := { Health.reset with halted := true } } : State).down = true ∧
    (∀ n ∈ [0, 15, 16], let t := { Trust.reset with sessions := (List.range n).map fun k => (k, (k, true)) }
     (∀ j < n, (t.sessions.get? j).isSome = true) ∧ (t.sessions.get? n).isSome = false) := by decide

def benchDebug (stop open_ : Bool) (breaks : Nat) (place : Option Place) : State :=
  { stateOf { pair (fun _ _ => 0) (cap 0xFF 2) with dbgStop := stop, runOpen := open_, place } with
    trust := { Trust.reset with dbg := true }, lpddr := 64, parts := [(0, { Part.reset with enabled := true, breaks := List.replicate breaks ⟨0x1000, 1, none, none⟩ })] }
theorem witness_DebugPort :
    bench.trust.dbg = false ∧ (benchDebug true true 0 none).trust.dbg = true ∧
    (∀ q ∈ [(true, true), (false, true), (false, false)], let s := benchDebug q.1 q.2 15 (some ⟨9, 1, 4⟩)
     (match s.threadOf ⟨1, 0, 1⟩ with
      | some f => f.1 == .grp 5 && f.2.1.dbgStop == q.1 && f.2.1.runOpen == q.2 && f.2.1.place.isSome && !f.2.1.away && !f.2.1.ended && f.2.2 == 1
      | none => false) = true ∧ (s.part 0).breaks.length < 16 ∧ (s.part 0).breaks.contains ⟨0x1000, 1, none, none⟩ = true ∧
     (s.part 0).breaks.contains ⟨0x1004, 1, none, none⟩ = false) ∧
    (16 ≤ ((benchDebug true true 16 none).part 0).breaks.length) ∧ (benchDebug true true 0 none).threadOf ⟨1, 0, 9⟩ = none ∧
    ((31#7).toNat < 96 ∧ x0.g.wb + (31#7).toNat < x0.g.alloc ∧ x0.g.alloc ≤ x0.g.wb + (32#7).toNat ∧ (32#7).toNat < 96) ∧
    (96 ≤ (96#7).toNat ∧ (111#7).toNat < 112 ∧ 112 ≤ (112#7).toNat ∧ (119#7).toNat < 120 ∧ 120 ≤ (127#7).toNat) ∧
    (let s := benchDebug true true 0 none; s.down = false ∧ s.monitors = [] ∧ s.farWatches = [] ∧ (0x018#12).toNat < 0x400 ∧ 0x400 ≤ (0x800#12).toNat ∧
     ∀ g, s.groups.get? 5 = some g → (csrRead s (.grp 5) g 0x018).isSome = true ∧ (csrRead s (.grp 5) g 0x3FF).isNone = true ∧
       (csrWrite s (.grp 5) g 0x014 0).isSome = true ∧ (csrWrite s (.grp 5) g 0x3FF 0).isNone = true) ∧
    (let s := benchDebug true true 0 none; s.hasMem 0x100000 = true ∧ s.hasMem (0x100000 + 63) = true ∧ s.hasMem (2 ^ 42 - 64) = false ∧ ∀ l ∈ blocks 128 0x100000 64, s.mayTake l false none = true) ∧
    (let s := { benchDebug true true 0 none with marks := [⟨0x2000, 5, true⟩] }; ∃ l ∈ blocks 128 0x100000 64, s.mayTake l false none = false) ∧
    (let s := { kernelBench with trust := { Trust.reset with dbg := true } }; (s.threadOf ⟨0, 0xFFFFFFFF, 0⟩).map (·.1) = some (.ctl 0)) := by
  refine ⟨by decide, by decide, by decide, by decide, by decide, by decide, by decide⟩

def imageOf (version : Nat) : FirmwareImage :=
  { digest := [], keyEC := [1], keyPQ := [2], sigEC := [], sigPQ := [], debugEC := [], debugPQ := [], version, config := [], serviceDesc := 0, serviceAsn := 0, kernelEntry := 0x8000, mapOut := [], partitions := [],
    serviceArgs := [], memory := [(0x800000, [1, 2])], astBase := 0x800000, astLen := 1 }
theorem witness_HealthAndBringUp :
    (9 < 1280 ∧ (bench.core 9).mappedOut = false ∧ (∃ g, bench.groups = [(5, g)] ∧ g.place.any (fun p => p.core == 9) = true ∧ g.ended = false ∧ g.away = false ∧ g.team = 3) ∧
      bench.teams.get? 3 = some team ∧ (bench.ctl 0).mappedOut = false) ∧
    (let s := { bench with grids := [(1, gridOf desc1 .spawn 1)] }; (s.grids.get? team.grid).isSome = true ∧ s.groups = bench.groups) ∧
    3 < 32 ∧ bench.health.badLinks.contains 3 = false ∧ bench.health.badChans.contains 3 = false ∧ bench.health.degrading.get? 3 = none ∧
    ({ bench with health := { Health.reset with badLinks := [3], badChans := [3] } } : State).health.badLinks.contains 3 = true ∧
    (({ bench with cores := [(9, { Core.reset with mappedOut := true })] } : State).core 9).mappedOut = true ∧
    (({ bench with ctls := [(0, { Ctl.reset with mappedOut := true })] } : State).ctl 0).mappedOut = true ∧
    (∀ now ∈ [9999999, 10000000], ({ bench with health := { Health.reset with degrading := [(3, 0)] }, now } : State).health.degrading.get? 3 = some 0) ∧
    bench.down = false ∧ ({ bench with boot := .scrapped } : State).down = true ∧ bench.stubs = [] ∧
    (let t := { Trust.reset with imageHashEC := sha384 [1], imageHashPQ := sha384 [2] }
     sha384 (imageOf 1).keyEC = t.imageHashEC ∧ sha384 (imageOf 1).keyPQ = t.imageHashPQ ∧ ¬ sha384 (imageOf 1).keyEC = Trust.reset.imageHashEC) ∧
    (.controlCore 0 ∉ (imageOf 1).mapOut ∧ (bench.ctl 0).mappedOut = false ∧ (bench.ctl 0).thread.lanes ≠ []) ∧
    bench.trust.lifecycle ≠ 3 ∧ (bench.trust.minVersion ≤ (imageOf 1).version ∧ ¬ ({ bench with trust := { Trust.reset with minVersion := 2 } } : State).trust.minVersion ≤ (imageOf 1).version) ∧
    State.reset.boot = .waiting ∧ bench.boot ≠ .waiting ∧ (bench.cores.map (·.1)).Nodup := by
  refine ⟨⟨by decide, by decide, ⟨pair (fun t n => 16 * n + 4 * t) (cap 0xFF 2), by decide⟩, by decide, by decide⟩, by decide +kernel⟩

theorem witness_DecodeAfterEncode :
    (∃ bs, encodeBytes (.iadd ⟨true, false, none⟩ 5 3 98 0) = some bs ∧ bs.length = 4) ∧ (∃ bs, encodeBytes (.movi (pre 0x1234 0 0) 2 0x5678) = some bs ∧ bs.length = 8) ∧
    decode (image [0x3FD40000, 0x3D214E60]) = .ok (.copy (pre 0xA800 0 0) 4 2 9 102, 8) :=
  ⟨⟨_, rfl, rfl⟩, ⟨_, rfl, rfl⟩, rfl⟩

/-- Code stands at object 1's start, frame 17: an IADD with B, then a prefixed MOVI. Control core 0 issues from there. -/
def benchCode (code : List Host.Cell) : State :=
  let pc : Nat := 2 ^ 42
  { kernelBench with
    mem := cells 0x110000 4 0x88050788 ++ code ++ cells 0x800000 8 0x801000 ++ [(0x800008, 4), (0x80000C, 1)] ++ cells 0x801010 16 (2 ^ 127 + 2 ^ 126 + 2 ^ 100 + 0x802000) ++
      cells 0x802000 8 (2 ^ 63 + 17 * 65536)
    lpddr := 64, regs := { Regs.reset with astBase := 0x800000, astLen := 1 }, cur := none, turn := .ctl 0
    extents := [⟨⟨0, 0, 1, 0⟩, BitVec.ofNat 64 (2 ^ 63 + 17 * 65536), 0, 0x802000⟩]
    ctls := [(0, { Ctl.reset with started := true, thread := { ctlThread with lanes := ctlThread.lanes.map fun (l : Lane) => { l with pc := BitVec.ofNat 64 pc } } })] }
def codePc : Dword := 0x40000000000#64

/-- The same code, with group 5 on slot 1 of core 9 to issue next: its run is open, or it wins the slot. Lane 1 is further on,
in its loop buffer. -/
def benchSlot (o : Bool) : State :=
  let s := benchCode []
  let g := pair (fun _ _ => 0) (cap 0xFF 2)
  let body : LoopBody := ⟨codePc + 8, [0x3F891A00, 0x18825678]⟩
  { s with
    groups := [(5, { g with runOpen := o, lanes := [{ laneAt (fun _ _ => 0) 0 with pc := codePc }, { laneAt (fun _ _ => 0) 1 with pc := codePc + 8, loopBuf := some body }] })]
    teams := [(3, team)], ctls := [], turn := .slot 9 1
    cores := [(9, { Core.reset with slots := if o then [none, some 5, none, none] else [none, none, none, none] })] }
/-- Its issue: lane 0 by the broadcast, and lane 1 with its buffer's words. -/
def setsOfSlot : List IssueSet := [⟨codePc, [0], none⟩, ⟨codePc + 8, [1], some (0x3F891A00, 0x18825678)⟩]

theorem witness_step_of_a_slot :
    (∀ o ∈ [true, false], let s := benchSlot o; let s0 := s.clock.passTurn
     s.agenda = [] ∧ s.boot = .running ∧ s.health.halted = false ∧ s.trust.dbg = false ∧ s.turn = .slot 9 1 ∧ s0.slotBoundary 9 1 = none ∧
     (s0.core 9).busy.getD 1 0 ≤ s0.now ∧ (s0.running 9 1).isSome = o ∧ ((s0.winner 9 1).map (·.1)) = some 5 ∧
     (∀ g, s.groups.get? 5 = some g → let gr := if o then g else g.openRun s0.now
       let s1 := if o then s0 else (s0.setCore 9 { s0.core 9 with slots := (s0.core 9).slots.set 1 (some 5) }).setGroup (.grp 5) gr
       gr.steepReached s0.now = false ∧ gr.issueQ = [] ∧ (o = true → gr.nextSets ≠ []) ∧ (s1.beginIssue (.grp 5) gr).2 = setsOfSlot ∧
       (gr.lane 0).serves = true ∧ (gr.lane 0).pc = codePc ∧ gr.beats = [] ∧ 1 < (s0.core 9).busy.length) ∧
     (s0.fetchAt (.grp 5) codePc).1 = .word 0x88050788#32) ∧
    (∀ g, (benchSlot true).groups.get? 5 = some g → let gr := { g with issueQ := setsOfSlot.tail }
     gr.issueQ = ⟨codePc + 8, [1], some (0x3F891A00, 0x18825678)⟩ :: [] ∧ (gr.lane 1).serves = true ∧ (gr.lane 1).pc = codePc + 8) := by
  refine ⟨by decide +kernel, by decide +kernel⟩

theorem witness_StepRunsDecodedInstruction :
    (let s := benchCode (cells 0x110004 4 0x3F891A00 ++ cells 0x110008 4 0x18825678)
     let g := { (s.ctl 0).thread with runOpen := true, issueQ := [] }
     s.agenda = [] ∧ s.boot = .running ∧ s.health.halted = false ∧ s.trust.dbg = false ∧ (∀ j ∈ [0], (g.lane j).serves = true ∧ (g.lane j).pc = codePc) ∧
     s.turn = .ctl 0 ∧ (s.ctl 0).runs = true ∧ s.clock.passTurn.atBoundary (.ctl 0) (s.ctl 0).thread = none ∧
     (s.clock.passTurn.beginIssue (.ctl 0) g).2 = ⟨codePc, [0], none⟩ :: [] ∧
     (((s.clock.passTurn).setGroup (.ctl 0) { g with issueQ := [], stalled := false }).fetchAt (.ctl 0) codePc).1 = .word 0x88050788#32 ∧
     s.asnOf (.ctl 0) = 0 ∧ (codePc.extractLsb' 42 20).toNat = 1 ∧ (codePc.extractLsb' 0 42).toNat = 0 ∧ codePc.extractLsb' 62 2 = 0#2 ∧
     s.revoked (.ctl 0) 0 1 = false ∧ s.objectEntry 0 1 = some (2 ^ 127 + 2 ^ 126 + 2 ^ 100 + 0x802000) ∧
     (2 ^ 127 + 2 ^ 126 + 2 ^ 100 + 0x802000) / 2 ^ 126 = 3 ∧ 65532 + 4 ≤ 65536 * ((2 ^ 127 + 2 ^ 126 + 2 ^ 100 + 0x802000) / 2 ^ 100 % 2 ^ 26) ∧
     65536 * ((2 ^ 127 + 2 ^ 126 + 2 ^ 100 + 0x802000) / 2 ^ 100 % 2 ^ 26) < 65536 + 4 ∧ s.regs.thresh = 0 ∧ s.peek ⟨0, 0, 1, 0⟩ 0 = some 0x110000 ∧
     (s.icache (.ctl 0)).get? (0x110000 / 128) = none ∧ s.mayTake (0x110000 / 128) false none = true ∧ (s.lookup 0 1 0).1 = .frame 17 ∧ s.poisoned 0x110000 4 = false ∧ s.objectEntry 0 2 = some 0 ∧ s.objectEntry 0 4 = none ∧
     (s.fetchAt (.ctl 0) (codePc + 4)).1 = .word 0x3F891A00#32 ∧ (s.fetchAt (.ctl 0) (codePc + 8)).1 = .word 0x18825678#32) ∧
    (let s := { benchCode [] with ctls := [(0, { Ctl.reset with started := true, icache := [(0x110000 / 128, ⟨(cells 0x110000 4 0x88050788).map fun (c : Host.Cell) => c.2, [1]⟩)] })] }
     ((s.icache (.ctl 0)).get? (0x110000 / 128)).isSome = true ∧ (s.lookup 0 1 0).1 = .frame 17) ∧
    (let s := { benchCode [] with marks := [⟨0x110000 / 128, 5, true⟩] }; s.mayTake (0x110000 / 128) false none = false) ∧
    (let s := { benchCode [] with poison := [0x110000 / 32] }; s.poisoned 0x110000 4 = true ∧ s.mayTake (0x110000 / 128) false none = true) ∧
    (let s := { benchCode [] with extents := [] }
     let e := { s with mem := s.mem.filter fun c => c.1 / 4096 != 0x802 }
     (e.lookup 0 1 0).1 = .absent 0x802000 0 ∧ (s.lookup 0 1 1).1 ≠ .frame 17) ∧
    ((0x88050788#32).extractLsb' 23 7 ≠ 0x7F#7 ∧ (0x3F891A00#32).extractLsb' 23 7 = 0x7F#7) ∧ State.reset.agenda = [] ∧ State.reset.boot ≠ .running ∧
    (({ bench with agenda := [.thermalThrottle] } : State).agenda = .thermalThrottle :: []) := by
  and_intros
  all_goals decide +kernel

theorem witness_EveryStepKeepsTheInvariant :
    (Memory.wf bench16.mem = true ∧ bench16.trust.mrs.length = 8 ∧ bench16.trust.lifecycle ≤ 3) ∧
    (Memory.wf (benchCode []).mem = true ∧ (benchCode []).trust.mrs.length = 8 ∧ (benchCode []).trust.lifecycle ≤ 3) ∧
    nextHas (step (benchCode [])) (fun t => t.cur.isNone) = true := by
  refine ⟨by decide, by decide +kernel, by decide +kernel⟩


/-- The worked example of FIPS 180-4 for SHA-384: the three bytes "abc". -/
theorem test_sha384_abc : sha384 [0x61, 0x62, 0x63] =
    (leBytes 48 0xcb00753f45a35e8bb5a03d699ac65007272c32ab0eded1631a8b605a43ff5bed8086072ba1e7cc2358baeca134c825a7).reverse := by decide +kernel

/-! ### One step each: results worked out by hand from the rules

The group of `bench` has two threads; register n of thread t holds 16 n + 4 t. Every expected number is computed from the cited rule. -/

/-- What register n of the two threads holds after an instruction; empty when it gives no next state. -/
def after (s : State) (i : Instr) (n : Nat) : List Nat := match exec i s with | .next t => [regOf t 0 n, regOf t 1 n] | _ => []
/-- Predicate n of the two threads after an instruction. -/
def predAfter (s : State) (i : Instr) (n : Nat) : List Bool :=
  match exec i s with | .next t => [(laneOf t 0).pred n, (laneOf t 1).pred n] | _ => []
/-- The bench with register n of thread t given by `r`. -/
def benchWith (r : Nat → Nat → Nat) : State := stateOf (pair r (cap 0xFF 2))
/-- Register 8 holds a, register 9 a', registers 10 and 11 hold b and b', in both threads. -/
def benchAB (a a' b b' : Nat) : State := benchWith fun _ n => if n = 8 then a else if n = 9 then a' else if n = 10 then b else if n = 11 then b' else 0
/-- The header of .sat (R45). -/
def bhSat : Hdr := ⟨false, false, some ⟨0, 0, 1⟩⟩

/-- R59: a + b; code 119 reads as all ones (R17), so 128 - 1 and 132 - 1. -/
theorem test_iadd : after bench (.iadd bare0 4 8 119 0) 4 = [127, 131] := by decide
/-- R45: .sat clamps 2^31 - 1 + 1 to 2^31 - 1 for .i32, where the bare form wraps. -/
theorem test_iadd_sat : after (benchAB 0x7FFFFFFF 0 1 0) (.iadd bhSat 4 8 10 0) 4 = [0x7FFFFFFF, 0x7FFFFFFF] ∧
    after (benchAB 0x7FFFFFFF 0 1 0) (.iadd bare0 4 8 10 0) 4 = [0x80000000, 0x80000000] := by decide
/-- R44: at .n64 the pair v8:v9 carries into its high register. -/
theorem test_iadd64_high : after (benchAB 0xFFFFFFFF 2 1 0) (.iadd bare0 4 8 10 3) 5 = [3, 3] := by decide
/-- R60: the borrow out of 1 - 2 is p6. -/
theorem test_isubb_borrow : predAfter (benchAB 1 0 2 0) (.isubb bare0 4 8 10 1) 6 = [true, true] := by decide
/-- R61: bits [63:32] of -1 × 2 are all ones; unsigned they are 1. -/
theorem test_imulh : after (benchAB 0xFFFFFFFF 0 2 0) (.imulh bare0 4 8 10 0) 4 = [0xFFFFFFFF, 0xFFFFFFFF] ∧
    after (benchAB 0xFFFFFFFF 0 2 0) (.imulh bare0 4 8 10 1) 4 = [1, 1] := by decide
/-- R62: division truncates toward zero, and a division by zero gives all ones. -/
theorem test_idiv : after (benchAB 0xFFFFFFF9 0 2 0) (.idiv bare0 4 8 10 0) 4 = [0xFFFFFFFD, 0xFFFFFFFD] ∧
    after (benchAB 7 0 0 0) (.idiv bare0 4 8 10 0) 4 = [0xFFFFFFFF, 0xFFFFFFFF] := by decide
/-- R62: the remainder's sign follows a. -/
theorem test_irem : after (benchAB 0xFFFFFFF9 0 2 0) (.irem bare0 4 8 10 0) 4 = [0xFFFFFFFF, 0xFFFFFFFF] := by decide
/-- R65: SAR by at least the width copies the sign; SHL gives zero. -/
theorem test_shifts_past_width : after (benchAB 0x80000000 0 40 0) (.sar bare0 4 8 10 false) 4 = [0xFFFFFFFF, 0xFFFFFFFF] ∧
    after (benchAB 0x80000000 0 40 0) (.shl bare0 4 8 10 false) 4 = [0, 0] := by decide
/-- R65: a rotate takes its amount modulo the width. -/
theorem test_rol : after (benchAB 0x80000001 0 33 0) (.rol bare0 4 8 10 false) 4 = [3, 3] := by decide
/-- R64: CLZ of zero is the width; POPC of a pair counts both registers. -/
theorem test_counts : after (benchAB 0 0 0 0) (.clz bare0 4 8 true) 4 = [64, 64] ∧ after (benchAB 0xF 1 0 0) (.popc bare0 4 8 true) 4 = [5, 5] := by decide
/-- R66: BFX.i32 at position 4, length 8 sign-extends 0x80. -/
theorem test_bfx : after (benchAB 0x800 0 0x804 0) (.bfx bare0 4 8 10 0) 4 = [0xFFFFFF80, 0xFFFFFF80] := by decide
/-- R66, R46: BFI puts the low byte of A into bits [15:8] of the third source, here D itself. -/
theorem test_bfi : after (benchAB 0xAB 0 0x808 0x11111111) (.bfi bare0 11 8 10 false) 11 = [0x1111AB11, 0x1111AB11] := by decide
/-- R68: MOVI sign-extends; MOVH keeps the low half. -/
theorem test_movi_movh : after bench (.movi bare0 4 0x8000) 4 = [0xFFFF8000, 0xFFFF8000] ∧ after bench (.movh bare0 9 0x1234) 9 = [0x12340090, 0x12340094] := by decide
/-- R70: .lt is signed and .ltn unsigned. -/
theorem test_iset : after (benchAB 0xFFFFFFFF 0 1 0) (.iset bare0 4 8 10 2) 4 = [1, 1] ∧ after (benchAB 0xFFFFFFFF 0 1 0) (.iset bare0 4 8 10 3) 4 = [0, 0] := by decide
/-- R73: SHFL.down by 1 gives lane 0 the value of lane 1, and lane 1, which has no companion above, zero and p6 false. -/
theorem test_shfl_down : after (benchWith fun t n => if n = 10 then 1 else 7 + t) (.shfl bare0 4 8 10 2) 4 = [8, 0] ∧
    predAfter (benchWith fun t n => if n = 10 then 1 else 7 + t) (.shfl bare0 4 8 10 2) 6 = [true, false] := by decide
/-- R74: .some gives both lanes the ballot of the one lane that tests true. -/
theorem test_vote_some : after (benchWith fun t n => if n = 8 then t else 0) (.vote bare0 4 8 119 1) 4 = [2, 2] := by decide
/-- R75, R76: an inclusive integer SCAN with p7 adds in lane order; the operation code of add .i32 is 0. -/
theorem test_scan_add : after (benchWith fun t n => if n = 8 then 5 + t else 0) (.scan bare0 4 8 0 0 false 3) 4 = [5, 11] := by decide
/-- R58: MOVX reads the absolute register value + imm, here 9; the index register was set by R57's packing. -/
theorem test_movx : after { bench with groups := [(5, (bench.groups.get? 5 |>.getD (Group.fresh [] 0)).modLanes [0, 1] fun _ l => { l with idx := l.idx.set 1 ⟨6, 0, 32⟩ })] }
    (.movx bare0 4 1 3) 4 = [144, 148] := by decide
/-- R56: the window base becomes 0 + 32 × 0, and 32 lies at the allocation: WINDOW is trapped, and WB stays. -/
theorem test_wbase : nextHas (exec (.wbase bare0 112 1) bench) (fun t => ((t.groups.get? 5).getD (Group.fresh [] 0)).wb == 0) = true := by decide
/-- Floating point: 1.0 + 1.0 is 2.0, and 1.0 + 2^-24 rounds to even, 1.0, raising the inexact flag. -/
theorem test_fadd : after (benchAB 0x3F800000 0 0x3F800000 0) (.fadd bare0 4 8 10 0) 4 = [0x40000000, 0x40000000] ∧
    after (benchAB 0x3F800000 0 0x33800000 0) (.fadd bare0 4 8 10 0) 4 = [0x3F800000, 0x3F800000] := by decide
/-- 1.0 ÷ 3.0 rounds up in its last bit: 0x3EAAAAAB. -/
theorem test_fdiv : after (benchAB 0x3F800000 0 0x40400000 0) (.fdiv bare0 4 8 10 0) 4 = [0x3EAAAAAB, 0x3EAAAAAB] := by decide
/-- The square root of 2.0 is 0x3FB504F3. -/
theorem test_fsqrt : after (benchAB 0x40000000 0 0 0) (.fsqrt bare0 4 8 0) 4 = [0x3FB504F3, 0x3FB504F3] := by decide +kernel
/-- A store of the register puts its bytes least significant first, each lane at its own address: 0x100000 + register 8. -/
theorem test_st_bytes : nextHas (exec (.st bare0 9 0 8 0) (benchWith fun t n => if n = 8 then 4 * t else if n = 9 then 0x44332211 + t else 0))
    (fun s => (List.range 8).map (fun k => (s.num (0x100000 + k) 1)) == [0x11, 0x22, 0x33, 0x44, 0x12, 0x22, 0x33, 0x44]) = true := by decide

end Sys2Proof.Tests
end

section
/-! PROOFS. How an instruction completes: what free operands give, and the forms that compute, that write p6, and that
change their group. -/

namespace Sys2Proof.Proofs

open Sys2Proof Sys2Proof.Machine Sys2Proof.Safety Sys2Proof.Laws

/-! ### Free operands -/

theorem mem_flatMap_of_subset {l m : List Opd} {f : Opd → List Nat} {k : Nat} (h : l ⊆ m) (hk : k ∈ l.flatMap f) : k ∈ m.flatMap f :=
  let ⟨o, ho, hk⟩ := List.mem_flatMap.1 hk
  List.mem_flatMap.2 ⟨o, h ho, hk⟩

/-- Where operands are free, any of them are. -/
theorem free_mono {s : State} {x : Ctx} {os reads os' reads' : List Opd} {lanes : List Nat} (f : Free s x os reads lanes)
    (ho : os' ⊆ os) (hr : reads' ⊆ reads) : Free s x os' reads' lanes where
  issuer := f.issuer
  window o h := f.window o (ho h)
  holds q hq hs h := f.holds q hq hs (mem_flatMap_of_subset ho h)
  status q hq h := f.status q hq (mem_flatMap_of_subset ho h)
  owed r hr hw hs d hd j hj h := f.owed r hr hw hs d hd j hj (mem_flatMap_of_subset ho h)
  latch := fun ⟨o, h, hc⟩ => f.latch ⟨o, ho h, hc⟩
  flags := fun ⟨o, h, hc⟩ => f.flags ⟨o, ho h, hc⟩
  sound i hi := by
    have h := f.sound i hi
    simp only [Ctx.failing, List.find?_eq_none] at h ⊢
    exact fun k hk => h k (mem_flatMap_of_subset hr hk)

/-- On a compute group an instruction that control cores lack does what it does. -/
theorem notSolo_of_group {s : State} {x : Ctx} (hx : s.ctx? = some x) (hs : x.solo = false) (r : Result) : notSolo s r = r := by
  simp [notSolo, hx, hs]

theorem withCtx_of_ctx? {s : State} {x : Ctx} (hx : s.ctx? = some x) (f : Ctx → State) : withCtx s f = .next (f x) := by
  simp [withCtx, hx]

/-- Lanes that are left as they are. -/
@[simp] theorem modLanes_self (g : Group) (seats : List Nat) : (g.modLanes seats fun _ l => l) = g := by
  have h : (g.lanes.mapIdx fun i l => if seats.contains i = true then l else l) = g.lanes :=
    List.ext_getElem (by simp) (by simp)
  rw [Group.modLanes, h]

@[simp] theorem modLane_self (g : Group) (i : Nat) : (g.modLane i fun l => l) = g := by
  have h : (g.lanes.modify i fun l => l) = g.lanes := List.modify_id i g.lanes
  rw [Group.modLane, h]

/-! ### Forms -/

/-- An instruction whose meaning is the skeleton of R20 computes the values that its lanes write. -/
theorem computes_of_compute {i : Instr} {h : Hdr} {d : Code} {wd : Width} {srcs : List Opd} {f v : Ctx → Nat → Nat}
    (hm : ∀ s, exec i s = compute s h d wd srcs f) (hv : ∀ x k, f x k = v x k) : Computes i h d wd srcs v := by
  intro s x hf
  obtain rfl : f = v := funext fun x => funext (hv x)
  rw [hm]
  exact compute_lands hf

/-- The same with p6. -/
theorem computesP6_of_computeP {b : Bool} {i : Instr} {h : Hdr} {d : Code} {wd : Width} {srcs : List Opd} {f v : Ctx → Nat → Nat}
    {p q : Ctx → Nat → Bool} (hm : ∀ s, exec i s = if b then notSolo s (computeP s h d wd srcs 6 f p) else computeP s h d wd srcs 6 f p)
    (hv : ∀ x k, f x k = v x k) (hp : ∀ x k, p x k = q x k) : ComputesP6 b i h d wd srcs v q := by
  intro s x hf hb
  obtain rfl : f = v := funext fun x => funext (hv x)
  obtain rfl : p = q := funext fun x => funext (hp x)
  have hs : exec i s = computeP s h d wd srcs 6 f p := by
    rw [hm]
    split
    · next h => exact notSolo_of_group hf.issuer (hb h) _
    · rfl
  rw [hs, computeP, withOps_of_free hf]
  exact retire_lands s x h _

/-- An instruction that reads some of its operands settles on the group that its meaning forms. -/
theorem settles_of_withOps {i : Instr} {os reads : List Opd} {ok : Ctx → Prop} {F : State → Ctx → State} {g : Ctx → Group}
    (hr : reads ⊆ os) (hm : ∀ s x, s.ctx? = some x → ok x → exec i s = withOps s (fun _ => os) (F s) (fun _ => reads))
    (hl : ∀ s x, ok x → Lands (.next (F s x)) s x.who (g x)) : Settles i os ok g := by
  intro s x hf hok
  rw [hm s x hf.issuer hok, withOps_of_free (os := fun _ => os) (reads := fun _ => reads) (free_mono hf (List.Subset.refl os) hr)]
  exact hl s x hok

end Sys2Proof.Proofs
end

section
/-! PROOFS. Integers of a width (R44, R45, R59): results modulo 2^w and clamped, as words. -/

namespace Sys2Proof.Proofs

open Sys2Proof Sys2Proof.Machine Sys2Proof.Safety Sys2Proof.Laws

/-! ### Words as numbers -/

theorem readInt_toNat {w : Nat} (s : Bool) (p : BitVec w) : readInt w s p.toNat = num s p := by
  cases s
  · simp [readInt, num, Nat.mod_eq_of_lt p.isLt]
  · simp [readInt, num]

@[simp] theorem ofInt_num {w : Nat} (s : Bool) (p : BitVec w) : BitVec.ofInt w (num s p) = p := by
  cases s <;> simp [num]

@[simp] theorem num_false {w : Nat} (p : BitVec w) : num false p = p.toNat := rfl
@[simp] theorem num_true {w : Nat} (p : BitVec w) : num true p = p.toInt := rfl

theorem ofInt_sub {w : Nat} (m n : Int) : BitVec.ofInt w (m - n) = BitVec.ofInt w m - BitVec.ofInt w n := by
  rw [Int.sub_eq_add_neg, BitVec.ofInt_add, BitVec.ofInt_neg, BitVec.sub_eq_add_neg]

/-! ### The bounds of a type -/

theorem ofInt_least {w : Nat} (hw : 0 < w) : BitVec.ofInt w (-(2 ^ (w - 1))) = BitVec.intMin w := by
  rw [← BitVec.toInt_intMin_of_pos hw, BitVec.ofInt_toInt]

theorem ofInt_greatest (w : Nat) : BitVec.ofInt w (2 ^ (w - 1) - 1) = BitVec.intMax w := by
  rw [← BitVec.toInt_intMax, BitVec.ofInt_toInt]

theorem ofInt_allOnes (w : Nat) : BitVec.ofInt w (2 ^ w - 1) = BitVec.allOnes w := by
  apply BitVec.eq_of_toNat_eq
  have h : (0 : Int) < 2 ^ w := by positivity
  rw [BitVec.toNat_ofInt, BitVec.toNat_allOnes, Nat.cast_pow, Nat.cast_ofNat, Int.emod_eq_of_lt (by omega) (by omega)]
  have := Nat.two_pow_pos w
  zify [this]
  omega

/-! ### Wrapped and clamped results -/

theorem wrapOrSat_wrap (w : Nat) (s : Bool) (n : Int) : wrapOrSat w s false n = (BitVec.ofInt w n).toNat := by
  simp [wrapOrSat]

theorem wrapOrSat_sat {w : Nat} (hw : 0 < w) (s : Bool) (n : Int) : wrapOrSat w s true n = (satTo s w n).toNat := by
  have hh : (0 : Int) < 2 ^ (w - 1) := by positivity
  have hp : (0 : Int) < 2 ^ w := by positivity
  have out : ∀ m : Int, (m % 2 ^ w).toNat = (BitVec.ofInt w m).toNat := by simp
  simp only [wrapOrSat, if_true, out, satTo]
  congr 1
  cases s
  · simp only [Bool.false_eq_true, if_false]
    split
    · next h => rw [max_eq_left (by omega)]; simp
    · split
      · next h => rw [min_eq_left (by omega), max_eq_right (by omega), ofInt_allOnes]
      · rw [min_eq_right (by omega), max_eq_right (by omega)]
  · simp only [if_true]
    split
    · next h => rw [max_eq_left (by omega), ofInt_least hw]
    · split
      · next h => rw [min_eq_left (by omega), max_eq_right (by omega), ofInt_greatest]
      · rw [min_eq_right (by omega), max_eq_right (by omega)]

/-- Clamping leaves a result in the range of its type. -/
theorem satTo_unsigned_of_range {w : Nat} {n : Int} (hl : 0 ≤ n) (hh : n < 2 ^ w) : satTo false w n = BitVec.ofInt w n := by
  simp only [satTo, Bool.false_eq_true, if_false]
  rw [if_neg (by omega), if_neg (by omega)]

theorem satTo_unsigned_of_nonpos {w : Nat} {n : Int} (h : n ≤ 0) : satTo false w n = 0 := by
  have hp : (0 : Int) < 2 ^ w := by positivity
  rcases Int.lt_or_eq_of_le h with h | rfl
  · simp [satTo, h]
  · rw [satTo_unsigned_of_range (Int.le_refl 0) hp]; simp

theorem satTo_signed_of_range {w : Nat} {n : Int} (hl : -(2 ^ (w - 1)) ≤ n) (hh : n < 2 ^ (w - 1)) : satTo true w n = BitVec.ofInt w n := by
  simp only [satTo, if_true]
  rw [if_neg (by omega), if_neg (by omega)]

theorem toInt_range {w : Nat} (hw : 0 < w) (p : BitVec w) : -(2 ^ (w - 1)) ≤ p.toInt ∧ p.toInt < 2 ^ (w - 1) := by
  have h := BitVec.two_mul_toInt_lt (x := p)
  have h' := BitVec.le_two_mul_toInt (x := p)
  have e : (2 : Int) ^ w = 2 * 2 ^ (w - 1) := by
    conv_lhs => rw [← Nat.sub_add_cancel hw, pow_succ]
    ring
  omega

theorem eq_intMin_iff {w : Nat} (hw : 0 < w) (p : BitVec w) : p = BitVec.intMin w ↔ p.toInt = -(2 ^ (w - 1)) := by
  rw [← BitVec.toInt_inj, BitVec.toInt_intMin_of_pos hw]

/-- The negated number of a signed type: only the smallest has none (R45). -/
theorem satTo_signed_neg {w : Nat} (hw : 0 < w) (p : BitVec w) :
    satTo true w (-p.toInt) = if p == BitVec.intMin w then BitVec.intMax w else -p := by
  obtain ⟨hl, hh⟩ := toInt_range hw p
  by_cases hp : p = BitVec.intMin w
  · have h := (eq_intMin_iff hw p).1 hp
    have hpos : (0 : Int) < 2 ^ (w - 1) := by positivity
    simp only [hp, beq_self_eq_true, if_true, satTo]
    rw [← hp, h, if_neg (by omega), if_pos (by omega)]
  · have h := mt (eq_intMin_iff hw p).2 hp
    rw [satTo_signed_of_range (by omega) (by omega), BitVec.ofInt_neg, BitVec.ofInt_toInt, if_neg (by simpa using hp)]

/-- The magnitude of a word, modulo 2^w. -/
theorem ofInt_natAbs_num {w : Nat} (s : Bool) (p : BitVec w) :
    BitVec.ofInt w ((num s p).natAbs : Int) = if s && p.msb then -p else p := by
  cases s
  · simp
  · simp only [num_true, Bool.true_and, BitVec.msb_eq_toInt, decide_eq_true_eq]
    split
    · next h => rw [Int.ofNat_natAbs_of_nonpos (by omega), BitVec.ofInt_neg, BitVec.ofInt_toInt]
    · next h => rw [Int.natAbs_of_nonneg (by omega), BitVec.ofInt_toInt]

theorem satTo_natAbs_num {w : Nat} (hw : 0 < w) (s : Bool) (p : BitVec w) :
    satTo s w ((num s p).natAbs : Int) = if s && p == BitVec.intMin w then BitVec.intMax w else if s && p.msb then -p else p := by
  cases s
  · rw [num_false, Int.natAbs_natCast, satTo_unsigned_of_range (by omega) (by exact_mod_cast p.isLt)]
    simp
  · simp only [num_true, Bool.true_and, BitVec.msb_eq_toInt, decide_eq_true_eq]
    obtain ⟨hl, hh⟩ := toInt_range hw p
    by_cases h : p.toInt < 0
    · rw [Int.ofNat_natAbs_of_nonpos (by omega), satTo_signed_neg hw, if_pos h]
    · have hp : p ≠ BitVec.intMin w := fun e => by
        have : (0 : Int) < 2 ^ (w - 1) := by positivity
        have := (eq_intMin_iff hw p).1 e
        omega
      rw [Int.natAbs_of_nonneg (by omega), satTo_signed_of_range hl hh, BitVec.ofInt_toInt, if_neg (by simpa using hp), if_neg h]

theorem satTo_neg_num {w : Nat} (hw : 0 < w) (s : Bool) (p : BitVec w) :
    satTo s w (-num s p) = if s then (if p == BitVec.intMin w then BitVec.intMax w else -p) else 0 := by
  cases s
  · exact satTo_unsigned_of_nonpos (by simp)
  · exact satTo_signed_neg hw p

theorem ofInt_min_num {w : Nat} (s : Bool) (p q : BitVec w) :
    BitVec.ofInt w (min (num s p) (num s q)) = if num s p < num s q then p else q := by
  split
  · next h => rw [min_eq_left (by omega), ofInt_num]
  · next h => rw [min_eq_right (by omega), ofInt_num]

theorem ofInt_max_num {w : Nat} (s : Bool) (p q : BitVec w) :
    BitVec.ofInt w (max (num s p) (num s q)) = if num s p < num s q then q else p := by
  split
  · next h => rw [max_eq_right (by omega), ofInt_num]
  · next h => rw [max_eq_left (by omega), ofInt_num]

end Sys2Proof.Proofs
end

section
/-! PROOFS. Integer arithmetic (R59, R62, R45). -/

namespace Sys2Proof.Proofs

open Sys2Proof Sys2Proof.Machine Sys2Proof.Safety Sys2Proof.Laws

/-! ### The register forms at both widths -/

theorem onWords1_of_intOp1 {i : BitVec 2 → Instr} {h : Hdr} {d a : Code} {F : Int → Int} {f : WordOp1}
    (hm : ∀ t s, exec (i t) s = intOp1 s h d a t F)
    (hf : ∀ s w, 0 < w → ∀ p : BitVec w, wrapOrSat w s (h.ord == 1) (F (num s p)) = (f s w p).toNat) : OnWords1 i h d a f := by
  refine ⟨?_, ?_⟩
  · rintro t (rfl | rfl)
    all_goals exact computes_of_compute (hm _) fun x k => (congrArg _ (congrArg F (readInt_toNat _ _))).trans (hf _ 32 (by decide) _)
  · rintro t (rfl | rfl)
    all_goals exact computes_of_compute (hm _) fun x k => (congrArg _ (congrArg F (readInt_toNat _ _))).trans (hf _ 64 (by decide) _)

theorem onWords2_of_intOp {i : BitVec 2 → Instr} {h : Hdr} {d a b : Code} {F : Nat → Int → Int → Int} {f : WordOp2}
    (hm : ∀ t s, exec (i t) s = intOp s h d a b t (F (bitsOf (typeW t))))
    (hf : ∀ s w, 0 < w → ∀ p q : BitVec w, wrapOrSat w s (h.ord == 1) (F w (num s p) (num s q)) = (f s w p q).toNat) :
    OnWords2 i h d a b f := by
  refine ⟨?_, ?_⟩
  · rintro t (rfl | rfl)
    all_goals exact computes_of_compute (hm _) fun x k =>
      (congrArg _ (congrArg₂ (F 32) (readInt_toNat _ _) (readInt_toNat _ _))).trans (hf _ 32 (by decide) _ _)
  · rintro t (rfl | rfl)
    all_goals exact computes_of_compute (hm _) fun x k =>
      (congrArg _ (congrArg₂ (F 64) (readInt_toNat _ _) (readInt_toNat _ _))).trans (hf _ 64 (by decide) _ _)

/-- IMAD multiplies and adds at both widths. -/
theorem onWords3_imad {h : Hdr} {d a b : Code} {f : WordOp3}
    (hf : ∀ s w, 0 < w → ∀ p q r : BitVec w, wrapOrSat w s (h.ord == 1) (num s p * num s q + num s r) = (f s w p q r).toNat) :
    OnWords3 (.imad h d a b) h d a b (h.thirdCode d) f := by
  have hm : ∀ t s, exec (.imad h d a b t) s = execImad h d a b t s := fun _ _ => rfl
  refine ⟨?_, ?_⟩
  · rintro t (rfl | rfl)
    all_goals
      refine computes_of_compute (hm _) fun x k => Eq.trans ?_ (hf _ 32 (by decide) _ _ _)
      rw [← readInt_toNat, ← readInt_toNat, ← readInt_toNat]; rfl
  · rintro t (rfl | rfl)
    all_goals
      refine computes_of_compute (hm _) fun x k => Eq.trans ?_ (hf _ 64 (by decide) _ _ _)
      rw [← readInt_toNat, ← readInt_toNat, ← readInt_toNat]; rfl

/-! ### Every operation of R59 -/

section
variable (h : Hdr) (d a b : Code)

/-- Without .sat results are taken modulo 2^w. -/
theorem arithmetic_wraps (ho : h.ord ≠ 1) :
    OnWords2 (.iadd h d a b) h d a b (fun _ _ p q => p + q) ∧
    OnWords2 (.isub h d a b) h d a b (fun _ _ p q => p - q) ∧
    OnWords2 (.imul h d a b) h d a b (fun _ _ p q => p * q) ∧
    OnWords3 (.imad h d a b) h d a b (h.thirdCode d) (fun _ _ p q r => p * q + r) ∧
    OnWords1 (.iabs h d a) h d a (fun s _ p => if s && p.msb then -p else p) ∧
    OnWords1 (.ineg h d a) h d a (fun _ _ p => -p) := by
  have hs : (h.ord == 1) = false := by simpa using ho
  refine ⟨onWords2_of_intOp (F := fun _ => (· + ·)) (fun _ _ => rfl) ?_, onWords2_of_intOp (F := fun _ => (· - ·)) (fun _ _ => rfl) ?_,
    onWords2_of_intOp (F := fun _ => (· * ·)) (fun _ _ => rfl) ?_, onWords3_imad ?_,
    onWords1_of_intOp1 (F := fun p => (p.natAbs : Int)) (fun _ _ => rfl) ?_, onWords1_of_intOp1 (F := fun p => -p) (fun _ _ => rfl) ?_⟩
  all_goals intro s w hw; intros; rw [hs, wrapOrSat_wrap]
  · rw [BitVec.ofInt_add, ofInt_num, ofInt_num]
  · rw [ofInt_sub, ofInt_num, ofInt_num]
  · rw [BitVec.ofInt_mul, ofInt_num, ofInt_num]
  · rw [BitVec.ofInt_add, BitVec.ofInt_mul, ofInt_num, ofInt_num, ofInt_num]
  · rw [ofInt_natAbs_num]
  · rw [BitVec.ofInt_neg, ofInt_num]

/-- With .sat they are clamped to the type. -/
theorem arithmetic_clamps (ho : h.ord = 1) :
    OnWords2 (.iadd h d a b) h d a b (fun s w p q => satTo s w (num s p + num s q)) ∧
    OnWords2 (.isub h d a b) h d a b (fun s w p q => satTo s w (num s p - num s q)) ∧
    OnWords2 (.imul h d a b) h d a b (fun s w p q => satTo s w (num s p * num s q)) ∧
    OnWords3 (.imad h d a b) h d a b (h.thirdCode d) (fun s w p q r => satTo s w (num s p * num s q + num s r)) ∧
    OnWords1 (.iabs h d a) h d a (fun s w p => if s && p == BitVec.intMin w then BitVec.intMax w else if s && p.msb then -p else p) ∧
    OnWords1 (.ineg h d a) h d a (fun s w p => if s then (if p == BitVec.intMin w then BitVec.intMax w else -p) else 0) := by
  have hs : (h.ord == 1) = true := by simpa using ho
  refine ⟨onWords2_of_intOp (F := fun _ => (· + ·)) (fun _ _ => rfl) ?_, onWords2_of_intOp (F := fun _ => (· - ·)) (fun _ _ => rfl) ?_,
    onWords2_of_intOp (F := fun _ => (· * ·)) (fun _ _ => rfl) ?_, onWords3_imad ?_,
    onWords1_of_intOp1 (F := fun p => (p.natAbs : Int)) (fun _ _ => rfl) ?_, onWords1_of_intOp1 (F := fun p => -p) (fun _ _ => rfl) ?_⟩
  all_goals intro s w hw; intros; rw [hs, wrapOrSat_sat hw]
  · rw [satTo_natAbs_num hw]
  · rw [satTo_neg_num hw]

/-- The high half, the lesser and the greater. -/
theorem high_and_order_results (ho : h.ord = 0) :
    OnWords2 (.imulh h d a b) h d a b (fun s w p q => BitVec.ofInt w (num s p * num s q / 2 ^ w)) ∧
    OnWords2 (.imin h d a b) h d a b (fun s _ p q => if num s p < num s q then p else q) ∧
    OnWords2 (.imax h d a b) h d a b (fun s _ p q => if num s p < num s q then q else p) := by
  have hs : (h.ord == 1) = false := by simp [ho]
  refine ⟨onWords2_of_intOp (F := fun w p q => p * q / (2 ^ w : Int)) (fun _ _ => rfl) ?_,
    onWords2_of_intOp (F := fun _ => min) (fun _ _ => rfl) ?_, onWords2_of_intOp (F := fun _ => max) (fun _ _ => rfl) ?_⟩
  all_goals intro s w hw p q; rw [hs, wrapOrSat_wrap]
  · rw [ofInt_min_num]
  · rw [ofInt_max_num]

end

/-- Settles O1: every register form is the skeleton of R20 on the exact integer result, wrapped or clamped. -/
theorem integerArithmeticResults : Obligations.IntegerArithmeticResults :=
  fun h d a b => ⟨arithmetic_wraps h d a b, arithmetic_clamps h d a b, high_and_order_results h d a b⟩

end Sys2Proof.Proofs
end

section
/-! PROOFS. Division, carries and shifts on words of any width (R60, R62, R65). -/

namespace Sys2Proof.Proofs

open Sys2Proof Sys2Proof.Machine Sys2Proof.Safety Sys2Proof.Laws

/-! ### Quotient and remainder -/

theorem num_eq_zero_iff {w : Nat} (s : Bool) (q : BitVec w) : num s q = 0 ↔ q = 0 := by
  cases s
  · rw [num_false, ← BitVec.toNat_inj]; simp
  · rw [num_true, ← BitVec.toInt_inj]; simp

theorem ofInt_tdiv_num {w : Nat} (s : Bool) (p q : BitVec w) :
    BitVec.ofInt w ((num s p).tdiv (num s q)) = if s then p.sdiv q else p / q := by
  cases s
  · rw [num_false, num_false, ← Int.ofNat_tdiv, BitVec.ofInt_natCast, ← BitVec.udiv_def]; rfl
  · apply BitVec.eq_of_toInt_eq
    rw [num_true, num_true, BitVec.toInt_ofInt, if_pos rfl, BitVec.toInt_sdiv]

theorem ofInt_tmod_num {w : Nat} (s : Bool) (p q : BitVec w) :
    BitVec.ofInt w ((num s p).tmod (num s q)) = if s then p.srem q else p % q := by
  cases s
  · rw [num_false, num_false, ← Int.ofNat_tmod, BitVec.ofInt_natCast, ← BitVec.umod_def]; rfl
  · rw [num_true, num_true, if_pos rfl, ← BitVec.toInt_srem, BitVec.ofInt_toInt]

theorem srem_allOnes {w : Nat} (p : BitVec w) : p.srem (BitVec.allOnes w) = 0 := by
  apply BitVec.eq_of_toInt_eq
  rw [BitVec.toInt_srem]
  rcases Nat.eq_zero_or_pos w with rfl | hw
  · simp [BitVec.toInt_zero_length]
  · have h : (BitVec.allOnes w).toInt = -1 := by rw [BitVec.toInt_allOnes, if_pos hw]
    rw [h, Int.tmod_neg, Int.tmod_one]; simp

/-- R62: division by zero gives all ones. -/
theorem quotient_eq {w : Nat} (s : Bool) (p q : BitVec w) :
    BitVec.ofInt w (if num s q = 0 then -1 else (num s p).tdiv (num s q)) =
      if q = 0 then BitVec.allOnes w
      else if s && p == BitVec.intMin w && q == BitVec.allOnes w then BitVec.intMin w
      else if s then p.sdiv q else p / q := by
  by_cases hq : q = 0
  · rw [if_pos ((num_eq_zero_iff s q).2 hq), if_pos hq, BitVec.ofInt_neg, ← BitVec.neg_one_eq_allOnes]; rfl
  · rw [if_neg (mt (num_eq_zero_iff s q).1 hq), if_neg hq, ofInt_tdiv_num]
    by_cases h : (s && p == BitVec.intMin w && q == BitVec.allOnes w) = true
    · rw [if_pos h]
      simp only [Bool.and_eq_true, beq_iff_eq] at h
      obtain ⟨⟨rfl, rfl⟩, rfl⟩ := h
      rw [if_pos rfl, ← BitVec.neg_one_eq_allOnes, BitVec.intMin_sdiv_neg_one]
    · rw [if_neg h]

/-- R62: the remainder of a division by zero is the dividend. -/
theorem remainder_eq {w : Nat} (s : Bool) (p q : BitVec w) :
    BitVec.ofInt w (if num s q = 0 then num s p else (num s p).tmod (num s q)) =
      if q = 0 then p
      else if s && p == BitVec.intMin w && q == BitVec.allOnes w then 0
      else if s then p.srem q else p % q := by
  by_cases hq : q = 0
  · rw [if_pos ((num_eq_zero_iff s q).2 hq), if_pos hq, ofInt_num]
  · rw [if_neg (mt (num_eq_zero_iff s q).1 hq), if_neg hq, ofInt_tmod_num]
    by_cases h : (s && p == BitVec.intMin w && q == BitVec.allOnes w) = true
    · rw [if_pos h]
      simp only [Bool.and_eq_true, beq_iff_eq] at h
      obtain ⟨⟨rfl, rfl⟩, rfl⟩ := h
      rw [if_pos rfl, srem_allOnes]
    · rw [if_neg h]

/-! ### Carries -/

/-- A sum modulo 2^w, as numbers. -/
theorem sum_mod_eq (w p q c : Nat) : (((p : Int) + q + c) % (2 ^ w : Int)).toNat = (p + q + c) % 2 ^ w := by
  rw [← Int.toNat_natCast ((p + q + c) % 2 ^ w)]
  push_cast
  rfl

/-- A difference modulo 2^w, as numbers. -/
theorem difference_mod_eq {w p q c : Nat} (h : q + c ≤ 2 ^ w) : (((p : Int) - q - c) % (2 ^ w : Int)).toNat = (2 ^ w + p - (q + c)) % 2 ^ w := by
  have e : (((2 ^ w + p - (q + c) : Nat)) : Int) = (p : Int) - q - c + 2 ^ w := by
    rw [Int.natCast_sub (by omega)]; push_cast; ring
  rw [← Int.toNat_natCast ((2 ^ w + p - (q + c)) % 2 ^ w), Int.natCast_emod, e, Nat.cast_pow, Nat.cast_ofNat, Int.add_emod_right]

/-! ### Shifts -/

theorem shiftLeft_eq {w : Nat} (p : BitVec w) (n : Nat) : shiftOf 0 w p.toNat n = if w ≤ n then 0 else (p <<< n).toNat := by
  simp only [shiftOf]
  split
  · rw [if_neg (by omega), BitVec.toNat_shiftLeft, Nat.shiftLeft_eq]
  · rw [if_pos (by omega)]

theorem shiftRight_eq {w : Nat} (p : BitVec w) (n : Nat) : shiftOf 1 w p.toNat n = if w ≤ n then 0 else (p >>> n).toNat := by
  simp only [shiftOf]
  split
  · rw [if_neg (by omega), BitVec.toNat_ushiftRight, Nat.shiftRight_eq_div_pow]
  · rw [if_pos (by omega)]

/-- Beyond the width an arithmetic shift copies the top bit. -/
theorem toInt_div_top {w : Nat} (hw : 0 < w) (p : BitVec w) : p.toInt / 2 ^ (w - 1) = if p.msb then -1 else 0 := by
  obtain ⟨hl, hh⟩ := toInt_range hw p
  have hp : (0 : Int) < 2 ^ (w - 1) := by positivity
  rw [BitVec.msb_eq_toInt]
  by_cases h : p.toInt < 0
  · rw [if_pos (by simpa using h), Int.ediv_eq_neg_one_of_neg_of_le h (by omega)]
  · rw [if_neg (by simpa using h), Int.ediv_eq_zero_of_lt (by omega) hh]

theorem arithmeticShift_eq {w : Nat} (hw : 0 < w) (p : BitVec w) (n : Nat) :
    shiftOf 2 w p.toNat n = if w ≤ n then (if p.msb then 2 ^ w - 1 else 0) else (p.sshiftRight n).toNat := by
  simp only [shiftOf, readInt_toNat, num_true]
  split
  · rw [min_eq_right (by omega), toInt_div_top hw]
    split
    · have := wrapOrSat_wrap w true (-1)
      simp only [wrapOrSat, Bool.false_eq_true, if_false] at this
      rw [this, BitVec.ofInt_neg, ← BitVec.toNat_allOnes, ← BitVec.neg_one_eq_allOnes]; rfl
    · simp
  · rw [min_eq_left (by omega), BitVec.sshiftRight_eq, BitVec.toNat_ofInt, Int.shiftRight_eq_div_pow]
    push_cast
    rfl

/-- A rotation: the bits that leave at the top come in at the bottom. -/
theorem rotate_eq {w : Nat} (hw : 0 < w) (p : BitVec w) (n : Nat) : shiftOf 3 w p.toNat n = (p.rotateLeft n).toNat := by
  have hk := Nat.mod_lt n hw
  have hs : 2 ^ w = 2 ^ (n % w) * 2 ^ (w - n % w) := by rw [← Nat.pow_add]; congr 1; omega
  have hlow : p.toNat / 2 ^ (w - n % w) < 2 ^ (n % w) := Nat.div_lt_of_lt_mul (by rw [Nat.mul_comm, ← hs]; exact p.isLt)
  have hhigh : p.toNat * 2 ^ (n % w) % 2 ^ w = 2 ^ (n % w) * (p.toNat % 2 ^ (w - n % w)) := by rw [hs, Nat.mul_comm, Nat.mul_mod_mul_left]
  simp only [shiftOf]
  rw [BitVec.toNat_rotateLeft, Nat.shiftLeft_eq, Nat.shiftRight_eq_div_pow, hhigh, Nat.two_pow_add_eq_or_of_lt hlow]

end Sys2Proof.Proofs
end

section
/-! PROOFS. Division and remainder, carry and borrow through p6, and the immediate forms (R60, R62, R63). -/

namespace Sys2Proof.Proofs

open Sys2Proof Sys2Proof.Machine Sys2Proof.Safety Sys2Proof.Laws

/-! ### Division -/

theorem division_results (h : Hdr) (d a b : Code) (ho : h.ord = 0) :
    OnWords2 (.idiv h d a b) h d a b (fun s w p q =>
      if q = 0 then BitVec.allOnes w
      else if s && p == BitVec.intMin w && q == BitVec.allOnes w then BitVec.intMin w
      else if s then p.sdiv q else p / q) ∧
    OnWords2 (.irem h d a b) h d a b (fun s w p q =>
      if q = 0 then p
      else if s && p == BitVec.intMin w && q == BitVec.allOnes w then 0
      else if s then p.srem q else p % q) := by
  have hs : (h.ord == 1) = false := by simp [ho]
  refine ⟨onWords2_of_intOp (F := fun _ p q => if q = 0 then -1 else p.tdiv q) (fun _ _ => rfl) ?_,
    onWords2_of_intOp (F := fun _ p q => if q = 0 then p else p.tmod q) (fun _ _ => rfl) ?_⟩
  all_goals intro s w _ p q; rw [hs, wrapOrSat_wrap]
  · rw [quotient_eq]
  · rw [remainder_eq]

/-! ### Carry and borrow -/

theorem typeW_eq (t : BitVec 2) : (if t = 0#2 ∨ t = 1#2 then .w32 else .w64) = typeW t := by
  revert t; decide

theorem bitsOf_typeW_eq (t : BitVec 2) : (if t = 0#2 ∨ t = 1#2 then 32 else 64) = bitsOf (typeW t) := by
  revert t; decide

theorem srcN_lt (x : Ctx) (i : Nat) (c : Code) (wd : Width) : x.srcN i c wd < 2 ^ bitsOf wd := by
  cases wd <;> exact BitVec.isLt _

/-- The carry into an IADDC or ISUBB: its p6. -/
def carryIn (x : Ctx) (k : Nat) : Nat := if (x.g.lane k).pred 6 then 1 else 0

theorem carryIn_cast (x : Ctx) (k : Nat) : ((if (x.g.lane k).pred 6 then 1 else 0 : Int)) = carryIn x k := by
  simp only [carryIn]; split <;> rfl

theorem carryIn_le (x : Ctx) (k : Nat) : carryIn x k ≤ 1 := by
  simp only [carryIn]; split <;> omega

/-- IADDC at the width of its type: the sum with p6, and the carry out. -/
theorem iaddc_computes (h : Hdr) (d a b : Code) (t : BitVec 2) :
    ComputesP6 false (.iaddc h d a b t) h d (typeW t) [opd a (typeW t), opd b (typeW t)]
      (fun x k => (x.srcN k a (typeW t) + x.srcN k b (typeW t) + carryIn x k) % 2 ^ bitsOf (typeW t))
      (fun x k => decide (2 ^ bitsOf (typeW t) ≤ x.srcN k a (typeW t) + x.srcN k b (typeW t) + carryIn x k)) := by
  refine computesP6_of_computeP (fun s => rfl) (fun x k => ?_) (fun x k => ?_)
  · simp only [carryIn_cast, Bool.false_eq_true, if_false]
    exact sum_mod_eq _ _ _ _
  · simp only [carryIn_cast, Bool.false_eq_true, if_false]
    norm_cast

/-- ISUBB at the width of its type: the difference with p6, and the borrow out. -/
theorem isubb_computes (h : Hdr) (d a b : Code) (t : BitVec 2) :
    ComputesP6 false (.isubb h d a b t) h d (typeW t) [opd a (typeW t), opd b (typeW t)]
      (fun x k => (2 ^ bitsOf (typeW t) + x.srcN k a (typeW t) - (x.srcN k b (typeW t) + carryIn x k)) % 2 ^ bitsOf (typeW t))
      (fun x k => decide (x.srcN k a (typeW t) < x.srcN k b (typeW t) + carryIn x k)) := by
  refine computesP6_of_computeP (fun s => rfl) (fun x k => ?_) (fun x k => ?_)
  · simp only [carryIn_cast, if_true]
    have := srcN_lt x k b (typeW t)
    have := carryIn_le x k
    exact difference_mod_eq (by omega)
  · simp only [carryIn_cast, if_true]
    exact decide_eq_decide.2 (by omega)

/-! ### Immediates -/

/-- The immediate of an RI word, sign-extended (R13, R63). -/
def riWord (h : Hdr) (imm : BitVec 9) : Word :=
  match h.pfx with
  | none => imm.signExtend 32
  | some p => (p.ext ++ imm).signExtend 32

theorem immWord_eq (h : Hdr) (imm : BitVec 9) : immWord h imm = riWord h imm := by
  simp only [immWord, riImm, riWord]
  cases h.pfx <;> rfl

theorem riWord_toInt (h : Hdr) (imm : BitVec 9) : (riWord h imm).toInt = riImm h imm := by
  simp only [riImm, riWord]
  cases h.pfx <;> exact BitVec.toInt_signExtend_of_le (by decide)

theorem iaddImm_wraps (h : Hdr) (d a : Code) (imm : BitVec 9) (ho : h.ord ≠ 1) :
    Computes (.iaddImm h d a imm) h d .w32 [opd a .w32] fun x i => (x.src32 i a + riWord h imm).toNat := by
  refine computes_of_compute (fun s => rfl) fun x i => ?_
  change wrapOrSat 32 true (h.ord == 1) _ = _
  rw [show (h.ord == 1) = false by simpa using ho, wrapOrSat_wrap, BitVec.ofInt_add, BitVec.ofInt_toInt, ← riWord_toInt, BitVec.ofInt_toInt]

theorem iaddImm_clamps (h : Hdr) (d a : Code) (imm : BitVec 9) (ho : h.ord = 1) :
    Computes (.iaddImm h d a imm) h d .w32 [opd a .w32] fun x i => (satTo true 32 ((x.src32 i a).toInt + (riWord h imm).toInt)).toNat := by
  refine computes_of_compute (fun s => rfl) fun x i => ?_
  change wrapOrSat 32 true (h.ord == 1) _ = _
  rw [show (h.ord == 1) = true by simpa using ho, wrapOrSat_sat (by decide), riWord_toInt]

theorem logicImm_computes (h : Hdr) (d a : Code) (imm : BitVec 9) :
    Computes (.andImm h d a imm) h d .w32 [opd a .w32] (fun x i => (x.src32 i a &&& riWord h imm).toNat) ∧
    Computes (.orImm h d a imm) h d .w32 [opd a .w32] (fun x i => (x.src32 i a ||| riWord h imm).toNat) ∧
    Computes (.xorImm h d a imm) h d .w32 [opd a .w32] (fun x i => (x.src32 i a ^^^ riWord h imm).toNat) := by
  rw [← immWord_eq]
  exact ⟨computes_of_compute (fun _ => rfl) fun _ _ => rfl, computes_of_compute (fun _ => rfl) fun _ _ => rfl,
    computes_of_compute (fun _ => rfl) fun _ _ => rfl⟩

/-- Shift and rotate immediates of pairs: every amount lies below 64. -/
theorem shiftImm64_computes (h : Hdr) (d a : Code) (amt : BitVec 6) :
    Computes (.shlRolImm h d a true false amt) h d .w64 [opd a .w64] (fun x i => (x.src64 i a <<< amt.toNat).toNat) ∧
    Computes (.shlRolImm h d a true true amt) h d .w64 [opd a .w64] (fun x i => ((x.src64 i a).rotateLeft amt.toNat).toNat) ∧
    Computes (.shrSarImm h d a true false amt) h d .w64 [opd a .w64] (fun x i => (x.src64 i a >>> amt.toNat).toNat) ∧
    Computes (.shrSarImm h d a true true amt) h d .w64 [opd a .w64] (fun x i => ((x.src64 i a).sshiftRight amt.toNat).toNat) := by
  have hk : ¬ 64 ≤ amt.toNat := Nat.not_le.2 amt.isLt
  refine ⟨computes_of_compute (fun _ => rfl) fun x i => (shiftLeft_eq _ _).trans (if_neg hk),
    computes_of_compute (fun _ => rfl) fun x i => rotate_eq (by decide) _ _,
    computes_of_compute (fun _ => rfl) fun x i => (shiftRight_eq _ _).trans (if_neg hk),
    computes_of_compute (fun _ => rfl) fun x i => (arithmeticShift_eq (by decide) _ _).trans (if_neg hk)⟩

/-- Those of words, where the amount lies below 32. -/
theorem shiftImm32_computes (h : Hdr) (d a : Code) (amt : BitVec 6) (hamt : amt.toNat < 32) :
    Computes (.shlRolImm h d a false false amt) h d .w32 [opd a .w32] (fun x i => (x.src32 i a <<< amt.toNat).toNat) ∧
    Computes (.shlRolImm h d a false true amt) h d .w32 [opd a .w32] (fun x i => ((x.src32 i a).rotateLeft amt.toNat).toNat) ∧
    Computes (.shrSarImm h d a false false amt) h d .w32 [opd a .w32] (fun x i => (x.src32 i a >>> amt.toNat).toNat) ∧
    Computes (.shrSarImm h d a false true amt) h d .w32 [opd a .w32] (fun x i => ((x.src32 i a).sshiftRight amt.toNat).toNat) := by
  have hk : ¬ 32 ≤ amt.toNat := Nat.not_le.2 hamt
  refine ⟨computes_of_compute (fun _ => rfl) fun x i => (shiftLeft_eq _ _).trans (if_neg hk),
    computes_of_compute (fun _ => rfl) fun x i => rotate_eq (by decide) _ _,
    computes_of_compute (fun _ => rfl) fun x i => (shiftRight_eq _ _).trans (if_neg hk),
    computes_of_compute (fun _ => rfl) fun x i => (arithmeticShift_eq (by decide) _ _).trans (if_neg hk)⟩

/-- A 32-bit shift by 32 or more is no instruction. -/
theorem longShift_illFormed (h : Hdr) (d a : Code) (amt : BitVec 6) (hamt : 32 ≤ amt.toNat) :
    wellFormed (.shlRolImm h d a false true amt) = false ∧ wellFormed (.shrSarImm h d a false true amt) = false ∧
    wellFormed (.shlRolImm h d a false false amt) = false ∧ wellFormed (.shrSarImm h d a false false amt) = false := by
  have hk : (decide (amt.toNat < 32) && (shift3 h d a false).all (·.2)) = false := by
    rw [decide_eq_false (Nat.not_lt.2 hamt), Bool.false_and]
  exact ⟨hk, hk, hk, hk⟩

/-- Settles O2: division follows R62, IADDC and ISUBB carry through p6, and the immediate forms compute on the extended
immediate. -/
theorem divisionCarryAndImmediates : Obligations.DivisionCarryAndImmediates := by
  refine ⟨division_results, fun h d a b t => ?_, fun h d a imm amt => ?_⟩
  · simp only [typeW_eq t, bitsOf_typeW_eq t]
    exact ⟨iaddc_computes h d a b t, isubb_computes h d a b t⟩
  · obtain ⟨hand, hor, hxor⟩ := logicImm_computes h d a imm
    obtain ⟨hshl, hrol, hshr, hsar⟩ := shiftImm64_computes h d a amt
    exact ⟨iaddImm_wraps h d a imm, iaddImm_clamps h d a imm, hand, hor, hxor, hshl, hrol, hshr, hsar,
      shiftImm32_computes h d a amt, longShift_illFormed h d a amt⟩

end Sys2Proof.Proofs
end

section
/-! PROOFS. Bits of words (R64, R66): numbers named by their bits, counts, reversal, and fields. -/

namespace Sys2Proof.Proofs

open Sys2Proof Sys2Proof.Machine Sys2Proof.Safety Sys2Proof.Laws

/-! ### Numbers named by their bits -/

theorem bitsNat_succ (w : Nat) (f : Nat → Bool) : bitsNat (w + 1) f = bitsNat w f + if f w then 2 ^ w else 0 := by
  simp [bitsNat, List.range_succ]

theorem bitsNat_lt (w : Nat) (f : Nat → Bool) : bitsNat w f < 2 ^ w := by
  induction w with
  | zero => simp [bitsNat]
  | succ w ih => rw [bitsNat_succ, pow_succ]; split <;> omega

/-- Bit j of the number is f j, below the width. -/
theorem testBit_bitsNat (w : Nat) (f : Nat → Bool) (j : Nat) : (bitsNat w f).testBit j = (decide (j < w) && f j) := by
  induction w with
  | zero => simp [bitsNat]
  | succ w ih =>
    have e : bitsNat (w + 1) f = 2 ^ w * (f w).toNat + bitsNat w f := by
      rw [bitsNat_succ, Nat.add_comm]; cases f w <;> simp
    rw [e, Nat.testBit_two_pow_mul_add _ (bitsNat_lt w f), ih]
    rcases Nat.lt_trichotomy j w with h | rfl | h
    · simp [h, Nat.lt_succ_of_lt h]
    · cases f j <;> simp
    · have hj : j - w = (j - w - 1) + 1 := by omega
      rw [if_neg (by omega), hj, decide_eq_false (by omega)]
      cases f w <;> simp [Nat.testBit_succ]

/-- A word is the number named by its bits. -/
theorem toNat_eq_bitsNat {w : Nat} {p : BitVec w} {f : Nat → Bool} (h : ∀ j < w, p.getLsbD j = f j) : p.toNat = bitsNat w f := by
  apply Nat.eq_of_testBit_eq
  intro j
  rw [testBit_bitsNat, BitVec.testBit_toNat]
  by_cases hj : j < w
  · rw [h j hj, decide_eq_true hj, Bool.true_and]
  · simp [hj, BitVec.getLsbD_of_ge p j (by omega)]

/-! ### Logic, counts and reversal -/

/-- A word as a register pair reads it: zeros above its width. -/
theorem toNat_ofNat_64 {w : Nat} (hw : w ≤ 64) (p : BitVec w) : (BitVec.ofNat 64 p.toNat).toNat = p.toNat :=
  Nat.mod_eq_of_lt (Nat.lt_of_lt_of_le p.isLt (Nat.pow_le_pow_right (by decide) hw))

theorem and_at_64 {w : Nat} (hw : w ≤ 64) (p q : BitVec w) :
    (BitVec.ofNat 64 p.toNat &&& BitVec.ofNat 64 q.toNat).toNat = (p &&& q).toNat := by
  rw [BitVec.toNat_and, BitVec.toNat_and, toNat_ofNat_64 hw, toNat_ofNat_64 hw]

theorem or_at_64 {w : Nat} (hw : w ≤ 64) (p q : BitVec w) :
    (BitVec.ofNat 64 p.toNat ||| BitVec.ofNat 64 q.toNat).toNat = (p ||| q).toNat := by
  rw [BitVec.toNat_or, BitVec.toNat_or, toNat_ofNat_64 hw, toNat_ofNat_64 hw]

theorem xor_at_64 {w : Nat} (hw : w ≤ 64) (p q : BitVec w) :
    (BitVec.ofNat 64 p.toNat ^^^ BitVec.ofNat 64 q.toNat).toNat = (p ^^^ q).toNat := by
  rw [BitVec.toNat_xor, BitVec.toNat_xor, toNat_ofNat_64 hw, toNat_ofNat_64 hw]

/-- The complement sets bits above the width; the other operand has none there. -/
theorem andn_at_64 {w : Nat} (hw : w ≤ 64) (p q : BitVec w) :
    (BitVec.ofNat 64 p.toNat &&& ~~~(BitVec.ofNat 64 q.toNat)).toNat = (p &&& ~~~q).toNat := by
  apply Nat.eq_of_testBit_eq
  intro j
  rw [BitVec.toNat_and, BitVec.toNat_and, toNat_ofNat_64 hw, Nat.testBit_and, Nat.testBit_and]
  by_cases hj : j < w
  · congr 1
    rw [BitVec.testBit_toNat, BitVec.testBit_toNat, BitVec.getLsbD_not, BitVec.getLsbD_not, BitVec.getLsbD_ofNat, BitVec.testBit_toNat]
    simp [hj, Nat.lt_of_lt_of_le hj hw]
  · rw [Nat.testBit_lt_two_pow (Nat.lt_of_lt_of_le p.isLt (Nat.pow_le_pow_right (by decide) (by omega))), Bool.false_and, Bool.false_and]

theorem popCount_eq {w : Nat} (p : BitVec w) : popCount w p.toNat = (List.range w).countP fun j => p.getLsbD j :=
  List.countP_eq_length_filter.symm

theorem leadingZeros_eq {w : Nat} (hw : 0 < w) (p : BitVec w) : leadingZeros w p.toNat = p.clz.toNat := by
  have hlt := Nat.lt_two_pow_self (n := w)
  by_cases hp : p = 0#w
  · simp [leadingZeros, hp, BitVec.clz_eq_iff_eq_zero.2 rfl]
  · have hn : p.toNat ≠ 0 := by simpa [← BitVec.toNat_inj] using hp
    have hl := BitVec.two_pow_sub_clz_le_toNat_of_ne_zero hw hp
    have hu := BitVec.toNat_lt_two_pow_sub_clz (x := p)
    have hc : p.clz.toNat < w := by
      have := BitVec.lt_def.1 (BitVec.clz_lt_iff_ne_zero.2 hp)
      simpa [Nat.mod_eq_of_lt hlt] using this
    have hlog : p.toNat.log2 = w - 1 - p.clz.toNat := (Nat.log2_eq_iff hn).2 ⟨hl, by rwa [show w - 1 - p.clz.toNat + 1 = w - p.clz.toNat by omega]⟩
    simp only [leadingZeros, if_neg hn, hlog]
    omega

theorem reverseBits_eq_bitsNat (w n : Nat) : reverseBits w n = bitsNat w fun j => n.testBit (w - 1 - j) := by
  have h : (List.range w).map (fun j => if n.testBit j then 2 ^ (w - 1 - j) else 0) =
      ((List.range w).map fun j => if n.testBit (w - 1 - j) then 2 ^ j else 0).reverse := by
    apply List.ext_getElem
    · simp
    · intro j h1 h2
      simp only [List.length_map, List.length_range] at h1
      simp only [List.getElem_reverse, List.getElem_map, List.getElem_range, List.length_map, List.length_range]
      rw [show w - 1 - (w - 1 - j) = j by omega]
  rw [reverseBits, h, List.sum_reverse_nat]; rfl

theorem reverseBits_eq {w : Nat} (p : BitVec w) : reverseBits w p.toNat = p.reverse.toNat := by
  rw [reverseBits_eq_bitsNat]
  refine (toNat_eq_bitsNat fun j hj => ?_).symm
  rw [BitVec.getLsbD_reverse, BitVec.getMsbD_eq_getLsbD, decide_eq_true hj, Bool.true_and, BitVec.testBit_toNat]

/-! ### Fields -/

/-- BFX: bit j is that of the field, or a copy of its top bit or zero above it (R66). -/
theorem extractField_eq (w : Nat) (signed : Bool) (a k : Nat) :
    extractField w signed a k = bitsNat w fun j =>
      if k / 256 % 256 = 0 ∨ w ≤ k % 256 then false
      else if j < min (k / 256 % 256) (w - k % 256) then a.testBit (k % 256 + j)
      else signed && a.testBit (k % 256 + min (k / 256 % 256) (w - k % 256) - 1) := by
  apply Nat.eq_of_testBit_eq
  intro j
  rw [testBit_bitsNat]
  simp only [extractField]
  generalize k % 256 = pos
  generalize k / 256 % 256 = len
  by_cases hz : len = 0 ∨ w ≤ pos
  · simp [hz]
  · simp only [if_neg hz]
    obtain ⟨n, hn, hn0, hnw⟩ : ∃ n, min len (w - pos) = n ∧ 0 < n ∧ n ≤ w - pos := ⟨_, rfl, by omega, by omega⟩
    have top : (a / 2 ^ pos % 2 ^ n).testBit (n - 1) = a.testBit (pos + n - 1) := by
      rw [Nat.testBit_mod_two_pow, Nat.testBit_div_two_pow, decide_eq_true (by omega), Bool.true_and]; congr 1; omega
    have low : ∀ i, (a / 2 ^ pos % 2 ^ n).testBit i = (decide (i < n) && a.testBit (pos + i)) := fun i => by
      rw [Nat.testBit_mod_two_pow, Nat.testBit_div_two_pow, Nat.add_comm]
    rw [hn, top]
    split
    · next h =>
      have e : 2 ^ w - 2 ^ n = 2 ^ n * (2 ^ (w - n) - 1) := by
        rw [Nat.mul_sub, ← Nat.pow_add, Nat.mul_one, Nat.add_sub_of_le (by omega)]
      rw [e, Nat.testBit_two_pow_mul_add _ (Nat.mod_lt _ (Nat.two_pow_pos n)), h, Nat.testBit_two_pow_sub_one, low]
      by_cases hj : j < n
      · simp [hj, show j < w by omega]
      · simp only [hj, if_false, Bool.and_true]
        exact decide_eq_decide.2 (by omega)
    · next h =>
      rw [low, Bool.eq_false_of_not_eq_true h]
      by_cases hj : j < n
      · simp [hj, show j < w by omega]
      · simp [hj]

/-- BFI: the field of the third source takes the low bits of A (R66). -/
theorem insertField_eq {w : Nat} (a k : Nat) {c : Nat} (hc : c < 2 ^ w) :
    insertField w a k c = bitsNat w fun j =>
      if k % 256 ≤ j ∧ j < k % 256 + k / 256 % 256 then a.testBit (j - k % 256) else c.testBit j := by
  have hi : ∀ j, w ≤ j → c.testBit j = false := fun j hj =>
    Nat.testBit_lt_two_pow (Nat.lt_of_lt_of_le hc (Nat.pow_le_pow_right (by decide) hj))
  apply Nat.eq_of_testBit_eq
  intro j
  rw [testBit_bitsNat]
  simp only [insertField]
  generalize k % 256 = pos
  generalize k / 256 % 256 = len
  by_cases hz : len = 0 ∨ w ≤ pos
  · rw [if_pos hz]
    by_cases hj : j < w
    · rw [if_neg (by omega), decide_eq_true hj, Bool.true_and]
    · rw [hi j (by omega), decide_eq_false hj, Bool.false_and]
  · rw [if_neg hz]
    obtain ⟨n, hn, hnw⟩ : ∃ n, min len (w - pos) = n ∧ n ≤ w - pos := ⟨_, rfl, by omega⟩
    have hlow : 2 ^ pos * (a % 2 ^ n) + c % 2 ^ pos < 2 ^ (pos + n) := by
      have h1 := Nat.mod_lt a (Nat.two_pow_pos n)
      have h2 := Nat.mod_lt c (Nat.two_pow_pos pos)
      rw [Nat.pow_add]
      calc 2 ^ pos * (a % 2 ^ n) + c % 2 ^ pos < 2 ^ pos * (a % 2 ^ n) + 2 ^ pos := by omega
        _ = 2 ^ pos * (a % 2 ^ n + 1) := by rw [Nat.mul_add, Nat.mul_one]
        _ ≤ 2 ^ pos * 2 ^ n := Nat.mul_le_mul_left _ h1
    rw [hn, Nat.add_assoc, Nat.mul_comm (c / _), Nat.mul_comm (a % _), Nat.testBit_two_pow_mul_add _ hlow,
      Nat.testBit_two_pow_mul_add _ (Nat.mod_lt _ (Nat.two_pow_pos pos)), Nat.testBit_div_two_pow, Nat.testBit_mod_two_pow, Nat.testBit_mod_two_pow]
    by_cases h1 : j < pos
    · rw [if_pos (by omega), if_pos h1, if_neg (by omega)]; simp [h1, show j < w by omega]
    · by_cases h2 : j < pos + n
      · rw [if_pos h2, if_neg h1, if_pos (by omega)]
        simp [show j < w by omega, show j - pos < n by omega]
      · rw [if_neg h2, show j - (pos + n) + (pos + n) = j by omega]
        by_cases hj : j < w
        · rw [if_neg (by omega), decide_eq_true hj, Bool.true_and]
        · rw [hi j (by omega), decide_eq_false hj, Bool.false_and]

end Sys2Proof.Proofs
end

section
/-! PROOFS. Logic, shifts and bit fields (R64 to R66). -/

namespace Sys2Proof.Proofs

open Sys2Proof Sys2Proof.Machine Sys2Proof.Safety Sys2Proof.Laws

/-- A bitwise instruction at both widths, which the model computes at 64 bits. -/
theorem onBits2_of_logicOp {i : Bool → Instr} {h : Hdr} {d a b : Code} {F : Dword → Dword → Dword} {f : BitsOp2}
    (hm : ∀ w s, exec (i w) s = logicOp s h d a b w F)
    (hf : ∀ w, w ≤ 64 → ∀ p q : BitVec w, (F (BitVec.ofNat 64 p.toNat) (BitVec.ofNat 64 q.toNat)).toNat = (f w p q).toNat) :
    OnBits2 i h d a b f :=
  ⟨computes_of_compute (hm false) fun _ _ => hf 32 (by decide) _ _, computes_of_compute (hm true) fun _ _ => hf 64 (by decide) _ _⟩

section
variable (h : Hdr) (d a b : Code)

/-- The bitwise instructions, as operations on words of both widths. -/
theorem logic_results :
    OnBits2 (.and h d a b) h d a b (fun _ p q => p &&& q) ∧
    OnBits2 (.or h d a b) h d a b (fun _ p q => p ||| q) ∧
    OnBits2 (.xor h d a b) h d a b (fun _ p q => p ^^^ q) ∧
    OnBits2 (.andn h d a b) h d a b (fun _ p q => p &&& ~~~q) :=
  ⟨onBits2_of_logicOp (F := (· &&& ·)) (fun _ _ => rfl) fun _ => and_at_64,
    onBits2_of_logicOp (F := (· ||| ·)) (fun _ _ => rfl) fun _ => or_at_64,
    onBits2_of_logicOp (F := (· ^^^ ·)) (fun _ _ => rfl) fun _ => xor_at_64,
    onBits2_of_logicOp (F := fun p q => p &&& ~~~q) (fun _ _ => rfl) fun _ => andn_at_64⟩

theorem count_results :
    Computes (.popc h d a false) h d .w32 [opd a .w32] (fun x i => ((List.range 32).countP fun j => (x.src32 i a).getLsbD j)) ∧
    Computes (.popc h d a true) h d .w32 [opd a .w64] (fun x i => ((List.range 64).countP fun j => (x.src64 i a).getLsbD j)) ∧
    Computes (.clz h d a false) h d .w32 [opd a .w32] (fun x i => (x.src32 i a).clz.toNat) ∧
    Computes (.clz h d a true) h d .w32 [opd a .w64] (fun x i => (x.src64 i a).clz.toNat) ∧
    Computes (.brev h d a false) h d .w32 [opd a .w32] (fun x i => (x.src32 i a).reverse.toNat) ∧
    Computes (.brev h d a true) h d .w64 [opd a .w64] (fun x i => (x.src64 i a).reverse.toNat) :=
  ⟨computes_of_compute (fun _ => rfl) fun _ _ => popCount_eq _, computes_of_compute (fun _ => rfl) fun _ _ => popCount_eq _,
    computes_of_compute (fun _ => rfl) fun _ _ => leadingZeros_eq (by decide) _,
    computes_of_compute (fun _ => rfl) fun _ _ => leadingZeros_eq (by decide) _,
    computes_of_compute (fun _ => rfl) fun _ _ => reverseBits_eq _, computes_of_compute (fun _ => rfl) fun _ _ => reverseBits_eq _⟩

/-- A rotation takes its amount modulo the width. -/
theorem rotate_mod_eq {w : Nat} (hw : 0 < w) (p : BitVec w) (n : Nat) : shiftOf 3 w p.toNat n = (p.rotateLeft (n % w)).toNat := by
  rw [rotate_eq hw, BitVec.rotateLeft_mod_eq_rotateLeft]

theorem shift_results :
    Computes (.shl h d a b false) h d .w32 [opd a .w32, opd b .w32]
      (fun x i => if 32 ≤ (x.src32 i b).toNat then 0 else (x.src32 i a <<< (x.src32 i b).toNat).toNat) ∧
    Computes (.shl h d a b true) h d .w64 [opd a .w64, opd b .w32]
      (fun x i => if 64 ≤ (x.src32 i b).toNat then 0 else (x.src64 i a <<< (x.src32 i b).toNat).toNat) ∧
    Computes (.shr h d a b false) h d .w32 [opd a .w32, opd b .w32]
      (fun x i => if 32 ≤ (x.src32 i b).toNat then 0 else (x.src32 i a >>> (x.src32 i b).toNat).toNat) ∧
    Computes (.shr h d a b true) h d .w64 [opd a .w64, opd b .w32]
      (fun x i => if 64 ≤ (x.src32 i b).toNat then 0 else (x.src64 i a >>> (x.src32 i b).toNat).toNat) ∧
    Computes (.sar h d a b false) h d .w32 [opd a .w32, opd b .w32] (fun x i =>
      if 32 ≤ (x.src32 i b).toNat then (if (x.src32 i a).msb then 2 ^ 32 - 1 else 0) else ((x.src32 i a).sshiftRight (x.src32 i b).toNat).toNat) ∧
    Computes (.sar h d a b true) h d .w64 [opd a .w64, opd b .w32] (fun x i =>
      if 64 ≤ (x.src32 i b).toNat then (if (x.src64 i a).msb then 2 ^ 64 - 1 else 0) else ((x.src64 i a).sshiftRight (x.src32 i b).toNat).toNat) ∧
    Computes (.rol h d a b false) h d .w32 [opd a .w32, opd b .w32] (fun x i => ((x.src32 i a).rotateLeft ((x.src32 i b).toNat % 32)).toNat) ∧
    Computes (.rol h d a b true) h d .w64 [opd a .w64, opd b .w32] (fun x i => ((x.src64 i a).rotateLeft ((x.src32 i b).toNat % 64)).toNat) :=
  ⟨computes_of_compute (fun _ => rfl) fun _ _ => shiftLeft_eq _ _, computes_of_compute (fun _ => rfl) fun _ _ => shiftLeft_eq _ _,
    computes_of_compute (fun _ => rfl) fun _ _ => shiftRight_eq _ _, computes_of_compute (fun _ => rfl) fun _ _ => shiftRight_eq _ _,
    computes_of_compute (fun _ => rfl) fun _ _ => arithmeticShift_eq (by decide) _ _,
    computes_of_compute (fun _ => rfl) fun _ _ => arithmeticShift_eq (by decide) _ _,
    computes_of_compute (fun _ => rfl) fun _ _ => rotate_mod_eq (by decide) _ _,
    computes_of_compute (fun _ => rfl) fun _ _ => rotate_mod_eq (by decide) _ _⟩

end

/-- Settles O3: bit by bit, through the numbers that their bits name. -/
theorem logicShiftsAndBitFields : Obligations.LogicShiftsAndBitFields := by
  refine ⟨fun h d a b => ?_, fun h d a b => shift_results h d a b, fun h d a b => ⟨?_, ?_, ?_, ?_⟩⟩
  · obtain ⟨hand, hor, hxor, handn⟩ := logic_results h d a b
    exact ⟨hand, hor, hxor, handn, count_results h d a⟩
  · rintro t (rfl | rfl) <;> exact computes_of_compute (fun _ => rfl) fun _ _ => extractField_eq 32 _ _ _
  · rintro t (rfl | rfl) <;> exact computes_of_compute (fun _ => rfl) fun _ _ => extractField_eq 64 _ _ _
  · exact computes_of_compute (fun _ => rfl) fun _ _ => insertField_eq _ _ (BitVec.isLt _)
  · exact computes_of_compute (fun _ => rfl) fun _ _ => insertField_eq _ _ (BitVec.isLt _)

end Sys2Proof.Proofs
end

section
/-! PROOFS. Comparisons and predicates (R70, R71). -/

namespace Sys2Proof.Proofs

open Sys2Proof Sys2Proof.Machine Sys2Proof.Safety Sys2Proof.Laws

theorem condition_eq (c : BitVec 2) (u v : Word) :
    condition c u v = if c = 0#2 then u == v else if c = 1#2 then u != v else if c = 2#2 then u.slt v else u.ult v := by
  have hc : c = 0#2 ∨ c = 1#2 ∨ c = 2#2 ∨ c = 3#2 := by revert c; decide
  rcases hc with rfl | rfl | rfl | rfl <;> rfl

/-- The predicates as a word: p7 reads true. -/
theorem preds_toNat (l : Lane) : (l.preds ||| 0x80#8).toNat = bitsNat 8 fun j => l.pred j := by
  have top : ∀ j < 8, (0x80#8).getLsbD j = (j == 7) := by decide
  refine toNat_eq_bitsNat fun j hj => ?_
  rw [BitVec.getLsbD_or, top j hj, Bool.or_comm]; rfl

/-- The predicates from a word: its low seven bits below a true p7. -/
theorem preds_of_word (v : Word) : v.setWidth 8 ||| 0x80#8 = 1#1 ++ v.extractLsb' 0 7 := by
  have top : ∀ j < 8, (0x80#8).getLsbD j = (j == 7) := by decide
  apply BitVec.eq_of_getLsbD_eq
  intro j hj
  rw [BitVec.getLsbD_or, top j hj, BitVec.getLsbD_append, BitVec.getLsbD_setWidth, BitVec.getLsbD_extractLsb']
  by_cases h : j < 7
  · simp [h, hj, Nat.ne_of_lt h]
  · obtain rfl : j = 7 := by omega
    simp

/-- An instruction that writes one predicate settles on that. -/
theorem settles_of_predOp {i : Instr} {h : Hdr} {p : Nat} {srcs : List Opd} {f v : Ctx → Nat → Bool}
    (hm : ∀ s, exec i s = predOp s h p srcs f) (hv : ∀ x k, f x k = v x k) :
    Settles i srcs (fun _ => True) fun x => wrotePred x p (v x) := by
  obtain rfl : f = v := funext fun x => funext (hv x)
  exact settles_of_withOps (List.Subset.refl _) (fun s _ _ _ => hm s) fun s x _ => retire_lands s x h _

/-- Settles O5: ISET and PSET write the condition, and PMOV does what its form says. -/
theorem compareAndPredicates : Obligations.CompareAndPredicates := by
  intro h d a b c p
  refine ⟨?iset, ?pset, ?read, ?write, ?and, ?xor⟩
  case iset => exact computes_of_compute (fun _ => rfl) fun x k => congrArg Bool.toNat (condition_eq c _ _)
  case pset => exact settles_of_predOp (fun _ => rfl) fun x k => condition_eq c _ _
  case read => exact computes_of_compute (fun _ => rfl) fun x k => preds_toNat _
  case write =>
    refine settles_of_withOps (List.Subset.refl _) (fun s x _ _ => rfl) fun s x _ => ?_
    simp only [← preds_of_word]
    exact retire_lands s x h _
  case and => exact settles_of_predOp (fun _ => rfl) fun _ _ => rfl
  case xor => exact settles_of_predOp (fun _ => rfl) fun _ _ => rfl

end Sys2Proof.Proofs
end

section
/-! PROOFS. Cross-lane instructions over companion sets (R73 to R76, R79, R80). -/

namespace Sys2Proof.Proofs

open Sys2Proof Sys2Proof.Machine Sys2Proof.Safety Sys2Proof.Laws

/-! ### Ballots -/

theorem getLsbD_foldl_mask (l : List Nat) (m : Word) (j : Nat) :
    (l.foldl (fun m i => m ||| (1#32 <<< i)) m).getLsbD j = (m.getLsbD j || (decide (j < 32) && l.any (· == j))) := by
  induction l generalizing m with
  | nil => simp
  | cons i l ih =>
    have one : (1#32 <<< i).getLsbD j = (decide (j < 32) && (i == j)) := by
      rw [BitVec.getLsbD_shiftLeft, BitVec.getLsbD_one, Bool.eq_iff_iff]
      simp only [Bool.and_eq_true, decide_eq_true_eq, Bool.not_eq_true', decide_eq_false_iff_not, beq_iff_eq]
      omega
    rw [List.foldl_cons, ih, BitVec.getLsbD_or, one, List.any_cons, Bool.or_assoc, Bool.and_or_distrib_left]

/-- Bit j of a mask of seats, below 32, says whether seat j is among them (R155). -/
theorem getLsbD_seatMask (l : List Nat) (j : Nat) : (seatMask l).getLsbD j = (decide (j < 32) && l.any (· == j)) := by
  rw [seatMask, getLsbD_foldl_mask]; simp

/-- The ballot of the lanes of a set that meet a test, by logical lane. -/
theorem ballot_filter (x : Ctx) (c : List Nat) (q : Nat → Bool) :
    x.ballot (c.filter q) = bitsNat 32 fun n => c.any fun j => (x.g.lane j).logical == n && q j := by
  refine toNat_eq_bitsNat fun n hn => ?_
  rw [Group.activeMask, getLsbD_seatMask, decide_eq_true hn, Bool.true_and, List.any_map, List.any_filter]
  congr 1
  funext j
  exact Bool.and_comm _ _

theorem ballot_all (x : Ctx) (c : List Nat) : x.ballot c = bitsNat 32 fun n => c.any fun j => (x.g.lane j).logical == n && true := by
  rw [← ballot_filter, List.filter_true]

theorem length_filter_beq {c : List Nat} (q : Nat → Bool) : ((c.filter q).length == c.length) = c.all q := by
  rw [Bool.eq_iff_iff]; simp [List.length_filter_eq_length_iff]

theorem not_isEmpty_filter {c : List Nat} (q : Nat → Bool) : (!(c.filter q).isEmpty) = c.any q := by
  rw [Bool.eq_iff_iff]; simp

/-! ### SHFL -/

/-- The companion of a logical lane, found by its number. -/
theorem find_logical (x : Ctx) (i n : Nat) :
    (if n ≤ 31 then (x.companions i).find? fun j => (x.g.lane j).logical == n else none) =
      if 0 ≤ (n : Int) ∧ (n : Int) ≤ 31 then (x.companions i).find? fun j => decide (((x.g.lane j).logical : Int) = n) else none := by
  have e : (fun j => decide (((x.g.lane j).logical : Int) = n)) = fun j => (x.g.lane j).logical == n := by
    funext j; simp [Bool.beq_eq_decide_eq]
  rw [e]
  by_cases h : n ≤ 31
  · rw [if_pos h, if_pos (by omega)]
  · rw [if_neg h, if_neg (by omega)]

/-- The companion that SHFL names, by the number that its mode gives (R73). -/
theorem named_eq (x : Ctx) (i : Nat) (t : BitVec 2) (v : Nat) :
    x.named i t v =
      (let l : Int := (x.g.lane i).logical
       let n : Int := if t = 0#2 then (v : Int) else if t = 1#2 then l - v else if t = 2#2 then l + v else ((x.g.lane i).logical ^^^ v : Nat)
       if 0 ≤ n ∧ n ≤ 31 then (x.companions i).find? fun j => decide (((x.g.lane j).logical : Int) = n) else none) := by
  have ht : t = 0#2 ∨ t = 1#2 ∨ t = 2#2 ∨ t = 3#2 := by revert t; decide
  rcases ht with rfl | rfl | rfl | rfl
  · exact find_logical x i v
  · by_cases h : v ≤ (x.g.lane i).logical
    · have := find_logical x i ((x.g.lane i).logical - v)
      rw [Int.natCast_sub h] at this
      refine Eq.trans ?_ this
      simp [Ctx.named, h]
    · refine (?_ : _ = none).trans (if_neg ?_).symm
      · simp [Ctx.named, h]
      · simp; omega
  · exact find_logical x i ((x.g.lane i).logical + v)
  · exact find_logical x i ((x.g.lane i).logical ^^^ v)

theorem shfl_computes (h : Hdr) (d a b : Code) (t : BitVec 2) :
    ComputesP6 true (.shfl h d a b t) h d .w32 [opd a .w32, opd b .w32]
      (fun x i => (x.named i t (x.src32 i b).toNat).elim 0 fun j => (x.src32 j a).toNat)
      (fun x i => (x.named i t (x.src32 i b).toNat).isSome) :=
  computesP6_of_computeP (fun _ => rfl) (fun x i => by cases x.named i t (x.src32 i b).toNat <;> rfl) fun _ _ => rfl

/-! ### VOTE, MATCH and MAPGET -/

section
variable (h : Hdr) (d a b : Code)

/-- VOTE, with the ballots and counts of R74 over the companions. -/
theorem vote_computes :
    let v := fun (x : Ctx) (j : Nat) => x.src32 j a &&& x.src32 j b
    let word := fun (x : Ctx) (i : Nat) (q : Nat → Bool) => bitsNat 32 fun n => (x.companions i).any fun j => (x.g.lane j).logical == n && q j
    ComputesP6 true (.vote h d a b 0#2) h d .w32 [opd a .w32, opd b .w32]
      (fun x i => word x i fun j => v x j != 0) (fun x i => (x.companions i).all fun j => v x j != 0) ∧
    ComputesP6 true (.vote h d a b 1#2) h d .w32 [opd a .w32, opd b .w32]
      (fun x i => word x i fun j => v x j != 0) (fun x i => (x.companions i).any fun j => v x j != 0) ∧
    ComputesP6 true (.vote h d a b 2#2) h d .w32 [opd a .w32, opd b .w32]
      (fun x i => word x i fun j => v x j == v x i) (fun x i => (x.companions i).all fun j => v x j == v x i) ∧
    ComputesP6 true (.vote h d a b 3#2) h d .w32 [opd a .w32, opd b .w32]
      (fun x i => (x.companions i).countP fun j => v x j != 0) (fun x i => v x i != 0) :=
  ⟨computesP6_of_computeP (fun _ => rfl) (fun _ _ => ballot_filter _ _ _) fun _ _ => length_filter_beq _,
    computesP6_of_computeP (fun _ => rfl) (fun _ _ => ballot_filter _ _ _) fun _ _ => not_isEmpty_filter _,
    computesP6_of_computeP (fun _ => rfl) (fun _ _ => ballot_filter _ _ _) fun _ _ => length_filter_beq _,
    computesP6_of_computeP (fun _ => rfl) (fun _ _ => List.countP_eq_length_filter.symm) fun _ _ => rfl⟩

/-- MATCH without .all: the companions whose value is the lane's own, and whether the lane is the first of them (R79). -/
theorem match_computes (w : Bool) :
    ComputesP6 true (.matchv h d a w false) h d .w32 [opd a (wide w)]
      (fun x i => bitsNat 32 fun n => (x.companions i).any fun j => (x.g.lane j).logical == n && x.srcN j a (wide w) == x.srcN i a (wide w))
      (fun x i => (x.companions i).find? (fun j => x.srcN j a (wide w) == x.srcN i a (wide w)) == some i) :=
  computesP6_of_computeP (fun _ => rfl) (fun _ _ => ballot_filter _ _ _)
    fun _ i => congrArg (· == some i) List.head?_filter

/-- MATCH.all: every companion when all have the lane's value, else none. -/
theorem matchAll_computes (w : Bool) :
    ComputesP6 true (.matchv h d a w true) h d .w32 [opd a (wide w)]
      (fun x i => if (x.companions i).all (fun j => x.srcN j a (wide w) == x.srcN i a (wide w)) then
        bitsNat 32 fun n => (x.companions i).any fun j => (x.g.lane j).logical == n && true else 0)
      (fun x i => (x.companions i).all fun j => x.srcN j a (wide w) == x.srcN i a (wide w)) := by
  have whole : ∀ (x : Ctx) (i : Nat), x.matching i a (wide w) true =
      if (x.companions i).all (fun j => x.srcN j a (wide w) == x.srcN i a (wide w)) then (x.ballot (x.companions i), true) else (0, false) := by
    intro x i
    rw [← length_filter_beq]
    simp [Ctx.matching]
  refine computesP6_of_computeP (fun _ => rfl) (fun x i => ?_) (fun x i => ?_) <;> simp only [whole]
  · rw [← ballot_all]; split <;> rfl
  · split
    · next h => exact h.symm
    · next h => simpa using h

/-- Words are equal when their numbers are. -/
theorem toNat_beq {w : Nat} (p q : BitVec w) : (p.toNat == q.toNat) = (p == q) := by
  rw [Bool.eq_iff_iff]; simp [BitVec.toNat_inj]

/-- MAPGET by logical lane: the seat's thread, or all ones with p6 false (R80). -/
theorem mapget_computes :
    ComputesP6 true (.mapget h d a false) h d .w32 [opd a .w32]
      (fun x i => if (x.src32 i a).toNat < 32 then ((x.g.lane (x.src32 i a).toNat).thread).getD 0xFFFFFFFF else 0xFFFFFFFF)
      (fun x i => decide ((x.src32 i a).toNat < 32) && ((x.g.lane (x.src32 i a).toNat).thread).isSome) := by
  refine computesP6_of_computeP (fun _ => rfl) (fun x i => ?_) fun x i => ?_ <;>
    simp only [Group.mapget, Bool.false_eq_true, if_false] <;> by_cases hu : (x.src32 i a).toNat < 32 <;> simp [hu]

/-- MAPGET by thread: its seat. -/
theorem mapget_seat_computes :
    ComputesP6 true (.mapget h d a true) h d .w32 [opd a .w32]
      (fun x i => ((List.range x.g.lanes.length).find? fun j => (x.g.lane j).thread == some (x.src32 i a).toNat).getD 0xFFFFFFFF)
      (fun x i => (List.range x.g.lanes.length).any fun j => (x.g.lane j).thread == some (x.src32 i a).toNat) :=
  computesP6_of_computeP (fun _ => rfl) (fun _ _ => rfl) fun x i => by
    rw [Bool.eq_iff_iff]
    simp only [Group.mapget, if_true, List.find?_isSome, List.any_eq_true]

end

end Sys2Proof.Proofs
end

section
/-! PROOFS. REDUCE and SCAN (R75, R76, R78): the combinations of integers and bits written out. -/

namespace Sys2Proof.Proofs

open Sys2Proof Sys2Proof.Machine Sys2Proof.Safety Sys2Proof.Laws

/-! ### Combinations -/

/-- The lesser and the greater of two codes of an integer type, as a fold takes them. -/
def lesser (w : Nat) (signed : Bool) (p q : Nat) : Nat := if readInt w signed p ≤ readInt w signed q then p else q
def greater (w : Nat) (signed : Bool) (p q : Nat) : Nat := if readInt w signed p ≤ readInt w signed q then q else p

/-- What an integer or bit type's values combine to, from the operation's identity on (R75). -/
def combined (op : BitVec 3) (w : Nat) (signed : Bool) (l : List Nat) : Nat :=
  if op = 0#3 then l.sum % 2 ^ w
  else if op = 1#3 then l.foldl (lesser w signed) (if signed then 2 ^ (w - 1) - 1 else 2 ^ w - 1)
  else if op = 2#3 then l.foldl (greater w signed) (if signed then 2 ^ (w - 1) else 0)
  else if op = 3#3 then l.foldl (· &&& ·) (2 ^ w - 1)
  else if op = 4#3 then l.foldl (· ||| ·) 0 else l.foldl (· ^^^ ·) 0

theorem readInt_of_lt {w n : Nat} (s : Bool) (h : n < 2 ^ w) : readInt w s n = num s (BitVec.ofNat w n) := by
  rw [← readInt_toNat, BitVec.toNat_ofNat, Nat.mod_eq_of_lt h]

/-- The greatest number of a type is the identity of its minimum. -/
theorem lesser_greatest {w : Nat} (hw : 0 < w) (s : Bool) {v : Nat} (hv : v < 2 ^ w) :
    lesser w s (if s then 2 ^ (w - 1) - 1 else 2 ^ w - 1) v = v := by
  have hpow : 2 ^ w = 2 * 2 ^ (w - 1) := by conv_lhs => rw [← Nat.sub_add_cancel hw, pow_succ, Nat.mul_comm]
  have hpos := Nat.two_pow_pos (w - 1)
  cases s
  · simp only [lesser, Bool.false_eq_true, if_false, readInt]
    rw [Nat.mod_eq_of_lt hv, Nat.mod_eq_of_lt (by omega)]
    split <;> omega
  · have he := readInt_toNat true (BitVec.intMax w)
    rw [BitVec.toNat_intMax, num_true, BitVec.toInt_intMax] at he
    simp only [lesser, if_true, he, readInt_of_lt true hv, num_true]
    obtain ⟨_, hh⟩ := toInt_range hw (BitVec.ofNat w v)
    split
    · next h =>
      have e : (BitVec.ofNat w v) = BitVec.intMax w := BitVec.eq_of_toInt_eq (by rw [BitVec.toInt_intMax]; omega)
      have := congrArg BitVec.toNat e
      rw [BitVec.toNat_ofNat, Nat.mod_eq_of_lt hv, BitVec.toNat_intMax] at this
      exact this.symm
    · rfl

/-- The least number of a type is the identity of its maximum. -/
theorem greater_least {w : Nat} (hw : 0 < w) (s : Bool) {v : Nat} (hv : v < 2 ^ w) :
    greater w s (if s then 2 ^ (w - 1) else 0) v = v := by
  refine if_pos ?_
  cases s
  · simp only [readInt, Bool.false_eq_true, if_false, Nat.zero_mod]
    exact Int.ofNat_le.2 (Nat.zero_le _)
  · have he := readInt_toNat true (BitVec.intMin w)
    rw [BitVec.toNat_intMin_of_pos hw, num_true, BitVec.toInt_intMin_of_pos hw] at he
    simp only [if_true, he, readInt_of_lt true hv, num_true]
    exact (toInt_range hw _).1

theorem foldl_add_mod (w v : Nat) (l : List Nat) (hv : v < 2 ^ w) : l.foldl (fun p q => (p + q) % 2 ^ w) v = (v + l.sum) % 2 ^ w := by
  induction l generalizing v with
  | nil => simp [Nat.mod_eq_of_lt hv]
  | cons q l ih => rw [List.foldl_cons, ih _ (Nat.mod_lt _ (Nat.two_pow_pos w)), List.sum_cons, Nat.mod_add_mod, Nat.add_assoc]

/-- From its identity on, an operation combines values as from the first of them on. -/
theorem foldl_of_identity {f : Nat → Nat → Nat} {e v : Nat} (he : f e v = v) (l : List Nat) : (v :: l).foldl f e = l.foldl f v := by
  rw [List.foldl_cons, he]

/-! ### The model's fold -/

/-- One combining step of an integer or bit type. -/
def combine (op : BitVec 3) (w : Nat) (signed : Bool) (p q : Nat) : Nat :=
  match op.toNat with
  | 0 => (p + q) % 2 ^ w
  | 1 => lesser w signed p q
  | 2 => greater w signed p q
  | 3 => p &&& q
  | 4 => p ||| q
  | _ => p ^^^ q

theorem scanStep_of_int {t : BitVec 3} (ht : floatType t = none) (mode : Nat) (op : BitVec 3) (p q : Nat) :
    scanStep mode op t p q = (combine op (bitsOf (reduceWidth t)) (signedScan t) p q, 0) := by
  simp only [scanStep, ht]
  rfl

theorem foldl_scanStep_of_int {t : BitVec 3} (ht : floatType t = none) (mode : Nat) (op : BitVec 3) (l : List Nat) (v : Nat) :
    l.foldl (fun a q => let r := scanStep mode op t a.1 q; (r.1, a.2 ||| r.2)) (v, 0) =
      (l.foldl (combine op (bitsOf (reduceWidth t)) (signedScan t)) v, 0) := by
  induction l generalizing v with
  | nil => rfl
  | cons q l ih => rw [List.foldl_cons, List.foldl_cons, ← ih]; simp only [scanStep_of_int ht]; rfl

theorem bitsOf_pos (wd : Width) : 0 < bitsOf wd := by cases wd <;> decide

/-- An integer or bit type combines without flags to what R75 lists. -/
theorem scanFold_of_int {t op : BitVec 3} (ht : floatType t = none) (hop : op.toNat ≤ 5) (mode : Nat) {l : List Nat}
    (hl : ∀ v ∈ l, v < 2 ^ bitsOf (reduceWidth t)) :
    scanFold mode op t l = (combined op (bitsOf (reduceWidth t)) (signedScan t) l, 0) := by
  have hop : op = 0#3 ∨ op = 1#3 ∨ op = 2#3 ∨ op = 3#3 ∨ op = 4#3 ∨ op = 5#3 := by revert op; decide
  have hw := bitsOf_pos (reduceWidth t)
  cases l with
  | nil =>
    simp only [scanFold, scanIdentity, ht]
    rcases hop with rfl | rfl | rfl | rfl | rfl | rfl <;> simp [combined]
  | cons v l =>
    have hv := hl v List.mem_cons_self
    rw [scanFold, foldl_scanStep_of_int ht]
    congr 1
    rcases hop with rfl | rfl | rfl | rfl | rfl | rfl
    · exact foldl_add_mod _ _ _ hv
    · exact (foldl_of_identity (lesser_greatest hw _ hv) l).symm
    · exact (foldl_of_identity (greater_least hw _ hv) l).symm
    · refine (foldl_of_identity ?_ l).symm
      change (2 ^ _ - 1) &&& v = v
      rw [Nat.and_comm, Nat.and_two_pow_sub_one_eq_mod, Nat.mod_eq_of_lt hv]
    · exact (foldl_of_identity (Nat.zero_or v) l).symm
    · exact (foldl_of_identity (Nat.zero_xor v) l).symm

/-- Raising no flags changes no lane. -/
theorem raise_none (x : Ctx) (g : Group) (d : Code) : x.raise g d (fun _ => 0) = g := by
  have hl : ∀ l : Lane, l.raise 0 = l := fun l => by simp [Lane.raise]
  simp only [Ctx.raise, hl, modLanes_self, modLane_self, ite_self]

/-- The pairings of R75: floating-point types take the first three operations. -/
theorem okReduce_op {op t : BitVec 3} (h : okReduce op t = true) : op.toNat ≤ 5 := by revert op t; decide

theorem floatType_none {t : BitVec 3} (h : ¬ (t = 4#3 ∨ t = 5#3)) : floatType t = none := by revert t; decide

/-- The group with the results of REDUCE or SCAN over the lanes that `set` names for each (R75, R77). -/
def reduced (x : Ctx) (h : Hdr) (d a : Code) (op t : BitVec 3) (set : Ctx → Nat → List Nat) : Group :=
  let v := fun i => (set x i).map fun j => x.srcN j a (reduceWidth t)
  if t = 4#3 ∨ t = 5#3 then
    x.raise (x.dst h.n d (reduceWidth t) fun i => (scanFold x.u.fpRM op t (v i)).1) d fun i => (scanFold x.u.fpRM op t (v i)).2
  else x.dst h.n d (reduceWidth t) fun i => combined op (bitsOf (reduceWidth t)) (signedScan t) (v i)

theorem raise_scanFold {op t : BitVec 3} (hok : okReduce op t = true) (x : Ctx) (h : Hdr) (d a : Code) (set : Ctx → Nat → List Nat) :
    (let r := fun i => scanFold x.u.fpRM op t ((set x i).map fun j => x.srcN j a (reduceWidth t))
     x.raise (x.dst h.n d (reduceWidth t) fun i => (r i).1) d fun i => (r i).2) = reduced x h d a op t set := by
  rw [reduced]
  split
  · rfl
  · next ht =>
    have hv : ∀ i, ∀ v ∈ (set x i).map (fun j => x.srcN j a (reduceWidth t)), v < 2 ^ bitsOf (reduceWidth t) := fun i v hv => by
      obtain ⟨j, _, rfl⟩ := List.mem_map.1 hv
      exact srcN_lt x j a _
    simp only [scanFold_of_int (floatType_none ht) (okReduce_op hok) _ (hv _), raise_none]

/-- REDUCE and SCAN settle on the combination over their contributors; GSTAT.EMPTY says whether some lane has none (R78). -/
theorem reduceOp_settles {i : Instr} {h : Hdr} {d a : Code} {op t : BitVec 3} {p : BitVec 2} {scan excl : Bool} {set : Ctx → Nat → List Nat}
    (hm : ∀ s, exec i s = reduceOp s h d a op t p scan excl) (hset : ∀ x k, x.scanned k p scan excl = set x k) (hok : okReduce op t = true) :
    Settles i [opd a (reduceWidth t), opd d (reduceWidth t)] (fun x => x.solo = false) fun x =>
      x.advance { reduced x h d a op t set with gstat := x.c.seats.any fun k => (x.contributors k p).isEmpty } := by
  obtain rfl : (fun x k => x.scanned k p scan excl) = set := funext fun x => funext (hset x)
  refine settles_of_withOps (reads := [opd a (reduceWidth t)]) (by simp)
    (fun s x hx hs => (hm s).trans (notSolo_of_group hx hs _)) fun s x _ => ?_
  rw [← raise_scanFold hok]
  exact retire_lands s x h _

/-- The lanes that SCAN combines: those below the lane, and without .excl the lane itself (R76). -/
theorem scanned_scan (x : Ctx) (i : Nat) (p : BitVec 2) (excl : Bool) :
    x.scanned i p true excl = (x.contributors i p).filter fun j =>
      decide ((x.g.lane j).logical < (x.g.lane i).logical) || (!excl && (x.g.lane j).logical == (x.g.lane i).logical) := by
  simp only [Ctx.scanned, Bool.not_true, Bool.false_eq_true, if_false]
  congr 1
  funext j
  cases excl
  · simp [Nat.le_iff_lt_or_eq, Bool.beq_eq_decide_eq]
  · simp

/-- Settles O6: SHFL, VOTE, MATCH and MAPGET over the companion sets, REDUCE and SCAN over their contributors. -/
theorem crossLaneResults : Obligations.CrossLaneResults := by
  refine ⟨fun h d a b t => ⟨?_, ?_⟩, fun h d a op t p excl hok => ⟨?_, ?_⟩⟩
  · simp only [← named_eq]
    exact shfl_computes h d a b t
  · obtain ⟨hall, hany, hsame, hcount⟩ := vote_computes h d a b
    have h32 := match_computes h d a false
    have h64 := match_computes h d a true
    have hall32 := matchAll_computes h d a false
    have hall64 := matchAll_computes h d a true
    simp only [wide, Ctx.srcN, Bool.false_eq_true, if_true, if_false, toNat_beq] at h32 h64 hall32 hall64
    exact ⟨hall, hany, hsame, hcount, h32, h64, hall32, hall64, mapget_computes h d a, mapget_seat_computes h d a⟩
  · exact reduceOp_settles (fun _ => rfl) (fun _ _ => rfl) hok
  · exact reduceOp_settles (fun _ => rfl) (fun x k => scanned_scan x k p excl) hok

end Sys2Proof.Proofs
end

section
/-! PROOFS. Branches, calls and loops, and indirect branches (R48 to R51). -/

namespace Sys2Proof.Proofs

open Sys2Proof Sys2Proof.Machine Sys2Proof.Safety Sys2Proof.Laws

/-! ### Links -/

/-- A pair is written as its two words, low word first. -/
theorem setRegs_pair (l : Lane) (n : Nat) (v : Dword) :
    l.setRegs n (words 2 v.toNat) false = (l.setReg n (v.extractLsb' 0 32) false).setReg (n + 1) (v.extractLsb' 32 32) false := by
  have high : BitVec.ofNat 32 (v.toNat / 4294967296) = v.extractLsb' 32 32 := by
    rw [BitVec.extractLsb', Nat.shiftRight_eq_div_pow]
  simp only [words, Lane.setRegs, high]
  rfl

/-- The lanes that take a call write the address of the next instruction to the pair (R51). -/
theorem link_eq (x : Ctx) (g : Group) (n : Bool) (d : Code) (seats : List Nat) :
    x.link g n d seats = g.modLanes seats fun _ l =>
      let l := l.push x.next
      if n then l
      else (l.setReg (x.wb + d.toNat) (x.next.extractLsb' 0 32) false).setReg (x.wb + d.toNat + 1) (x.next.extractLsb' 32 32) false := by
  simp only [Ctx.link, setRegs_pair]

/-! ### Conditional branches -/

theorem bra_lands (h : Hdr) (c : BitVec 4) (ofs : BitVec 19) {s : State} {x : Ctx} (hx : s.ctx? = some x) :
    Lands (exec (.bra h c ofs) s) s x.who (x.branch x.g c (x.target h ofs)) := by
  have hm : exec (.bra h c ofs) s = _ := withCtx_of_ctx? hx _
  rw [hm]
  exact done_lands s x _ _

theorem call_settles (h : Hdr) (c : BitVec 4) (ofs : BitVec 19) :
    Settles (.call h c ofs) [(94#7, 2)] (fun _ => True) fun x => x.branch (x.link x.g h.n 94#7 (x.takers c)) c (x.target h ofs) :=
  settles_of_withOps (List.nil_subset _) (fun _ _ _ _ => rfl) fun s x _ => done_lands s x _ _

/-- LOOP branches, and marks its body in the lanes that take it where the broadcast serves them (R49, R146). -/
theorem loop_lands (h : Hdr) (c : BitVec 4) (ofs : BitVec 19) {s : State} {x : Ctx} (hx : s.ctx? = some x) :
    Lands (exec (.loop h c ofs) s) s x.who
      (match (if x.solo || x.c.words.isSome then none else s.loopBody x (x.target h ofs)) with
       | none => x.branch x.g c (x.target h ofs)
       | some b => (x.branch x.g c (x.target h ofs)).modLanes (x.takers c) fun _ l => { l with loopBuf := some b }) := by
  have hm : exec (.loop h c ofs) s = _ := withCtx_of_ctx? hx _
  rw [hm]
  convert done_lands s x _ _ using 1
  cases x.solo <;> cases x.c.words <;> simp
  cases s.loopBody x (x.target h ofs) <;> rfl

/-- A body of more than 48 words is not marked. -/
theorem loopBody_none {s : State} {x : Ctx} {t : Dword} (h : 196 ≤ x.c.addr.toNat + x.c.len - t.toNat) : s.loopBody x t = none := by
  simp only [State.loopBody]
  rw [if_neg (by omega)]

/-! ### Indirect branches -/

/-- The lanes whose target is misaligned. -/
theorem filter_misaligned_nil {x : Ctx} {a : Code} (h : ∀ i ∈ x.c.seats, (x.src64 i a).toNat % 4 = 0) :
    (x.c.seats.filter fun i => (x.src64 i a).toNat % 4 != 0) = [] :=
  List.filter_eq_nil_iff.2 fun i hi => by simp [h i hi]

/-- The group with a link written, if there is one, and each lane at its own target. -/
def jumped (x : Ctx) (h : Hdr) (a : Code) (link : Option Code) : Group :=
  (link.elim x.g fun d => x.link x.g h.n d x.c.seats).modLanes x.c.seats fun i l => { l with pc := x.src64 i a }

theorem jumpTo_lands (s : State) {x : Ctx} (h : Hdr) {a : Code} (link : Option Code) (ha : ∀ i ∈ x.c.seats, (x.src64 i a).toNat % 4 = 0) :
    Lands (.next (jumpTo s x h a link)) s x.who (jumped x h a link) := by
  simp only [jumpTo, filter_misaligned_nil ha, List.isEmpty_nil, Bool.not_true, Bool.false_eq_true, if_false]
  cases link <;> exact done_lands s x _ _

theorem jumpTo_misaligned (s : State) {x : Ctx} (h : Hdr) {a : Code} (link : Option Code) (ha : ¬ ∀ i ∈ x.c.seats, (x.src64 i a).toNat % 4 = 0) :
    jumpTo s x h a link =
      (let bad := x.c.seats.filter fun i => (x.src64 i a).toNat % 4 != 0
       s.fault x .misaligned bad (x.src64 (lowSeat bad) a)) := by
  have hne : (x.c.seats.filter fun i => (x.src64 i a).toNat % 4 != 0).isEmpty = false := by
    rw [List.isEmpty_eq_false_iff, Ne, List.filter_eq_nil_iff]
    simpa using ha
  simp only [jumpTo, hne, Bool.not_false, if_true]

/-- Settles O7: each active lane goes where its condition or its own target says. -/
theorem branchesAndIndirectBranches : Obligations.BranchesAndIndirectBranches := by
  refine ⟨fun h c ofs => ⟨fun s x hx => bra_lands h c ofs hx, ?call, fun s x hx => loop_lands h c ofs hx, fun s x hn => loopBody_none hn⟩,
    fun h d a => ⟨?ret, ?brx, ?brxCall, fun s x hf ha => ?trap, fun s x hf ha => ?trapCall⟩⟩
  case call =>
    have hc := call_settles h c ofs
    simp only [link_eq] at hc
    exact hc
  case ret => exact settles_of_withOps (List.Subset.refl _) (fun _ _ _ _ => rfl) fun s x ha => jumpTo_lands s h none ha
  case brx => exact settles_of_withOps (List.Subset.refl _) (fun _ _ _ _ => rfl) fun s x ha => jumpTo_lands s h none ha
  case brxCall =>
    refine settles_of_withOps (reads := [opd a .w64]) (by simp) (fun _ _ _ _ => rfl) fun s x ha => ?_
    have hl := jumpTo_lands s h (some d) ha
    simp only [jumped, Option.elim_some, link_eq] at hl
    exact hl
  case trap =>
    have hj := jumpTo_misaligned s h none ha
    constructor
    · have hm : exec (.ret h a) s = .next (jumpTo s x h a none) := withOps_of_free hf
      rw [hm, hj]; rfl
    · have hm : exec (.brx h d a false) s = .next (jumpTo s x h a none) := withOps_of_free hf
      rw [hm, hj]; rfl
  case trapCall =>
    have hm : exec (.brx h d a true) s = .next (jumpTo s x h a (some d)) :=
      withOps_of_free (os := fun _ => [opd a .w64, opd d .w64]) (reads := fun _ => [opd a .w64])
        (free_mono hf (List.Subset.refl _) (by simp))
    rw [hm, jumpTo_misaligned s h (some d) ha]; rfl

end Sys2Proof.Proofs
end

section
/-! PROOFS. What turns operands away (R18, R243): WINDOW and POISON before an instruction's own effect. -/

namespace Sys2Proof.Proofs

open Sys2Proof Sys2Proof.Machine Sys2Proof.Safety Sys2Proof.Laws

/-! ### WINDOW -/

/-- Some operand reaches a register at or beyond the allocation (R18). -/
def Beyond (x : Ctx) (os : List Opd) : Prop := ∃ o ∈ os, o.1.toNat < 96 ∧ x.g.alloc < x.wb + o.1.toNat + o.2

theorem windowFault_of_beyond {x : Ctx} {os : List Opd} (h : Beyond x os) : ∃ n, x.windowFault os = some n := by
  obtain ⟨o, ho, hb⟩ := h
  rw [← Option.isSome_iff_exists, Ctx.windowFault, List.findSome?_isSome_iff]
  exact ⟨o, ho, by simp only [Ctx.beyond]; rw [if_pos hb]; rfl⟩

theorem ready_of_beyond {s : State} {x : Ctx} {os reads : List Opd} {lanes : List Nat} (h : Beyond x os) :
    ∃ v, s.ready x os reads lanes = some (s.fault x .window x.c.seats v) := by
  obtain ⟨n, hn⟩ := windowFault_of_beyond h
  exact ⟨BitVec.ofNat 64 n, by simp only [State.ready, hn]⟩

/-- An instruction on such an operand traps WINDOW in every active lane, before anything else of it. -/
theorem withOps_of_beyond {s : State} {x : Ctx} {os : List Opd} {f : Ctx → State} {reads : Ctx → List Opd} {lanes : Ctx → List Nat}
    (hx : s.ctx? = some x) (h : Beyond x os) : ∃ v, withOps s (fun _ => os) f reads lanes = .next (s.fault x .window x.c.seats v) := by
  obtain ⟨v, hv⟩ := ready_of_beyond (s := s) (reads := reads x) (lanes := lanes x) h
  exact ⟨v, by rw [withOps, withCtx_of_ctx? hx, hv]; rfl⟩

/-! ### POISON -/

/-- Where nothing else turns the operands away, the lanes that read a register failing its ECC trap POISON. -/
theorem ready_of_failing {s : State} {x : Ctx} {os reads : List Opd} {lanes ls : List Nat} (f : Free s x os [] lanes)
    (hl : (lanes.filter fun i => (x.failing (reads.flatMap x.readKeys) i).isSome) = ls) (hne : ls ≠ []) :
    s.ready x os reads lanes = some (s.fault x .poison ls (BitVec.ofNat 64 ((x.failing (reads.flatMap x.readKeys) (lowSeat ls)).getD 0))) := by
  have h := ready_of_free f
  simp only [State.ready] at h ⊢
  split at h
  · cases h
  · next hw =>
    split at h
    · cases h
    · next hheld =>
      split at h
      · cases h
      · next howed =>
        split at h
        · cases h
        · next hlatch =>
          split at h
          · cases h
          · next hflags =>
            rw [if_neg hheld, if_neg howed, if_neg hlatch, if_neg hflags, hl]
            cases ls with
            | nil => exact absurd rfl hne
            | cons i l => rfl

/-- A lane reads a register whose bank ECC fails through a 32-bit code: a lane register, an s-register or a latch. -/
def ReadsBad (x : Ctx) (i : Nat) (c : Code) : Prop :=
  (c.toNat < 96 ∧ ((x.g.lane i).regs.getD (x.wb + c.toNat) Reg.zero).bad = true) ∨
  (96 ≤ c.toNat ∧ c.toNat < 112 ∧ (c.toNat - 96) ∈ x.g.badSregs) ∨
  (120 ≤ c.toNat ∧ c.toNat - 120 ≤ (x.g.lane i).pushes ∧ ((x.g.lane i).pushes - (c.toNat - 120)) ∈ (x.g.lane i).badLatch)

/-- The number under which a 32-bit code's register is looked at (R242). -/
theorem readKeys_word (x : Ctx) (c : Code) :
    x.readKeys (opd c .w32) =
      if 120 ≤ c.toNat then [0x20000 + c.toNat] else if c.toNat < 96 then [0 + (x.wb + c.toNat)]
      else if c.toNat < 112 then [0 + (0x10000 + (c.toNat - 96))] else [] := rfl

/-- What fails, by the number's range: lane registers, s-registers and latches. -/
theorem bad_lane {x : Ctx} {k : Nat} (i : Nat) (h : k < 0x10000) : x.bad i k = ((x.g.lane i).regs.getD k Reg.zero).bad := by
  simp only [Ctx.bad, if_pos h]

theorem bad_sreg {x : Ctx} {n : Nat} (i : Nat) (h : n < 0x10000) : x.bad i (0x10000 + n) = x.g.badSregs.contains n := by
  simp only [Ctx.bad]
  rw [if_neg (by omega), if_pos (by omega), Nat.add_sub_cancel_left]

theorem bad_latch (x : Ctx) (i n : Nat) :
    x.bad i (0x20000 + n) = (decide (n - 120 ≤ (x.g.lane i).pushes) && (x.g.lane i).badLatch.contains ((x.g.lane i).pushes - (n - 120))) := by
  simp only [Ctx.bad]
  rw [if_neg (by omega), if_neg (by omega), show 0x20000 + n - (0x20000 + 120) = n - 120 by omega]

theorem exists_bad_iff {x : Ctx} {c : Code} (hc : c.toNat < 96 → x.wb + c.toNat < 0x10000) (i : Nat) :
    (∃ k ∈ x.readKeys (opd c .w32), x.bad i k = true) ↔ ReadsBad x i c := by
  rw [readKeys_word, ReadsBad]
  rcases Nat.lt_or_ge c.toNat 96 with h | h
  · rw [if_neg (by omega), if_pos h, Nat.zero_add]
    simp [bad_lane i (hc h), h, show ¬ 96 ≤ c.toNat by omega, show ¬ 120 ≤ c.toNat by omega]
  · rcases Nat.lt_or_ge c.toNat 112 with h' | h'
    · rw [if_neg (by omega), if_neg (by omega), if_pos h', Nat.zero_add]
      simp [bad_sreg i (show c.toNat - 96 < 0x10000 by omega), h, h', show ¬ 120 ≤ c.toNat by omega]
    · rcases Nat.lt_or_ge c.toNat 120 with h'' | h''
      · rw [if_neg (by omega), if_neg (by omega), if_neg (by omega)]
        simp [show ¬ c.toNat < 96 by omega, show ¬ c.toNat < 112 by omega, show ¬ 120 ≤ c.toNat by omega]
      · rw [if_pos h'']
        simp [bad_latch, show ¬ c.toNat < 96 by omega, show ¬ c.toNat < 112 by omega, h'']

/-- The lanes, among those given, that read a failing register through one of some 32-bit codes. -/
def badReaders (x : Ctx) (cs : List Code) (lanes : List Nat) : List Nat :=
  lanes.filter fun i => (x.failing ((cs.map fun c => opd c .w32).flatMap x.readKeys) i).isSome

theorem mem_badReaders {x : Ctx} {cs : List Code} {lanes : List Nat} (hc : ∀ c ∈ cs, c.toNat < 96 → x.wb + c.toNat < 0x10000) (i : Nat) :
    i ∈ badReaders x cs lanes ↔ i ∈ lanes ∧ ∃ c ∈ cs, ReadsBad x i c := by
  have hiff : ((x.failing ((cs.map fun c => opd c .w32).flatMap x.readKeys) i).isSome = true) ↔ ∃ c ∈ cs, ReadsBad x i c := by
    rw [Ctx.failing, List.find?_isSome]
    simp only [List.mem_flatMap, List.mem_map]
    constructor
    · rintro ⟨k, ⟨_, ⟨c, hm, rfl⟩, hk⟩, hb⟩
      exact ⟨c, hm, (exists_bad_iff (hc c hm) i).1 ⟨k, hk, hb⟩⟩
    · rintro ⟨c, hm, hr⟩
      obtain ⟨k, hk, hb⟩ := (exists_bad_iff (hc c hm) i).2 hr
      exact ⟨k, ⟨_, ⟨c, hm, rfl⟩, hk⟩, hb⟩
  rw [badReaders, List.mem_filter, hiff]

/-- The value that a POISON trap of such lanes stores. -/
def poisonValue (x : Ctx) (cs : List Code) (ls : List Nat) : Dword :=
  BitVec.ofNat 64 ((x.failing ((cs.map fun c => opd c .w32).flatMap x.readKeys) (lowSeat ls)).getD 0)

/-- An instruction whose operands are otherwise free traps POISON in the lanes that read a failing register (R243, log 95). -/
theorem withOps_of_badReaders {s : State} {x : Ctx} {os : List Opd} {cs : List Code} {f : Ctx → State} (hf : Free s x os [])
    (h : badReaders x cs x.c.seats ≠ []) :
    withOps s (fun _ => os) f (fun _ => cs.map fun c => opd c .w32) =
      .next (s.fault x .poison (badReaders x cs x.c.seats) (poisonValue x cs (badReaders x cs x.c.seats))) := by
  rw [withOps, withCtx_of_ctx? hf.issuer, ready_of_failing hf rfl h]
  rfl

end Sys2Proof.Proofs
end

section
/-! PROOFS. The window base and index registers (R56 to R58), and the traps of registers beyond the allocation or failing their ECC
(R18, R243). -/

namespace Sys2Proof.Proofs

open Sys2Proof Sys2Proof.Machine Sys2Proof.Safety Sys2Proof.Laws

/-! ### WBASE and SETX -/

/-- The window base that WBASE forms (R56). -/
def newBase (x : Ctx) (h : Hdr) (a : Code) (imm : BitVec 9) : Int := ((x.src32 (x.g.lowest x.c.seats) a).toNat : Int) + 32 * riImm h imm

/-- A multiple of 32 from 0 below the allocation. -/
def Fits (x : Ctx) (w : Int) : Prop := 0 ≤ w ∧ w < x.g.alloc ∧ w % 32 = 0

theorem not_fits_iff {x : Ctx} {w : Int} : ¬ Fits x w ↔ w < 0 ∨ (x.g.alloc : Int) ≤ w ∨ w % 32 ≠ 0 := by
  simp only [Fits]; omega

theorem exec_wbase {s : State} {x : Ctx} (h : Hdr) {a : Code} (imm : BitVec 9) (hf : Free s x [opd a .w32]) :
    exec (.wbase h a imm) s = .next (if newBase x h a imm < 0 ∨ (x.g.alloc : Int) ≤ newBase x h a imm ∨ newBase x h a imm % 32 ≠ 0
      then s.fault x .window x.c.seats (intVal (newBase x h a imm)) else s.retire x h { x.g with wb := (newBase x h a imm).toNat }) :=
  withOps_of_free (os := fun _ => [opd a .w32]) (lanes := fun x => x.readers) (free_fewer hf fun _ hi => readers_mem hi)

theorem wbase_lands {s : State} {x : Ctx} (h : Hdr) {a : Code} (imm : BitVec 9) (hf : Free s x [opd a .w32]) (hw : Fits x (newBase x h a imm)) :
    Lands (exec (.wbase h a imm) s) s x.who { passed x (fun _ l => l) with wb := (newBase x h a imm).toNat } := by
  rw [exec_wbase h imm hf, if_neg (mt not_fits_iff.2 (not_not.2 hw)), passed, modLanes_self]
  exact retire_lands s x h _

theorem wbase_faults {s : State} {x : Ctx} (h : Hdr) {a : Code} (imm : BitVec 9) (hf : Free s x [opd a .w32]) (hw : ¬ Fits x (newBase x h a imm)) :
    exec (.wbase h a imm) s = .next (s.fault x .window x.c.seats (BitVec.ofInt 64 (newBase x h a imm))) := by
  rw [exec_wbase h imm hf, if_pos (not_fits_iff.1 hw), intVal]

/-- The packed word of SETX by its fields (R57). -/
theorem indexOf_eq (u : Word) (imm : Int) :
    indexOf u imm = ⟨BitVec.ofInt 32 ((u.extractLsb' 21 11).toNat + imm), (u.extractLsb' 0 10).toNat, (u.extractLsb' 10 11).toNat⟩ := by
  have hu := u.isLt
  simp only [indexOf, BitVec.extractLsb'_toNat, Nat.shiftRight_eq_div_pow]
  congr 1
  · rw [Nat.mod_eq_of_lt (by omega), Int.natCast_ediv]; rfl
  · rw [Nat.pow_zero, Nat.div_one]

theorem setx_settles (h : Hdr) (xn : BitVec 2) (a : Code) (imm : BitVec 9) :
    Settles (.setx h xn a imm) [opd a .w32] (fun _ => True) fun x =>
      passed x fun i l => { l with idx := l.idx.set xn.toNat (indexOf (x.src32 i a) (riImm h imm)) } :=
  settles_of_withOps (List.Subset.refl _) (fun _ _ _ _ => rfl) fun s x _ => retire_lands s x h _

/-! ### MOVX and MOVXW -/

/-- The index register that the lane goes through, and the register that it reaches lies within its bounds (R58). -/
def idxReg (x : Ctx) (i : Nat) (xn : BitVec 2) : IndexReg := (x.g.lane i).idx.getD xn.toNat ⟨0, 0, 0⟩
def Bounded (x : Ctx) (xn : BitVec 2) (imm : Int) (i : Nat) : Prop :=
  ((idxReg x i xn).base : Int) ≤ x.indexed i xn imm ∧ x.indexed i xn imm < (idxReg x i xn).limit

/-- The lanes out of bounds, and those that reach beyond the allocation. -/
def outside (x : Ctx) (xn : BitVec 2) (imm : Int) : List Nat := x.c.seats.filter fun i =>
  decide (x.indexed i xn imm < (idxReg x i xn).base) || decide (((idxReg x i xn).limit : Int) ≤ x.indexed i xn imm)
def farther (x : Ctx) (xn : BitVec 2) (imm : Int) : List Nat := x.c.seats.filter fun i => decide ((x.g.alloc : Int) ≤ x.indexed i xn imm)

section
variable {s : State} {x : Ctx} {xn : BitVec 2} {imm : Int}

theorem mem_outside (i : Nat) : i ∈ outside x xn imm ↔ i ∈ x.c.seats ∧ ¬ Bounded x xn imm i := by
  rw [outside, List.mem_filter, Bool.or_eq_true, decide_eq_true_eq, decide_eq_true_eq, Bounded]
  exact and_congr_right fun _ => by omega

theorem mem_farther (i : Nat) : i ∈ farther x xn imm ↔ i ∈ x.c.seats ∧ (x.g.alloc : Int) ≤ x.indexed i xn imm := by
  rw [farther, List.mem_filter, decide_eq_true_eq]

theorem outside_nil (h : ∀ i ∈ x.c.seats, Bounded x xn imm i) : outside x xn imm = [] :=
  List.eq_nil_iff_forall_not_mem.2 fun i hi => ((mem_outside i).1 hi).2 (h i ((mem_outside i).1 hi).1)

theorem farther_nil (h : ∀ i ∈ x.c.seats, x.indexed i xn imm < x.g.alloc) : farther x xn imm = [] :=
  List.eq_nil_iff_forall_not_mem.2 fun i hi => by
    obtain ⟨hm, hl⟩ := (mem_farther i).1 hi
    have := h i hm
    omega

variable {fixed : Opd} {loads : Bool} {f : Ctx → (Nat → Nat) → State}

/-- The lanes that load from a register failing its ECC. -/
def poorly (x : Ctx) (xn : BitVec 2) (imm : Int) (loads : Bool) : List Nat :=
  x.c.seats.filter fun i => loads && (x.failing [(x.indexed i xn imm).toNat] i).isSome

/-- The order of the checks of MOVX and MOVXW (R58). -/
theorem indexAccess_eq (hx : s.ctx? = some x) :
    indexAccess s xn imm fixed loads f = .next (
      if !(outside x xn imm).isEmpty then s.fault x .indexBound (outside x xn imm) (intVal (x.indexed (lowSeat (outside x xn imm)) xn imm))
      else if !(farther x xn imm).isEmpty then s.fault x .window (farther x xn imm) (intVal (x.indexed (lowSeat (farther x xn imm)) xn imm))
      else (s.ready x [fixed] (if loads then [] else [fixed])).getD
        (if x.c.seats.any fun i => x.g.heldBy [i] [(x.indexed i xn imm).toNat] then s.stall x 3
         else if x.c.seats.any fun i => s.owed x.who [i] [(x.indexed i xn imm).toNat] then s.stall x 2
         else if !(poorly x xn imm loads).isEmpty then
           s.fault x .poison (poorly x xn imm loads) (intVal (x.indexed (lowSeat (poorly x xn imm loads)) xn imm))
         else f x fun i => (x.indexed i xn imm).toNat)) :=
  withCtx_of_ctx? hx _

/-- INDEX_BOUND comes first. -/
theorem indexAccess_outside (hx : s.ctx? = some x) (h : ∃ i ∈ x.c.seats, ¬ Bounded x xn imm i) :
    indexAccess s xn imm fixed loads f =
      .next (s.fault x .indexBound (outside x xn imm) (intVal (x.indexed (lowSeat (outside x xn imm)) xn imm))) := by
  obtain ⟨i, hi, hb⟩ := h
  rw [indexAccess_eq hx, List.isEmpty_eq_false_iff.2 (List.ne_nil_of_mem ((mem_outside i).2 ⟨hi, hb⟩)), Bool.not_false, if_pos rfl]

/-- WINDOW for the registers reached comes next. -/
theorem indexAccess_farther (hx : s.ctx? = some x) (hb : ∀ i ∈ x.c.seats, Bounded x xn imm i)
    (h : ∃ i ∈ x.c.seats, (x.g.alloc : Int) ≤ x.indexed i xn imm) :
    indexAccess s xn imm fixed loads f =
      .next (s.fault x .window (farther x xn imm) (intVal (x.indexed (lowSeat (farther x xn imm)) xn imm))) := by
  obtain ⟨i, hi, hl⟩ := h
  rw [indexAccess_eq hx, outside_nil hb, List.isEmpty_eq_false_iff.2 (List.ne_nil_of_mem ((mem_farther i).2 ⟨hi, hl⟩))]
  rfl

/-- WINDOW for the fixed operand. -/
theorem indexAccess_beyond (hx : s.ctx? = some x) (hb : ∀ i ∈ x.c.seats, Bounded x xn imm i ∧ x.indexed i xn imm < x.g.alloc)
    (h : Beyond x [fixed]) : ∃ v, indexAccess s xn imm fixed loads f = .next (s.fault x .window x.c.seats v) := by
  obtain ⟨v, hv⟩ := ready_of_beyond (s := s) (reads := if loads then [] else [fixed]) (lanes := x.c.seats) h
  exact ⟨v, by rw [indexAccess_eq hx, outside_nil fun i hi => (hb i hi).1, farther_nil fun i hi => (hb i hi).2, hv]; rfl⟩

/-- Every lane reaches a register within its bounds and the allocation that no hold or load has. -/
def Reaches (s : State) (x : Ctx) (xn : BitVec 2) (imm : Int) : Prop := ∀ i ∈ x.c.seats,
  Bounded x xn imm i ∧ x.indexed i xn imm < x.g.alloc ∧ x.g.heldBy [i] [(x.indexed i xn imm).toNat] = false ∧
    s.owed x.who [i] [(x.indexed i xn imm).toNat] = false

/-- Then, with the fixed operand free, the access is made, unless a load's register fails its ECC. -/
theorem indexAccess_made (hf : Free s x [fixed] (if loads then [] else [fixed])) (hr : Reaches s x xn imm) (hp : poorly x xn imm loads = []) :
    indexAccess s xn imm fixed loads f = .next (f x fun i => (x.indexed i xn imm).toNat) := by
  have held : (x.c.seats.any fun i => x.g.heldBy [i] [(x.indexed i xn imm).toNat]) = false :=
    List.any_eq_false.2 fun i hi => by simp [(hr i hi).2.2.1]
  have owed : (x.c.seats.any fun i => s.owed x.who [i] [(x.indexed i xn imm).toNat]) = false :=
    List.any_eq_false.2 fun i hi => by simp [(hr i hi).2.2.2]
  rw [indexAccess_eq hf.issuer, outside_nil fun i hi => (hr i hi).1, farther_nil fun i hi => (hr i hi).2.1, ready_of_free hf, held, owed, hp]
  rfl

theorem poorly_nil_of_sound (hr : Reaches s x xn imm) (ha : x.g.alloc ≤ 1024)
    (hs : ∀ i ∈ x.c.seats, ((x.g.lane i).regs.getD (x.indexed i xn imm).toNat Reg.zero).bad = false) : poorly x xn imm true = [] := by
  refine List.filter_eq_nil_iff.2 fun i hi => ?_
  have hlt := (hr i hi).2.1
  have hb : x.bad i (x.indexed i xn imm).toNat = false := by rw [bad_lane i (by omega), hs i hi]
  simp [Ctx.failing, hb]

theorem poorly_store : poorly x xn imm false = [] := List.filter_eq_nil_iff.2 fun _ _ => by simp

end

/-- What MOVX and MOVXW do with the register reached. -/
theorem exec_movx (s : State) (h : Hdr) (d : Code) (xn : BitVec 2) (imm : BitVec 9) :
    exec (.movx h d xn imm) s = indexAccess s xn (riImm h imm) (opd d .w32) true fun x t =>
      s.retire x h (x.dst h.n d .w32 fun i => ((x.g.lane i).regs.getD (t i) Reg.zero).val.toNat) := rfl

theorem exec_movxw (s : State) (h : Hdr) (a : Code) (xn : BitVec 2) (imm : BitVec 9) :
    exec (.movxw h xn a imm) s = indexAccess s xn (riImm h imm) (opd a .w32) false fun x t =>
      s.retire x h (x.g.modLanes x.c.seats fun i l =>
        let l := l.push ((x.src32 i a).setWidth 64)
        if h.n then l else l.setReg (t i) (x.src32 i a) false) := rfl

theorem movx_lands {s : State} {x : Ctx} {h : Hdr} {d : Code} {xn : BitVec 2} {imm : BitVec 9} (hf : Free s x [opd d .w32] [])
    (ha : x.g.alloc ≤ 1024) (hr : Reaches s x xn (riImm h imm))
    (hs : ∀ i ∈ x.c.seats, ((x.g.lane i).regs.getD (x.indexed i xn (riImm h imm)).toNat Reg.zero).bad = false) :
    Lands (exec (.movx h d xn imm) s) s x.who
      (wrote x h d .w32 fun i => ((x.g.lane i).regs.getD (x.indexed i xn (riImm h imm)).toNat Reg.zero).val.toNat) := by
  rw [exec_movx, indexAccess_made (loads := true) hf hr (poorly_nil_of_sound hr ha hs)]
  exact retire_lands s x h _

theorem movxw_lands {s : State} {x : Ctx} {h : Hdr} {a : Code} {xn : BitVec 2} {imm : BitVec 9} (hf : Free s x [opd a .w32])
    (hr : Reaches s x xn (riImm h imm)) :
    Lands (exec (.movxw h xn a imm) s) s x.who (passed x fun i l =>
      let l := l.push ((x.src32 i a).setWidth 64)
      if h.n then l else l.setReg (x.indexed i xn (riImm h imm)).toNat (x.src32 i a) false) := by
  rw [exec_movxw, indexAccess_made (loads := false) hf hr poorly_store]
  exact retire_lands s x h _

/-! ### Traps before an instruction's own effect -/

/-- The instructions named trap WINDOW on operands beyond the allocation, at each width. -/
theorem words_beyond {s : State} {x : Ctx} (h : Hdr) {d a b : Code} (hx : s.ctx? = some x) (hb : Beyond x [opd a .w32, opd b .w32, opd d .w32]) :
    let traps := fun (i : Instr) => ∃ v, exec i s = .next (s.fault x .window x.c.seats v)
    traps (.iadd h d a b 0#2) ∧ traps (.isub h d a b 1#2) ∧ traps (.imul h d a b 0#2) ∧ traps (.idiv h d a b 0#2) ∧
    traps (.iaddc h d a b 0#2) ∧ traps (.and h d a b false) ∧ traps (.shl h d a b false) ∧ traps (.iset h d a b 0#2) ∧
    traps (.sel h d a b 0#2) ∧ traps (.fadd h d a b 0#2) ∧ traps (.fmin h d a b 0#2) ∧ traps (.fset h d a b 0#2) :=
  ⟨withOps_of_beyond hx hb, withOps_of_beyond hx hb, withOps_of_beyond hx hb, withOps_of_beyond hx hb, withOps_of_beyond hx hb,
    withOps_of_beyond hx hb, withOps_of_beyond hx hb, withOps_of_beyond hx hb, withOps_of_beyond hx hb, withOps_of_beyond hx hb,
    withOps_of_beyond hx hb, withOps_of_beyond hx hb⟩

theorem pairs_beyond {s : State} {x : Ctx} (h : Hdr) {d a b : Code} (hx : s.ctx? = some x) (hb : Beyond x [opd a .w64, opd b .w64, opd d .w64]) :
    let traps := fun (i : Instr) => ∃ v, exec i s = .next (s.fault x .window x.c.seats v)
    traps (.iadd h d a b 2#2) ∧ traps (.imulh h d a b 3#2) ∧ traps (.xor h d a b true) ∧ traps (.fmul h d a b 1#2) :=
  ⟨withOps_of_beyond hx hb, withOps_of_beyond hx hb, withOps_of_beyond hx hb, withOps_of_beyond hx hb⟩

/-- The lanes of a POISON trap: those that read a failing register. -/
theorem word_poisoned {s : State} {x : Ctx} {os : List Opd} (cs : List Code) (hf : Free s x os []) (ha : x.g.alloc ≤ 1024)
    (hcs : ∀ c ∈ cs, opd c .w32 ∈ os) (h : ∃ i ∈ x.c.seats, ∃ c ∈ cs, ReadsBad x i c) :
    ∃ ls v, (∀ i, i ∈ ls ↔ i ∈ x.c.seats ∧ ∃ c ∈ cs, ReadsBad x i c) ∧
      ∀ f, withOps s (fun _ => os) f (fun _ => cs.map fun c => opd c .w32) = .next (s.fault x .poison ls v) := by
  have hc : ∀ c ∈ cs, c.toNat < 96 → x.wb + c.toNat < 0x10000 := fun c hm hlt => by
    have hw := hf.window _ (hcs c hm) hlt
    change x.wb + c.toNat + 1 ≤ x.g.alloc at hw
    omega
  obtain ⟨i, hi, hr⟩ := h
  have hne : badReaders x cs x.c.seats ≠ [] := List.ne_nil_of_mem ((mem_badReaders hc i).2 ⟨hi, hr⟩)
  exact ⟨_, _, mem_badReaders hc, fun f => withOps_of_badReaders hf hne⟩

/-- Settles O9: the window base, the index registers in the order of R58, and the traps WINDOW and POISON. -/
theorem windowsAndIndexRegisters : Obligations.WindowsAndIndexRegisters := by
  refine ⟨fun h d a xn imm => ⟨fun s x hf hw => wbase_lands h imm hf hw, fun s x hf hw => wbase_faults h imm hf hw, ?setx,
      fun s x hf ha hr hs => movx_lands hf ha hr hs, fun s x hf hr => movxw_lands hf hr, fun s x hx hb => ?bound, fun s x hx hb hl => ?far,
      fun s x hx hb => ⟨fun hd hw => ?fixedD, fun ha hw => ?fixedA⟩⟩,
    fun h d a b s x hx => ⟨fun hb => words_beyond h hx hb, fun hb => pairs_beyond h hx hb, fun hb => withOps_of_beyond hx hb,
      fun hb c ofs => withOps_of_beyond hx hb⟩,
    fun h d a b s x => ?poison⟩
  case setx =>
    have hs := setx_settles h xn a imm
    simp only [indexOf_eq] at hs
    exact hs
  case bound => exact ⟨_, _, mem_outside, (exec_movx ..).trans (indexAccess_outside hx hb),
    (exec_movxw ..).trans (indexAccess_outside hx hb)⟩
  case far => exact ⟨_, _, mem_farther, (exec_movx ..).trans (indexAccess_farther hx hb hl),
    (exec_movxw ..).trans (indexAccess_farther hx hb hl)⟩
  case fixedD => rw [exec_movx]; exact indexAccess_beyond hx hb ⟨opd d .w32, List.mem_singleton_self _, hd, hw⟩
  case fixedA => rw [exec_movxw]; exact indexAccess_beyond hx hb ⟨opd a .w32, List.mem_singleton_self _, ha, hw⟩
  case poison =>
    intro reads whom hf ha ⟨i, hi, hr⟩
    refine ⟨?_, fun ⟨i, hi, hr⟩ => ?_⟩
    · obtain ⟨ls, v, hls, hv⟩ := word_poisoned [a, b] hf ha (by simp)
        ⟨i, hi, hr.elim (fun h => ⟨a, by simp, h⟩) fun h => ⟨b, by simp, h⟩⟩
      exact ⟨ls, v, hls, hv _, hv _, hv _⟩
    · have hf' : Free s x [opd a .w32, opd d .w32] [] := free_mono hf (by simp) (List.Subset.refl _)
      obtain ⟨ls, v, hls, hv⟩ := word_poisoned [a] hf' ha (by simp) ⟨i, hi, a, by simp, hr⟩
      exact ⟨ls, v, hls, hv _⟩

end Sys2Proof.Proofs
end

section
/-! PROOFS. MOV.b128 from v93 (R67): the code is no quad, so its fourth word is read as s0 and not as the register after v95. -/

namespace Sys2Proof.Proofs

open Sys2Proof Sys2Proof.Machine Sys2Proof.Safety Sys2Proof.Laws

/-! ### What an outcome leaves in a lane -/

/-- A lane of a compute group after an outcome. -/
def laneOut (r : Result) (k i : Nat) : Option Lane :=
  match r with
  | .next t => (t.groups.get? k).map fun g => g.lane i
  | _ => none

theorem laneCore_lane {g g' : Group} (h : groupCore g' = groupCore g) (i : Nat) : laneCore (g'.lane i) = laneCore (g.lane i) := by
  have hl : g'.lanes.map laneCore = g.lanes.map laneCore := congrArg Group.lanes h
  have hd : ∀ g : Group, laneCore (g.lane i) = (g.lanes.map laneCore).getD i (laneCore (Lane.fresh none 0 0)) := fun g =>
    (List.getD_map _ _ _).symm
  rw [hd, hd, hl]

/-- Where an outcome lands, a lane holds what the group's lane holds, but for the bookkeeping. -/
theorem laneOut_of_lands {r : Result} {s : State} {k : Nat} {g : Group} (h : Lands r s (.grp k) g) (i : Nat) :
    (laneOut r k i).map laneCore = some (laneCore (g.lane i)) := by
  obtain ⟨g', more, rfl, hc⟩ := h
  simp [laneOut, State.setGroup, laneCore_lane hc]

/-- Operands of a group that owes and holds nothing are free where they lie in the allocation and their banks are sound. -/
theorem free_of_idle {s : State} {x : Ctx} {os : List Opd} (hx : s.ctx? = some x) (hr : s.reqs = []) (hh : x.g.holds = []) (hs : x.g.status = [])
    (hw : ∀ o ∈ os, o.1.toNat < 96 ∧ x.wb + o.1.toNat + o.2 ≤ x.g.alloc) (hb : ∀ i ∈ x.c.seats, x.failing (os.flatMap x.readKeys) i = none) :
    Free s x os where
  issuer := hx
  window o ho _ := (hw o ho).2
  holds h hm := by rw [hh] at hm; cases hm
  status h hm := by rw [hs] at hm; cases hm
  owed r hm := by rw [hr] at hm; cases hm
  latch := fun ⟨o, ho, hc⟩ => by have := (hw o ho).1; omega
  flags := fun ⟨o, ho, hc⟩ => by have := (hw o ho).1; omega
  sound := hb

/-! ### The counterexample -/

/-- A thread whose 128 registers all hold 1, alone in its group; every s-register holds 0. -/
def onesGroup : Group := Group.fresh [{ Lane.fresh (some 0) 128 0x1000 with regs := List.replicate 128 ⟨1, false, false⟩ }] 128

def onesIssue : Issue := ⟨.grp 5, 0x1000, 0, 0, 4, [0], none⟩
def onesState : State := { State.reset with groups := [(5, onesGroup)], cur := some onesIssue }
def onesCtx : Ctx := ⟨.grp 5, onesGroup, onesIssue, 0, onesGroup.uniforms, false⟩

/-- A header that sets neither B nor N, on an instruction of one word. -/
def plainHdr : Hdr := ⟨false, false, none⟩

theorem onesState_free : Free onesState onesCtx [opd 93 .w128, opd 4 .w128] :=
  free_of_idle rfl rfl rfl rfl (by decide) (by decide)

/-- What register 7 holds after the quad at v93 has been moved to v4. -/
theorem mov_from_v93 :
    ((laneOut (exec (.mov plainHdr 4 93 3#2) onesState) 5 0).map fun l => (l.regs.getD 7 Reg.zero).val) = some 0 := by decide

/-- Refutes O4: with no restriction to the codes that R17 gives a quad, the clause of MOV.b128 asks that v93 be copied as the four
registers v93 to v96 of the window; the model reads the fourth as code 96, which is s0. -/
theorem not_movesAndTags : ¬ Obligations.MovesAndTags := by
  intro ⟨_, hmoves⟩
  obtain ⟨_, _, _, hquad, _⟩ := hmoves plainHdr 4 93 0 0 0
  have hlands := hquad rfl rfl rfl onesState onesCtx onesState_free trivial
  have hlane := laneOut_of_lands hlands 0
  have hreg : ((laneOut (exec (.mov plainHdr 4 93 3#2) onesState) 5 0).map fun l => (l.regs.getD 7 Reg.zero).val) = some 1 := by
    have h := congrArg (Option.map fun l : Lane => (l.regs.getD 7 Reg.zero).val) hlane
    rw [Option.map_map] at h
    exact h.trans (by decide)
  rw [mov_from_v93] at hreg
  exact absurd hreg (by decide)

end Sys2Proof.Proofs
end

section
/-! PROOFS. EXIT (R54) where the record of a retirement wakes a parked seat: the record is written to memory, and a write to the line
of a park monitor wakes the lanes that wait for it (R364), whether or not they hold a thread. -/

namespace Sys2Proof.Proofs

open Sys2Proof Sys2Proof.Machine Sys2Proof.Safety Sys2Proof.Laws

/-- The page that seat 1 waits for. -/
def awaitedPage : PageKey := ⟨0, 0, 2, 0⟩

/-- Thread 0 at work in seat 0; seat 1 holds no thread and is parked. -/
def parkedGroup : Group :=
  { Group.fresh [Lane.fresh (some 0) 32 0x1000, { Lane.fresh none 0 0 with mode := .parked awaitedPage none }] 32 with
    team := 3, launch := 1, place := some ⟨9, 1, 4⟩ }

/-- Its team, in partition 0. -/
def parkedTeam : Team :=
  { grid := 1, index := 0, launch := 1, part := some 0, phase := .resident, cluster := 1, base := 9, span := 1, threads := 1, groups := [5],
    fmts := [], barriers := [], maps := [], matrix := [], copies := [], evicted := false, savedAt := 0, swapped := false, seated := true,
    advances := 1 }

/-- Partition 0 keeps records of retirements in a ring at 0x100000 (R410). -/
def recordingPart : Part := { Part.reset with enabled := true, oq := ⟨0x100000, 4, 0, 0, 0⟩, oqRetire := true }

/-- The monitor of seat 1's page stands on the ring's first line. -/
def exitState : State :=
  { State.reset with
    boot := .running, groups := [(5, parkedGroup)], teams := [(3, parkedTeam)], parts := [(0, recordingPart)], cur := some onesIssue,
    monitors := [⟨0, 0x100000 / 128, [], [(.grp 5, awaitedPage)]⟩] }

def exitCtx : Ctx := ⟨.grp 5, parkedGroup, onesIssue, 0, parkedGroup.uniforms, false⟩

theorem exit_wakes_seat : (laneOut (exec (.exit plainHdr) exitState) 5 1).map (·.mode) = some .running := by decide +kernel

/-- Refutes O8: the clause of EXIT leaves every lane outside the active set as it is, in every state; here the record of the
group's retirement fires the monitor of a parked seat that holds no thread, and the seat is running afterwards. -/
theorem not_pathsRunsAndExits : ¬ Obligations.PathsRunsAndExits := by
  intro ⟨_, _, hexit⟩
  obtain ⟨t, g, ht, hg, _, _, _, hothers, _⟩ := hexit plainHdr exitState exitCtx 5 rfl rfl (by decide) rfl
  have hcore := congrArg Lane.mode (hothers 1 (by decide))
  have hwoken := exit_wakes_seat
  have hg : t.groups.get? 5 = some g := hg
  rw [ht, laneOut, hg] at hwoken
  have hmode : (g.lane 1).mode = .running := Option.some.inj hwoken
  simp only [laneCore, hmode] at hcore
  exact absurd hcore (by decide)

end Sys2Proof.Proofs
end

section
/-! PROOFS. Writes of memory (R95, R240, R243): the bytes, tags and poison after a write with no keys in force. -/

namespace Sys2Proof.Proofs

open Sys2Proof Sys2Proof.Machine Sys2Proof.Safety Sys2Proof.Laws

/-! ### The units that a range touches -/

/-- A unit of size g is touched by a range when one of its bytes lies in it. -/
theorem mem_blocks {g : Nat} (hg : 0 < g) (a n k : Nat) : k ∈ blocks g a n ↔ ∃ j < n, (a + j) / g = k := by
  unfold blocks
  split
  · next h => simp [h]
  · next h =>
    have hm : a / g ≤ (a + n - 1) / g := Nat.div_le_div_right (by omega)
    simp only [List.mem_map, List.mem_range]
    constructor
    · rintro ⟨i, hi, rfl⟩
      by_cases h0 : i = 0
      · exact ⟨0, by omega, by simp [h0]⟩
      · have hle : i + a / g ≤ (a + n - 1) / g := by omega
        have hhi := (Nat.le_div_iff_mul_le hg).1 hle
        have hlo : a < (i + a / g) * g := (Nat.div_lt_iff_lt_mul hg).1 (by omega)
        refine ⟨(i + a / g) * g - a, by omega, ?_⟩
        rw [Nat.add_sub_of_le (by omega), Nat.mul_div_cancel _ hg]
    · rintro ⟨j, hj, rfl⟩
      have h1 : a / g ≤ (a + j) / g := Nat.div_le_div_right (by omega)
      have h2 : (a + j) / g ≤ (a + n - 1) / g := Nat.div_le_div_right (by omega)
      exact ⟨(a + j) / g - a / g, by omega, by omega⟩

theorem blocks_contains {g : Nat} (hg : 0 < g) (a n k : Nat) : (blocks g a n).contains k = (List.range n).any fun j => (a + j) / g == k := by
  rw [Bool.eq_iff_iff]
  simp [mem_blocks hg]

theorem contains_filter (l : List Nat) (p : Nat → Bool) (k : Nat) : (l.filter p).contains k = (l.contains k && p k) := by
  rw [Bool.eq_iff_iff]
  simp [List.mem_filter]

/-! ### A write -/

/-- Without keys in force a sector keeps what it holds. -/
theorem foldl_rekey_plain {s : State} (hk : s.keyed = []) (hm : s.trust.memKeys = []) (l : List Nat) : l.foldl State.rekey s = s := by
  have one : ∀ k, s.rekey k = s := fun k => by simp [State.rekey, hk, hm]
  induction l with
  | nil => rfl
  | cons k l ih => rw [List.foldl_cons, one, ih]

/-- The byte at an address after a write with no keys in force. -/
theorem byte_write {s : State} (hw : Memory.wf s.mem = true) (hk : s.keyed = []) (hm : s.trust.memKeys = []) (a : Nat) (bs : List Byte) (b : Nat) :
    (s.write a bs).byte b = if a ≤ b ∧ b < a + bs.length then bs.getD (b - a) 0 else s.byte b := by
  split
  · next h =>
    have hi : b - a < bs.length := by omega
    have := byte_write_same s a (b - a) bs hw ⟨hk, hm⟩ hi
    rw [Nat.add_sub_of_le h.1] at this
    rw [this, List.getD_eq_getElem?_getD, List.getElem?_eq_getElem hi, Option.getD_some]
  · exact byte_write_other s a b bs hw ⟨hk, hm⟩ (by omega)

theorem rekey_tags (s : State) (k : Nat) : (s.rekey k).tags = s.tags := by
  unfold State.rekey; split
  · rfl
  · simp only; split <;> rfl

theorem rekey_poison (s : State) (k : Nat) : (s.rekey k).poison = s.poison := by
  unfold State.rekey; split
  · rfl
  · simp only; split <;> rfl

/-- What every step of a fold keeps, the fold keeps. -/
theorem foldl_keeps {α β γ : Type} (p : α → γ) {f : α → β → α} (h : ∀ a b, p (f a b) = p a) (l : List β) (a : α) : p (l.foldl f a) = p a := by
  induction l generalizing a with
  | nil => rfl
  | cons b l ih => rw [List.foldl_cons, ih, h]

@[simp] theorem putBytes_tags (s : State) (a : Nat) (bs : List Byte) : (s.putBytes a bs).tags = s.tags :=
  foldl_keeps State.tags rekey_tags _ s

@[simp] theorem putBytes_poison (s : State) (a : Nat) (bs : List Byte) : (s.putBytes a bs).poison = s.poison :=
  foldl_keeps State.poison rekey_poison _ s

theorem write_tags (s : State) (a : Nat) (bs : List Byte) :
    (s.write a bs).tags = s.tags.filter fun g => !(blocks 16 a bs.length).contains g := by
  simp [State.write]

theorem write_poison (s : State) (a : Nat) (bs : List Byte) :
    (s.write a bs).poison = s.poison.filter fun p => !(decide (a ≤ 32 * p) && decide (32 * p + 32 ≤ a + bs.length)) := by
  simp [State.write]

/-- The tag of a granule after a write. -/
theorem write_tags_contains (s : State) (a : Nat) (bs : List Byte) (g : Nat) :
    (s.write a bs).tags.contains g = (s.tags.contains g && !(List.range bs.length).any fun j => (a + j) / 16 == g) := by
  rw [write_tags, contains_filter, blocks_contains (by decide)]

/-- Settles O17: byte by byte, and by the filters that a write puts on tags and poison. -/
theorem storedBytesReadBack : Obligations.StoredBytesReadBack := by
  intro s a bs hw hk hm
  refine ⟨byte_write hw hk hm a bs, write_tags_contains s a bs, fun q => ?_, ?_⟩
  · rw [write_poison, contains_filter]
  · simp only [State.write, State.putBytes, foldl_rekey_plain hk hm]

end Sys2Proof.Proofs
end

section
/-! PROOFS. The checks of R87: their order, and the fault that an access with a failing lane takes (R84, R88). -/

namespace Sys2Proof.Proofs

open Sys2Proof Sys2Proof.Machine Sys2Proof.Safety Sys2Proof.Laws

/-! ### The earliest failure -/

/-- The element that a search for the lowest step ends with is of the list and of its lowest step. -/
theorem foldl_earliest {α : Type} (key : α → Nat) (l : List α) (b : α) :
    let best := l.foldl (fun b q => if key q < key b then q else b) b
    best ∈ b :: l ∧ ∀ q ∈ b :: l, key best ≤ key q := by
  induction l generalizing b with
  | nil => simp
  | cons p l ih =>
    obtain ⟨hmem, hle⟩ := ih (if key p < key b then p else b)
    refine ⟨?_, fun q hq => ?_⟩
    · rcases List.mem_cons.1 hmem with h | h
      · rw [List.foldl_cons, h]; split <;> simp
      · exact List.mem_cons_of_mem _ (List.mem_cons_of_mem _ h)
    · have h0 := hle _ List.mem_cons_self
      rw [List.foldl_cons]
      rcases List.mem_cons.1 hq with rfl | hq
      · exact h0.trans (by split <;> omega)
      · rcases List.mem_cons.1 hq with rfl | hq
        · exact h0.trans (by split <;> omega)
        · exact hle q (List.mem_cons_of_mem _ hq)

/-- What an instruction reports of failures: the cause of the earliest step that any lane raised, and the lanes of that step (R87). -/
structure Earliest (l : List (Nat × CheckFail)) (cause : Cause) (bad : List Nat) (k : Nat) : Prop where
  raised : ∃ q ∈ l, q.2 = (k, cause)
  first  : ∀ q ∈ l, k ≤ q.2.1
  lanes  : ∀ i, i ∈ bad ↔ ∃ f, (i, f) ∈ l ∧ f.1 = k

@[simp] theorem firstFail_nil : firstFail [] = none := rfl

theorem firstFail_of_ne_nil {l : List (Nat × CheckFail)} (h : l ≠ []) :
    ∃ cause bad k, firstFail l = some (cause, bad) ∧ Earliest l cause bad k := by
  obtain ⟨f, fs, rfl⟩ := List.exists_cons_of_ne_nil h
  obtain ⟨hmem, hle⟩ := foldl_earliest (fun q : Nat × CheckFail => q.2.1) fs f
  refine ⟨_, _, _, rfl, ⟨_, hmem, rfl⟩, hle, fun i => ?_⟩
  simp only [List.mem_map, List.mem_filter, beq_iff_eq]
  constructor
  · rintro ⟨⟨j, g⟩, ⟨hm, hk⟩, rfl⟩; exact ⟨g, hm, hk⟩
  · rintro ⟨g, hm, hk⟩; exact ⟨(i, g), ⟨hm, hk⟩, rfl⟩

/-! ### Accesses that fail -/

/-- What the lanes of an access raise. -/
def failures (s : State) (x : Ctx) (a : Access) : List (Nat × CheckFail) :=
  (a.lanes x).filterMap fun i => (s.check x.who x.g.team (a.cap i) (a.e i) a.size [1] (a.perms i) true).map fun f => (i, f)

theorem failing_eq (s : State) (x : Ctx) (a : Access) : s.failing x a = firstFail (failures s x a) := rfl

theorem withAccess_of_failures {s : State} {x : Ctx} {a : Access} (h : failures s x a ≠ []) :
    ∃ cause bad k, Earliest (failures s x a) cause bad k ∧
      ∀ poisons go, withAccess s x a poisons go = s.fault x cause (a.mask x bad) (intVal (a.e (lowSeat bad))) := by
  obtain ⟨cause, bad, k, hf, he⟩ := firstFail_of_ne_nil h
  exact ⟨cause, bad, k, he, fun poisons go => by simp only [withAccess, failing_eq, hf]⟩

/-! ### The order of the checks -/

section
variable {s : State} {w : Who} {team : Nat} {c : Cap} {e : Int} {n : Nat} {perms : BitVec 8}

theorem check_tag (h : c.tag = false ∨ c.kind = 0) : s.check w team c e n [1] perms true = some (1, .capTag) := by
  rcases h with h | h <;> simp [State.check, h]

theorem check_perm (ht : c.tag = true) (hk : c.kind ≠ 0) (h : c.kind ≠ 1 ∨ c.perm &&& perms ≠ perms) :
    s.check w team c e n [1] perms true = some (2, .capPerm) := by
  rcases h with h | h <;> simp [State.check, Cap.has, ht, hk, h]

/-- Steps 3 to 6 for a capability of kind 1 to this package that has the permissions. -/
theorem check_granted (ht : c.tag = true) (hk : c.kind = 1) (hp : c.perm &&& perms = perms) (hg : c.pkg = s.regs.pkg) :
    s.check w team c e n [1] perms true =
      if e < c.base ∨ c.limit < e + n then some (3, .capBound)
      else if n ≠ 0 ∧ e % n ≠ 0 then some (4, .misaligned)
      else if s.revoked w (s.asnOf w) c.index then some (5, .capRevoked) else none := by
  have hb : (!(decide ((c.base : Int) ≤ e) && decide (e + n ≤ c.limit))) = decide (e < c.base ∨ c.limit < e + n) := by
    rw [Bool.eq_iff_iff]; simp only [Bool.not_eq_true', Bool.and_eq_false_iff, decide_eq_false_iff_not, decide_eq_true_eq]; omega
  simp only [State.check, ht, hk, Cap.has, hp, hg, hb]
  simp

end

/-- Settles O20: step by step for the check, and by the earliest failure for the instructions. -/
theorem checksOfAnAccess : Obligations.ChecksOfAnAccess := by
  intro h d cap off imm s x team c e n perms
  refine ⟨check_tag, check_perm, fun ht hk hp hg => ⟨fun hb => ?_, fun hl hh => ⟨fun h0 h1 => ?_, fun h1 => ?_⟩⟩, fun hf hl => ?_, fun hf hl => ?_⟩
  · rw [check_granted ht hk hp hg, if_pos hb]
  · rw [check_granted ht hk hp hg, if_neg (by omega), if_pos ⟨h0, h1⟩]
  · rw [check_granted ht hk hp hg, if_neg (by omega), if_neg (by tauto)]
  · obtain ⟨cause, bad, k, he, hw⟩ := withAccess_of_failures (a := memAccess x h cap off imm _ false (fun _ => permR) true false 0x70) hl
    refine ⟨cause, bad, ⟨k, he.raised, he.first, he.lanes⟩, (withOps_of_free hf).trans (congrArg _ (hw _ _))⟩
  · obtain ⟨cause, bad, k, he, hw⟩ := withAccess_of_failures (a := memAccess x h cap off imm _ false (fun _ => permW) false true 0x71) hl
    refine ⟨cause, bad, ⟨k, he.raised, he.first, he.lanes⟩, (withOps_of_free hf).trans (congrArg _ (hw _ _))⟩

end Sys2Proof.Proofs
end

section
/-! PROOFS. What a result depends on: the lowest lane of an active set, and the values that its lanes take (R19, R21, R33). -/

namespace Sys2Proof.Proofs

open Sys2Proof Sys2Proof.Machine Sys2Proof.Safety Sys2Proof.Laws

/-! ### Lanes in logical order -/

/-- Ordering seats by logical lane neither adds one nor leaves one out. -/
@[simp] theorem mem_byLogical (g : Group) (l : List Nat) (i : Nat) : i ∈ g.byLogical l ↔ i ∈ l := by
  have split : ∀ (out : List Nat) (p : Nat → Bool), i ∈ out.filter p ∨ i ∈ out.filter (fun j => !p j) ↔ i ∈ out := by
    intro out p
    simp only [List.mem_filter]
    cases p i <;> simp
  suffices h : ∀ out, i ∈ l.foldl (fun out i => out.filter (fun j => decide ((g.lane j).logical ≤ (g.lane i).logical)) ++ i ::
      out.filter (fun j => !decide ((g.lane j).logical ≤ (g.lane i).logical))) out ↔ i ∈ out ∨ i ∈ l from (h []).trans (by simp)
  induction l with
  | nil => simp
  | cons j l ih =>
    intro out
    rw [List.foldl_cons, ih, List.mem_append, List.mem_cons, or_left_comm, split, List.mem_cons]
    tauto

theorem byLogical_eq_nil {g : Group} {l : List Nat} : g.byLogical l = [] ↔ l = [] := by
  simp only [List.eq_nil_iff_forall_not_mem, mem_byLogical]

/-- The lowest lane of an active set is one of it. -/
theorem lowest_mem {x : Ctx} (h : x.c.seats ≠ []) : x.lowest ∈ x.c.seats := by
  rw [← mem_byLogical x.g, Ctx.lowest, Group.lowest]
  cases hb : x.g.byLogical x.c.seats with
  | nil => exact absurd (byLogical_eq_nil.1 hb) h
  | cons i l => simp

/-- The lanes in logical order begin with the lowest. -/
theorem take_one_byLogical {x : Ctx} (h : x.c.seats ≠ []) : (x.g.byLogical x.c.seats).take 1 = [x.lowest] := by
  rw [Ctx.lowest, Group.lowest]
  cases hb : x.g.byLogical x.c.seats with
  | nil => exact absurd (byLogical_eq_nil.1 hb) h
  | cons i l => simp

/-! ### Results -/

theorem modLanes_congr {g : Group} {seats : List Nat} {f f' : Nat → Lane → Lane} (h : ∀ i ∈ seats, f i = f' i) :
    g.modLanes seats f = g.modLanes seats f' := by
  have : (fun i l => if seats.contains i = true then f i l else l) = fun i l => if seats.contains i = true then f' i l else l := by
    funext i l
    split
    · next hi => rw [h i (by simpa using hi)]
    · rfl
  rw [Group.modLanes, Group.modLanes, this]

/-- The words of a value are those of its residue. -/
theorem words_mod (n v : Nat) : words n (v % 2 ^ (32 * n)) = words n v := by
  induction n generalizing v with
  | zero => rfl
  | succ n ih =>
    have hp : 2 ^ (32 * (n + 1)) = 4294967296 * 2 ^ (32 * n) := by rw [Nat.mul_succ, Nat.pow_add, Nat.mul_comm]
    rw [words, words, hp, Nat.mod_mul_right_div_self, ih]
    refine congrArg (· :: words n (v / 4294967296)) (BitVec.eq_of_toNat_eq ?_)
    rw [BitVec.toNat_ofNat, BitVec.toNat_ofNat]
    exact Nat.mod_mod_of_dvd _ (Dvd.intro _ rfl)

theorem words_congr {n v v' : Nat} (h : v % 2 ^ (32 * n) = v' % 2 ^ (32 * n)) : words n v = words n v' := by
  rw [← words_mod n v, h, words_mod]

/-- A result is the same when the lanes that take one have the same value modulo the width, and the same tag. -/
theorem dst_congr {x : Ctx} {n : Bool} {d : Code} {w : Width} {v v' : Nat → Nat} {tag tag' : Nat → Bool}
    (hv : ∀ i, i = x.lowest ∨ i ∈ x.c.seats → v i % 2 ^ (32 * widthWords w) = v' i % 2 ^ (32 * widthWords w))
    (ht : ∀ i ∈ x.c.seats, tag i = tag' i) : x.dst n d w v tag = x.dst n d w v' tag' := by
  have h0 := hv x.lowest (.inl rfl)
  unfold Ctx.dst
  split
  · simp only [h0, words_congr h0]
  · refine modLanes_congr fun i hi => ?_
    have h1 := hv i (.inr hi)
    simp only [h1, words_congr h1, ht i hi]

/-- The same for an active set that is not empty, where the lowest lane is one of it. -/
theorem dst_congr_seats {x : Ctx} {n : Bool} {d : Code} {w : Width} {v v' : Nat → Nat} {tag tag' : Nat → Bool} (hs : x.c.seats ≠ [])
    (hv : ∀ i ∈ x.c.seats, v i = v' i) (ht : ∀ i ∈ x.c.seats, tag i = tag' i) : x.dst n d w v tag = x.dst n d w v' tag' :=
  dst_congr (fun i hi => by rw [hv i (hi.elim (fun h => h ▸ lowest_mem hs) id)]) ht

end Sys2Proof.Proofs
end

section
/-! PROOFS. Capabilities (R86, R89 to R92): the fields of a capability made from fields, bounds, and the questions of CAPCHK. -/

namespace Sys2Proof.Proofs

open Sys2Proof Sys2Proof.Machine Sys2Proof.Safety Sys2Proof.Laws

/-! ### Fields -/

theorem toNat_field (b : Quad) (lo n : Nat) : (b.extractLsb' lo n).toNat = b.toNat / 2 ^ lo % 2 ^ n := by
  rw [BitVec.extractLsb'_toNat, Nat.shiftRight_eq_div_pow]

/-- Fields that the layout of R86 has room for. -/
structure FieldsFit (kind perm obj gexp lower upper cursor : Nat) : Prop where
  kind   : kind < 2 ^ 4
  perm   : perm < 2 ^ 8
  obj    : obj < 2 ^ 28
  gexp   : gexp < 2 ^ 6
  lower  : lower < 2 ^ 20
  upper  : upper < 2 ^ 20
  cursor : cursor < 2 ^ 42

/-- A capability made from fields has them. -/
theorem fields_of_fieldsFit {kind perm obj gexp lower upper cursor : Nat} (h : FieldsFit kind perm obj gexp lower upper cursor) (t : Bool) :
    let c : Cap := ⟨capBits kind perm obj gexp lower upper cursor, t⟩
    c.kind = kind ∧ c.perm.toNat = perm ∧ c.obj = obj ∧ c.gexp = gexp ∧ c.lower = lower ∧ c.upper = upper ∧ c.cursor = cursor := by
  obtain ⟨h1, h2, h3, h4, h5, h6, h7⟩ := h
  simp only [Cap.kind, Cap.perm, Cap.obj, Cap.gexp, Cap.lower, Cap.upper, Cap.cursor, toNat_field, capBits, BitVec.toNat_ofNat]
  omega

theorem fieldsFit_of_cap (c : Cap) : FieldsFit c.kind c.perm.toNat c.obj c.gexp c.lower c.upper c.cursor :=
  ⟨BitVec.isLt _, BitVec.isLt _, BitVec.isLt _, BitVec.isLt _, BitVec.isLt _, BitVec.isLt _, BitVec.isLt _⟩

/-- A capability with other permissions, bounds and cursor for the same object. -/
theorem fields_of_remade (c : Cap) (t : Bool) {perm : BitVec 8} {gexp lower upper cursor : Nat} (hg : gexp < 2 ^ 6) (hl : lower < 2 ^ 20)
    (hu : upper < 2 ^ 20) (hc : cursor < 2 ^ 42) :
    let r : Cap := ⟨capBits c.kind perm.toNat c.obj gexp lower upper cursor, t⟩
    r.kind = c.kind ∧ r.perm = perm ∧ r.obj = c.obj ∧ r.gexp = gexp ∧ r.lower = lower ∧ r.upper = upper ∧ r.cursor = cursor := by
  have f := fieldsFit_of_cap c
  obtain ⟨h1, h2, h3⟩ := fields_of_fieldsFit ⟨f.kind, perm.isLt, f.obj, hg, hl, hu, hc⟩ t
  exact ⟨h1, BitVec.eq_of_toNat_eq h2, h3⟩

/-! ### Bounds (R90) -/

/-- A bound rounded up to a multiple of 2^e, in units of it. -/
def unitsUpTo (b n e : Nat) : Nat := (b + n + 2 ^ e - 1) / 2 ^ e

/-- What CAPSET.bnd and .exact ask of their result: the source's object, permissions and cursor, and the bounds of the smallest exponent
that holds n bytes from the cursor on, within the source's. -/
def Bounds (exact_ : Bool) (c : Cap) (n : Nat) (r : Cap) : Prop :=
  c.tag = true ∧ r.tag = true ∧ (r.kind = c.kind ∧ r.obj = c.obj) ∧ (c.base ≤ r.base ∧ r.limit ≤ c.limit ∧ r.perm &&& c.perm = r.perm) ∧
  r.perm = c.perm ∧ r.cursor = c.cursor ∧ r.gexp ≤ 22 ∧ unitsUpTo c.cursor n r.gexp ≤ 2 ^ 20 - 1 ∧
  (∀ e < r.gexp, 2 ^ 20 - 1 < unitsUpTo c.cursor n e) ∧ r.lower = c.cursor / 2 ^ r.gexp ∧ r.upper = unitsUpTo c.cursor n r.gexp ∧
  (exact_ = true → c.cursor % 2 ^ r.gexp = 0 ∧ (c.cursor + n) % 2 ^ r.gexp = 0)

theorem boundsOf_eq_some {b n : Nat} {t : Nat × Nat × Nat} :
    boundsOf b n = some t ↔ t.1 ≤ 22 ∧ unitsUpTo b n t.1 ≤ 2 ^ 20 - 1 ∧ (∀ e < t.1, 2 ^ 20 - 1 < unitsUpTo b n e) ∧
      t.2 = (b / 2 ^ t.1, unitsUpTo b n t.1) := by
  obtain ⟨g, lo, up⟩ := t
  simp only [boundsOf, Option.map_eq_some_iff, List.find?_range_eq_some, decide_eq_true_eq, List.mem_range, Bool.not_eq_true',
    decide_eq_false_iff_not, Nat.not_le, Prod.mk.injEq]
  constructor
  · rintro ⟨g, ⟨h1, h2, h3⟩, rfl, rfl, rfl⟩; exact ⟨by omega, h1, h3, rfl, rfl⟩
  · rintro ⟨h1, h2, h3, rfl, rfl⟩; exact ⟨g, ⟨h2, by omega, h3⟩, rfl, rfl, rfl⟩

theorem div_le_unitsUpTo (b n e : Nat) : b / 2 ^ e ≤ unitsUpTo b n e :=
  Nat.div_le_div_right (by have := Nat.two_pow_pos e; omega)

theorem bounds_of_ok {ex : Bool} {c r : Cap} {n : Nat} (h : boundCap c n ex = .ok r) : Bounds ex c n r := by
  unfold boundCap at h
  split at h
  · cases h
  · next ht =>
    split at h
    · cases h
    · next g lo up hb =>
      obtain ⟨hg, hu, hmin, hlu⟩ := boundsOf_eq_some.1 hb
      simp only [Prod.mk.injEq] at hg hu hmin hlu
      obtain ⟨rfl, rfl⟩ := hlu
      have hl := div_le_unitsUpTo c.cursor n g
      split at h
      · cases h
      · next hin =>
        split at h
        · cases h
        · next hex =>
          obtain ⟨h1, h2, h3, h4, h5, h6, h7⟩ := fields_of_remade c true (perm := c.perm) (gexp := g) (lower := c.cursor / 2 ^ g)
            (upper := unitsUpTo c.cursor n g) (cursor := c.cursor) (by omega) (by omega) (by omega) (fieldsFit_of_cap c).cursor
          obtain rfl := Except.ok.inj h
          refine ⟨by simpa using ht, rfl, ⟨h1, h3⟩, ⟨?_, ?_, ?_⟩, h2, h7, ?_, ?_, ?_, ?_, ?_, fun hx => ?_⟩ <;>
            simp only [h2, h4, h5, h6, Cap.base, Cap.limit, BitVec.and_self] at *
          · omega
          · omega
          · exact hg
          · exact hu
          · exact hmin
          · simpa [hx, and_comm] using hex

/-- Where some result meets the bounds, they can be had. -/
theorem boundCap_of_bounds {ex : Bool} {c r : Cap} {n : Nat} (h : Bounds ex c n r) : ∃ r', boundCap c n ex = .ok r' := by
  obtain ⟨ht, -, -, ⟨hb, hl, -⟩, -, -, hg, hu, hmin, hlo, hup, hex⟩ := h
  have hbo : boundsOf c.cursor n = some (r.gexp, r.lower, r.upper) := boundsOf_eq_some.2 ⟨hg, hu, hmin, by rw [hlo, hup]⟩
  simp only [boundCap, ht, Bool.not_true, Bool.false_eq_true, if_false, hbo]
  rw [if_neg (by simp only [Cap.base, Cap.limit] at *; omega), if_neg]
  · exact ⟨_, rfl⟩
  · intro hc
    simp only [Bool.and_eq_true, Bool.or_eq_true, bne_iff_ne, ne_eq] at hc
    obtain ⟨h0, h1⟩ := hex hc.1
    simp [h0, h1] at hc

theorem boundCap_error {ex : Bool} {c : Cap} {n : Nat} {f : CheckFail} (h : boundCap c n ex = .error f) :
    (f.2 = .capTag ∨ f.2 = .capBound) ∧ ∀ r, ¬Bounds ex c n r := by
  refine ⟨?_, fun r hr => ?_⟩
  · unfold boundCap at h
    repeat' split at h
    all_goals cases h
    all_goals simp
  · obtain ⟨r', hr'⟩ := boundCap_of_bounds hr
    rw [hr'] at h; cases h

/-! ### Instructions that make a capability -/

/-- What the lanes of a capability instruction raise. -/
def capFailures (x : Ctx) (q : BitVec 4) (sq : Bool) (f : Nat → Cap → Except CheckFail Cap) : List (Nat × CheckFail) :=
  x.c.seats.filterMap fun i => match f i (x.capOf i q sq) with
    | .error e => some (i, e)
    | .ok _ => none

theorem mem_capFailures {x : Ctx} {q : BitVec 4} {sq : Bool} {f : Nat → Cap → Except CheckFail Cap} {i : Nat} {e : CheckFail} :
    (i, e) ∈ capFailures x q sq f ↔ i ∈ x.c.seats ∧ f i (x.capOf i q sq) = .error e := by
  simp only [capFailures, List.mem_filterMap]
  constructor
  · rintro ⟨j, hj, h⟩
    split at h
    · next e' he => obtain ⟨rfl, rfl⟩ := Prod.mk.inj (Option.some.inj h); exact ⟨hj, he⟩
    · cases h
  · rintro ⟨hi, h⟩; exact ⟨i, hi, by rw [h]⟩

/-- The capability of a lane that has one. -/
def okCap : Except CheckFail Cap → Cap
  | .ok r => r
  | .error _ => Cap.null

theorem capResult_eq (s : State) (x : Ctx) (h : Hdr) (p q : BitVec 4) (dq sq : Bool) (f : Nat → Cap → Except CheckFail Cap) :
    capResult s x h p q dq sq f = match firstFail (capFailures x q sq f) with
      | some (c, ls) => s.fault x c ls (BitVec.ofNat 64 (x.capOf (lowSeat ls) q sq).cursor)
      | none => s.retire x h (x.capDst p dq fun i => okCap (f i (x.capOf i q sq))) := rfl

theorem capDst_congr {x : Ctx} (hs : x.c.seats ≠ []) (p : BitVec 4) (quad : Bool) {r r' : Nat → Cap} (h : ∀ i ∈ x.c.seats, r i = r' i) :
    x.capDst p quad r = x.capDst p quad r' := by
  unfold Ctx.capDst
  rw [h _ (lowest_mem hs), modLanes_congr fun i hi => by rw [h i hi]]

section
variable {s : State} {x : Ctx} {h : Hdr} {p q : BitVec 4} {dq sq : Bool} {f : Nat → Cap → Except CheckFail Cap}

/-- With a result in every lane, the instruction writes them. -/
theorem capResult_lands (hs : x.c.seats ≠ []) {r : Nat → Cap} (hr : ∀ i ∈ x.c.seats, f i (x.capOf i q sq) = .ok (r i)) :
    Lands (.next (capResult s x h p q dq sq f)) s x.who (x.advance (x.capDst p dq r)) := by
  have hb : capFailures x q sq f = [] := List.eq_nil_iff_forall_not_mem.2 fun ⟨i, e⟩ hm => by
    obtain ⟨hi, he⟩ := mem_capFailures.1 hm
    rw [hr i hi] at he; cases he
  rw [capResult_eq, hb]
  have hd := capDst_congr hs p dq (r := fun i => okCap (f i (x.capOf i q sq))) fun i hi => congrArg okCap (hr i hi)
  exact hd ▸ retire_lands s x h _

/-- An operation that no lane can fail. -/
theorem capResult_total (r : Nat → Cap → Cap) : Lands (.next (capResult s x h p q dq sq fun i c => .ok (r i c))) s x.who
    (x.advance (x.capDst p dq fun i => r i (x.capOf i q sq))) := by
  have hb : capFailures x q sq (fun i c => .ok (r i c)) = [] := List.filterMap_eq_nil_iff.2 fun _ _ => rfl
  rw [capResult_eq, hb]
  exact retire_lands s x h _

/-- Else it takes the earliest failure, with the lowest lane's cursor. -/
theorem capResult_fails (hb : capFailures x q sq f ≠ []) : ∃ cause ls k, Earliest (capFailures x q sq f) cause ls k ∧
    firstFail (capFailures x q sq f) = some (cause, ls) ∧
    capResult s x h p q dq sq f = s.fault x cause ls (BitVec.ofNat 64 (x.capOf (lowSeat ls) q sq).cursor) := by
  obtain ⟨cause, ls, k, hf, he⟩ := firstFail_of_ne_nil hb
  exact ⟨cause, ls, k, he, hf, by rw [capResult_eq, hf]⟩

end

/-! ### CAPSET -/

/-- What CAPSET makes of a lane's source (R89, R90). -/
def capsetLane (x : Ctx) (g : BitVec 7) (op i : Nat) (c : Cap) : Except CheckFail Cap :=
  if op = 0 then .ok c else if op = 3 then sealCap c else boundCap c (x.src64 i g).toNat (op == 2)

/-- The operand that bounds need beside the capability. -/
def capsetLength (op : Nat) (g : BitVec 7) : List Opd := if op = 1 ∨ op = 2 then [opd g .w64] else []

section
variable {s : State} {x : Ctx} (h : Hdr) (p q k : BitVec 4) (g : BitVec 7)

theorem capset_of_free {op : Nat} (hk : k.toNat % 4 = op) (hp : op = 3 → s.privileged x.who = true)
    (hf : Free s x (capOpds p q (k.getLsbD 3) (k.getLsbD 2) ++ capsetLength op g) (capOpd q (k.getLsbD 2) ++ capsetLength op g)) :
    exec (.capset h p q k g) s = .next (capResult s x h p q (k.getLsbD 3) (k.getLsbD 2) (capsetLane x g op)) := by
  have hr := ready_of_free hf
  refine (withCtx_of_ctx? hf.issuer _).trans (congrArg _ ?_)
  generalize hk' : k.toNat % 4 = op' at hk ⊢
  subst hk
  have hl : op' < 4 := by omega
  clear hk'
  refine (if_neg (by simpa using hp)).trans (Eq.trans ?_ (congrArg (Option.getD · (capResult s x h p q (k.getLsbD 3) (k.getLsbD 2)
    (capsetLane x g op'))) hr))
  clear hr hf hp
  match op', hl with
  | 0, _ => rfl
  | 1, _ => rfl
  | 2, _ => rfl
  | 3, _ => rfl

/-- CAPSET.bnd and .exact: every lane's bounds, or the fault of the lanes that cannot have them. -/
theorem capset_bounds (ex : Bool) (hk : k.toNat % 4 = 1 + ex.toNat) (hs : x.c.seats ≠ [])
    (hf : Free s x (capOpds p q (k.getLsbD 3) (k.getLsbD 2) ++ [opd g .w64]) (capOpd q (k.getLsbD 2) ++ [opd g .w64])) :
    (∃ r, Lands (exec (.capset h p q k g) s) s x.who (x.advance (x.capDst p (k.getLsbD 3) r)) ∧
      ∀ i ∈ x.c.seats, Bounds ex (x.capOf i q (k.getLsbD 2)) (x.src64 i g).toNat (r i)) ∨
    ∃ c ls, (c = .capTag ∨ c = .capBound) ∧ ls ≠ [] ∧
      (∀ i ∈ ls, i ∈ x.c.seats ∧ ∀ r, ¬Bounds ex (x.capOf i q (k.getLsbD 2)) (x.src64 i g).toNat r) ∧
      exec (.capset h p q k g) s = .next (s.fault x c ls (BitVec.ofNat 64 (x.capOf (lowSeat ls) q (k.getLsbD 2)).cursor)) := by
  have hl : ∀ i c, capsetLane x g (1 + ex.toNat) i c = boundCap c (x.src64 i g).toNat ex := fun _ _ => by cases ex <;> rfl
  rw [capset_of_free h p q k g hk (by cases ex <;> simp) (by cases ex <;> exact hf)]
  by_cases hb : capFailures x q (k.getLsbD 2) (capsetLane x g (1 + ex.toNat)) = []
  · left
    have hr : ∀ i ∈ x.c.seats, capsetLane x g (1 + ex.toNat) i (x.capOf i q (k.getLsbD 2)) =
        .ok (okCap (capsetLane x g (1 + ex.toNat) i (x.capOf i q (k.getLsbD 2)))) := fun i hi => by
      cases he : capsetLane x g (1 + ex.toNat) i (x.capOf i q (k.getLsbD 2)) with
      | ok r => rfl
      | error e => exact absurd (mem_capFailures.2 ⟨hi, he⟩) (by rw [hb]; exact List.not_mem_nil)
    exact ⟨_, capResult_lands hs hr, fun i hi => bounds_of_ok ((hl _ _).symm.trans (hr i hi))⟩
  · right
    obtain ⟨cause, ls, n, he, -, hc⟩ := capResult_fails (s := s) (h := h) (p := p) (dq := k.getLsbD 3) hb
    have bad : ∀ {i e}, (i, e) ∈ capFailures x q (k.getLsbD 2) (capsetLane x g (1 + ex.toNat)) → i ∈ x.c.seats ∧ (e.2 = .capTag ∨ e.2 = .capBound) ∧
        ∀ r, ¬Bounds ex (x.capOf i q (k.getLsbD 2)) (x.src64 i g).toNat r := fun hm => by
      obtain ⟨hi, he⟩ := mem_capFailures.1 hm
      exact ⟨hi, boundCap_error ((hl _ _).symm.trans he)⟩
    obtain ⟨⟨j, e⟩, hj, hje⟩ := he.raised
    obtain rfl : e = (n, cause) := hje
    refine ⟨cause, ls, (bad hj).2.1, List.ne_nil_of_mem ((he.lanes j).2 ⟨_, hj, rfl⟩), fun i hi => ?_, congrArg _ hc⟩
    obtain ⟨e', hm, -⟩ := (he.lanes i).1 hi
    exact ⟨(bad hm).1, (bad hm).2.2⟩

end

/-! ### CAPPERM, CAPADD, CAPGET and CAPCHK -/

/-- CAPPERM's result in a lane (R89). -/
def cappermLane (x : Ctx) (g : BitVec 7) (i : Nat) (c : Cap) : Except CheckFail Cap :=
  if !c.tag then .error (1, .capTag)
  else .ok ⟨capBits c.kind (c.perm &&& (x.src32 i g).setWidth 8).toNat c.obj c.gexp c.lower c.upper c.cursor, true⟩

/-- Lanes that raise one failure take its fault together. -/
theorem firstFail_of_same {f : CheckFail} {l : List (Nat × CheckFail)} (hl : l ≠ []) (h : ∀ q ∈ l, q.2 = f) :
    firstFail l = some (f.2, l.map (·.1)) := by
  obtain ⟨q, qs, rfl⟩ := List.exists_cons_of_ne_nil hl
  have hb := h _ (foldl_earliest (fun q : Nat × CheckFail => q.2.1) qs q).1
  have hall : (q :: qs).filter (fun r => r.2.1 == f.1) = q :: qs := List.filter_eq_self.2 fun r hr => by rw [h r hr]; exact beq_self_eq_true _
  simp only [firstFail, hb, hall]

theorem capFailures_capperm (x : Ctx) (q : BitVec 4) (sq : Bool) (g : BitVec 7) :
    capFailures x q sq (cappermLane x g) = (x.c.seats.filter fun i => !(x.capOf i q sq).tag).map fun i => (i, 1, .capTag) := by
  rw [← List.filterMap_eq_map, List.filterMap_filter]
  refine List.filterMap_congr fun i _ => ?_
  unfold cappermLane
  cases (x.capOf i q sq).tag <;> rfl

theorem base_lt (c : Cap) : c.base < 2 ^ 84 := by
  have f := fieldsFit_of_cap c
  calc c.base < 2 ^ 20 * 2 ^ c.gexp := Nat.mul_lt_mul_of_pos_right f.lower (Nat.two_pow_pos _)
    _ ≤ 2 ^ 20 * 2 ^ 63 := Nat.mul_le_mul_left _ (Nat.pow_le_pow_right (by decide) (by have := f.gexp; omega))
    _ ≤ 2 ^ 84 := by decide

/-- The fields of R91, LENGTH modulo 2^64. -/
theorem capField_mod (c : Cap) {f n : Nat} (hf : f ≤ 8) (hn : f < 4 → n = 64) :
    capField c f % 2 ^ n = [c.base, c.limit, c.cursor, (((c.limit : Int) - c.base) % 2 ^ 64).toNat, c.perm.toNat, c.kind, c.tag.toNat, c.obj,
      c.gexp].getD f 0 % 2 ^ n := by
  match f, hf with
  | 3, _ =>
    have hb := base_lt c
    obtain rfl := hn (by decide)
    simp only [capField, List.getD_cons_succ, List.getD_cons_zero]
    omega
  | 0, _ | 1, _ | 2, _ | 4, _ | 5, _ | 6, _ | 7, _ | 8, _ => rfl

/-- CAPCHK asks what R87 checks. -/
theorem check_isNone (s : State) (w : Who) (team : Nat) (c : Cap) (size : Nat) (perms : BitVec 8) :
    (s.check w team c c.cursor size [1, 2] perms true).isNone =
      (c.tag && (c.kind == 1 || c.kind == 2) && c.perm &&& perms == perms && (c.pkg == s.regs.pkg || c.has permQ) &&
      decide (c.base ≤ c.cursor) && decide (c.cursor + size ≤ c.limit) && (size == 0 || c.cursor % size == 0) &&
      (c.kind == 2 || !(if c.pkg = s.regs.pkg then s.revoked w (s.asnOf w) c.index
        else s.farRevoked.contains (c.pkg, s.asnOf w, c.index))) &&
      (c.kind == 1 || (c.pkg == s.regs.pkg && (s.hamper c.hamper.1 c.hamper.2).team == some team && !(s.hamper c.hamper.1 c.hamper.2).giving))) := by
  have step : ∀ (b : Bool) (f : CheckFail) (o : Option CheckFail), (if b = true then some f else o).isNone = (!b && o.isNone) := fun b f o => by
    cases b <;> rfl
  have hal : ((c.cursor : Int) % (size : Int) != 0) = (c.cursor % size != 0) := by
    rw [← Int.natCast_mod, Bool.eq_iff_iff, bne_iff_ne, bne_iff_ne]; exact Int.natCast_ne_zero
  have hlo : decide ((c.base : Int) ≤ c.cursor) = decide (c.base ≤ c.cursor) := decide_eq_decide.2 Int.ofNat_le
  have hhi : decide ((c.cursor : Int) + size ≤ c.limit) = decide (c.cursor + size ≤ c.limit) := decide_eq_decide.2 (by omega)
  have hkind : [1, 2].contains c.kind = (c.kind == 1 || c.kind == 2) := by
    rw [List.contains_cons, List.contains_cons, List.contains_nil, Bool.or_false]
  rw [State.check, show (s.cluster c.hamper.1).hampers.getD c.hamper.2 Hamper.reset = s.hamper c.hamper.1 c.hamper.2 from rfl]
  simp only [step, hal, hlo, hhi, hkind]
  generalize (if c.pkg = s.regs.pkg then s.revoked w (s.asnOf w) c.index else s.farRevoked.contains (c.pkg, s.asnOf w, c.index)) = revoked
  generalize (c.pkg == s.regs.pkg || c.has permQ) = near
  generalize (c.pkg == s.regs.pkg && (s.hamper c.hamper.1 c.hamper.2).team == some team && !(s.hamper c.hamper.1 c.hamper.2).giving) = attached
  by_cases h1 : c.kind = 1
  · simp [h1, Cap.has, Bool.and_assoc, bne]
  · by_cases h2 : c.kind = 2
    · cases attached <;> simp [h2, Cap.has, Bool.and_assoc, bne]
    · simp [beq_false_of_ne h1, beq_false_of_ne h2]

section
variable {s : State} {x : Ctx} (h : Hdr) (p q : BitVec 4) (g : BitVec 7)

theorem capperm_lands (k : BitVec 2) (hs : x.c.seats ≠ []) (ht : (x.c.seats.filter fun i => !(x.capOf i q (k.getLsbD 0)).tag) = [])
    (hf : Free s x (capOpds p q (k.getLsbD 1) (k.getLsbD 0) ++ [opd g .w32]) (capOpd q (k.getLsbD 0) ++ [opd g .w32])) :
    ∃ r, Lands (exec (.capperm h p q k g) s) s x.who (x.advance (x.capDst p (k.getLsbD 1) r)) ∧
      ∀ i ∈ x.c.seats, let c := x.capOf i q (k.getLsbD 0)
        (r i).tag = true ∧ (r i).kind = c.kind ∧ (r i).obj = c.obj ∧ (r i).lower = c.lower ∧ (r i).upper = c.upper ∧ (r i).cursor = c.cursor ∧
        (r i).gexp = c.gexp ∧ (r i).perm = c.perm &&& (x.src32 i g).setWidth 8 := by
  have tag : ∀ i ∈ x.c.seats, (x.capOf i q (k.getLsbD 0)).tag = true := fun i hi => by
    simpa using List.filter_eq_nil_iff.1 ht i hi
  have hm : exec (.capperm h p q k g) s = .next (capResult s x h p q (k.getLsbD 1) (k.getLsbD 0) (cappermLane x g)) := withOps_of_free hf
  rw [hm]
  refine ⟨_, capResult_lands hs (r := fun i => okCap (cappermLane x g i (x.capOf i q (k.getLsbD 0)))) fun i hi => ?_, fun i hi => ?_⟩
  · simp only [cappermLane, tag i hi, okCap, Bool.not_true, Bool.false_eq_true, if_false]
  · have f := fieldsFit_of_cap (x.capOf i q (k.getLsbD 0))
    obtain ⟨h1, h2, h3, h4, h5, h6, h7⟩ := fields_of_remade (x.capOf i q (k.getLsbD 0)) true
      (perm := (x.capOf i q (k.getLsbD 0)).perm &&& (x.src32 i g).setWidth 8) f.gexp f.lower f.upper f.cursor
    simp only [cappermLane, tag i hi, okCap, Bool.not_true, Bool.false_eq_true, if_false]
    exact ⟨trivial, h1, h3, h5, h6, h7, h4, h2⟩

theorem capperm_fails (k : BitVec 2) (ht : (x.c.seats.filter fun i => !(x.capOf i q (k.getLsbD 0)).tag) ≠ [])
    (hf : Free s x (capOpds p q (k.getLsbD 1) (k.getLsbD 0) ++ [opd g .w32]) (capOpd q (k.getLsbD 0) ++ [opd g .w32])) :
    exec (.capperm h p q k g) s = .next (s.fault x .capTag (x.c.seats.filter fun i => !(x.capOf i q (k.getLsbD 0)).tag)
      (BitVec.ofNat 64 (x.capOf (lowSeat (x.c.seats.filter fun i => !(x.capOf i q (k.getLsbD 0)).tag)) q (k.getLsbD 0)).cursor)) := by
  have hm : exec (.capperm h p q k g) s = .next (capResult s x h p q (k.getLsbD 1) (k.getLsbD 0) (cappermLane x g)) := withOps_of_free hf
  have hb := firstFail_of_same (f := (1, .capTag)) (l := capFailures x q (k.getLsbD 0) (cappermLane x g))
    (by rw [capFailures_capperm]; simpa using ht) (by rw [capFailures_capperm]; exact List.forall_mem_map.2 fun _ _ => rfl)
  have hl : (capFailures x q (k.getLsbD 0) (cappermLane x g)).map (·.1) = x.c.seats.filter fun i => !(x.capOf i q (k.getLsbD 0)).tag := by
    rw [capFailures_capperm, List.map_map]; exact List.map_id _
  rw [hm, capResult_eq, hb, hl]

/-- Capabilities with the same bounds and permissions no more are within one another. -/
theorem within_of_same {c r : Cap} (hg : r.gexp = c.gexp) (hl : r.lower = c.lower) (hu : r.upper = c.upper) {m : BitVec 8}
    (hp : r.perm = c.perm &&& m) : c.base ≤ r.base ∧ r.limit ≤ c.limit ∧ r.perm &&& c.perm = r.perm := by
  rw [Cap.base, Cap.base, Cap.limit, Cap.limit, hg, hl, hu, hp, BitVec.and_comm, ← BitVec.and_assoc, BitVec.and_self]
  exact ⟨Nat.le_refl _, Nat.le_refl _, rfl⟩

theorem tag_mk (b : Quad) (t : Bool) : (⟨b, t⟩ : Cap).tag = t := rfl

theorem setCursor_fields (c : Cap) (v : Nat) : (c.setCursor v).kind = c.kind ∧ (c.setCursor v).perm = c.perm ∧ (c.setCursor v).obj = c.obj ∧
    (c.setCursor v).gexp = c.gexp ∧ (c.setCursor v).lower = c.lower ∧ (c.setCursor v).upper = c.upper ∧ (c.setCursor v).cursor = v % 2 ^ 42 := by
  have f := fieldsFit_of_cap c
  rw [Cap.setCursor]
  exact fields_of_remade c c.tag f.gexp f.lower f.upper (Nat.mod_lt _ (Nat.two_pow_pos _))

/-- CAPADD's result in a lane (R89). -/
def capaddLane (x : Ctx) (k : BitVec 4) (g : BitVec 7) (i : Nat) (c : Cap) : Cap :=
  c.setCursor (if k.toNat % 4 = 1 then (x.src64 i g).toNat else c.cursor + (x.src64 i g).toNat)

theorem capaddLane_fields (x : Ctx) (k : BitVec 4) (g : BitVec 7) (i : Nat) (c : Cap) : (capaddLane x k g i c).tag = c.tag ∧
    ((capaddLane x k g i c).kind = c.kind ∧ (capaddLane x k g i c).obj = c.obj) ∧
    (c.base ≤ (capaddLane x k g i c).base ∧ (capaddLane x k g i c).limit ≤ c.limit ∧
      (capaddLane x k g i c).perm &&& c.perm = (capaddLane x k g i c).perm) ∧
    (capaddLane x k g i c).perm = c.perm ∧ (capaddLane x k g i c).gexp = c.gexp ∧
    (capaddLane x k g i c).cursor = (if k.toNat % 4 = 1 then (x.src64 i g).toNat else c.cursor + (x.src64 i g).toNat) % 2 ^ 42 := by
  unfold capaddLane
  obtain ⟨hk, hp, ho, hg, hlo, hup, hcur⟩ := setCursor_fields c
    (if k.toNat % 4 = 1 then (x.src64 i g).toNat else c.cursor + (x.src64 i g).toNat)
  exact ⟨by rw [Cap.setCursor, tag_mk], ⟨hk, ho⟩, within_of_same hg hlo hup (hp.trans BitVec.and_self.symm), hp, hg, hcur⟩

theorem capadd_lands (k : BitVec 4)
    (hf : Free s x (capOpds p q (k.getLsbD 3) (k.getLsbD 2) ++ [opd g .w64]) (capOpd q (k.getLsbD 2) ++ [opd g .w64])) :
    Lands (exec (.capadd h p q k g) s) s x.who
      (x.advance (x.capDst p (k.getLsbD 3) fun i => capaddLane x k g i (x.capOf i q (k.getLsbD 2)))) := by
  have hm : exec (.capadd h p q k g) s = .next (capResult s x h p q (k.getLsbD 3) (k.getLsbD 2) fun i c => .ok (capaddLane x k g i c)) :=
    withOps_of_free hf
  rw [hm]
  exact capResult_total (capaddLane x k g)

theorem capget_computes (quad : Bool) (hp : p.toNat ≤ 8) :
    Computes (.capget h p q quad g) h g (if p.toNat < 4 then .w64 else .w32) (capOpd q quad) fun x i =>
      let c := x.capOf i q quad
      [c.base, c.limit, c.cursor, (((c.limit : Int) - c.base) % 2 ^ 64).toNat, c.perm.toNat, c.kind, c.tag.toNat, c.obj, c.gexp].getD p.toNat 0 := by
  have hw : wide (decide (p.toNat < 4)) = if p.toNat < 4 then Width.w64 else .w32 := by simp only [wide, decide_eq_true_eq]
  intro s x hf
  have hc : Lands (exec (.capget h p q quad g) s) s x.who _ := compute_lands (f := fun x i => capField (x.capOf i q quad) p.toNat) (hw ▸ hf)
  refine (congrArg (Lands (exec (.capget h p q quad g) s) s x.who) ?_).mp hc
  rw [hw]
  refine congrArg x.advance (dst_congr (fun i _ => capField_mod _ hp fun h4 => ?_) fun _ _ => rfl)
  rw [if_pos h4]; rfl

theorem capchk_lands (quad : Bool) (hf : Free s x (capOpd q quad ++ [opd g .w32])) :
    Lands (exec (.capchk h q quad g) s) s x.who (wrotePred x 6 fun i => (s.check x.who x.g.team (x.capOf i q quad) (x.capOf i q quad).cursor
      ((x.src32 i g).toNat / 256) [1, 2] ((x.src32 i g).setWidth 8) true).isNone) :=
  (congrArg (Lands · s x.who _) (withOps_of_free hf)).mpr (retire_lands s x h _)

end

/-- Operands of a CAPSET that reads a capability alone. -/
theorem free_no_length {s : State} {x : Ctx} {os reads : List Opd} {op : Nat} (g : BitVec 7) (h : op = 0 ∨ op = 3) (hf : Free s x os reads) :
    Free s x (os ++ capsetLength op g) (reads ++ capsetLength op g) := by
  have hl : capsetLength op g = [] := by rcases h with rfl | rfl <;> rfl
  rw [hl, List.append_nil, List.append_nil]
  exact hf

/-- Settles O30: one lemma per instruction; what is made keeps its source's exponent and bounds, or takes bounds within them. -/
theorem capabilityInstructions : Obligations.CapabilityInstructions := by
  unfold Obligations.CapabilityInstructions
  intro h p q k k2 quad g s x
  refine ⟨fun hk hf => ?_, fun hk hs hf => capset_bounds h p q k g false hk hs hf, fun hk hs hf => capset_bounds h p q k g true hk hs hf,
    fun hk hx hp => ?_, fun hk hs hf hp hc => ?_, fun hf => ⟨fun ht hs => ?_, fun ht => capperm_fails h p q g k2 ht hf⟩, fun hf _ _ => ?_,
    fun hp => capget_computes h p q g quad hp, fun hf => ?_⟩
  · rw [capset_of_free h p q k g hk (by simp) (free_no_length g (.inl rfl) hf)]
    exact capResult_total fun _ c => c
  · exact (withCtx_of_ctx? hx _).trans (congrArg _ (if_pos (by rw [hk, hp]; rfl)))
  · rw [capset_of_free h p q k g hk (fun _ => hp) (free_no_length g (.inr rfl) hf)]
    exact capResult_lands hs fun i hi => if_pos (hc i hi)
  · obtain ⟨r, hl, hr⟩ := capperm_lands h p q g k2 hs ht hf
    refine ⟨r, hl, fun i hi => ?_⟩
    obtain ⟨htag, hk, ho, hlo, hup, hcur, hg, hp⟩ := hr i hi
    exact ⟨htag, ⟨hk, ho⟩, within_of_same hg hlo hup hp, hcur, hg, hp⟩
  · exact ⟨_, capadd_lands h p q g k hf, fun i _ => capaddLane_fields x k g i _⟩
  · have hl := capchk_lands h q g quad hf
    simp only [check_isNone] at hl
    exact hl

end Sys2Proof.Proofs
end

section
/-! PROOFS. The reply to a request of a size that no instruction makes (R87, R234). -/

namespace Sys2Proof.Proofs

open Sys2Proof Sys2Proof.Machine Sys2Proof.Safety Sys2Proof.Laws

/-- A load of five bytes into register 0, performed: the model gives a value of more than four bytes that is no pair the width of a quad. -/
def fiveByteLoad : Req :=
  { who := .grp 5, seat := 0, kind := .load 5 0, strong := false, addr := 0x100040, key := ⟨0, 0, 2, 0⟩, asn := 0, dest := some 0, latch := [],
    done := true, answer := none, value := [1, 2, 3, 4, 5], tag := false, gen := 0, rehome := false, bounced := false, remote := none,
    num := none, sends := 0, sentAt := 0, pc := 0 }

/-- A thread whose registers all hold 1 waits for its reply. -/
def fiveByteState : State := { onesState with reqs := [(0, fiveByteLoad)] }

theorem onesGroup_registers : 2 ≤ (onesGroup.lane 0).regs.length :=
  calc 2 ≤ 128 := by decide
    _ = (onesGroup.lane 0).regs.length := (List.length_replicate (n := 128) (a := ⟨1, false, false⟩)).symm

theorem reply_writes_quad :
    ((laneOut (exec (.memoryReply 0) fiveByteState) 5 0).map fun l => l.regs[2]?) = some (some ⟨0, false, false⟩) := by decide

/-- Refutes O43: the clause of replies admits a load of any size up to eight bytes and leaves every register beyond the pair as it was;
the reply to a load of five bytes has the width of a quad, and register 2 becomes 0. -/
theorem not_requestsAtTheHomeSlice : ¬ Obligations.RequestsAtTheHomeSlice := by
  intro h
  obtain ⟨-, -, -, -, -, -, -, -, -, -, -, -, -, -, -, -, -, -, -, -, -, -, -, -, hreply, -⟩ :=
    h fiveByteState 0 fiveByteLoad 0 0 5 0 0 0 0 0 false false [] onesGroup
  obtain ⟨u, g, hu, -, -, hg, -, -, hothers, -⟩ := hreply rfl rfl rfl rfl (by decide) (by decide) rfl (by decide) rfl rfl (by decide)
    onesGroup_registers rfl (by decide)
  have hg : u.groups.get? 5 = some g := hg
  have hquad := reply_writes_quad
  rw [hu, laneOut, hg] at hquad
  have hreg : (g.lane 0).regs[2]? = some ⟨0, false, false⟩ := Option.some.inj hquad
  rw [show (g.lane 0).regs[2]? = _ from hothers 2 (.inr (by decide))] at hreg
  exact absurd hreg (by decide)

end Sys2Proof.Proofs
end

section
/-! PROOFS. Instructions of a compute group (R268, R270): what their skeletons come to with free operands, a group that leaves
arbitration, and acquires (R96, R245). -/

namespace Sys2Proof.Proofs

open Sys2Proof Sys2Proof.Machine Sys2Proof.Safety Sys2Proof.Laws

/-! ### The issuer -/

theorem group_of_ctx {s : State} {x : Ctx} (hx : s.ctx? = some x) : s.group? x.who = some x.g := by
  unfold State.ctx? at hx
  split at hx
  · cases hx
  · split at hx
    · cases hx
    · next hg => obtain rfl := Option.some.inj hx; exact hg

/-- A group whose place exists reads back as it was put there. -/
theorem group?_setGroup_same {s : State} {w : Who} {g v : Group} (h : s.group? w = some v) : (s.setGroup w g).group? w = some g := by
  cases w with
  | grp k => exact get_set_same _ _ _
  | ctl n =>
    have hn : n < 128 := by
      by_contra hn
      simp [State.group?, hn] at h
    simp [State.group?, State.setGroup, State.setCtl, State.ctl, hn]

/-- What lands leaves the issuer's group and everything else that is no bookkeeping where it says. -/
theorem ends_of_lands {r : Result} {s : State} {w : Who} {g v : Group} {P : State → Group → Prop} (h : Lands r s w g) (hv : s.group? w = some v)
    (hP : ∀ g' more, groupCore g' = groupCore g → P { ({ s with cur := none }.setGroup w g') with agenda := s.agenda ++ more } g') :
    Ends r w g P := by
  obtain ⟨g', more, rfl, hg⟩ := h
  refine ⟨_, g', rfl, by cases w <;> rfl, ?_, hg, hP g' more hg⟩
  have hv' : ({ s with cur := none } : State).group? w = some v := by cases w <;> exact hv
  have := group?_setGroup_same (g := g') hv'
  cases w <;> exact this

/-! ### Skeletons -/

section
variable {s : State} {x : Ctx} {os : Ctx → List Opd} {f : State → Ctx → State} {lanes : Ctx → List Nat}

theorem outsideTx_of_none (h : ∀ i ∈ x.c.seats, (x.g.lane i).tx = none) (go : State → Ctx → State) : outsideTx s x go = go s x := by
  have ht : (x.c.seats.filter fun i => (x.g.lane i).tx.isSome) = [] := List.filter_eq_nil_iff.2 fun i hi => by simp [h i hi]
  simp [outsideTx, ht]

theorem groupOp_of_free {reads : Ctx → List Opd} (hf : Free s x (os x) (reads x) (lanes x)) (ht : ∀ i ∈ x.c.seats, (x.g.lane i).tx = none) :
    groupOp s os f reads lanes = .next (f s x) := by
  rw [groupOp, withCtx_of_ctx? hf.issuer, outsideTx_of_none ht, ready_of_free hf]
  rfl

theorem coreOp_of_free (hf : Free s x (os x) (lanes := lanes x)) (hs : x.solo = false) (ht : ∀ i ∈ x.c.seats, (x.g.lane i).tx = none) :
    coreOp s os f lanes = .next (f s x) := by
  rw [coreOp, notSolo_of_group hf.issuer hs, groupOp_of_free hf ht]

end

/-- A group as it leaves arbitration at an instruction. -/
def leftGroup (x : Ctx) (g : Group) (w : Wait) (now : Nat) : Group :=
  let v := { g with issueQ := [] }.closeRun now
  { v.phase 7 now with wait := some w, readySince := now, bcast := if w.answers then some x.c.addr else v.bcast }

theorem core_leftGroup (x : Ctx) (g : Group) (w : Wait) (now : Nat) :
    groupCore (leftGroup x g w now) = groupCore { g.closeRun now with wait := some w } := by
  have hv : groupCore (({ g with issueQ := [] }.closeRun now).phase 7 now) = groupCore (g.closeRun now) := by
    rw [core_phase, core_closeRun, core_closeRun]; rfl
  exact congrArg (fun v : Group => { v with wait := some w }) hv

/-- A group that leaves arbitration waits; its run is over. -/
theorem leave_lands (s : State) (x : Ctx) (g : Group) (w : Wait) : Lands (.next (s.leave x g w)) s x.who { g.closeRun s.now with wait := some w } := by
  refine ⟨leftGroup x g w s.now, (leftGroup x g w s.now).boundaryEvents x.who, ?_, core_leftGroup x g w s.now⟩
  simp only [State.leave, State.setGroup]
  cases x.who <;> rfl

/-! ### Acquires -/

theorem acquire_eq {s : State} {x : Ctx} (hx : s.group? x.who = some x.g) (scope : Nat) : s.acquire x.who scope = acquired s x true scope := by
  unfold State.acquire acquired State.nearClear
  rw [hx]
  cases s.coreOf x.who with
  | none => rfl
  | some c =>
    simp only [Bool.true_and, Bool.and_eq_true, Bool.or_eq_true, beq_iff_eq, decide_eq_true_eq]
    cases (s.core c).near.isEmpty <;> simp [or_assoc]

/-- Without an acquire nothing is emptied. -/
@[simp] theorem acquired_false (s : State) (x : Ctx) (scope : Nat) : acquired s x false scope = s := by
  unfold acquired
  cases s.coreOf x.who <;> simp

/-- Scopes at or above .core empty the same near cache. -/
theorem acquired_wide {scope scope' : Nat} (s : State) (x : Ctx) (acq : Bool) (h : scope = 0 ∨ 3 ≤ scope) (h' : scope' = 0 ∨ 3 ≤ scope') :
    acquired s x acq scope = acquired s x acq scope' := by
  have wide : ∀ {n : Nat} {b : Bool}, n = 0 ∨ 3 ≤ n → (n == 0 || decide (3 ≤ n) || b) = true := fun h => by rcases h with rfl | h <;> simp_all
  unfold acquired
  simp only [wide h, wide h']

end Sys2Proof.Proofs
end

section
/-! PROOFS. Kettle words (R117, R118). -/

namespace Sys2Proof.Proofs

open Sys2Proof Sys2Proof.Machine Sys2Proof.Safety Sys2Proof.Laws

/-- Where no group waits on a kettle word, nobody looks again. -/
theorem wakeKettle_of_noWait {s : State} (h : ∀ r ∈ s.groups, ∀ a b c, r.2.wait ≠ some (.kwait a b c)) (cl n off : Nat) :
    s.wakeKettle cl n off = s := by
  have hm : (s.groups.map fun (e : Nat × Group) => (e.1, match e.2.wait with
        | some (.kwait c m o) => if c = cl ∧ m = n ∧ o = off then e.2.endWait s.now else e.2
        | _ => e.2)) = s.groups := by
    refine (List.map_congr_left fun e he => ?_).trans (List.map_id _)
    obtain ⟨k, g⟩ := e
    refine congrArg (Prod.mk k) ?_
    split
    · next hw => exact absurd hw (h _ he _ _ _)
    · rfl
  unfold State.wakeKettle
  exact congrArg (fun m => { s with groups := m }) hm

/-- A wait on the word is over once the word has been looked at again. -/
theorem wakeKettle_ends (s : State) (cl n off : Nat) : ∀ r ∈ (s.wakeKettle cl n off).groups, r.2.wait ≠ some (.kwait cl n off) := by
  intro r hr
  obtain ⟨e, -, rfl⟩ := List.mem_map.1 hr
  simp only
  split
  · next hw =>
    split
    · simp [Group.endWait, hw]
    · next hne => rw [hw]; intro h; injection h with h; injection h with h1 h2 h3; exact hne ⟨h1, h2, h3⟩
  · next hne => exact fun h => hne _ _ _ h

section
variable {s : State} {x : Ctx} {p k : BitVec 4} {g : BitVec 7} {perm : BitVec 8}

/-- A kettle instruction whose capability passes, on a hamper that no matrix operation of the group still uses. -/
theorem kettleOp_of_free (hf : Free s x [opd g .w32, (BitVec.ofNat 7 (96 + k.toNat), 1)] (lanes := x.readers)) (hs : x.solo = false)
    (ht : ∀ i ∈ x.c.seats, (x.g.lane i).tx = none)
    (hc : s.check x.who x.g.team (x.acap p.toNat) (x.address x.lowest (x.acap p.toNat) g 0) 8 [2] perm true = none)
    (hm : s.matrixUses x.who (x.acap p.toNat).hamper = false) (f : State → Ctx → Nat → Nat → Nat → State) :
    kettleOp s p g k perm f =
      .next (f s x (x.acap p.toNat).hamper.1 (x.acap p.toNat).hamper.2 (x.address x.lowest (x.acap p.toNat) g 0).toNat) := by
  refine (coreOp_of_free (os := fun _ => [opd g .w32, sOpd k .w32]) hf hs ht).trans (congrArg _ ?_)
  simp only [hc, hm]
  rfl

end

theorem kettleArrive_of_noWait {s : State} (h : ∀ r ∈ s.groups, ∀ a b c, r.2.wait ≠ some (.kwait a b c)) (cl n off c : Nat) :
    s.kettleArrive cl n off c = s.setHamper cl n ((s.hamper cl n).write off (leBytes 8 (kettleNext (s.kettle cl n off) c))) :=
  ite_eq_left_iff.2 fun _ => wakeKettle_of_noWait (s := s.setHamper cl n _) h cl n off

/-- What a look at the waits leaves alone is as the word's write leaves it. -/
theorem kettleArrive_keeps {α : Type} {f : State → α} {cl n off : Nat} (hf : ∀ t : State, f (t.wakeKettle cl n off) = f t) (s : State) (c : Nat) :
    f (s.kettleArrive cl n off c) = f (s.setHamper cl n ((s.hamper cl n).write off (leBytes 8 (kettleNext (s.kettle cl n off) c)))) :=
  (apply_ite f _ _ _).trans (ite_eq_left_iff.2 fun _ => hf _)

/-- Settles O26: each instruction is its skeleton's effect on the word, and an arrival is the model's step of the word. -/
theorem kettleWords : Obligations.KettleWords := by
  unfold Obligations.KettleWords
  intro h p k g s x
  refine ⟨?_, ?_, ?_, ?_, ?_⟩
  · rintro ⟨hf, hs, -, ht, hc, hm⟩
    change Lands (execKinit h p k g s) _ _ _
    rw [execKinit, kettleOp_of_free hf hs ht hc hm]
    exact retire_lands _ x h x.g
  · rintro ⟨hf, hs, -, ht, hc, hm⟩ hw hd hu
    change Lands (execKadd h p k g s) _ _ _
    rw [execKadd, kettleOp_of_free hf hs ht hc hm, State.release, hd, if_neg (by simp [hu]), kettleArrive_of_noWait hw]
    exact retire_lands _ x h x.g
  · rintro ⟨hf, hs, -, ht, hc, hm⟩ hg
    change Lands (execKwait h p k g s) _ _ _
    rw [execKwait, kettleOp_of_free hf hs ht hc hm, if_pos (show s.kettle _ _ _ / 2 ^ 48 ≠ _ from hg), acquire_eq (group_of_ctx hf.issuer)]
    have ha : acquired s x true (if h.ord = 2 then (if h.sc = 0 then 6 else h.sc) else 4) = acquired s x true (if h.ord = 2 then h.sc else 4) := by
      split
      · split
        · next h0 => exact acquired_wide s x true (by decide) (.inl h0)
        · rfl
      · rfl
    exact ha ▸ retire_lands _ x h x.g
  · rintro ⟨hf, hs, -, ht, hc, hm⟩ hg
    change Ends (execKwait h p k g s) _ _ _
    rw [execKwait, kettleOp_of_free hf hs ht hc hm, if_neg (not_not.2 (show s.kettle _ _ _ / 2 ^ 48 = _ from hg))]
    refine ends_of_lands (leave_lands s x x.g _) (group_of_ctx hf.issuer) fun g' _ _ => ?_
    exact setGroup_clusters _ _ _
  · intro a b off
    refine ⟨s.kettleArrive a b off 0, rfl, kettleArrive_keeps (f := State.clusters) (fun _ => rfl) s 0,
      kettleArrive_keeps (f := State.mem) (fun _ => rfl) s 0, fun hg => if_pos hg, fun hg => ?_⟩
    · rw [show s.kettleArrive a b off 0 = _ from if_neg hg]
      exact wakeKettle_ends _ a b off

end Sys2Proof.Proofs
end

section
/-! PROOFS. Hampers (R103 to R108, R228): the bytes after a write, and the instructions that reach them. -/

namespace Sys2Proof.Proofs

open Sys2Proof Sys2Proof.Machine Sys2Proof.Safety Sys2Proof.Laws

/-! ### Where bytes are stored (R228) -/

/-- The bank of an offset. -/
def hamperBank (swz h : Nat) : Nat := if swz ≤ 5 then h / 64 % 8 ^^^ (h / 2 ^ (swz + 7) % 8) else h / 64 % 8

theorem hamperPlace_eq (swz h : Nat) : hamperPlace swz h = hamperBank swz h * 16384 + h / 512 % 256 * 64 + h % 64 := rfl

theorem hamperBank_lt (swz h : Nat) : hamperBank swz h < 8 := by
  unfold hamperBank
  split
  · exact Nat.xor_lt_two_pow (n := 3) (Nat.mod_lt _ (by decide)) (Nat.mod_lt _ (by decide))
  · exact Nat.mod_lt _ (by decide)

/-- In one row the bank tells columns apart: the bits that the swizzle brings in are the row's, but for the lowest swizzles, whose
bits stand above those that they change. -/
theorem column_of_bank {swz a b : Nat} (hr : a / 512 = b / 512) (h : hamperBank swz a = hamperBank swz b) : a / 64 % 8 = b / 64 % 8 := by
  unfold hamperBank at h
  split at h
  · next hs =>
    have low0 : ∀ r < 2, ∀ c < 8, ∀ d < 8, c ^^^ (c / 2 + 4 * r) = d ^^^ (d / 2 + 4 * r) → c = d := by decide
    have low1 : ∀ r < 4, ∀ c < 8, ∀ d < 8, c ^^^ (c / 4 + 2 * r) = d ^^^ (d / 4 + 2 * r) → c = d := by decide
    obtain rfl | rfl | hs : swz = 0 ∨ swz = 1 ∨ 2 ≤ swz := by omega
    · have e : ∀ n, n / 2 ^ (0 + 7) % 8 = n / 64 % 8 / 2 + 4 * (n / 512 % 2) := fun n => by omega
      rw [e, e, hr] at h
      exact low0 _ (Nat.mod_lt _ (by decide)) _ (Nat.mod_lt _ (by decide)) _ (Nat.mod_lt _ (by decide)) h
    · have e : ∀ n, n / 2 ^ (1 + 7) % 8 = n / 64 % 8 / 4 + 2 * (n / 512 % 4) := fun n => by omega
      rw [e, e, hr] at h
      exact low1 _ (Nat.mod_lt _ (by decide)) _ (Nat.mod_lt _ (by decide)) _ (Nat.mod_lt _ (by decide)) h
    · have e : ∀ n, n / 2 ^ (swz + 7) = n / 512 / 2 ^ (swz - 2) := fun n => by
        rw [Nat.div_div_eq_div_mul, show 512 = 2 ^ 9 from rfl, ← Nat.pow_add, show 9 + (swz - 2) = swz + 7 by omega]
      rw [e, e, hr] at h
      exact Nat.xor_left_injective h
  · exact h

/-- Every offset of a hamper has a place of its own. -/
theorem hamperPlace_inj {swz a b : Nat} (ha : a < 131072) (hb : b < 131072) (h : hamperPlace swz a = hamperPlace swz b) : a = b := by
  rw [hamperPlace_eq, hamperPlace_eq] at h
  have h1 := hamperBank_lt swz a
  have h2 := hamperBank_lt swz b
  have hbank : hamperBank swz a = hamperBank swz b := by omega
  have hrow : a / 512 = b / 512 := by omega
  have hcol := column_of_bank hrow hbank
  omega

/-! ### Writes -/

/-- A byte put at its place; zeros are not kept. -/
def putPlace (m : FMap Byte) (q : Nat) (b : Byte) : FMap Byte := if b = 0 then m.erase q else m.set q b

theorem get_erase_same {α : Type} (m : FMap α) (k : Nat) : (m.erase k).get? k = none := by
  induction m with
  | nil => rfl
  | cons e m ih =>
    obtain ⟨j, v⟩ := e
    by_cases h : j = k
    · simp only [FMap.erase, List.filter_cons, h, bne_self_eq_false, Bool.false_eq_true, if_false]
      exact ih
    · simp only [FMap.erase, List.filter_cons, bne_iff_ne, ne_eq, h, not_false_eq_true, if_true, FMap.get?, if_false]
      exact ih

theorem get_erase_other {α : Type} (m : FMap α) {k k' : Nat} (hk : k' ≠ k) : (m.erase k).get? k' = m.get? k' := by
  induction m with
  | nil => rfl
  | cons e m ih =>
    obtain ⟨j, v⟩ := e
    by_cases h : j = k
    · simp only [FMap.erase, List.filter_cons, h, bne_self_eq_false, Bool.false_eq_true, if_false, FMap.get?, if_neg hk.symm]
      exact ih
    · simp only [FMap.erase, List.filter_cons, bne_iff_ne, ne_eq, h, not_false_eq_true, if_true, FMap.get?]
      split
      · rfl
      · exact ih

theorem getD_putPlace_same (m : FMap Byte) (q : Nat) (b : Byte) : (putPlace m q b).getD q 0 = b := by
  unfold putPlace
  split
  · next h => rw [FMap.getD, get_erase_same, h]; rfl
  · exact getD_set_same m q b 0

theorem getD_putPlace_other (m : FMap Byte) {q q' : Nat} (b : Byte) (h : q' ≠ q) : (putPlace m q b).getD q' 0 = m.getD q' 0 := by
  unfold putPlace
  split
  · rw [FMap.getD, get_erase_other m h]; rfl
  · exact getD_set_other m b 0 h

section
variable {place : Nat → Nat}

theorem getD_puts_other {q : Nat} (ps : List (Nat × Byte)) (m : FMap Byte) (h : ∀ p ∈ ps, q ≠ place p.1) :
    (ps.foldl (fun m p => putPlace m (place p.1) p.2) m).getD q 0 = m.getD q 0 := by
  induction ps generalizing m with
  | nil => rfl
  | cons p ps ih =>
    rw [List.foldl_cons, ih _ fun r hr => h r (List.mem_cons_of_mem _ hr), getD_putPlace_other _ _ (h p List.mem_cons_self)]

theorem getD_puts_same {ps : List (Nat × Byte)} {i : Nat} {b : Byte} (m : FMap Byte) (hn : (ps.map fun p => place p.1).Nodup) (h : (i, b) ∈ ps) :
    (ps.foldl (fun m p => putPlace m (place p.1) p.2) m).getD (place i) 0 = b := by
  induction ps generalizing m with
  | nil => cases h
  | cons p ps ih =>
    obtain ⟨hp, hn⟩ := List.nodup_cons.1 hn
    rw [List.foldl_cons]
    rcases List.mem_cons.1 h with rfl | h
    · rw [getD_puts_other ps _ fun r hr he => hp (List.mem_map.2 ⟨r, hr, he.symm⟩), getD_putPlace_same]
    · exact ih _ hn h

end

/-- A write of a hamper: its bytes read back, and every other byte stays. -/
theorem hamper_byte_write (k : Hamper) (a : Nat) (bs : List Byte) (y : Nat) (ha : a + bs.length ≤ 131072) (hy : y < 131072) :
    (k.write a bs).byte y = if a ≤ y ∧ y < a + bs.length then bs.getD (y - a) 0 else k.byte y := by
  have hb : (k.write a bs).byte y =
      (((List.range bs.length).zip bs).foldl (fun m p => putPlace m (hamperPlace k.swz (a + p.1)) p.2) k.bytes).getD (hamperPlace k.swz y) 0 := rfl
  have hi : ∀ p ∈ (List.range bs.length).zip bs, p.1 < bs.length := fun p hp => List.mem_range.1 (List.of_mem_zip hp).1
  rw [hb]
  split
  · next h =>
    obtain ⟨i, rfl⟩ := Nat.exists_eq_add_of_le h.1
    have hl : i < bs.length := by omega
    have hn : (((List.range bs.length).zip bs).map fun p => hamperPlace k.swz (a + p.1)).Nodup := by
      have hm : ((List.range bs.length).zip bs).map (fun p => hamperPlace k.swz (a + p.1)) =
          (List.range bs.length).map fun i => hamperPlace k.swz (a + i) := by
        conv_rhs => rw [← List.map_fst_zip (l₁ := List.range bs.length) (l₂ := bs) (by simp), List.map_map]
        rfl
      rw [hm]
      refine List.Nodup.map_on (fun i hi j hj h => ?_) List.nodup_range
      rw [List.mem_range] at hi hj
      have := hamperPlace_inj (by omega) (by omega) h
      omega
    refine getD_puts_same (place := fun i => hamperPlace k.swz (a + i)) k.bytes hn ?_
    rw [Nat.add_sub_cancel_left]
    refine List.mem_iff_getElem.2 ⟨i, by simpa using hl, ?_⟩
    simp [List.getElem_zip, List.getD_eq_getElem?_getD, hl]
  · next h =>
    refine getD_puts_other (place := fun i => hamperPlace k.swz (a + i)) _ _ fun p hp he => h ?_
    have := hi p hp
    have := hamperPlace_inj hy (by omega) he
    omega

/-! ### Accesses (R104, R108) -/

/-- A value read with its sign is the sign-extended word. -/
theorem readInt_signed (w v : Nat) : (readInt w true v % (2 ^ 32 : Int)).toNat = ((BitVec.ofNat w v).signExtend 32).toNat := by
  rw [BitVec.signExtend, BitVec.toNat_ofInt]
  rfl

/-- An offset with room for an access in a hamper. -/
def inHamper (size : Nat) (e : Int) : Bool := decide (0 ≤ e) && decide (e + size ≤ 131072)

section
variable {s : State} {x : Ctx} {hm : BitVec 4} {size : Nat} {off : Nat → Int} {f : Nat → Nat → (Nat → Nat) → State} {cl n : Nat}

theorem outside_eq (size : Nat) (off : Nat → Int) (l : List Nat) :
    (l.filter fun i => decide (off i < 0) || decide (131072 < off i + size)) = l.filter fun i => !inHamper size (off i) := by
  refine List.filter_congr fun i _ => ?_
  rw [inHamper, Bool.not_and, ← decide_not, ← decide_not]
  simp only [Int.not_le]

theorem hamperAccess_detached (h : s.attached x.g hm.toNat = none) :
    hamperAccess s x hm size off f = s.fault x .hamperDetached x.c.seats (BitVec.ofInt 64 (off (lowSeat x.c.seats))) := by
  rw [hamperAccess, h]; rfl

theorem hamperAccess_outside (h : s.attached x.g hm.toNat = some (cl, n)) (ho : (x.c.seats.filter fun i => !inHamper size (off i)) ≠ []) :
    hamperAccess s x hm size off f = s.fault x .capBound (x.c.seats.filter fun i => !inHamper size (off i))
      (BitVec.ofInt 64 (off (lowSeat (x.c.seats.filter fun i => !inHamper size (off i))))) := by
  rw [hamperAccess, h]
  simp only [outside_eq]
  exact if_pos (by simpa using ho)

theorem none_outside (hi : ∀ i ∈ x.c.seats, inHamper size (off i) = true) : (x.c.seats.filter fun i => !inHamper size (off i)) = [] :=
  List.filter_eq_nil_iff.2 fun i h => by simp [hi i h]

theorem hamperAccess_misaligned (h : s.attached x.g hm.toNat = some (cl, n)) (hi : ∀ i ∈ x.c.seats, inHamper size (off i) = true)
    (hm' : (x.c.seats.filter fun i => off i % (size : Int) != 0) ≠ []) :
    hamperAccess s x hm size off f = s.fault x .misaligned (x.c.seats.filter fun i => off i % (size : Int) != 0)
      (BitVec.ofInt 64 (off (lowSeat (x.c.seats.filter fun i => off i % (size : Int) != 0)))) := by
  rw [hamperAccess, h]
  simp only [outside_eq, none_outside hi]
  exact (if_neg (by simp)).trans (if_pos (by simpa only [Bool.not_eq_true', List.isEmpty_eq_false_iff] using hm'))

theorem hamperAccess_there (h : s.attached x.g hm.toNat = some (cl, n)) (hi : ∀ i ∈ x.c.seats, inHamper size (off i) = true ∧ off i % size = 0)
    (hp : s.matrixPending x.who = false) (hf : s.fenced x.who = false) : hamperAccess s x hm size off f = f cl n fun i => (off i).toNat := by
  have hmis : (x.c.seats.filter fun i => off i % (size : Int) != 0) = [] := List.filter_eq_nil_iff.2 fun i hs => by simp [(hi i hs).2]
  rw [hamperAccess, h]
  simp only [outside_eq, none_outside fun i hs => (hi i hs).1, hmis, hp, hf]
  rfl

end

/-- Steps that agree wherever a condition holds that they keep. -/
theorem foldl_congr_of_inv {α β : Type} {f g : α → β → α} {P : α → Prop} (hg : ∀ a b, P a → P (g a b)) (hfg : ∀ a b, P a → f a b = g a b)
    (l : List β) {a : α} (ha : P a) : l.foldl f a = l.foldl g a := by
  induction l generalizing a with
  | nil => rfl
  | cons b l ih => rw [List.foldl_cons, List.foldl_cons, hfg a b ha, ih (hg a b ha)]

/-- No group waits on a kettle word. -/
def NoKettleWait (s : State) : Prop := ∀ r ∈ s.groups, ∀ a b c, r.2.wait ≠ some (.kwait a b c)

theorem noKettleWait_setHamper {s : State} (h : NoKettleWait s) (cl n : Nat) (k : Hamper) : NoKettleWait (s.setHamper cl n k) := h

theorem hamperStore_of_noWait {s : State} (h : NoKettleWait s) (cl n off : Nat) (bs : List Byte) :
    s.hamperStore cl n off bs = s.setHamper cl n ((s.hamper cl n).write off bs) := by
  have hn := noKettleWait_setHamper h cl n ((s.hamper cl n).write off bs)
  have hw : ∀ l : List Nat, l.foldl (fun (s : State) w => s.wakeKettle cl n (8 * w)) (s.setHamper cl n ((s.hamper cl n).write off bs)) =
      l.foldl (fun s _ => s) (s.setHamper cl n ((s.hamper cl n).write off bs)) := fun l =>
    foldl_congr_of_inv (P := NoKettleWait) (fun _ _ h => h) (fun t w ht => wakeKettle_of_noWait ht cl n (8 * w)) l hn
  exact (hw _).trans (foldl_keeps id (fun _ _ => rfl) _ _)

theorem mapWord_toNat_of_entry {s : State} {g : Group} {q : Nat} {t : Team} {e : MapEntry} (ht : s.teamOf g = some t) (he : s.mapEntry g q = some e) :
    (s.mapWord g q).toNat = (match e.hamper with
      | some m => 2 ^ 31 + e.gv.toNat * 2 ^ 30 + m * 2 ^ 25 + 2 ^ 24 + (s.hamper t.cluster m).swz * 2 ^ 16
      | none => 2 ^ 24) % 2 ^ 32 := by
  rw [State.mapWord, ht, he]
  cases he : e.hamper <;> simp only [he, BitVec.toNat_ofNat]

theorem mapWord_of_none {s : State} {g : Group} {q : Nat} (he : s.mapEntry g q = none) : s.mapWord g q = 0 := by
  rw [State.mapWord, he]
  cases s.teamOf g <;> rfl

section
variable {s : State} {x : Ctx} (h : Hdr) (d : BitVec 7) (hm : BitVec 4) (off : BitVec 7) (imm : BitVec 5)

/-- The operands of HGET and HPUT. -/
def hamperOpds (h : Hdr) (d off : BitVec 7) : List Opd := [opd off .w32, opd d (widthOfBytes (sizeBytes 4 h.size))]

/-- What HGET does once its operands are ready (R108). -/
def hgetAt (s : State) (x : Ctx) (h : Hdr) (d : BitVec 7) (cl n : Nat) (a : Nat → Nat) : State :=
  let size := sizeBytes 4 h.size
  let k := s.hamper cl n
  let bad := x.c.seats.filter fun i => k.isPoisoned (a i) size
  if !bad.isEmpty then s.fault x .poison bad (BitVec.ofNat 64 (a (lowSeat bad) / 8 * 8))
  else
    let read := fun i =>
      let v := leNat (k.read (a i) size)
      if h.size = 6 then (readInt 8 true v % (2 ^ 32 : Int)).toNat
      else if h.size = 7 then (readInt 16 true v % (2 ^ 32 : Int)).toNat else v
    s.retire x h (x.dst h.n d (widthOfBytes size) read)

/-- What HPUT does then. -/
def hputAt (s : State) (x : Ctx) (h : Hdr) (d : BitVec 7) (cl n : Nat) (a : Nat → Nat) : State :=
  let size := sizeBytes 4 h.size
  ((x.g.byLogical x.c.seats).foldl (fun (s : State) i =>
    s.hamperStore cl n (a i) (leBytes size (x.srcN i d (widthOfBytes size)))) s).retire x h x.g

theorem hget_of_free (hf : Free s x (hamperOpds h d off) [opd off .w32]) (hs : x.solo = false) :
    exec (.hget h d hm off imm) s =
      .next (hamperAccess s x hm (sizeBytes 4 h.size) (hamperOffset x h off imm (sizeBytes 4 h.size)) (hgetAt s x h d)) :=
  (notSolo_of_group hf.issuer hs _).trans (withOps_of_free hf)

theorem hput_of_free (hf : Free s x (hamperOpds h d off)) (hs : x.solo = false) :
    exec (.hput h d hm off imm) s =
      .next (hamperAccess s x hm (sizeBytes 4 h.size) (hamperOffset x h off imm (sizeBytes 4 h.size)) (hputAt s x h d)) :=
  (notSolo_of_group hf.issuer hs _).trans (withOps_of_free hf)

/-- What the checks make of HGET they make of HPUT. -/
theorem hamper_both (hf : Free s x (hamperOpds h d off)) (hs : x.solo = false) {t : State}
    (ht : ∀ f, hamperAccess s x hm (sizeBytes 4 h.size) (hamperOffset x h off imm (sizeBytes 4 h.size)) f = t) :
    exec (.hget h d hm off imm) s = .next t ∧ exec (.hput h d hm off imm) s = .next t :=
  ⟨(hget_of_free h d hm off imm (free_mono hf (List.Subset.refl _) (by simp [hamperOpds])) hs).trans (congrArg _ (ht _)),
    (hput_of_free h d hm off imm hf hs).trans (congrArg _ (ht _))⟩

/-- What HGET writes in a lane (R108). -/
def hgetValue (h : Hdr) (k : Hamper) (a : Nat) : Nat :=
  let v := leNat (k.read a (sizeBytes 4 h.size))
  if h.size = 6 then ((BitVec.ofNat 8 v).signExtend 32).toNat else if h.size = 7 then ((BitVec.ofNat 16 v).signExtend 32).toNat else v

theorem hgetAt_lands {cl n : Nat} {a : Nat → Nat} (hk : ∀ i ∈ x.c.seats, (s.hamper cl n).isPoisoned (a i) (sizeBytes 4 h.size) = false) :
    Lands (.next (hgetAt s x h d cl n a)) s x.who
      (wrote x h d (widthOfBytes (sizeBytes 4 h.size)) fun i => hgetValue h (s.hamper cl n) (a i)) := by
  have hb : (x.c.seats.filter fun i => (s.hamper cl n).isPoisoned (a i) (sizeBytes 4 h.size)) = [] :=
    List.filter_eq_nil_iff.2 fun i hi => by simp [hk i hi]
  simp only [hgetAt, hb, readInt_signed]
  exact retire_lands s x h _

theorem hputAt_lands (hw : NoKettleWait s) (cl n : Nat) (a : Nat → Nat) :
    Lands (.next (hputAt s x h d cl n a))
      ((x.g.byLogical x.c.seats).foldl (fun (s : State) i => s.setHamper cl n ((s.hamper cl n).write (a i)
        (leBytes (sizeBytes 4 h.size) (x.srcN i d (widthOfBytes (sizeBytes 4 h.size)))))) s) x.who (x.advance x.g) := by
  have hfold : ∀ l : List Nat, l.foldl (fun (s : State) i => s.hamperStore cl n (a i)
        (leBytes (sizeBytes 4 h.size) (x.srcN i d (widthOfBytes (sizeBytes 4 h.size))))) s =
      l.foldl (fun (s : State) i => s.setHamper cl n ((s.hamper cl n).write (a i)
        (leBytes (sizeBytes 4 h.size) (x.srcN i d (widthOfBytes (sizeBytes 4 h.size)))))) s := fun l =>
    foldl_congr_of_inv (P := NoKettleWait) (fun _ _ h => noKettleWait_setHamper h cl n _) (fun t i ht => hamperStore_of_noWait ht cl n _ _) l hw
  simp only [hputAt, hfold]
  exact retire_lands _ x h x.g

end

/-- Settles O25: the order of R104's causes is the model's chain of tests, and the places of R228 are all different. -/
theorem hamperAccesses : Obligations.HamperAccesses := by
  unfold Obligations.HamperAccesses
  intro h d hm pa qa off g imm s x cl n t e
  refine ⟨?_, ?_, ?_, ?_, ?_, hamper_byte_write, ?_, ?_⟩
  · rintro ⟨hf, hs, ha⟩ hi hp hw hk
    rw [hget_of_free h d hm off imm hf hs, hamperAccess_there (off := hamperOffset x h off imm _) ha hi hp hw]
    exact hgetAt_lands h d hk
  · rintro ⟨hf, hs, ha⟩ hi hp hw hk
    rw [hput_of_free h d hm off imm hf hs, hamperAccess_there (off := hamperOffset x h off imm _) ha hi hp hw]
    exact hputAt_lands h d hk cl n _
  · intro hf hs ha
    exact hamper_both h d hm off imm hf hs fun f => hamperAccess_detached ha
  · rintro ⟨hf, hs, ha⟩ ho
    exact hamper_both h d hm off imm hf hs fun f => hamperAccess_outside ha ho
  · rintro ⟨hf, hs, ha⟩ hi hmis
    exact hamper_both h d hm off imm hf hs fun f => hamperAccess_misaligned ha hi hmis
  · intro hf hs
    have hr : exec (.hmapr h pa qa false g) s = .next (s.retire x h (x.dst h.n g .w32 fun _ => (s.mapWord x.g qa.toNat).toNat)) :=
      (notSolo_of_group hf.issuer hs _).trans (withOps_of_free hf)
    rw [hr]
    refine ⟨fun ⟨ht, he⟩ => ?_, fun he => ?_⟩
    · rw [mapWord_toNat_of_entry ht he]
      exact retire_lands s x h _
    · rw [mapWord_of_none he]
      exact retire_lands s x h _
  · rintro hf hs ⟨ht, he⟩ m hm
    refine (congrArg (Lands · s x.who _) ((notSolo_of_group hf.issuer hs _).trans (withOps_of_free hf))).mpr ?_
    simp only [ht, he, hm, Option.bind_some]
    exact retire_lands s x h _

end Sys2Proof.Proofs
end

section
/-! PROOFS. Map entries (R103) and gives (R106, R107, R259). -/

namespace Sys2Proof.Proofs

open Sys2Proof Sys2Proof.Machine Sys2Proof.Safety Sys2Proof.Laws

/-! ### Map entries -/

theorem entry_index {t : Team} {tc q : Nat} {e : MapEntry} (h : t.entry tc q = some e) : e.index = q := by
  simpa using List.find?_some h

/-- The map entries of a team after one has been set. -/
theorem entry_setEntry (t : Team) (tc tc' q : Nat) (e : MapEntry) :
    (t.setEntry tc e).entry tc' q = if tc' = tc ∧ q = e.index then (t.entry tc q).map (fun _ => e) else t.entry tc' q := by
  have hm : (t.setEntry tc e).maps.getD tc' [] =
      if tc' = tc then (t.maps.getD tc []).map (fun f => if f.index == e.index then e else f) else t.maps.getD tc' [] := by
    simp only [Team.setEntry, List.getD_eq_getElem?_getD, List.getElem?_modify]
    by_cases h : tc = tc'
    · subst h
      cases t.maps[tc]? <;> simp
    · simp [h, Ne.symm h]
  have hp : (fun f : MapEntry => f.index == q) ∘ (fun f => if f.index == e.index then e else f) = fun f => f.index == q := by
    funext f
    simp only [Function.comp]
    split
    · next h => rw [beq_iff_eq.1 h]
    · rfl
  unfold Team.entry
  rw [hm]
  by_cases h : tc' = tc
  · subst h
    rw [if_pos rfl, List.find?_map, hp]
    cases hf : (t.maps.getD tc' []).find? fun f => f.index == q with
    | none => simp
    | some f =>
      have hi : f.index = q := by simpa using List.find?_some hf
      by_cases hq : q = e.index <;> simp [hi, hq]
  · rw [if_neg h, if_neg fun hc => h hc.1]

theorem entry_setEntry_same {t : Team} {tc : Nat} {e : MapEntry} (h : (t.entry tc e.index).isSome = true) :
    (t.setEntry tc e).entry tc e.index = some e := by
  obtain ⟨d, hd⟩ := Option.isSome_iff_exists.1 h
  rw [entry_setEntry, if_pos ⟨rfl, rfl⟩, hd]
  rfl

theorem entry_setEntry_isSome (t : Team) (tc tc' q : Nat) (e : MapEntry) : ((t.setEntry tc e).entry tc' q).isSome = (t.entry tc' q).isSome := by
  rw [entry_setEntry]
  split
  · next h => rw [Option.isSome_map, h.1]
  · rfl

/-! ### Hampers -/

@[simp] theorem hamper_setHamper (s : State) (cl n : Nat) (k : Hamper) : (s.setHamper cl n k).hamper cl n = k := by
  simp [State.hamper, State.setHamper, State.setCluster, State.cluster]

/-! ### Gives -/

/-- The drain set of a give is empty, the giver's accesses are performed, and no postcard of the giver to that name has still to be
routed (R107, R335). -/
def GiveDue (s : State) (gi : Nat) (t : Team) (w : Give) : Prop :=
  s.drained t.cluster w.hamper = true ∧ s.unperformed (.grp gi) = false ∧
    ∀ m ∈ s.msgs, ∀ r c card, m.2 ≠ .post (.here (.grp gi) r c) w.name card

theorem unrouted_eq_false {s : State} {w : Who} {a b : Nat} {name : Dword} :
    s.unrouted (.here w a b) name none = false ↔ ∀ m ∈ s.msgs, ∀ r c card, m.2 ≠ .post (.here w r c) name card := by
  simp only [State.unrouted, List.any_eq_false, Option.all_none, Bool.true_and]
  refine forall₂_congr fun m _ => ⟨fun h r c card he => ?_, fun h => ?_⟩
  · rw [he] at h
    simp [Sender.same] at h
  · split
    · next v n card he =>
      cases v with
      | here v r c =>
        simp only [Sender.same, Bool.and_eq_true, beq_iff_eq]
        rintro ⟨rfl, rfl⟩
        exact h r c card he
      | far _ _ => simp [Sender.same]
    · simp

section
variable {s : State} {gi : Nat} {t : Team} {v : Group} {w : Give}

theorem giveDue_iff : GiveDue s gi t w ↔
    (s.drained t.cluster w.hamper && !s.unperformed (.grp gi) && !s.unrouted (.here (.grp gi) 0 0) w.name none) = true := by
  rw [GiveDue, ← unrouted_eq_false (a := 0) (b := 0)]
  simp [and_assoc]

theorem waits_of_wait (hw : v.wait = some (.hgive w)) : v.waits.filterMap Wait.give = w :: (v.trapSave.bind fun q => q.wait).toList.filterMap Wait.give := by
  rw [Group.waits, hw]; rfl

theorem giveOver_of_due (hw : v.wait = some (.hgive w)) (ht : s.teamOf v = some t) (hd : GiveDue s gi t w) : s.giveOver gi v = some (w, t) := by
  rw [State.giveOver, ht]
  simp only [waits_of_wait hw, List.find?_cons, giveDue_iff.1 hd]
  rfl

theorem giveOver_of_not_due (hw : v.wait = some (.hgive w)) (hq : (v.trapSave.bind fun q => q.wait) = none) (ht : s.teamOf v = some t)
    (hd : ¬GiveDue s gi t w) : s.giveOver gi v = none := by
  rw [giveDue_iff, Bool.not_eq_true] at hd
  rw [State.giveOver, ht]
  simp only [waits_of_wait hw, hq, Option.toList_none, List.filterMap_nil, List.find?_cons, hd, List.find?_nil]
  rfl

/-- The state in which a give ends: the home core of its name has answered (R335, R412). -/
def giveAnswered (s : State) (gi : Nat) (w : Give) : State :=
  (s.cross (s.dieOf (.grp gi)) ((nameCore w.name).elim (s.dieOf (.grp gi)) coreDie)).cross
    ((nameCore w.name).elim (s.dieOf (.grp gi)) coreDie) (s.dieOf (.grp gi))

theorem cross_keeps {α : Type} {f : State → α} (hf : ∀ (t : State) c, f { t with cseq := c } = f t) (s : State) (a b : Nat) :
    f (s.cross a b) = f s := by
  unfold State.cross State.heard
  split
  · rfl
  · exact hf s _

theorem giveAnswered_keeps {α : Type} {f : State → α} (hf : ∀ (t : State) c, f { t with cseq := c } = f t) (s : State) (gi : Nat) (w : Give) :
    f (giveAnswered s gi w) = f s := (cross_keeps hf _ _ _).trans (cross_keeps hf _ _ _)

theorem hgiveComplete_of_due (hg : s.groups.get? gi = some v) (hw : v.wait = some (.hgive w)) (ht : s.teamOf v = some t) (hd : GiveDue s gi t w)
    (hn : s.nameHere w.name = true) : exec (.hgiveComplete gi) s =
      .next ((giveAnswered s gi w).endGive gi v t w (s.giveTarget t.cluster w).1 (s.giveTarget t.cluster w).2) := by
  have hs : s.giveStatus gi t.cluster w = (some (s.giveTarget t.cluster w), giveAnswered s gi w) := by
    rw [State.giveStatus, if_pos hn]; rfl
  refine congrArg Host.Outcome.next ?_
  simp only [hg, giveOver_of_due hw ht hd, hs]

end

/-! ### What a give that has ended leaves -/

section
variable {s : State} {gi : Nat} {v : Group} {t : Team} {w : Give}

theorem answer_waits (hw : v.wait = some (.hgive w)) (status now : Nat) :
    (v.answer (.hgive w) status now).wait = none ∧ (v.answer (.hgive w) status now).waitDone = some status := by
  simp [Group.answer, Group.endWait, hw]

theorem modGroup_grp {s : State} {gi : Nat} {v : Group} (h : s.groups.get? gi = some v) (f : Group → Group) :
    s.modGroup (.grp gi) f = { s with groups := s.groups.set gi (f v) } := by
  rw [State.modGroup, show s.group? (.grp gi) = some v from h]
  rfl

/-- The giver's own entry as a give leaves it (R106). -/
def keptEntry (w : Give) (status : Nat) : MapEntry := ⟨w.entry, if status = 0 then none else some w.hamper, false⟩

theorem setMapEntry_of_team (ht : s.teamOf v = some t) (e : MapEntry) :
    s.setMapEntry v e = { s with teams := s.teams.set v.team (t.setEntry v.tcore e) } := by
  rw [State.setMapEntry, ht]

/-- The state before the giver takes its answer: its entry without GV, and the hamper (R106, R324). -/
def heldBack (s : State) (v : Group) (t : Team) (w : Give) (status : Nat) (k : Hamper) : State :=
  { s.setHamper t.cluster w.hamper k with teams := s.teams.set v.team (t.setEntry v.tcore (keptEntry w status)) }

theorem endGive_none (ht : s.teamOf v = some t) (status : Nat) :
    s.endGive gi v t w status none = (heldBack s v t w status { s.hamper t.cluster w.hamper with giving := false }).modGroup (.grp gi)
      fun v => v.answer (.hgive w) status s.now := by
  rw [State.endGive]
  simp only [setMapEntry_of_team ht]
  rfl

theorem endGive_some (ht : s.teamOf v = some t) (status : Nat) {tn tc : Nat} {u : Team}
    (hu : (s.teams.set v.team (t.setEntry v.tcore (keptEntry w status))).get? tn = some u) :
    s.endGive gi v t w status (some (tn, tc)) =
      { heldBack s v t w status { s.hamper t.cluster w.hamper with giving := false, team := some tn } with
        teams := (s.teams.set v.team (t.setEntry v.tcore (keptEntry w status))).set tn (u.setEntry tc ⟨w.target, some w.hamper, false⟩) }.modGroup
        (.grp gi) fun v => v.answer (.hgive w) status s.now := by
  rw [State.endGive]
  simp only [setMapEntry_of_team ht]
  split
  · next u' hu' =>
    obtain rfl : u' = u := Option.some.inj (hu'.symm.trans hu)
    rfl
  · next hn => cases hn.symm.trans hu

theorem modGroup_answer (hg : s.groups.get? gi = some v) (hw : v.wait = some (.hgive w)) (status now : Nat) :
    ∃ v', (s.modGroup (.grp gi) fun v => v.answer (.hgive w) status now).groups.get? gi = some v' ∧ v'.wait = none ∧ v'.waitDone = some status := by
  rw [modGroup_grp hg]
  exact ⟨_, get_set_same _ _ _, answer_waits hw status now⟩

theorem modGroup_teams (s : State) (d : Who) (f : Group → Group) : (s.modGroup d f).teams = s.teams := by
  unfold State.modGroup
  split
  · rfl
  · exact setGroup_teams _ _ _

theorem modGroup_hamper (s : State) (d : Who) (f : Group → Group) (cl n : Nat) : (s.modGroup d f).hamper cl n = s.hamper cl n := by
  have hc : (s.modGroup d f).clusters = s.clusters := by
    unfold State.modGroup
    split
    · rfl
    · exact setGroup_clusters _ _ _
  rw [State.hamper, State.cluster, hc]
  rfl

theorem mapEntry_of_team {u : State} {g : Group} {t' : Team} (h : u.teams.get? g.team = some t') (q : Nat) : u.mapEntry g q = t'.entry g.tcore q := by
  rw [State.mapEntry, State.teamOf, h]
  rfl

/-- A give that is refused: the hamper stays, its entry without GV, and the giver has the status. -/
theorem endGive_refused (hg : s.groups.get? gi = some v) (ht : s.teamOf v = some t) (hw : v.wait = some (.hgive w)) {status : Nat} (h0 : status ≠ 0) :
    (∃ v', (s.endGive gi v t w status none).groups.get? gi = some v' ∧ v'.wait = none ∧ v'.waitDone = some status) ∧
    ((s.mapEntry v w.entry).isSome = true → (s.endGive gi v t w status none).mapEntry v w.entry = some ⟨w.entry, some w.hamper, false⟩) := by
  rw [endGive_none ht]
  refine ⟨modGroup_answer (s := heldBack s v t w status _) hg hw status s.now, fun he => ?_⟩
  rw [mapEntry_of_team ht] at he
  rw [mapEntry_of_team (t' := t.setEntry v.tcore (keptEntry w status)) (by rw [modGroup_teams]; exact get_set_same _ _ _)]
  refine (entry_setEntry_same he).trans ?_
  rw [keptEntry, if_neg h0]

/-- A give that succeeds: the hamper lies at the entry named, and the giver's entry is empty. -/
theorem endGive_given (hg : s.groups.get? gi = some v) (ht : s.teamOf v = some t) (hw : v.wait = some (.hgive w)) {tg : Group} {tt : Team}
    {d : MapEntry} (htt : s.teams.get? tg.team = some tt) (hd : tt.entry tg.tcore w.target = some d) :
    (∃ v', (s.endGive gi v t w 0 (some (tg.team, tg.tcore))).groups.get? gi = some v' ∧ v'.wait = none ∧ v'.waitDone = some 0) ∧
    (∃ tt', (s.endGive gi v t w 0 (some (tg.team, tg.tcore))).teams.get? tg.team = some tt' ∧
      tt'.entry tg.tcore w.target = some ⟨w.target, some w.hamper, false⟩) ∧
    (s.endGive gi v t w 0 (some (tg.team, tg.tcore))).hamper t.cluster w.hamper =
      { s.hamper t.cluster w.hamper with giving := false, team := some tg.team } ∧
    ((tg.team ≠ v.team ∨ tg.tcore ≠ v.tcore ∨ w.target ≠ w.entry) → (s.mapEntry v w.entry).isSome = true →
      (s.endGive gi v t w 0 (some (tg.team, tg.tcore))).mapEntry v w.entry = some ⟨w.entry, none, false⟩) := by
  have hu : ∃ u, (s.teams.set v.team (t.setEntry v.tcore (keptEntry w 0))).get? tg.team = some u ∧ (u.entry tg.tcore w.target).isSome = true ∧
      (tg.team = v.team → u = t.setEntry v.tcore (keptEntry w 0)) := by
    by_cases h : tg.team = v.team
    · have hte : tt = t := Option.some.inj ((h ▸ htt).symm.trans ht)
      refine ⟨_, h ▸ get_set_same _ _ _, ?_, fun _ => rfl⟩
      rw [entry_setEntry_isSome, ← hte, hd]
      rfl
    · exact ⟨tt, (get_set_other _ _ h).trans htt, by rw [hd]; rfl, fun h' => absurd h' h⟩
  obtain ⟨u, hu, hue, huv⟩ := hu
  rw [endGive_some ht 0 hu]
  refine ⟨modGroup_answer (s := { heldBack s v t w 0 _ with teams := _ }) hg hw 0 s.now,
    ⟨u.setEntry tg.tcore ⟨w.target, some w.hamper, false⟩, ?_, entry_setEntry_same hue⟩, ?_, fun hne he => ?_⟩
  · rw [modGroup_teams]; exact get_set_same _ _ _
  · rw [modGroup_hamper]; exact hamper_setHamper _ _ _ _
  · rw [mapEntry_of_team ht] at he
    have hgiver : (t.setEntry v.tcore (keptEntry w 0)).entry v.tcore w.entry = some ⟨w.entry, none, false⟩ := entry_setEntry_same he
    by_cases h : tg.team = v.team
    · rw [mapEntry_of_team (t' := u.setEntry tg.tcore ⟨w.target, some w.hamper, false⟩)
        (by rw [modGroup_teams, ← h]; exact get_set_same _ _ _), entry_setEntry, if_neg, huv h, hgiver]
      rintro ⟨h1, h2⟩
      rcases hne with hne | hne | hne
      · exact hne h
      · exact hne h1.symm
      · exact hne h2.symm
    · rw [mapEntry_of_team (t' := t.setEntry v.tcore (keptEntry w 0))
        (by rw [modGroup_teams]; exact (get_set_other _ _ (Ne.symm h)).trans (get_set_same _ _ _)), hgiver]

end

/-! ### HGIVE -/

section
variable {s : State} {x : Ctx} {t : Team} {e : MapEntry} {core : Nat} (h : Hdr) (p q k : BitVec 4) (g : BitVec 7)

/-- HGIVE once its operands are ready (R106). -/
def hgiveAt (h : Hdr) (p q k : BitVec 4) (g : BitVec 7) (s : State) (x : Ctx) : State :=
  match x.g.waitDone with
  | some st => s.done x (x.advance ({ x with g := { x.g with waitDone := none } }.dstS h.n k.toNat .w32 st)) true
  | none =>
    match s.teamOf x.g, s.mapEntry x.g p.toNat, s.coreOf x.who with
    | some t, some e, some core =>
      match e.hamper with
      | some n =>
        if e.gv then s.fault x .hamperDetached x.c.seats 0 else
        let s := s.setMapEntry x.g { e with gv := true }
        let s := s.setHamper t.cluster n { s.hamper t.cluster n with giving := true }
        s.leave x x.g (.hgive ⟨core, p.toNat, n, q.toNat, x.uni64 g, k.toNat⟩)
      | none => s.fault x .hamperDetached x.c.seats 0
    | _, _, _ => s.fault x .hamperDetached x.c.seats 0

theorem hgive_of_free (hf : Free s x [opd g .w64, (BitVec.ofNat 7 (96 + k.toNat), 1)] (lanes := x.readers)) (hs : x.solo = false)
    (htx : ∀ i ∈ x.c.seats, (x.g.lane i).tx = none) : exec (.hgive h p q k g) s = .next (hgiveAt h p q k g s x) :=
  coreOp_of_free (os := fun _ => [opd g .w64, sOpd k .w32]) hf hs htx

/-- GV of an entry and of its hamper are set (R106). -/
def giving (s : State) (v : Group) (t : Team) (e : MapEntry) (n : Nat) : State :=
  { s with teams := s.teams.set v.team (t.setEntry v.tcore { e with gv := true }) }.setHamper t.cluster n { s.hamper t.cluster n with giving := true }

theorem hgiveAt_gives {n : Nat} (hw : x.g.waitDone = none) (ht : s.teamOf x.g = some t) (he : s.mapEntry x.g p.toNat = some e)
    (hc : s.coreOf x.who = some core) (hn : e.hamper = some n) (hgv : e.gv = false) : hgiveAt h p q k g s x =
      (giving s x.g t e n).leave x x.g (.hgive ⟨core, p.toNat, n, q.toNat, x.uni64 g, k.toNat⟩) := by
  obtain ⟨i, m, gv⟩ := e
  obtain rfl : m = some n := hn
  obtain rfl : gv = false := hgv
  simp only [hgiveAt, hw, ht, he, hc, setMapEntry_of_team ht]
  rfl

theorem hgiveAt_detached (hw : x.g.waitDone = none) (ht : s.teamOf x.g = some t) (he : s.mapEntry x.g p.toNat = some e)
    (hc : s.coreOf x.who = some core) (hb : e.hamper = none ∨ e.gv = true) : hgiveAt h p q k g s x = s.fault x .hamperDetached x.c.seats 0 := by
  simp only [hgiveAt, hw, ht, he, hc]
  split
  · next hn =>
    rcases hb with hb | hb
    · cases hb.symm.trans hn
    · exact if_pos hb
  · rfl

end

section
variable {s : State} {w : Give} {gn cl : Nat} {ne : NameEntry} {tg : Group} {tt : Team} (hl : s.lookupName w.name = some (gn, ne))
  (hg : s.groups.get? gn = some tg) (ht : s.teams.get? tg.team = some tt) (hend : tg.ended = false)
include hl hg ht hend

theorem giveTarget_elsewhere (hc : tt.cluster ≠ cl) : s.giveTarget cl w = (3, none) := by
  simp [State.giveTarget, hl, hg, ht, hend, hc]

theorem giveTarget_taken (hc : tt.cluster = cl)
    (hb : tt.entry tg.tcore w.target = none ∨ ∃ d, tt.entry tg.tcore w.target = some d ∧ d.hamper ≠ none) : s.giveTarget cl w = (1, none) := by
  rcases hb with hb | ⟨d, hd, hh⟩
  · simp [State.giveTarget, hl, hg, ht, hend, hc, hb]
  · simp [State.giveTarget, hl, hg, ht, hend, hc, hd, Option.isSome_iff_ne_none, hh]

theorem giveTarget_free (hc : tt.cluster = cl) {d : MapEntry} (hd : tt.entry tg.tcore w.target = some d) (hh : d.hamper = none) :
    s.giveTarget cl w = (0, some (tg.team, tg.tcore)) := by
  simp [State.giveTarget, hl, hg, ht, hend, hc, hd, hh]

end

/-- Settles O29: a give that ends is one change of teams, hampers and groups, whose entries read back; what is due is the search of the
group's waits. -/
theorem hampersAreGiven : Obligations.HampersAreGiven := by
  unfold Obligations.HampersAreGiven
  intro h p q k g s x core n st gi t e v w
  have refused : s.groups.get? gi = some v → v.wait = some (.hgive w) → s.teamOf v = some t → GiveDue s gi t w → s.nameHere w.name = true →
      ∀ status ≠ 0, s.giveTarget t.cluster w = (status, none) → ∃ u, exec (.hgiveComplete gi) s = .next u ∧
        (∃ v', u.groups.get? gi = some v' ∧ v'.wait = none ∧ v'.waitDone = some status) ∧
        ((s.mapEntry v w.entry).isSome = true → u.mapEntry v w.entry = some ⟨w.entry, some w.hamper, false⟩) := by
    intro hg hw ht hd hn status h0 hst
    have := endGive_refused (s := giveAnswered s gi w) (gi := gi) (status := status) ((giveAnswered_keeps (f := fun s => s.groups.get? gi) (fun _ _ => rfl) s gi w).trans hg)
      ((giveAnswered_keeps (f := fun s => s.teamOf v) (fun _ _ => rfl) s gi w).trans ht) hw h0
    rw [giveAnswered_keeps (f := fun s => s.mapEntry v w.entry) (fun _ _ => rfl)] at this
    refine ⟨_, hgiveComplete_of_due hg hw ht hd hn, ?_⟩
    rw [hst]
    exact this
  refine ⟨?_, ?_, ?_, ?_, ?_, ?_⟩
  · rintro ⟨hf, hs, -, htx, ht, he, hc⟩ hw hn hgv
    rw [hgive_of_free h p q k g hf hs htx, hgiveAt_gives h p q k g hw ht he hc hn hgv]
    have hx : (giving s x.g t e n).group? x.who = some x.g := by
      have := group_of_ctx hf.issuer
      cases hwho : x.who <;> rw [hwho] at this <;> exact this
    have hix : e.index = p.toNat := entry_index ((mapEntry_of_team ht _).symm.trans he)
    have hsome : (t.entry x.g.tcore e.index).isSome = true := by rw [hix, ← mapEntry_of_team ht, he]; rfl
    refine ends_of_lands (leave_lands (giving s x.g t e n) x x.g _) hx fun g' more _ => ?_
    have hm : (giving s x.g t e n).mapEntry x.g p.toNat = some { e with gv := true } := by
      rw [mapEntry_of_team (t' := t.setEntry x.g.tcore { e with gv := true }) (get_set_same _ _ _), ← hix]
      exact entry_setEntry_same hsome
    have hk : (giving s x.g t e n).hamper t.cluster n = { s.hamper t.cluster n with giving := true } := hamper_setHamper _ _ _ _
    have hgiving : ((giving s x.g t e n).hamper t.cluster n).giving = true := by rw [hk]
    have hbytes : ((giving s x.g t e n).hamper t.cluster n).bytes = (s.hamper t.cluster n).bytes := by rw [hk]
    cases x.who <;> exact ⟨hm, hgiving, hbytes⟩
  · rintro ⟨hf, hs, -, htx, ht, he, hc⟩ hw hb
    rw [hgive_of_free h p q k g hf hs htx, hgiveAt_detached h p q k g hw ht he hc hb]
  · rintro ⟨hf, hs, -, htx, ht, he, hc⟩ hw
    rw [hgive_of_free h p q k g hf hs htx, hgiveAt, hw]
    exact done_lands s x _ true
  · rintro ⟨hg, hw, ht⟩ hq hd
    refine congrArg Host.Outcome.next ?_
    simp only [hg, giveOver_of_not_due hw hq ht hd]
  · rintro ⟨hg, hw, ht⟩ hd hn hl
    exact refused hg hw ht hd hn 2 (by decide) (by simp [State.giveTarget, hl])
  · rintro ⟨hg, hw, ht⟩ hd hn gn ne tg tt hl hgn htt hend
    refine ⟨fun hc => refused hg hw ht hd hn 3 (by decide) (giveTarget_elsewhere hl hgn htt hend hc), fun hc => ⟨fun hb =>
      refused hg hw ht hd hn 1 (by decide) (giveTarget_taken hl hgn htt hend hc hb), fun d hde hh => ?_⟩⟩
    have := endGive_given (s := giveAnswered s gi w) (gi := gi) (v := v) (t := t) (w := w) (tg := tg) (tt := tt)
      ((giveAnswered_keeps (f := fun s => s.groups.get? gi) (fun _ _ => rfl) s gi w).trans hg)
      ((giveAnswered_keeps (f := fun s => s.teamOf v) (fun _ _ => rfl) s gi w).trans ht) hw
      ((giveAnswered_keeps (f := fun s => s.teams.get? tg.team) (fun _ _ => rfl) s gi w).trans htt) hde
    rw [giveAnswered_keeps (f := fun s => s.mapEntry v w.entry) (fun _ _ => rfl),
      giveAnswered_keeps (f := fun s => s.hamper t.cluster w.hamper) (fun _ _ => rfl)] at this
    obtain ⟨hgiver, hto, hk, hown⟩ := this
    refine ⟨_, hgiveComplete_of_due hg hw ht hd hn, ?_⟩
    rw [giveTarget_free hl hgn htt hend hc hde hh]
    exact ⟨hgiver, hto, by rw [hk], by rw [hk], by rw [hk], hown⟩

end Sys2Proof.Proofs
end

section
/-! PROOFS. Accesses of memory (R87, R234, R264, R361): what their bookkeeping leaves still, and the lookups of an access that is
served. -/

namespace Sys2Proof.Proofs

open Sys2Proof Sys2Proof.Machine Sys2Proof.Safety Sys2Proof.Laws

/-! ### What bookkeeping leaves still -/

/-- A state without what the lookups, the directory and the messages of an access change: `bare`, but with the hardware's choices. -/
def still (s : State) : State :=
  { s with extents := [], dir := [], copies := [], dirty := [], badCopies := [], cseq := [], agenda := [], cur := none,
           regs := { s.regs with evcnt := [] } }

theorem bare_of_still {s t : State} (h : still t = still s) : bare t = bare s :=
  congrArg (fun u : State => { u with bits := [], picks := [] }) h

/-- What a function of the state that bookkeeping does not concern gives. -/
theorem of_still {α : Type} (f : State → α) (hf : ∀ u, f (still u) = f u) {s t : State} (h : still t = still s) : f t = f s := by
  rw [← hf t, h, hf]

theorem of_bare {α : Type} (f : State → α) (hf : ∀ u, f (bare u) = f u) {s t : State} (h : bare t = bare s) : f t = f s := by
  rw [← hf t, h, hf]

@[simp] theorem still_heard (s : State) (a b c : Nat) : still (s.heard a b c) = still s := by
  unfold State.heard; split <;> rfl

@[simp] theorem still_cross (s : State) (a b : Nat) : still (s.cross a b) = still s := still_heard s a b _

@[simp] theorem still_count (s : State) (ev n : Nat) : still (s.count ev n) = still s := by
  unfold State.count; split <;> rfl

@[simp] theorem still_setDir (s : State) (l : Nat) (d : DirEntry) : still (s.setDir l d) = still s := rfl

@[simp] theorem still_dropCopy (s : State) (a l : Nat) : still (s.dropCopy a l) = still s := rfl

theorem still_dropCopies (l : List Nat) (line : Nat) (s : State) : still (l.foldl (fun s a => s.dropCopy a line) s) = still s :=
  foldl_keeps still (fun s a => still_dropCopy s a line) l s

@[simp] theorem still_dirRead (s : State) (l : Nat) (r : Option Nat) : still (s.dirRead l r) = still s := by
  cases r with
  | none =>
    simp only [State.dirRead]
    split
    · exact (still_setDir _ _ _).trans (still_count s 3 1)
    · rfl
  | some a =>
    simp only [State.dirRead]
    split
    · rfl
    · refine (still_setDir _ _ _).trans ?_
      split
      · exact still_count s 3 1
      · rfl

@[simp] theorem still_dirWrite (s : State) (l : Nat) (o : Option Nat) : still (s.dirWrite l o) = still s := by
  have told : ∀ to_ : List Nat, still (to_.foldl (fun s a => s.dropCopy a l) (if (s.dirAt l).st == .O then s.count 3 1 else
      (s.count 1 to_.length).count 2 (to_.filter fun a => !s.copies.contains (a, l)).length)) = still s := fun to_ => by
    rw [still_dropCopies]
    split <;> simp
  simp only [State.dirWrite]
  split
  · rfl
  · cases o with
    | none => exact (still_setDir _ _ _).trans (told _)
    | some a =>
      simp only
      split
      · exact (still_setDir _ l { DirEntry.reset with st := .O, ptrs := [a] }).trans (told _)
      · exact (still_setDir _ _ _).trans (told _)

/-! ### Control-core transactions (R318) -/

/-- No control core has a transaction open. -/
def Apart (s : State) : Prop := ∀ e ∈ s.ctls, (e.2.thread.lane 0).tx = none

theorem apart_of_still {s t : State} (h : still t = still s) (ha : Apart s) : Apart t := by
  rw [Apart, of_still State.ctls (fun _ => rfl) h]; exact ha

theorem txConflict_of_apart {s : State} (h : Apart s) (e : Option Nat) (l : Nat) (w : Bool) : s.txConflict e l w = s := by
  have hn : (s.ctls.filter fun q => some q.1 != e && (q.2.conflicts l w || q.2.mayMatch w)) = [] :=
    List.filter_eq_nil_iff.2 fun q hq => by simp [Ctl.conflicts, Ctl.mayMatch, h q hq]
  rw [State.txConflict, hn]
  rfl

/-! ### Directory entries -/

theorem dirAt_setDir (s : State) (l l' : Nat) (d : DirEntry) : (s.setDir l d).dirAt l' = if l' = l then d else s.dirAt l' := by
  unfold State.setDir State.dirAt
  by_cases hd : d = DirEntry.reset
  · by_cases hl : l' = l
    · subst hl; simp [hd, FMap.getD, get_erase_same]
    · simp [hd, hl, FMap.getD, get_erase_other]
  · by_cases hl : l' = l
    · subst hl; simp [hd]
    · simp [hd, hl]

theorem count_dirAt (s : State) (ev n l : Nat) : (s.count ev n).dirAt l = s.dirAt l := by
  unfold State.count; split <;> rfl

/-- A strong read leaves every other entry, and of its own line none that has an owner. -/
theorem dirAt_dirRead_none (s : State) (l l' : Nat) : (s.dirRead l none).dirAt l' = s.dirAt l' ∨
    (((s.dirAt l').busy = false → ((s.dirRead l none).dirAt l').busy = false) ∧ ((s.dirRead l none).dirAt l').st ≠ .O) := by
  simp only [State.dirRead]
  split
  · rw [dirAt_setDir]
    by_cases hl : l' = l
    · subst hl
      right
      rw [if_pos rfl]
      split
      · exact ⟨fun _ => rfl, by decide⟩
      · exact ⟨id, by simp⟩
    · left
      rw [if_neg hl]
      exact count_dirAt s 3 1 l'
  · exact .inl rfl

/-- What holds a line back apart from its entry: marks, steps and a change of the map (R238, R284, R316). -/
def heldBeside (s : State) (l : Nat) (w : Bool) : Bool := ({ s with dir := [] } : State).blocked l w

theorem blocked_eq (s : State) (l : Nat) (w : Bool) : s.blocked l w = ((s.dirAt l).busy || heldBeside s l w) := by
  have h : heldBeside s l w = (false || (s.marks.any fun m => m.line == l && (w || m.writes)) || s.stepHolds l ||
    (match s.change with
     | some c => s.sliceOf l == c.slice
     | none => false)) := rfl
  rw [h, Bool.false_or, ← Bool.or_assoc, ← Bool.or_assoc]
  rfl

theorem heldBeside_of_still {s t : State} (h : still t = still s) (l : Nat) (w : Bool) : heldBeside t l w = heldBeside s l w :=
  of_still (fun u => heldBeside u l w) (fun _ => rfl) h

theorem named_of_still {s t : State} (h : still t = still s) (d : DirEntry) : t.named d = s.named d :=
  of_still (fun u => u.named d) (fun _ => rfl) h

theorem mayTake_iff (s : State) (l : Nat) (w : Bool) (o : Option Nat) :
    s.mayTake l w o = true ↔ (s.dirAt l).busy = false ∧ heldBeside s l w = false ∧ s.slow l w o = [] := by
  simp [State.mayTake, blocked_eq, and_assoc]

/-- A line that may be read strongly now may be so after another strong read. -/
theorem mayTake_mono {s t : State} (h : still t = still s) {l : Nat} (hd : t.dirAt l = s.dirAt l ∨
      (((s.dirAt l).busy = false → (t.dirAt l).busy = false) ∧ (t.dirAt l).st ≠ .O)) (hm : s.mayTake l false none = true) :
    t.mayTake l false none = true := by
  obtain ⟨hb, hh, hs⟩ := (mayTake_iff ..).1 hm
  refine (mayTake_iff ..).2 ⟨?_, (heldBeside_of_still h l false).trans hh, ?_⟩
  · rcases hd with hd | ⟨hd, -⟩
    · rw [hd, hb]
    · exact hd hb
  · rcases hd with hd | ⟨-, hd⟩
    · rw [State.slow, State.toTell, hd, named_of_still h]
      exact hs
    · simp [State.slow, State.toTell, hd]

/-! ### Lookups -/

/-- A state that lookups of an access lead to from another: pages that have an address keep it, and lines that can be read still can. -/
structure Looked (s t : State) : Prop where
  same   : still t = still s
  bad    : t.badCopies = s.badCopies
  takes  : ∀ l, s.mayTake l false none = true → t.mayTake l false none = true
  cached : ∀ k, t.cachedExtent k = none → s.cachedExtent k = none
  peeks  : ∀ k off p, s.peek k off = some p → t.peek k off = some p

theorem Looked.refl (s : State) : Looked s s := ⟨rfl, rfl, fun _ h => h, fun _ h => h, fun _ _ _ h => h⟩

theorem walk_of_still {s t : State} (h : still t = still s) (asn obj page : Nat) : t.walk asn obj page = s.walk asn obj page :=
  of_still (fun u => u.walk asn obj page) (fun _ => rfl) h

theorem peek_of_still {s t : State} (h : still t = still s) (he : t.extents = s.extents) (k : PageKey) (off : Nat) : t.peek k off = s.peek k off := by
  rw [State.peek, State.peek, State.cachedExtent, State.cachedExtent, he, walk_of_still h]

/-- A step that changes no cached translation and makes no line unreadable. -/
theorem Looked.step {s t u : State} (L : Looked s t) (h : still u = still t) (he : u.extents = t.extents) (hb : u.badCopies = t.badCopies)
    (hd : ∀ l, u.dirAt l = t.dirAt l ∨ (((t.dirAt l).busy = false → (u.dirAt l).busy = false) ∧ (u.dirAt l).st ≠ .O)) : Looked s u where
  same := h.trans L.same
  bad := hb.trans L.bad
  takes l hl := mayTake_mono h (hd l) (L.takes l hl)
  cached k hk := L.cached k (by rw [State.cachedExtent, he] at hk; exact hk)
  peeks k off p hp := by rw [peek_of_still h he]; exact L.peeks k off p hp

theorem cross_extents (s : State) (a b : Nat) : (s.cross a b).extents = s.extents := cross_keeps (fun _ _ => rfl) s a b

theorem Looked.cross {s t : State} (L : Looked s t) (a b : Nat) : Looked s (t.cross a b) :=
  L.step (still_cross t a b) (cross_extents t a b) (cross_keeps (f := State.badCopies) (fun _ _ => rfl) t a b)
    fun l => .inl (cross_keeps (f := fun s => s.dirAt l) (fun _ _ => rfl) t a b)

theorem count_keeps {α : Type} {f : State → α} (hf : ∀ (t : State) r, f { t with regs := { t.regs with evcnt := r } } = f t) (s : State) (ev n : Nat) :
    f (s.count ev n) = f s := by
  unfold State.count; split
  · rfl
  · exact hf s _

theorem Looked.count {s t : State} (L : Looked s t) (ev n : Nat) : Looked s (t.count ev n) :=
  L.step (still_count t ev n) (count_keeps (f := State.extents) (fun _ _ => rfl) t ev n) (count_keeps (f := State.badCopies) (fun _ _ => rfl) t ev n)
    fun l => .inl (count_dirAt t ev n l)

theorem dirRead_none_keeps {α : Type} {f : State → α} (hf : ∀ (t : State) r, f { t with regs := { t.regs with evcnt := r } } = f t)
    (hd : ∀ (t : State) m, f { t with dirty := m } = f t) (hr : ∀ (t : State) m, f { t with dir := m } = f t) (s : State) (l : Nat) :
    f (s.dirRead l none) = f s := by
  simp only [State.dirRead]
  split
  · exact (hr _ _).trans ((hd _ _).trans (count_keeps hf s 3 1))
  · rfl

theorem Looked.dirRead {s t : State} (L : Looked s t) (l : Nat) : Looked s (t.dirRead l none) :=
  L.step (still_dirRead t l none) (dirRead_none_keeps (f := State.extents) (fun _ _ => rfl) (fun _ _ => rfl) (fun _ _ => rfl) t l)
    (dirRead_none_keeps (f := State.badCopies) (fun _ _ => rfl) (fun _ _ => rfl) (fun _ _ => rfl) t l) fun l' => dirAt_dirRead_none t l l'

theorem dirRead_none_extents (s : State) (l : Nat) : (s.dirRead l none).extents = s.extents :=
  dirRead_none_keeps (f := State.extents) (fun _ _ => rfl) (fun _ _ => rfl) (fun _ _ => rfl) s l

/-- The reads of a walk of a translation slice on a die. -/
def afterWalk (s : State) (die : Nat) (ls : List Nat) : State :=
  ls.foldl (fun (s : State) l => (((s.cross die (s.lineDie l)).txConflict none l false).dirRead l none).cross (s.lineDie l) die) s

theorem Looked.afterWalk {s t : State} (L : Looked s t) (ha : Apart s) (die : Nat) (ls : List Nat) :
    Looked s (Proofs.afterWalk t die ls) ∧ (Proofs.afterWalk t die ls).extents = t.extents := by
  induction ls generalizing t with
  | nil => exact ⟨L, rfl⟩
  | cons l ls ih =>
    have L1 := L.cross die (t.lineDie l)
    rw [Proofs.afterWalk, List.foldl_cons, txConflict_of_apart (apart_of_still L1.same ha)]
    obtain ⟨h1, h2⟩ := ih ((L1.dirRead l).cross (t.lineDie l) die)
    exact ⟨h1, h2.trans ((cross_extents _ _ _).trans ((dirRead_none_extents _ l).trans (cross_extents _ _ _)))⟩

/-- The frame in an entry that the walk has found. -/
theorem frame_of_walk {s : State} {k : PageKey} {f : Nat} {e : Dword} {at_ : Nat} (h : s.walk k.asn k.obj k.page = (.frame f, e, at_)) :
    (⟨k, e, e, at_⟩ : Extent).frame = f := by
  have no : ∀ {a : Answer} {d : Dword} {n : Nat} {P : Prop}, (a, d, n) = (Answer.frame f, e, at_) → (∀ g, a ≠ .frame g) → P := fun h hn =>
    absurd (congrArg Prod.fst h) (hn f)
  unfold State.walk at h
  extract_lets at h
  iterate 9
    split at h
    · exact no h fun _ => Answer.noConfusion
  obtain ⟨hf, he⟩ := Prod.mk.inj h
  obtain ⟨rfl, -⟩ := Prod.mk.inj he
  obtain rfl := Answer.frame.inj hf
  simp only [Extent.frame, BitVec.toNat_ofNat]
  omega

theorem cachedExtent_append (s : State) (x : Extent) (k : PageKey) :
    ({ s with extents := s.extents ++ [x] } : State).cachedExtent k = (s.cachedExtent k).or (if x.key = k then some x else none) := by
  simp only [State.cachedExtent, List.find?_append, List.find?_cons, List.find?_nil]
  congr 1
  by_cases h : x.key = k
  · rw [if_pos h, h, beq_self_eq_true]
  · rw [if_neg h, beq_false_of_ne h]

theorem peek_of_walk {s : State} {k : PageKey} {f : Nat} (hk : s.cachedExtent k = none) (hw : (s.walk k.asn k.obj k.page).1 = .frame f) (off : Nat) :
    s.peek k off = some (f * 65536 + off % 65536) := by
  rw [State.peek, hk]
  simp only [hw]

/-- A page that the walk finds is cached from then on. -/
theorem Looked.cache {s t : State} (L : Looked s t) {k : PageKey} {f : Nat} {e : Dword} {at_ : Nat} (hk : t.cachedExtent k = none)
    (hw : t.walk k.asn k.obj k.page = (.frame f, e, at_)) : Looked s { t with extents := t.extents ++ [⟨k, e, e, at_⟩] } where
  same := L.same
  bad := L.bad
  takes := L.takes
  cached k' h := L.cached k' (by rw [cachedExtent_append] at h; exact (Option.or_eq_none_iff.1 h).1)
  peeks k' off p h := by
    have hp := L.peeks k' off p h
    by_cases hkk : k = k'
    · subst hkk
      rw [peek_of_walk hk (by rw [hw])] at hp
      rw [State.peek, cachedExtent_append, hk, if_pos rfl]
      simp only [Option.none_or, frame_of_walk hw]
      exact hp
    · rw [← hp, State.peek, State.peek, cachedExtent_append, if_neg hkk, Option.or_none]
      rfl

theorem walkLines_of_still {s t : State} (h : still t = still s) (asn obj page : Nat) : t.walkLines asn obj page = s.walkLines asn obj page :=
  of_still (fun u => u.walkLines asn obj page) (fun _ => rfl) h

theorem Looked.lookupHeld {s t : State} (L : Looked s t) {k : PageKey} (hh : s.lookupHeld k = false) : t.lookupHeld k = false := by
  have hc : (t.change.any fun c => c.slice == t.translationSlice k) = (s.change.any fun c => c.slice == s.translationSlice k) :=
    of_still (fun u => u.change.any fun c => c.slice == u.translationSlice k) (fun _ => rfl) L.same
  simp only [State.lookupHeld, Bool.or_eq_false_iff] at hh ⊢
  refine ⟨hc.trans hh.1, ?_⟩
  cases hk : t.cachedExtent k with
  | some e => rfl
  | none =>
    have hl := hh.2
    rw [L.cached k hk, Option.isNone_none, Bool.true_and, List.any_eq_false] at hl
    rw [Option.isNone_none, Bool.true_and, walkLines_of_still L.same, List.any_eq_false]
    intro l hm
    have := hl l hm
    simp only [Bool.not_eq_true', Bool.not_eq_false] at this ⊢
    exact L.takes l this

/-- The frame of an address, and its place in the page. -/
theorem frame_of_address {f off p : Nat} (h : f * 65536 + off % 65536 = p) : f = p / 65536 := by omega

/-- A translation slice answers a request for a page that has an address and is not held. -/
theorem lookup_of_peek {s t : State} (L : Looked s t) (ha : Apart s) {k : PageKey} (hpkg : k.pkg = s.regs.pkg) {off p : Nat}
    (hp : s.peek k off = some p) (hh : s.lookupHeld k = false) :
    ∃ f t', t.lookup k.asn k.obj k.page = (.frame f, t') ∧ f * 65536 + off % 65536 = p ∧ Looked s t' := by
  have hkey : (⟨t.regs.pkg, k.asn, k.obj, k.page⟩ : PageKey) = k := by
    rw [of_still (fun u => u.regs.pkg) (fun _ => rfl) L.same, ← hpkg]
  have hpt := L.peeks k off p hp
  simp only [State.lookup, hkey, L.lookupHeld hh]
  cases hc : t.cachedExtent k with
  | some e =>
    rw [State.peek, hc] at hpt
    exact ⟨e.frame, t, rfl, Option.some.inj hpt, L⟩
  | none =>
    obtain ⟨Lr, hex⟩ := L.afterWalk ha (sliceDie (t.translationSlice k)) (t.walkLines k.asn k.obj k.page)
    have Lu := Lr.count 5 1
    have hu := Lu.peeks k off p hp
    have hcu : ((afterWalk t (sliceDie (t.translationSlice k)) (t.walkLines k.asn k.obj k.page)).count 5 1).cachedExtent k = none := by
      rw [State.cachedExtent, count_keeps (f := State.extents) (fun _ _ => rfl), hex]; exact hc
    change ∃ f t', (match ((afterWalk t (sliceDie (t.translationSlice k)) (t.walkLines k.asn k.obj k.page)).count 5 1).walk k.asn k.obj k.page with
      | (.frame f, e, at_) => (Answer.frame f, { (afterWalk t (sliceDie (t.translationSlice k)) (t.walkLines k.asn k.obj k.page)).count 5 1 with
          extents := ((afterWalk t (sliceDie (t.translationSlice k)) (t.walkLines k.asn k.obj k.page)).count 5 1).extents ++ [⟨k, e, e, at_⟩] })
      | (a, _, _) => (a, (afterWalk t (sliceDie (t.translationSlice k)) (t.walkLines k.asn k.obj k.page)).count 5 1)) = (Answer.frame f, t') ∧ _ ∧ _
    generalize (afterWalk t (sliceDie (t.translationSlice k)) (t.walkLines k.asn k.obj k.page)).count 5 1 = u at *
    rw [State.peek, hcu] at hu
    rcases hw : u.walk k.asn k.obj k.page with ⟨a, e, at_⟩
    rw [hw] at hu
    cases a with
    | frame f => exact ⟨f, _, rfl, Option.some.inj hu, Lu.cache hcu hw⟩
    | absent _ _ => cases hu
    | error => cases hu
    | held => cases hu

/-! ### The lanes of an access -/

/-- The lane whose address serves a lane: the lowest, for an access made once. -/
def slotLane (a : Access) (x : Ctx) (i : Nat) : Nat := if a.whole then x.lowest else i

/-- Lanes whose pages have the addresses p. -/
def Mapped (s : State) (x : Ctx) (a : Access) (p : Nat → Nat) (ls : List Nat) : Prop :=
  ∀ i ∈ ls, (a.cap i).pkg = s.regs.pkg ∧ s.peek (a.key s x i) (a.offset i) = some (p i) ∧ s.lookupHeld (a.key s x i) = false

theorem key_of_still {s t : State} (h : still t = still s) (x : Ctx) (a : Access) (i : Nat) : a.key t x i = a.key s x i :=
  congrArg (fun n => (⟨(a.cap i).pkg, n, a.object i, a.page i⟩ : PageKey)) (of_still (fun u => u.asnOf x.who) (fun _ => rfl) h)

/-- Every lane whose page has an address is answered with its frame. -/
theorem lookupAll_of_mapped {s t : State} {x : Ctx} {a : Access} {p : Nat → Nat} (ha : Apart s) {ls : List Nat} (hm : Mapped s x a p ls)
    (L : Looked s t) : ∃ t', t.lookupAll x a ls = (ls.map fun i => (i, .frame (p i / 65536)), t') ∧ Looked s t' := by
  induction ls generalizing t with
  | nil => exact ⟨t, rfl, L⟩
  | cons i ls ih =>
    obtain ⟨hpkg, hp, hh⟩ := hm i List.mem_cons_self
    obtain ⟨f, t1, h1, hf, L1⟩ := lookup_of_peek (L.cross (t.dieOf x.who) (sliceDie (t.translationSlice (a.key t x i)))) ha hpkg hp hh
    obtain ⟨t2, h2, L2⟩ := ih (fun j hj => hm j (List.mem_cons_of_mem _ hj)) L1
    refine ⟨t2, ?_, L2⟩
    have hk : (t.cross (t.dieOf x.who) (sliceDie (t.translationSlice (a.key t x i)))).asnOf x.who = s.asnOf x.who :=
      of_still (fun u => u.asnOf x.who) (fun _ => rfl) (L.cross _ _).same
    have h1' : (t.cross (t.dieOf x.who) (sliceDie (t.translationSlice (a.key t x i)))).lookup (s.asnOf x.who) (a.object i) (a.page i) = (.frame f, t1) := h1
    simp only [State.lookupAll, hk, h1', h2, List.map_cons, frame_of_address hf]

section
variable {s : State} {x : Ctx} {a : Access} {p : Nat → Nat}

theorem lanes_subset (hs : x.c.seats ≠ []) (a : Access) : ∀ i ∈ a.lanes x, i ∈ x.c.seats := by
  intro i hi
  rw [Access.lanes] at hi
  split at hi
  · rw [List.mem_singleton.1 hi]; exact lowest_mem hs
  · exact hi

theorem slotLane_mem {i : Nat} (hi : i ∈ x.c.seats) (a : Access) : slotLane a x i ∈ a.lanes x := by
  rw [slotLane, Access.lanes]
  split
  · exact List.mem_singleton_self _
  · exact hi

theorem remote_eq_false {i : Nat} (h : (a.cap i).pkg = s.regs.pkg) : a.remote s i = false := by
  rw [Access.remote, h, bne_self_eq_false]

/-- No lane of the access is remote. -/
theorem filter_remote {l : List Nat} (h : ∀ i ∈ l, (a.cap i).pkg = s.regs.pkg) : (l.filter fun i => a.remote s i) = [] :=
  List.filter_eq_nil_iff.2 fun i hi => by rw [remote_eq_false (h i hi)]; decide

theorem filter_not_remote {l : List Nat} (h : ∀ i ∈ l, (a.cap i).pkg = s.regs.pkg) : (l.filter fun i => !a.remote s i) = l :=
  List.filter_eq_self.2 fun i hi => by rw [remote_eq_false (h i hi)]; rfl

theorem remotePages_nil (s : State) (x : Ctx) (a : Access) : s.remotePages x a [] = (none, [], s) := rfl

/-- The addresses that translation gives the lanes of an access. -/
def lookedUp (a : Access) (x : Ctx) (p : Nat → Nat) (i : Nat) : Nat :=
  (((a.lanes x).map fun i => (i, p i / 65536)).find? fun q => q.1 == slotLane a x i).elim 0 fun q => q.2 * 65536 + a.offset (slotLane a x i) % 65536

theorem find_map_mem {β : Type} {l : List Nat} {f : Nat → β} {i : Nat} (hi : i ∈ l) : ((l.map fun i => (i, f i)).find? fun q => q.1 == i) = some (i, f i) := by
  induction l with
  | nil => cases hi
  | cons j l ih =>
    rw [List.map_cons, List.find?_cons]
    by_cases h : j = i
    · rw [h]; simp
    · rw [beq_false_of_ne h]
      exact ih ((List.mem_cons.1 hi).resolve_left (Ne.symm h))

/-- An address lies in its page's frame at the offset's place. -/
theorem address_of_peek {k : PageKey} {off q : Nat} (h : s.peek k off = some q) : q / 65536 * 65536 + off % 65536 = q := by
  have hf : ∃ f, f * 65536 + off % 65536 = q := by
    rw [State.peek] at h
    split at h
    · exact ⟨_, Option.some.inj h⟩
    · split at h
      · exact ⟨_, Option.some.inj h⟩
      · cases h
  obtain ⟨f, hf⟩ := hf
  rw [← frame_of_address hf, hf]

theorem lookedUp_eq (hm : ∀ i ∈ a.lanes x, s.peek (a.key s x i) (a.offset i) = some (p i)) {i : Nat} (hi : i ∈ x.c.seats) :
    lookedUp a x p i = p (slotLane a x i) := by
  have hs := slotLane_mem hi a
  rw [lookedUp, find_map_mem hs, Option.elim_some]
  exact address_of_peek (hm _ hs)

/-- The translation of an access whose pages all have addresses, none of them held. -/
theorem withAddresses_of_mapped (hx : Apart s) (hm : Mapped s x a p (a.lanes x))
    (hf : ∀ i ∈ a.lanes x, s.held_ x.who (a.writesAt x i) (a.key s x i) (a.offset i) a.size = false)
    {poisons : State → Ctx → (Nat → Nat) → List (Nat × Dword)} {go : State → Ctx → (Nat → Nat) → State}
    (hp : ∀ t m, Looked s t → poisons t { x with missed := m } (lookedUp a x p) = []) :
    ∃ t m, Looked s t ∧ withAddresses s x a poisons go = go t { x with missed := m } (lookedUp a x p) := by
  have hpkg : ∀ i ∈ a.lanes x, (a.cap i).pkg = s.regs.pkg := fun i hi => (hm i hi).1
  have hheld : (((a.lanes x).filter fun i => a.goes x i).any fun i =>
      s.held_ x.who (a.writesAt x i) (a.key s x i) (a.offset i) a.size) = false := by
    rw [List.any_eq_false]
    intro i hi
    rw [hf i (List.mem_of_mem_filter hi)]
    decide
  obtain ⟨t, ht, L⟩ := lookupAll_of_mapped hx hm (Looked.refl s)
  have hheldAnswer : ∀ n, (Answer.frame n == Answer.held) = false := fun _ => rfl
  have herror : ∀ n, (Answer.frame n == Answer.error) = false := fun _ => rfl
  have hany : ∀ l : List Nat, (l.any fun _ => false) = false := fun l => List.any_eq_false.2 fun _ _ => Bool.false_ne_true
  have hleft : (if a.whole = true then if True then x.c.seats else [] else x.c.seats.filter fun i => !([] : List Nat).contains i) = x.c.seats := by
    split <;> simp
  have hsound := hp t (if a.remote t x.lowest = true then false else (s.cachedExtent (a.key s x x.lowest)).isNone) L
  refine ⟨t, if a.remote t x.lowest = true then false else (s.cachedExtent (a.key s x x.lowest)).isNone, L, ?_⟩
  unfold withAddresses
  simp only [filter_remote hpkg, filter_not_remote hpkg, hheld, remotePages_nil, ht, Bool.false_eq_true, if_false]
  simp only [List.any_map, List.filter_map, List.filterMap_map, Function.comp_def, hheldAnswer, herror, List.filter_nil, List.filter_false,
    List.map_nil, List.append_nil, List.any_nil, List.isEmpty_nil, Bool.not_true, Bool.false_and, List.filterMap_eq_map', List.filterMap_none]
  simp only [hany, hleft, Bool.false_eq_true, if_false]
  refine (if_neg fun h => ?_).trans (if_pos trivial)
  rw [Bool.not_eq_true', List.isEmpty_eq_false_iff] at h
  exact h hsound

/-! ### Choices that the hardware does not make -/

theorem bit_of_nil (h : s.bits = []) : s.bit = (false, s) := by
  have : ({ s with bits := s.bits.tail } : State) = s := by rw [h]; cases s; simp_all
  rw [State.bit, this, h]
  rfl

theorem keepRevoked_of_nil (h : s.bits = []) (w : Who) (asn obj : Nat) : s.keepRevoked w asn obj = s := by
  rw [State.keepRevoked, bit_of_nil h]
  rfl

@[simp] theorem abort_nil (s : State) (w : Who) (c : AbortCause) : s.abort w [] c = s := by
  rw [State.abort]
  split <;> rfl

theorem remoteAborts_of_noTx (h : ∀ i ∈ x.c.seats, (x.g.lane i).tx = none) (a : Access) : s.remoteAborts x a = [] := by
  rw [State.remoteAborts]
  split
  · rfl
  · exact List.filter_eq_nil_iff.2 fun i hi => by simp [h i hi]

theorem plain_of_noTx (hs : x.c.seats ≠ []) (h : ∀ i ∈ x.c.seats, (x.g.lane i).tx = none) : x.plain = true :=
  List.any_eq_true.2 ⟨x.lowest, lowest_mem hs, by rw [h _ (lowest_mem hs)]; rfl⟩

theorem writesAt_of_noTx {i : Nat} (h : (x.g.lane i).tx = none) (a : Access) : a.writesAt x i = a.writes := by
  simp [Access.writesAt, h]

theorem release_of_order (h : x.g.failed = [] ∧ s.unperformed x.who = false) (go : State) : s.release x go = go := by
  rw [State.release, h.1, if_neg (by rw [h.2]; decide)]

theorem Mapped.of_served (S : Served s x a p) : Mapped s x a p (a.lanes x) := fun i hi => by
  have h := S.free i hi
  simp only [State.held_, Bool.or_eq_false_iff] at h
  exact ⟨S.near i (List.mem_append_left _ hi), S.mapped i hi, h.1⟩

/-- An access that is served does what its instruction does with the addresses, in a state to which lookups alone have led. -/
theorem withAccess_of_served (S : Served s x a p) {poisons : State → Ctx → (Nat → Nat) → List (Nat × Dword)} {go : State → Ctx → (Nat → Nat) → State}
    (hp : ∀ t m, Looked s t → poisons t { x with missed := m } (lookedUp a x p) = []) :
    ∃ t m, Looked s t ∧ withAccess s x a poisons go = go t { x with missed := m } (lookedUp a x p) := by
  have hfail : s.failing x a = none := by
    have : failures s x a = [] := List.filterMap_eq_nil_iff.2 fun i hi => by rw [S.checks i hi]; rfl
    rw [failing_eq, this]
    rfl
  obtain ⟨t, m, L, h⟩ := withAddresses_of_mapped (go := go) S.apart (Mapped.of_served S)
    (fun i hi => by rw [writesAt_of_noTx (S.noTx i (lanes_subset S.seats a i hi))]; exact S.free i hi) hp
  refine ⟨t, m, L, ?_⟩
  rw [← h]
  simp only [withAccess, hfail, keepRevoked_of_nil S.bits, ite_self, remoteAborts_of_noTx S.noTx, abort_nil, List.isEmpty_nil, if_true]
  rw [if_neg (by simpa using S.seats)]
  simp only [S.watch, S.fenced, List.filter_nil, List.isEmpty_nil, Bool.not_true, Bool.false_and, Bool.false_eq_true, if_false]
  split
  · next ho =>
    simp only [Bool.and_eq_true, decide_eq_true_eq] at ho
    exact release_of_order (S.order ho.1) _
  · rfl

end

end Sys2Proof.Proofs
end

section
/-! PROOFS. Loads (R93 to R95): what the lanes of a served load receive. -/

namespace Sys2Proof.Proofs

open Sys2Proof Sys2Proof.Machine Sys2Proof.Safety Sys2Proof.Laws

/-! ### Where an access lands -/

theorem bare_setGroup (s : State) (w : Who) (g : Group) : bare (s.setGroup w g) = (bare s).setGroup w g := by cases w <;> rfl

/-- An instruction that ends over the bookkeeping of its access. -/
theorem retire_landsBare {s t : State} (h : bare t = bare s) (x : Ctx) (hd : Hdr) (g : Group) :
    LandsBare (.next (t.retire x hd g)) s x.who (x.advance g) := by
  refine ⟨t.retire x hd g, (x.advance g).finish x.c.addr x.c.seats t.now hd.b, rfl, ?_, ?_, core_finish _ _ _ _ _⟩
  · simp only [State.retire, State.done]
    cases x.who <;> rfl
  · have hd : bare (t.retire x hd g) = bare (t.setGroup x.who ((x.advance g).finish x.c.addr x.c.seats t.now hd.b)) := by
      simp only [State.retire, State.done]
      cases x.who <;> rfl
    rw [hd, bare_setGroup, h, bare_setGroup]

theorem group_of_still {s t : State} (h : still t = still s) (w : Who) : t.group? w = s.group? w :=
  of_still (fun u => u.group? w) (fun _ => by cases w <;> rfl) h

/-- No lane has left. -/
theorem rest_nil {s : State} {x : Ctx} (h : s.group? x.who = some x.g) : s.rest x [] = x := by
  have hf : (x.c.seats.filter fun i => !([] : List Nat).contains i) = x.c.seats := List.filter_eq_self.2 fun _ _ => rfl
  rw [State.rest, h, hf]
  rfl

/-! ### Acquires -/

theorem acquired_keeps {α : Type} {f : State → α} (hf : ∀ (t : State) c, f { t with cores := c } = f t) (s : State) (x : Ctx) (acq : Bool) (sc : Nat) :
    f (acquired s x acq sc) = f s := by
  unfold acquired
  split
  · rfl
  · split
    · exact hf s _
    · rfl

theorem bare_acquired (s : State) (x : Ctx) (acq : Bool) (sc : Nat) : bare (acquired s x acq sc) = acquired (bare s) x acq sc := by
  have hc : (bare s).coreOf x.who = s.coreOf x.who := by cases x.who <;> rfl
  have ht : (bare s).teamOf x.g = s.teamOf x.g := rfl
  unfold acquired
  rw [hc, ht]
  cases s.coreOf x.who with
  | none => rfl
  | some c =>
    simp only
    rw [show (bare s).core c = s.core c from rfl]
    split <;> rfl

theorem acquired_of_bare {s t : State} (h : bare t = bare s) (x : Ctx) (acq : Bool) (sc : Nat) :
    bare (acquired t x acq sc) = bare (acquired s x acq sc) := by rw [bare_acquired, h, bare_acquired]

/-- The acquire of an access outside transactions. -/
theorem acquire_access {s : State} {x : Ctx} (hx : s.group? x.who = some x.g) (hp : x.plain = true) (ord sc : Nat) :
    (if (decide (ord = 2 ∨ ord = 4) && x.plain) = true then s.acquire x.who (if sc = 0 then 6 else sc) else s) =
      acquired s x (decide (ord = 2 ∨ ord = 4)) sc := by
  rw [hp, Bool.and_true]
  split
  · next h =>
    rw [acquire_eq hx, h]
    split
    · next h0 => exact acquired_wide s x true (by decide) (.inl h0)
    · rfl
  · next h => rw [Bool.not_eq_true] at h; rw [h, acquired_false]

/-! ### Counters, the prefetcher and trail samples that do not act -/

theorem counted_of_thresh {s : State} (h : s.regs.thresh = 0) (k : PageKey) (n : Nat) : s.counted k n = s := by
  rw [State.counted]
  split
  · rw [State.countUse]
    exact if_pos (.inl h)
  · rfl

theorem countLanes_of_thresh {s : State} (h : s.regs.thresh = 0) (x : Ctx) (a : Access) (ls : List Nat) : s.countLanes x a ls = s := by
  induction ls with
  | nil => rfl
  | cons i ls ih =>
    have hi : (if a.remote s i then s else s.counted (a.key s x i) s.regs.pkg) = s := by rw [counted_of_thresh h, ite_self]
    rw [State.countLanes, List.foldl_cons, hi]
    exact ih

/-- The stream prefetcher of the thread's partition is off. -/
def Unstreamed (s : State) (x : Ctx) : Prop := ∀ q, s.partOf x.who = some q → (s.part q).pfMode ≠ 2

theorem follow_of_unstreamed {s : State} {x : Ctx} (h : Unstreamed s x) (a : Access) : s.follow x a = s := by
  rw [State.follow]
  split
  · next hq _ => exact if_pos (.inr (h _ hq))
  · rfl

/-- The hardware takes no trail sample of the next access. -/
def Untrailed (s : State) (x : Ctx) : Prop :=
  ∀ q, s.partOf x.who = some q → (s.part q).oqTrail = true → s.picks.headD 0 % 2 ^ (s.part q).oqRate ≠ 0

theorem follows_of_untrailed {s : State} {x : Ctx} (h : Untrailed s x) (a : Access) (addr : Nat) :
    ∃ n, s.follows x a addr = (none, { s with picks := n }) := by
  rw [State.follows]
  split
  · next q c hq hc =>
    split
    · exact ⟨s.picks, rfl⟩
    · next ht =>
      have hv := h q hq (by simp only [Bool.or_eq_true, not_or, Bool.not_eq_true', Bool.not_eq_false] at ht; exact ht.2)
      simp only [State.pick]
      exact ⟨s.picks.tail, if_pos hv⟩
  · exact ⟨s.picks, rfl⟩

theorem bare_sample {s : State} {x : Ctx} (h : Untrailed s x) (a : Access) (addr : Nat) (e : TrailEnd) (later : Bool) (lead : Nat) :
    bare (s.sample x a addr e later lead) = bare s := by
  obtain ⟨n, hn⟩ := follows_of_untrailed h a addr
  rw [State.sample, hn]
  rfl

/-! ### Loads -/

section
variable {s t : State} {x : Ctx} {a : Access} {p : Nat → Nat}

theorem bytes_of_still (h : still t = still s) (q n : Nat) : t.bytes q n = s.bytes q n := of_still (fun u => u.bytes q n) (fun _ => rfl) h
theorem tagAt_of_still (h : still t = still s) (q : Nat) : t.tagAt q = s.tagAt q := of_still (fun u => u.tagAt q) (fun _ => rfl) h

theorem still_performLoad (ha : Apart s) (w : Who) (q : Nat) (via : Option PageKey) : still (s.performLoad w q via) = still s := by
  simp only [State.performLoad, State.atHome, State.loadAt]
  rw [still_cross, still_dirRead, txConflict_of_apart (apart_of_still (still_cross _ _ _) ha), still_cross]

theorem nearHit_of_nil (h : s.bits = []) (x : Ctx) (a : Access) (addr : Nat → Nat) : s.nearHit x a addr = fun _ => none := by
  funext i
  rw [State.nearHit, h]
  exact if_pos (by simp)

theorem mayFill_of_nil (h : s.bits = []) (x : Ctx) (a : Access) (q : Nat) : s.mayFill x a q = s := by
  rw [State.mayFill, bit_of_nil h]
  split
  · split <;> rfl
  · rfl

/-- The loads of lanes outside transactions, performed as they issue, read what memory holds. -/
theorem foldl_load (ha : Apart s) (hb : s.bits = []) {tag : Nat → Bool} {addr : Nat → Nat} {l : List Nat} (ht : ∀ i ∈ l, (x.g.lane i).tx = none)
    (h : still t = still s) (vals : List (Nat × List Byte × Bool)) :
    ∃ t', l.foldl (fun (r : Got) i => r.load x a addr (tag i) false none i) ⟨t, vals, [], []⟩ =
      ⟨t', vals ++ l.map fun i => (i, s.bytes (addr i) a.size, s.tagAt (addr i)), [], []⟩ ∧ still t' = still s := by
  induction l generalizing t vals with
  | nil => exact ⟨t, by simp, h⟩
  | cons i l ih =>
    have h1 := (still_performLoad (apart_of_still h ha) x.who (addr i) (some (a.key t x i))).trans h
    obtain ⟨t', ht', hs'⟩ := ih (fun j hj => ht j (List.mem_cons_of_mem _ hj)) h1
      (vals ++ [(i, s.bytes (addr i) a.size, s.tagAt (addr i))])
    refine ⟨t', ?_, hs'⟩
    have hone : Got.load ⟨t, vals, [], []⟩ x a addr (tag i) false none i =
        ⟨t.performLoad x.who (addr i) (some (a.key t x i)), vals ++ [(i, s.bytes (addr i) a.size, s.tagAt (addr i))], [], []⟩ := by
      simp only [Got.load, ht i List.mem_cons_self, Option.isSome_none, Bool.false_eq_true, if_false]
      rw [mayFill_of_nil ((of_still State.bits (fun _ => rfl) h1).trans hb), bytes_of_still h1, tagAt_of_still h1]
    rw [List.foldl_cons, hone, ht', List.map_cons, List.append_assoc, List.singleton_append]

theorem bits_of_looked (S : Served s x a p) (L : Looked s t) : t.bits = [] := (of_still State.bits (fun _ => rfl) L.same).trans S.bits

theorem thresh_of_looked (S : Served s x a p) (L : Looked s t) : t.regs.thresh = 0 :=
  (of_still (fun u => u.regs.thresh) (fun _ => rfl) L.same).trans S.counts

/-- The lanes of a served access are in memory of this package. -/
theorem near_of_looked (S : Served s x a p) (L : Looked s t) : ∀ i ∈ a.lanes x ++ x.c.seats, (a.cap i).pkg = t.regs.pkg := fun i hi =>
  (S.near i hi).trans (of_still (fun u => u.regs.pkg) (fun _ => rfl) L.same).symm

/-- The acquire of a served access, in a state where its issuer stands as it was. -/
theorem acquire_served (S : Served s x a p) (m : Bool) (hg : t.group? x.who = some x.g) :
    (if decide (a.ord = 2 ∨ a.ord = 4) = true then t.acquire x.who (if a.scope = 0 then 6 else a.scope) else t) =
      acquired t { x with missed := m } (decide (a.ord = 2 ∨ a.ord = 4)) a.scope := by
  have h := acquire_access hg (plain_of_noTx S.seats S.noTx) a.ord a.scope
  rw [plain_of_noTx S.seats S.noTx, Bool.and_true] at h
  exact h

theorem badAt_of_looked (L : Looked s t) (x : Ctx) (q n : Nat) : t.badAt x q n = s.badAt x q n := by
  rw [State.badAt, State.badAt, L.bad, of_still (fun u => u.poisoned q n) (fun _ => rfl) L.same]

/-- The lane that serves another is one of the active set. -/
theorem server_mem {i : Nat} (hi : i ∈ x.c.seats) (a : Access) : a.server x i ∈ x.c.seats := by
  rw [Access.server]
  split
  · cases hf : (x.g.byLogical x.c.seats).find? fun j => (x.g.lane j).tx.isNone with
    | none => exact hi
    | some j => exact (mem_byLogical ..).1 (List.mem_of_find?_eq_some hf)
  · exact hi

theorem poisonsBy_of_sound {addr : Nat → Nat} {tag : Bool} {bad : Nat → Bool} (h : ∀ i ∈ x.c.seats, bad i = false) :
    a.poisonsBy t x addr tag bad = [] := by
  rw [Access.poisonsBy, List.map_eq_nil_iff]
  exact List.filter_eq_nil_iff.2 fun i hi => by rw [h _ (server_mem hi a)]; simp

/-- No lane of a served read takes poison. -/
theorem sound_of_served (S : Served s x a p) (hr : a.reads = true) (L : Looked s t) : ∀ i ∈ x.c.seats, t.badAt x (lookedUp a x p i) a.size = false := by
  intro i hi
  rw [badAt_of_looked L, lookedUp_eq S.mapped hi]
  exact S.sound hr _ (slotLane_mem hi a)

theorem poisonedLoads_of_served (S : Served s x a p) (hr : a.reads = true) (tag : Bool) (t : State) (m : Bool) (L : Looked s t) :
    poisonedLoads a tag t { x with missed := m } (lookedUp a x p) = [] := by
  have h : ∀ i ∈ x.c.seats, t.badAt { x with missed := m } (lookedUp a x p i) a.size = false := sound_of_served S hr L
  rw [poisonedLoads, nearHit_of_nil ((of_still State.bits (fun _ => rfl) L.same).trans S.bits)]
  exact poisonsBy_of_sound h

theorem remoteReads_nil (s : State) (x : Ctx) (a : Access) (kind : ReqKind) : s.remoteReads x a [] kind = none := rfl
theorem takeAnswers_nil (s : State) (x : Ctx) : s.takeAnswers x [] = ([], s) := rfl

/-- The lanes whose loads are performed: all of them, or for an access made once the lowest. -/
def loaders (a : Access) (x : Ctx) : List Nat := if a.whole then [x.lowest] else x.g.byLogical x.c.seats

theorem loaders_of_noTx (hs : x.c.seats ≠ []) (ht : ∀ i ∈ x.c.seats, (x.g.lane i).tx = none) (a : Access) :
    (if a.whole then ((x.g.byLogical x.c.seats).filter fun i => (x.g.lane i).tx.isSome) ++
        ((x.g.byLogical x.c.seats).filter fun i => (x.g.lane i).tx.isNone).take 1 else x.g.byLogical x.c.seats) = loaders a x := by
  have h1 : ((x.g.byLogical x.c.seats).filter fun i => (x.g.lane i).tx.isSome) = [] :=
    List.filter_eq_nil_iff.2 fun i hi => by simp [ht i ((mem_byLogical ..).1 hi)]
  have h2 : ((x.g.byLogical x.c.seats).filter fun i => (x.g.lane i).tx.isNone) = x.g.byLogical x.c.seats :=
    List.filter_eq_self.2 fun i hi => by simp [ht i ((mem_byLogical ..).1 hi)]
  rw [h1, h2, take_one_byLogical hs, List.nil_append, loaders]

theorem loaders_subset (hs : x.c.seats ≠ []) (a : Access) : ∀ i ∈ loaders a x, i ∈ x.c.seats := by
  intro i hi
  rw [loaders] at hi
  split at hi
  · rw [List.mem_singleton.1 hi]; exact lowest_mem hs
  · exact (mem_byLogical ..).1 hi

theorem loader_mem {i : Nat} (hi : i ∈ x.c.seats) (a : Access) : slotLane a x i ∈ loaders a x := by
  rw [slotLane, loaders]
  split
  · exact List.mem_singleton_self _
  · exact (mem_byLogical ..).2 hi

theorem slotLane_slotLane (a : Access) (x : Ctx) (i : Nat) : slotLane a x (slotLane a x i) = slotLane a x i := by
  unfold slotLane; split <;> rfl

/-- What a lane receives of the loads that have been performed. -/
def received (a : Access) (x : Ctx) (vals : List (Nat × List Byte × Bool)) (i : Nat) : List Byte × Bool :=
  match vals.find? fun v => v.1 == i with
  | some v => v.2
  | none => (if a.whole then (vals.find? fun v => (x.g.lane v.1).tx.isNone).map (·.2) else none).getD ([], false)

theorem received_eq (hs : x.c.seats ≠ []) (ht : ∀ i ∈ x.c.seats, (x.g.lane i).tx = none) (f : Nat → List Byte × Bool) {i : Nat} (hi : i ∈ x.c.seats) :
    received a x ((loaders a x).map fun i => (i, f i)) i = f (slotLane a x i) := by
  unfold received loaders slotLane
  cases a.whole with
  | false =>
    rw [if_neg (by decide), if_neg (by decide), find_map_mem ((mem_byLogical ..).2 hi)]
    rfl
  | true =>
    simp only [if_true, List.map_cons, List.map_nil, List.find?_cons, List.find?_nil, ht _ (lowest_mem hs), Option.isNone_none]
    by_cases h : x.lowest = i
    · simp [h]
    · rw [beq_false_of_ne h]; rfl

/-- An access that has taken its trail sample, or not, and followed its stream has changed its bookkeeping alone. -/
theorem bare_afterAccess {y : Ctx} (S : Served s x a p) (h : still t = still s) (hw : y.who = x.who) (acq : Bool) (sc addr lead : Nat)
    (asks : Bool) (e : TrailEnd) (later : Bool) :
    bare (if (!asks) = true then (acquired t y acq sc).follow y a else
      ((acquired t y acq sc).follow y a).sample y a addr e later lead) = bare (acquired t y acq sc) := by
  have parts : ∀ q, ((acquired t y acq sc).partOf y.who = some q ↔ s.partOf x.who = some q) ∧ (acquired t y acq sc).part q = s.part q ∧
      (acquired t y acq sc).picks = s.picks := fun q => by
    refine ⟨?_, ?_, ?_⟩
    · rw [acquired_keeps (f := fun u => u.partOf y.who) (fun _ _ => rfl), of_still (fun u => u.partOf y.who) (fun _ => rfl) h, hw]
    · exact (acquired_keeps (f := fun u => u.part q) (fun _ _ => rfl) t y acq sc).trans (of_still (fun u => u.part q) (fun _ => rfl) h)
    · exact (acquired_keeps (f := State.picks) (fun _ _ => rfl) t y acq sc).trans (of_still State.picks (fun _ => rfl) h)
  have hu : Unstreamed (acquired t y acq sc) y := fun q hq => by
    rw [(parts q).2.1]; exact S.stream q ((parts q).1.1 hq)
  have ht : Untrailed (acquired t y acq sc) y := fun q hq => by
    rw [(parts q).2.1, (parts q).2.2]; exact S.trail q ((parts q).1.1 hq)
  rw [follow_of_unstreamed hu]
  split
  · rfl
  · exact bare_sample ht a addr _ later lead

/-- LD, LDU and LDC of a served access: every lane receives what memory holds at the address that serves it. -/
theorem loads_land (S : Served s x a p) (hx : s.ctx? = some x) (hr : a.reads = true) (h : Hdr) (d : Code) (w : Width) (kind : ReqKind)
    (val : List Byte → Nat) (lc : Nat → Option Bool) :
    LandsBare (.next (s.loads x h a d w kind val lc)) (acquired s x (decide (a.ord = 2 ∨ a.ord = 4)) a.scope) x.who
      (x.advance (x.dst h.n d w (fun i => val (s.bytes (p (slotLane a x i)) a.size)) fun i =>
        match lc i with
        | some b => s.tagAt (p (slotLane a x i)) && b
        | none => false)) := by
  obtain ⟨t, m, L, hacc⟩ := withAccess_of_served S (poisonedLoads_of_served S hr (x.c.seats.any fun i => (lc i).getD false)) (go := _)
  have hb := bits_of_looked S L
  have hrs : ((a.lanes x).filter fun i => a.remote t i) = [] := filter_remote fun i hi => near_of_looked S L i (List.mem_append_left _ hi)
  have hhere : (x.c.seats.filter fun i => !a.remote t i) = x.c.seats :=
    filter_not_remote fun i hi => near_of_looked S L i (List.mem_append_right _ hi)
  have hdrop : (if a.ord = 0 then { t with bits := t.bits.drop 32 } else t) = t := by
    rw [hb]; split
    · rw [List.drop_nil, ← hb]
    · rfl
  obtain ⟨t', hfold, hs'⟩ := foldl_load (x := { x with missed := m }) (a := a) (tag := fun i => (lc i).getD false) (addr := lookedUp a x p)
    (l := loaders a x) S.apart S.bits (fun i hi => S.noTx i (loaders_subset S.seats a i hi)) L.same []
  have hg : t'.group? ({ x with missed := m } : Ctx).who = some ({ x with missed := m } : Ctx).g :=
    (group_of_still hs' x.who).trans (group_of_ctx hx)
  have hrest : t'.rest { x with missed := m } [] = { x with missed := m } := rest_nil hg
  have hplain : ({ x with missed := m } : Ctx).plain = true := plain_of_noTx S.seats S.noTx
  have hacq := acquire_served S m hg
  have hbare : bare (acquired t' { x with missed := m } (decide (a.ord = 2 ∨ a.ord = 4)) a.scope) =
    bare (acquired s x (decide (a.ord = 2 ∨ a.ord = 4)) a.scope) := acquired_of_bare (bare_of_still hs') _ _ _
  have hseats : x.c.seats.isEmpty = false := by simpa using S.seats
  have hlanes : a.lanes { x with missed := m } = a.lanes x := rfl
  rw [State.loads, hacc]
  clear hacc
  simp only [hlanes, hrs, remoteReads_nil, takeAnswers_nil, nearHit_of_nil hb, hdrop, List.foldl_nil, List.isEmpty_nil, if_true]
  simp only [hhere, ite_self, countLanes_of_thresh (thresh_of_looked S L), bit_of_nil hb,
    loaders_of_noTx S.seats S.noTx, hfold, abort_nil, hrest, hplain, Bool.and_true, hacq, hseats, Bool.false_eq_true, if_false, List.nil_append,
    List.foldl_nil]
  let got := received a x ((loaders a x).map fun i => (i, s.bytes (lookedUp a x p i) a.size, s.tagAt (lookedUp a x p i)))
  have hd : ∀ i ∈ x.c.seats, got i = (s.bytes (p (slotLane a x i)) a.size, s.tagAt (p (slotLane a x i))) := fun i hi => by
    rw [show got i = _ from received_eq S.seats S.noTx (fun i => (s.bytes (lookedUp a x p i) a.size, s.tagAt (lookedUp a x p i))) hi,
      lookedUp_eq S.mapped (loaders_subset S.seats a _ (loader_mem hi a)), slotLane_slotLane]
  have hdst : x.dst h.n d w (fun i => val (got i).1) (fun i => match lc i with
        | some b => (got i).2 && b
        | none => false) =
      x.dst h.n d w (fun i => val (s.bytes (p (slotLane a x i)) a.size)) fun i => match lc i with
        | some b => s.tagAt (p (slotLane a x i)) && b
        | none => false :=
    dst_congr_seats S.seats (fun i hi => by rw [hd i hi]) fun i hi => by rw [hd i hi]
  rw [← hdst]
  exact retire_landsBare ((bare_afterAccess (y := { x with missed := m }) S hs' rfl _ _ _ _ _ _ _).trans hbare) { x with missed := m } h _

end

/-- The value of a load, on bit vectors. -/
theorem loadValue_eq (c : Nat) (bs : List Byte) : loadValue c bs =
    if c = 6 then ((BitVec.ofNat 8 (leNat bs)).signExtend 32).toNat
    else if c = 7 then ((BitVec.ofNat 16 (leNat bs)).signExtend 32).toNat else leNat bs := by
  simp only [loadValue, readInt_signed]

/-- Settles O15: LD and LDU are the same loads, of each lane or of the lowest for all. -/
theorem loadsReadMemory : Obligations.LoadsReadMemory := by
  intro h d cap off imm s x p n wd value a after
  refine ⟨fun hf S => ?_, fun hf S => ?_⟩
  · have hl := loads_land S hf.issuer rfl h d wd (.load n h.size) (loadValue h.size) fun _ => none
    have he : exec (.ld h d cap off imm) s = .next (s.loads x h a d wd (.load n h.size) (loadValue h.size) fun _ => none) :=
      withOps_of_free (os := fun _ => opd off .w32 :: opd d wd :: capOpd cap h.laneCap)
        (reads := fun _ => opd off .w32 :: capOpd cap h.laneCap) hf
    rw [he]
    simp only [loadValue_eq] at hl
    exact hl
  · have hl := loads_land S hf.issuer rfl h d wd (.load n h.size) (loadValue h.size) fun _ => none
    have he : exec (.ldu h d cap off imm) s = .next (s.loads x h { memAccess x h cap off imm n false (fun _ => permR) true false 0x72 with
        e := fun _ => a.e x.lowest, whole := true } d wd (.load n h.size) (loadValue h.size) fun _ => none) :=
      withOps_of_free (os := fun _ => [opd off .w32, opd d wd]) (reads := fun _ => [opd off .w32]) (lanes := fun x => x.readers) hf
    rw [he]
    simp only [loadValue_eq] at hl
    exact hl

end Sys2Proof.Proofs
end

section
/-! PROOFS. Stores (R95, R97): what a store that nobody watches does to memory, and the stores of the lanes of a served access. -/

namespace Sys2Proof.Proofs

open Sys2Proof Sys2Proof.Machine Sys2Proof.Safety Sys2Proof.Laws

/-! ### What a write leaves alone -/

/-- A state without its memory, and without what `still` leaves out. -/
def unwritten (s : State) : State := { still s with mem := [], tags := [], poison := [], keyed := [] }

theorem of_unwritten {α : Type} (f : State → α) (hf : ∀ u, f (unwritten u) = f u) {s t : State} (h : unwritten t = unwritten s) : f t = f s := by
  rw [← hf t, h, hf]

theorem unwritten_of_still {s t : State} (h : still t = still s) : unwritten t = unwritten s := of_still unwritten (fun _ => rfl) h

theorem rekey_keeps {α : Type} {f : State → α} (hf : ∀ (t : State) m k, f { t with mem := m, keyed := k } = f t) (s : State) (k : Nat) :
    f (s.rekey k) = f s := by
  unfold State.rekey
  split
  · rfl
  · simp only
    split
    · rfl
    · exact hf s _ _

@[simp] theorem unwritten_write (s : State) (a : Nat) (bs : List Byte) : unwritten (s.write a bs) = unwritten s :=
  foldl_keeps unwritten (rekey_keeps fun _ _ _ => rfl) (blocks 32 a bs.length) s

@[simp] theorem unwritten_writeCap (s : State) (a : Nat) (bs : List Byte) (tag : Bool) : unwritten (s.writeCap a bs tag) = unwritten s :=
  unwritten_write s a bs

/-! ### Writes and what they do not look at -/

theorem still_rekey (s : State) (k : Nat) : (still s).rekey k = still (s.rekey k) := by
  have h1 : (still s).keyAt k = s.keyAt k := rfl
  have h2 : (still s).keyOf k = s.keyOf k := rfl
  have h3 : (still s).byte = s.byte := rfl
  have h4 : (still s).keyed = s.keyed := rfl
  have h5 : (still s).trust = s.trust := rfl
  have h6 : (still s).mem = s.mem := rfl
  have h7 : ∀ m k, ({ still s with mem := m, keyed := k } : State) = still { s with mem := m, keyed := k } := fun _ _ => rfl
  unfold State.rekey
  rw [h1, h2, h3, h4, h5, h6, apply_ite still]
  refine if_congr Iff.rfl rfl ?_
  exact (if_congr Iff.rfl rfl (h7 _ _)).trans (apply_ite still _ _ _).symm

theorem still_write (s : State) (a : Nat) (bs : List Byte) : still (s.write a bs) = (still s).write a bs := by
  have h : (blocks 32 a bs.length).foldl State.rekey (still s) = still ((blocks 32 a bs.length).foldl State.rekey s) :=
    List.foldl_hom still (fun t k => still_rekey t k)
  unfold State.write State.putBytes
  rw [h]
  rfl

/-- A store's bytes, with the tag where it is one of a granule. -/
def stored (s : State) (a : Nat) (bs : List Byte) : Option Bool → State
  | some tag => s.writeCap a bs tag
  | none => s.write a bs

theorem still_store {s t : State} (h : still t = still s) (a : Nat) (bs : List Byte) (tag : Option Bool) :
    still (stored t a bs tag) = still (stored s a bs tag) := by
  have hw : still (t.write a bs) = still (s.write a bs) := by rw [still_write, h, still_write]
  cases tag with
  | none => exact hw
  | some b => exact congrArg (fun u : State => { u with tags := if b then sInsert u.tags (a / 16) else u.tags }) hw

@[simp] theorem unwritten_store (s : State) (a : Nat) (bs : List Byte) (tag : Option Bool) : unwritten (stored s a bs tag) = unwritten s := by
  cases tag
  · exact unwritten_write s a bs
  · exact unwritten_writeCap s a bs _

/-! ### Lines that nobody looks at -/

theorem mem_of_get {α : Type} {m : FMap α} {k : Nat} {v : α} (h : m.get? k = some v) : (k, v) ∈ m := by
  induction m with
  | nil => cases h
  | cons e m ih =>
    obtain ⟨j, w⟩ := e
    rw [FMap.get?] at h
    split at h
    · next hj => subst hj; obtain rfl := Option.some.inj h; exact List.mem_cons_self
    · exact List.mem_cons_of_mem _ (ih h)

theorem get_of_mem {α : Type} {m : FMap α} {e : Nat × α} (h : e ∈ m) : ∃ v, m.get? e.1 = some v := by
  induction m with
  | nil => cases h
  | cons f m ih =>
    obtain ⟨j, w⟩ := f
    rw [FMap.get?]
    split
    · exact ⟨w, rfl⟩
    · next hj => exact ih ((List.mem_cons.1 h).resolve_left fun he => hj (by rw [he]))

theorem fireWatch_of_heedless {s : State} {g : Group} {line : Nat} (h : Heedless s g line) (now : Nat) : g.fireWatch now s.regs.pkg line = g := by
  unfold Group.fireWatch
  split
  · next v hv => exact if_neg fun hc => h.1 v hv hc.1 hc.2
  · rfl

/-- No thread waits for a line that nobody looks at. -/
theorem awaits_of_unwatched {s : State} {line : Nat} (h : Unwatched s line) : ∀ w ∈ s.threads, ((s.group? w).bind fun g => g.awaits line) = none := by
  intro w hw
  obtain ⟨hc, hg, -, -⟩ := h
  rcases List.mem_append.1 hw with hw | hw
  · obtain ⟨e, he, rfl⟩ := List.mem_map.1 hw
    obtain ⟨k, hk⟩ := get_of_mem he
    have hctl : s.ctl e.1 = k := by rw [State.ctl, FMap.getD, hk]; rfl
    simp only [State.group?, hctl]
    split
    · exact (hc _ (mem_of_get hk)).2
    · rfl
  · obtain ⟨e, he, rfl⟩ := List.mem_map.1 hw
    obtain ⟨g, hk⟩ := get_of_mem he
    simp only [State.group?, hk]
    exact (hg _ (mem_of_get hk)).2

/-- A write of a line that nobody looks at wakes nobody. -/
theorem lineWritten_of_unwatched {s : State} {line : Nat} (h : Unwatched s line) : s.lineWritten line = s := by
  obtain ⟨hc, hg, hm, hf⟩ := id h
  have h1 : s.fireFarWatches line = s := by
    rw [State.fireFarWatches, List.filter_eq_nil_iff.2 fun v hv => by simpa using hf v hv]
  have h2 : (s.ctls.map fun (e : Nat × Ctl) => (e.1, { e.2 with thread := e.2.thread.fireWatch s.now s.regs.pkg line })) = s.ctls :=
    (List.map_congr_left fun e he => by rw [fireWatch_of_heedless (hc e he)]; rfl).trans (List.map_id _)
  have h3 : (s.groups.map fun (e : Nat × Group) => (e.1, e.2.fireWatch s.now s.regs.pkg line)) = s.groups :=
    (List.map_congr_left fun e he => by rw [fireWatch_of_heedless (hg e he)]; rfl).trans (List.map_id _)
  have h4 : (s.threads.filterMap fun w => ((s.group? w).bind fun g => g.awaits line).map fun (f : Who → Instr) => f w) = [] :=
    List.filterMap_eq_nil_iff.2 fun w hw => by rw [awaits_of_unwatched h w hw]; rfl
  have h5 : s.fireMonitors line = s := by
    rw [State.fireMonitors, List.filter_eq_nil_iff.2 fun m hl => by simpa using hm m hl]
  rw [State.lineWritten, h1]
  simp only [h2, h3]
  exact (congrArg (fun l => State.fireMonitors { s with agenda := s.agenda ++ l } line) h4).trans (by rw [List.append_nil]; exact h5)

/-! ### Words that no port looks at -/

theorem maxWord_of_offRings {s : State} {a : Nat} (h : OffRings s a) : s.maxWord a = false := by
  obtain ⟨hr, ht⟩ := h
  have h1 : (decide (s.regs.rtBase ≤ a / 8 * 8) && decide (a / 8 * 8 < s.regs.rtBase + 64 * 4096)) = false := by
    simp only [Bool.and_eq_false_iff, decide_eq_false_iff_not]; omega
  have h2 : (decide (s.regs.ttBase ≤ a / 8 * 8) && decide (a / 8 * 8 < s.regs.ttBase + 64 * 1024)) = false := by
    simp only [Bool.and_eq_false_iff, decide_eq_false_iff_not]; omega
  simp only [State.maxWord, h1, h2, Bool.false_and, Bool.or_self]

section
variable {s : State} {a : Nat} {bs : List Byte} (h : ∀ j < bs.length, OffRings s (a + j))
include h

theorem maxed_of_offRings (b : Bool) : s.maxed a bs b = bs := by
  rw [State.maxed, if_pos]
  rw [List.all_eq_true]
  intro i hi
  rw [List.mem_range] at hi
  rw [maxWord_of_offRings (h (8 * i) (by omega))]
  rfl

theorem rang_of_offRings (h0 : 0 < bs.length) : s.rang a bs.length = s := by
  rw [State.rang]
  split
  · rfl
  · have : (s.txWait.map fun (e : Nat × Nat) =>
        let w := s.regs.ttBase + 64 * e.1 + 0x10
        if e.1 < 1024 ∧ a < w + 8 ∧ w < a + bs.length then (e.1, 0) else e) = s.txWait := by
      refine (List.map_congr_left fun e _ => if_neg ?_).trans (List.map_id _)
      intro hc
      obtain ⟨he, h1, h2⟩ := hc
      by_cases hl : a ≤ s.regs.ttBase + 64 * e.1 + 0x10
      · have := (h (s.regs.ttBase + 64 * e.1 + 0x10 - a) (by omega)).2
        omega
      · have := (h 0 (by omega)).2
        omega
    exact congrArg (fun m => { s with txWait := m }) this

end

/-! ### A store at its home -/

/-- What a store needs of its place: nobody looks at its line, no port at its words, and a granule's store is of one. -/
structure Unseen (s : State) (a : Nat) (bs : List Byte) (tag : Option Bool) : Prop where
  line     : Unwatched s (a / 128)
  rings    : ∀ j < bs.length, OffRings s (a + j)
  granule  : tag.isSome = true → bs.length = 16
  nonempty : 0 < bs.length

theorem Unseen.of_unwritten {s t : State} {a : Nat} {bs : List Byte} {tag : Option Bool} (U : Unseen s a bs tag) (h : unwritten t = unwritten s) :
    Unseen t a bs tag where
  line := (Proofs.of_unwritten (fun u => Unwatched u (a / 128)) (fun _ => rfl) h).mpr U.line
  rings j hj := (Proofs.of_unwritten (fun u => OffRings u (a + j)) (fun _ => rfl) h).mpr (U.rings j hj)
  granule  := U.granule
  nonempty := U.nonempty

theorem apart_of_unwritten {s t : State} (h : unwritten t = unwritten s) (ha : Apart s) : Apart t := by
  rw [Apart, of_unwritten State.ctls (fun _ => rfl) h]; exact ha

/-- A store that nobody looks at puts its bytes, and its tag, and changes nothing else but its bookkeeping. -/
theorem still_storeAt {s : State} {a : Nat} {bs : List Byte} {tag : Option Bool} (ha : Apart s) (U : Unseen s a bs tag) (w : Who) :
    still (s.storeAt w a bs tag) = still (stored s a bs tag) := by
  have hd : still (s.dirWrite (a / 128) (ctlOf w)) = still s := still_dirWrite s _ _
  have U1 : Unseen (s.dirWrite (a / 128) (ctlOf w)) a bs tag := U.of_unwritten (unwritten_of_still hd)
  unfold State.storeAt
  simp only [txConflict_of_apart ha]
  generalize s.dirWrite (a / 128) (ctlOf w) = u at hd U1
  have hput : (match (generalizing := false) tag with
      | some t => u.putCap a bs t
      | none => u.write a (u.maxed a bs true)) = stored u a bs tag := by
    cases tag with
    | none => simp only [maxed_of_offRings U1.rings]; rfl
    | some b =>
      have hl : bs.length = 16 := U.granule rfl
      have h0 : u.maxWord a = false := maxWord_of_offRings (U1.rings 0 (by omega))
      have h8 : u.maxWord (a + 8) = false := maxWord_of_offRings (U1.rings 8 (by omega))
      simp only [State.putCap, h0, h8]
      rfl
  have U2 : Unseen (stored u a bs tag) a bs tag := U1.of_unwritten (unwritten_store u a bs tag)
  refine (congrArg (fun v : State => still ((v.rang a bs.length).lineWritten (a / 128))) hput).trans ?_
  simp only [rang_of_offRings U2.rings U2.nonempty, lineWritten_of_unwatched U2.line]
  exact still_store hd a bs tag

theorem still_performStore {s : State} {a : Nat} {bs : List Byte} {tag : Option Bool} (ha : Apart s) (U : Unseen s a bs tag) (w : Who)
    (via : Option PageKey) : still (s.performStore w a bs tag via) = still (stored s a bs tag) := by
  rw [State.performStore, State.atHome, still_cross]
  have hc := still_cross s (via.elim (s.dieOf w) fun k => sliceDie (s.translationSlice k)) (sliceDie (s.homeSlice a))
  exact (still_storeAt (apart_of_still hc ha) (U.of_unwritten (unwritten_of_still hc)) w).trans (still_store hc a bs tag)

/-! ### The stores of the lanes -/

section
variable {s t u : State} {x : Ctx} {a : Access} {p : Nat → Nat}

/-- No near copy of the issuing core holds data. -/
def NoNear (s : State) (w : Who) : Prop := ∀ c, s.coreOf w = some c → (s.core c).near = []

theorem nearStore_of_noNear {w : Who} (h : NoNear s w) (q : Nat) (bs : List Byte) (tag : Bool) :
    (match s.coreOf w with
      | some c => s.nearStore c q bs tag
      | none => s) = s := by
  split
  · next c hc => rw [State.nearStore, h c hc]; rfl
  · rfl

theorem noNear_of_unwritten {w : Who} (h : unwritten t = unwritten s) (hn : NoNear s w) : NoNear t w :=
  (of_unwritten (fun u => NoNear u w) (fun _ => rfl) h).mpr hn

/-- The stores of lanes outside transactions, performed as they issue, one after the other. -/
theorem foldl_store (ha : Apart s) (hn : NoNear s x.who) {q : Nat → Nat} {bytes : Nat → List Byte} {tag : Nat → Option Bool} {l : List Nat}
    (ht : ∀ i ∈ l, (x.g.lane i).tx = none) (U : ∀ i ∈ l, Unseen s (q i) (bytes i) (tag i)) (h : still t = still u) (hu : unwritten u = unwritten s) :
    ∃ t', l.foldl (fun (r : Got) i => r.store x a q (bytes i) (tag i) false i) ⟨t, [], [], []⟩ = ⟨t', [], [], []⟩ ∧
      still t' = still (l.foldl (fun (u : State) i => stored u (q i) (bytes i) (tag i)) u) := by
  induction l generalizing t u with
  | nil => exact ⟨t, rfl, h⟩
  | cons i l ih =>
    have hu' : unwritten t = unwritten s := (unwritten_of_still h).trans hu
    have h1 : still (t.performStore x.who (q i) (bytes i) (tag i) (some (a.key t x i))) = still (stored u (q i) (bytes i) (tag i)) :=
      (still_performStore (apart_of_unwritten hu' ha) ((U i List.mem_cons_self).of_unwritten hu') _ _).trans (still_store h _ _ _)
    obtain ⟨t', ht', hs'⟩ := ih (fun j hj => ht j (List.mem_cons_of_mem _ hj)) (fun j hj => U j (List.mem_cons_of_mem _ hj)) h1
      ((unwritten_store u _ _ _).trans hu)
    refine ⟨t', ?_, hs'⟩
    rw [List.foldl_cons, ← ht']
    congr 1
    simp only [Got.store, ht i List.mem_cons_self, Option.isSome_none, Bool.false_eq_true, if_false]
    exact congrArg (fun v : State => Got.mk (v.performStore x.who (q i) (bytes i) (tag i) (some (a.key v x i))) [] [] [])
      (nearStore_of_noNear (noNear_of_unwritten hu' hn) (q i) (bytes i) ((tag i).getD false))

theorem untrailed_of_unwritten (S : Served s x a p) (h : unwritten t = unwritten s) : Untrailed t x := fun q hq hc => by
  rw [of_unwritten (fun u => u.partOf x.who) (fun _ => rfl) h] at hq
  rw [of_unwritten (fun u => u.part q) (fun _ => rfl) h] at hc ⊢
  rw [of_unwritten State.picks (fun _ => rfl) h]
  exact S.trail q hq hc

/-- What the lanes of a served store that nobody looks at need of their places. -/
theorem unseen_of_quiet (Q : Quiet s x a p) {i : Nat} (hi : i ∈ a.lanes x) {bs : List Byte} {tag : Option Bool} (hl : bs.length = a.size)
    (h0 : 0 < a.size) (hg : tag.isSome = true → a.size = 16) : Unseen s (p i) bs tag where
  line := Q.lines i hi
  rings j hj := Q.rings i hi j (hl ▸ hj)
  granule h := hl.trans (hg h)
  nonempty := hl ▸ h0

/-- ST and STC of a served access that nobody looks at: the lanes store in ascending logical order. -/
theorem stores_land (S : Served s x a p) (Q : Quiet s x a p) (hx : s.ctx? = some x) (hw : a.whole = false) (h0 : 0 < a.size) (h : Hdr)
    {bytes : Nat → List Byte} {tag : Nat → Option Bool} (hl : ∀ i, (bytes i).length = a.size) (hg : ∀ i, (tag i).isSome = true → a.size = 16) :
    LandsBare (.next (s.stores x h a bytes tag))
      ((x.g.byLogical x.c.seats).foldl (fun u i => stored u (p i) (bytes i) (tag i)) s) x.who (x.advance x.g) := by
  have hlanes : a.lanes x = x.c.seats := by rw [Access.lanes, hw]; rfl
  have hmem : ∀ i ∈ x.g.byLogical x.c.seats, i ∈ x.c.seats := fun i hi => (mem_byLogical ..).1 hi
  have haddr : ∀ i ∈ x.g.byLogical x.c.seats, lookedUp a x p i = p i := fun i hi => by
    rw [lookedUp_eq S.mapped (hmem i hi), slotLane, hw]; rfl
  obtain ⟨t, m, L, hacc⟩ := withAccess_of_served S (poisons := fun _ _ _ => []) (fun _ _ _ => rfl) (go := _)
  have hb := bits_of_looked S L
  have hpkg : ∀ i ∈ x.g.byLogical x.c.seats, (a.cap i).pkg = t.regs.pkg := fun i hi =>
    near_of_looked S L i (List.mem_append_right _ (hmem i hi))
  obtain ⟨t', hfold, hs'⟩ := foldl_store (x := { x with missed := m }) (a := a) (q := lookedUp a x p) (l := x.g.byLogical x.c.seats) (u := s) S.apart
    Q.cache (fun i hi => S.noTx i (hmem i hi))
    (fun i hi => haddr i hi ▸ unseen_of_quiet Q (hlanes ▸ hmem i hi) (hl i) h0 (hg i)) L.same rfl
  rw [List.foldl_ext _ (fun u i => stored u (p i) (bytes i) (tag i)) _ fun u i hi => by rw [haddr i hi]] at hs'
  have hu' : unwritten t' = unwritten s :=
    (unwritten_of_still hs').trans (foldl_keeps unwritten (fun u i => unwritten_store u (p i) (bytes i) (tag i)) _ s)
  have hg' : t'.group? ({ x with missed := m } : Ctx).who = some ({ x with missed := m } : Ctx).g :=
    (of_unwritten (fun u => u.group? x.who) (fun _ => by cases x.who <;> rfl) hu').trans (group_of_ctx hx)
  have hrest : t'.rest { x with missed := m } [] = { x with missed := m } := rest_nil hg'
  have hseats : x.c.seats.isEmpty = false := by simpa using S.seats
  have hlow : ∀ y : Ctx, y.g = x.g → y.c = x.c → ((y.g.lane y.lowest).tx.isSome) = false := fun y h1 h2 => by
    have hl : y.lowest = x.lowest := by rw [Ctx.lowest, Ctx.lowest, h1, h2]
    rw [h1, hl, S.noTx _ (lowest_mem S.seats)]
    rfl
  rw [State.stores, hacc]
  clear hacc
  simp only [filter_remote hpkg, filter_not_remote hpkg, List.foldl_nil, bit_of_nil hb, ite_self,
    countLanes_of_thresh (thresh_of_looked S L), hfold, abort_nil, hrest, hseats,
    hlow { x with missed := m } rfl rfl, Bool.false_and, Bool.false_eq_true, if_false]
  have ht' : Untrailed t' x := untrailed_of_unwritten S hu'
  exact retire_landsBare ((bare_sample (x := { x with missed := m }) ht' a _ _ _ _).trans (bare_of_still hs')) { x with missed := m } h x.g

end

theorem sizeBytes_pos {dflt : Nat} (h : 0 < dflt) (code : Nat) : 0 < sizeBytes dflt code := by
  unfold sizeBytes
  split <;> omega

/-- What the checks of R87 grant. -/
theorem granted_of_check {s : State} {w : Who} {team : Nat} {c : Cap} {e : Int} {n : Nat} {perms : BitVec 8}
    (h : s.check w team c e n [1] perms true = none) : c.perm &&& perms = perms ∧ (n ≠ 0 → e % n = 0) := by
  unfold State.check at h
  split at h
  · cases h
  · split at h
    · cases h
    · next hp =>
      split at h
      · cases h
      · split at h
        · cases h
        · next ha =>
          simp only [Bool.not_eq_true', Bool.not_eq_false, Bool.and_eq_true, Cap.has, beq_iff_eq] at hp
          refine ⟨hp.1.2, fun h0 => ?_⟩
          simpa [h0] using ha

/-- A write of a granule leaves its own tag as it is told, and clears those of others that it touches. -/
theorem writeCap_tag (s : State) (b : Nat) (bs : List Byte) (tag : Bool) :
    (s.writeCap b bs tag).tags.contains (b / 16) = (tag || (bs.isEmpty && s.tags.contains (b / 16))) := by
  have hw : (s.write b bs).tags.contains (b / 16) = (bs.isEmpty && s.tags.contains (b / 16)) := by
    rw [write_tags_contains, Bool.and_comm]
    congr 1
    cases bs with
    | nil => rfl
    | cons c bs =>
      rw [List.isEmpty_cons, Bool.not_eq_false', List.any_eq_true]
      exact ⟨0, by simp, by simp⟩
  cases tag with
  | true => simp [State.writeCap, mem_sInsert]
  | false => exact hw

/-- Settles O16: LDC by the loads, ST and STC by the stores in logical order, the tags by those of a write. -/
theorem capabilitiesThroughMemory : Obligations.CapabilitiesThroughMemory := by
  intro h d cap off imm s x p n ld st stc granule
  refine ⟨fun hf S => ?_, fun hf S Q => ?_, fun hf S Q => ?_, fun b bs tag => ⟨fun g hg => ?_, writeCap_tag s b bs tag⟩, fun i hc ht => ?_,
    fun i e hc => (granted_of_check hc).2 (by decide)⟩
  · have he : exec (.ldc h d cap off imm) s =
        .next (s.loads x h ld d .w128 (.loadCap false) leNat fun i => some ((ld.cap i).has permLC)) :=
      withOps_of_free (os := fun _ => opd off .w32 :: opd d .w128 :: capOpd cap h.laneCap)
        (reads := fun _ => opd off .w32 :: capOpd cap h.laneCap) hf
    rw [he]
    exact loads_land S hf.issuer rfl h d .w128 (.loadCap false) leNat fun i => some ((ld.cap i).has permLC)
  · have he : exec (.stc h d cap off imm) s =
        .next (s.stores x h stc (fun i => leBytes 16 (x.src128 i d).toNat) fun i => some (x.quadTag d i)) :=
      withOps_of_free (os := fun _ => opd off .w32 :: opd d .w128 :: capOpd cap h.laneCap) hf
    rw [he]
    exact stores_land S Q hf.issuer rfl (show 0 < 16 by decide) h (fun i => leBytes_length _ _) fun _ _ => rfl
  · have he : exec (.st h d cap off imm) s = .next (s.stores x h st (fun i => leBytes n (x.srcN i d (widthOfBytes n))) fun _ => none) :=
      withOps_of_free (os := fun _ => opd off .w32 :: opd d (widthOfBytes n) :: capOpd cap h.laneCap) hf
    rw [he]
    exact stores_land S Q hf.issuer rfl (sizeBytes_pos (by decide) _) h (fun i => leBytes_length _ _) fun _ ht => nomatch ht
  · rw [write_tags, List.mem_filter] at hg
    obtain ⟨hm, hb⟩ := hg
    refine ⟨hm, fun j hj he => ?_⟩
    have : g ∈ blocks 16 b bs.length := (mem_blocks (by decide) b bs.length g).2 ⟨j, hj, he⟩
    simp [this] at hb
  · have hp := (granted_of_check hc).1
    have hperm : stc.perms i = permW ||| permSC := if_pos ht
    rw [hperm] at hp
    have hsc : (permW ||| permSC) &&& permSC = permSC := by decide
    rw [Cap.has, beq_iff_eq, ← hsc, ← BitVec.and_assoc, hp]

end Sys2Proof.Proofs
end

section
/-! PROOFS. Atomics (R98, R99): their operations on bit vectors, and the atomics of the lanes of a served access. -/

namespace Sys2Proof.Proofs

open Sys2Proof Sys2Proof.Machine Sys2Proof.Safety Sys2Proof.Laws

/-! ### Numbers of n bytes -/

theorem leNat_lt (bs : List Byte) : leNat bs < 2 ^ (8 * bs.length) := by
  induction bs with
  | nil => decide
  | cons b bs ih =>
    have hb : b.toNat < 256 := b.isLt
    have hp : 2 ^ (8 * (b :: bs).length) = 256 * 2 ^ (8 * bs.length) := by rw [List.length_cons, Nat.mul_succ, Nat.pow_add, Nat.mul_comm]
    rw [leNat, hp]
    omega

theorem leNat_leBytes (n v : Nat) : leNat (leBytes n v) = v % 2 ^ (8 * n) := by
  induction n generalizing v with
  | zero => simp [leBytes, leNat, Nat.mod_one]
  | succ n ih =>
    have hp : 2 ^ (8 * (n + 1)) = 256 * 2 ^ (8 * n) := by rw [Nat.mul_succ, Nat.pow_add, Nat.mul_comm]
    rw [leBytes, leNat, ih, hp, Nat.mod_mul, BitVec.toNat_ofNat]

theorem leBytes_mod (n v : Nat) : leBytes n (v % 2 ^ (8 * n)) = leBytes n v := by
  induction n generalizing v with
  | zero => rfl
  | succ n ih =>
    have hp : 2 ^ (8 * (n + 1)) = 256 * 2 ^ (8 * n) := by rw [Nat.mul_succ, Nat.pow_add, Nat.mul_comm]
    rw [leBytes, leBytes, hp, Nat.mod_mul_right_div_self, ih]
    refine congrArg (· :: leBytes n (v / 256)) (BitVec.eq_of_toNat_eq ?_)
    rw [BitVec.toNat_ofNat, BitVec.toNat_ofNat]
    exact Nat.mod_mod_of_dvd _ (Dvd.intro _ rfl)

theorem num_lt (s : State) (a n : Nat) : s.num a n < 2 ^ (8 * n) := by
  have := leNat_lt (s.bytes a n)
  rwa [State.bytes, List.length_map, List.length_range] at this

/-! ### The operations of R98 -/

/-- The integer operations of an atomic are those on bit vectors. -/
theorem atomicValue_of_integer {op w : Nat} (h : op ≤ 8) (x y c : BitVec w) : atomicValue op w x y c = some (BitVec.ofNat w (atomicOp op w x.toNat y.toNat)) := by
  have hx : BitVec.ofNat w x.toNat = x := by simp
  have hy : BitVec.ofNat w y.toNat = y := by simp
  have pick : ∀ (p : Prop) [Decidable p] (a b : BitVec w), (if p then a else b) = BitVec.ofNat w (if p then a.toNat else b.toNat) := fun p _ a b => by
    split <;> simp
  unfold atomicValue atomicOp
  simp only [hx, hy, BitVec.sle_iff_toInt_le, BitVec.ule_iff_toNat_le]
  interval_cases op
  · exact congrArg some (BitVec.eq_of_toNat_eq (by simp))
  · exact congrArg some (pick _ x y)
  · exact congrArg some (pick _ y x)
  · exact congrArg some (pick _ x y)
  · exact congrArg some (pick _ y x)
  · exact congrArg some (by simp)
  · exact congrArg some (by simp)
  · exact congrArg some (by simp)
  · exact congrArg some hy.symm

/-- What an atomic stores is the value of R98. -/
theorem atomicNew_bytes {op n : Nat} (h : op ≤ 10) {m v c : Nat} (hm : m < 2 ^ (8 * n)) (hv : v < 2 ^ (8 * n)) (hc : c < 2 ^ (8 * n)) :
    (atomicNew op n m v c).map (leBytes n) =
      (atomicValue op (8 * n) (BitVec.ofNat (8 * n) m) (BitVec.ofNat (8 * n) v) (BitVec.ofNat (8 * n) c)).map fun r => leBytes n r.toNat := by
  have nat : ∀ {k : Nat}, k < 2 ^ (8 * n) → (BitVec.ofNat (8 * n) k).toNat = k := fun h => by rw [BitVec.toNat_ofNat, Nat.mod_eq_of_lt h]
  by_cases h8 : op ≤ 8
  · have h9 : op ≠ 9 := by omega
    have h10 : op ≠ 10 := by omega
    rw [atomicValue_of_integer h8, nat hm, nat hv, Option.map_some, BitVec.toNat_ofNat, leBytes_mod, atomicNew, if_neg h9, if_neg h10, Option.map_some]
  · by_cases h9 : op = 9
    · subst h9
      have heq : BitVec.ofNat (8 * n) m = BitVec.ofNat (8 * n) c ↔ m = c := by
        rw [← BitVec.toNat_inj, nat hm, nat hc]
      simp only [atomicNew, atomicValue, heq, if_true]
      split
      · simp [nat hv]
      · rfl
    · obtain rfl : op = 10 := by omega
      have hw : (8 * n = 64) ↔ n = 8 := by omega
      simp only [atomicNew, atomicValue, hw, nat hm, nat hv, BitVec.toNat_ofNat, Option.map_some, leBytes_mod]
      rfl

/-! ### An atomic at its home -/

section
variable {s t u : State} {x : Ctx} {a : Access} {p : Nat → Nat}

/-- What an atomic needs of its place: nobody looks at its line, and no port at its words. -/
structure Secluded (s : State) (q n : Nat) : Prop where
  line  : Unwatched s (q / 128)
  rings : ∀ j < n, OffRings s (q + j)

theorem Secluded.of_unwritten {q n : Nat} (C : Secluded s q n) (h : unwritten t = unwritten s) : Secluded t q n where
  line := (Proofs.of_unwritten (fun u => Unwatched u (q / 128)) (fun _ => rfl) h).mpr C.line
  rings j hj := (Proofs.of_unwritten (fun u => OffRings u (q + j)) (fun _ => rfl) h).mpr (C.rings j hj)

/-- The state after one lane's atomic. -/
def atomicState (n op : Nat) (arg : Nat × Nat) (q : Nat) (s : State) : State :=
  match atomicValue op (8 * n) (BitVec.ofNat (8 * n) (s.num q n)) (BitVec.ofNat (8 * n) arg.1) (BitVec.ofNat (8 * n) arg.2) with
  | some v => s.write q (leBytes n v.toNat)
  | none => s

theorem unwritten_atomicState (n op : Nat) (arg : Nat × Nat) (q : Nat) (s : State) : unwritten (atomicState n op arg q s) = unwritten s := by
  unfold atomicState
  split
  · exact unwritten_write s q _
  · rfl

theorem num_of_still (h : still t = still s) (q n : Nat) : t.num q n = s.num q n := of_still (fun u => u.num q n) (fun _ => rfl) h

theorem atomicState_still (h : still t = still s) (n op : Nat) (arg : Nat × Nat) (q : Nat) :
    still (atomicState n op arg q t) = still (atomicState n op arg q s) := by
  unfold atomicState
  rw [num_of_still h]
  split
  · exact still_store h q _ none
  · exact h

/-- An atomic that nobody looks at takes the value and puts its result, and changes nothing else but its bookkeeping. -/
theorem atomicAt_still (ha : Apart s) {q n op v c : Nat} (C : Secluded s q n) (ho : op ≤ 10) (hv : v < 2 ^ (8 * n)) (hc : c < 2 ^ (8 * n)) (w : Who) :
    (s.atomicAt w q op n v c).1 = s.num q n ∧ still (s.atomicAt w q op n v c).2 = still (atomicState n op (v, c) q s) := by
  have hb := atomicNew_bytes ho (num_lt s q n) hv hc
  unfold State.atomicAt atomicState
  generalize atomicValue op (8 * n) (BitVec.ofNat (8 * n) (s.num q n)) (BitVec.ofNat (8 * n) v) (BitVec.ofNat (8 * n) c) = r at hb
  simp only [txConflict_of_apart ha]
  cases hnew : atomicNew op n (s.num q n) v c with
  | none =>
    rw [hnew] at hb
    cases r with
    | none => exact ⟨rfl, still_dirRead s _ none⟩
    | some r => cases hb
  | some k =>
    rw [hnew] at hb
    cases r with
    | none => cases hb
    | some r =>
      have hbytes : leBytes n k = leBytes n r.toNat := Option.some.inj hb
      have hd := still_dirWrite s (q / 128) none
      have C1 : Secluded (s.dirWrite (q / 128) none) q n := C.of_unwritten (unwritten_of_still hd)
      refine ⟨rfl, ?_⟩
      simp only
      rw [maxed_of_offRings (fun j hj => C1.rings j (leBytes_length n k ▸ hj)), lineWritten_of_unwatched
        (C1.of_unwritten (unwritten_write _ _ _)).line, hbytes]
      exact still_store hd q (leBytes n r.toNat) none

theorem performAtomic_still (ha : Apart s) {q n op v c : Nat} (C : Secluded s q n) (ho : op ≤ 10) (hv : v < 2 ^ (8 * n)) (hc : c < 2 ^ (8 * n)) (w : Who)
    (via : Option PageKey) : (s.performAtomic w q op n v c via).1 = s.num q n ∧
      still (s.performAtomic w q op n v c via).2 = still (atomicState n op (v, c) q s) := by
  have hx := still_cross s (via.elim (s.dieOf w) fun k => sliceDie (s.translationSlice k)) (sliceDie (s.homeSlice q))
  obtain ⟨h1, h2⟩ := atomicAt_still (apart_of_still hx ha) (C.of_unwritten (unwritten_of_still hx)) ho hv hc w
  refine ⟨h1.trans (num_of_still hx q n), ?_⟩
  rw [State.performAtomic]
  exact (still_cross _ _ _).trans (h2.trans (atomicState_still hx n op (v, c) q))

/-! ### The atomics of the lanes -/

theorem nearDrop_of_noNear {w : Who} (h : NoNear s w) (line : Nat) :
    (match s.coreOf w with
      | some c => s.nearDrop c line
      | none => s) = s := by
  split
  · next c hc => rw [State.nearDrop, h c hc]; rfl
  · rfl

theorem atomicStep_eq (n op : Nat) (q : Nat → Nat) (arg : Nat → Nat × Nat) (r : State × List (Nat × Nat)) (i : Nat) :
    atomicStep n op q arg r i = (atomicState n op (arg i) (q i) r.1, r.2 ++ [(i, r.1.num (q i) n)]) := rfl

/-- What the lanes have got of their atomics. -/
def oldValues (returns : Bool) (n : Nat) (vs : List (Nat × Nat)) : List (Nat × List Byte × Bool) :=
  if returns then vs.map fun e => (e.1, leBytes n e.2, false) else []

theorem oldValues_append (returns : Bool) (n : Nat) (vs : List (Nat × Nat)) (e : Nat × Nat) :
    oldValues returns n vs ++ (if returns then [(e.1, leBytes n e.2, false)] else []) = oldValues returns n (vs ++ [e]) := by
  cases returns <;> simp [oldValues]

/-- The atomics of lanes outside transactions, performed as they issue, one after the other. -/
theorem foldl_atomic (ha : Apart s) (hn : NoNear s x.who) {q : Nat → Nat} {op : Nat} (ho : op ≤ 10) {arg : Nat → Nat × Nat} {returns : Bool}
    (hb : ∀ i, (arg i).1 < 2 ^ (8 * a.size) ∧ (arg i).2 < 2 ^ (8 * a.size)) {l : List Nat} (ht : ∀ i ∈ l, (x.g.lane i).tx = none)
    (C : ∀ i ∈ l, Secluded s (q i) a.size) {r : State × List (Nat × Nat)} (h : still t = still r.1) (hu : unwritten r.1 = unwritten s) :
    ∃ t', l.foldl (fun (g : Got) i => g.atomic x a q op (arg i).1 (arg i).2 false returns i) ⟨t, oldValues returns a.size r.2, [], []⟩ =
        ⟨t', oldValues returns a.size (l.foldl (atomicStep a.size op q arg) r).2, [], []⟩ ∧
      still t' = still (l.foldl (atomicStep a.size op q arg) r).1 := by
  induction l generalizing t r with
  | nil => exact ⟨t, rfl, h⟩
  | cons i l ih =>
    have hu' : unwritten t = unwritten s := (unwritten_of_still h).trans hu
    obtain ⟨h1, h2⟩ := performAtomic_still (apart_of_unwritten hu' ha) ((C i List.mem_cons_self).of_unwritten hu') ho (hb i).1 (hb i).2 x.who
      (some (a.key t x i))
    have hstep := atomicStep_eq a.size op q arg r i
    obtain ⟨t', ht', hs'⟩ := ih (t := (t.performAtomic x.who (q i) op a.size (arg i).1 (arg i).2 (some (a.key t x i))).2)
      (r := atomicStep a.size op q arg r i) (fun j hj => ht j (List.mem_cons_of_mem _ hj)) (fun j hj => C j (List.mem_cons_of_mem _ hj))
      (by rw [hstep]; exact h2.trans (atomicState_still h _ _ _ _)) (by rw [hstep]; exact (unwritten_atomicState _ _ _ _ _).trans hu)
    refine ⟨t', ?_, hs'⟩
    rw [List.foldl_cons, List.foldl_cons, ← ht']
    congr 1
    simp only [Got.atomic, ht i List.mem_cons_self, Option.isSome_none, Bool.false_eq_true, if_false]
    rw [hstep, ← oldValues_append, ← num_of_still h, ← h1]
    exact congrArg (fun v : State => Got.mk (v.performAtomic x.who (q i) op a.size (arg i).1 (arg i).2 (some (a.key v x i))).2
      (oldValues returns a.size r.2 ++ if returns then [(i, leBytes a.size (v.performAtomic x.who (q i) op a.size (arg i).1 (arg i).2
        (some (a.key v x i))).1, false)] else []) [] []) (nearDrop_of_noNear (noNear_of_unwritten hu' hn) (q i / 128))

theorem unwritten_atomics (n op : Nat) (q : Nat → Nat) (arg : Nat → Nat × Nat) (l : List Nat) (r : State × List (Nat × Nat)) :
    unwritten (l.foldl (atomicStep n op q arg) r).1 = unwritten r.1 :=
  foldl_keeps (fun r : State × List (Nat × Nat) => unwritten r.1) (fun r i => unwritten_atomicState n op (arg i) (q i) r.1) l r

/-- Every value that an atomic has read is one of its size. -/
theorem atomics_lt (n op : Nat) (q : Nat → Nat) (arg : Nat → Nat × Nat) (l : List Nat) (r : State × List (Nat × Nat))
    (h : ∀ e ∈ r.2, e.2 < 2 ^ (8 * n)) : ∀ e ∈ (l.foldl (atomicStep n op q arg) r).2, e.2 < 2 ^ (8 * n) := by
  induction l generalizing r with
  | nil => exact h
  | cons i l ih =>
    refine ih _ fun e he => ?_
    rw [atomicStep_eq] at he
    rcases List.mem_append.1 he with he | he
    · exact h e he
    · rw [List.mem_singleton.1 he]; exact num_lt _ _ _

theorem find_oldValues {n : Nat} {vs : List (Nat × Nat)} (h : ∀ e ∈ vs, e.2 < 2 ^ (8 * n)) (i : Nat) :
    (((oldValues true n vs).find? fun v => v.1 == i).map fun v => leNat v.2.1).getD 0 = ((vs.find? fun e => e.1 == i).map (·.2)).getD 0 := by
  rw [oldValues, if_pos rfl, List.find?_map, Option.map_map]
  change (Option.map (fun e : Nat × Nat => leNat (leBytes n e.2)) (vs.find? fun e => e.1 == i)).getD 0 = _
  cases hf : vs.find? fun e => e.1 == i with
  | none => rfl
  | some e => simp [leNat_leBytes, Nat.mod_eq_of_lt (h e (List.mem_of_find?_eq_some hf))]

theorem poisonedReads_of_served (S : Served s x a p) (hr : a.reads = true) (t : State) (m : Bool) (L : Looked s t) :
    poisonedReads a t { x with missed := m } (lookedUp a x p) = [] := by
  have h : ∀ i ∈ x.c.seats, t.badAt { x with missed := m } (lookedUp a x p i) a.size = false := sound_of_served S hr L
  exact ite_eq_left_iff.2 fun _ => poisonsBy_of_sound (x := { x with missed := m }) h

theorem untrailed_acquired {y : Ctx} (h : Untrailed t y) (z : Ctx) (acq : Bool) (sc : Nat) : Untrailed (acquired t z acq sc) y := fun q hq hc => by
  rw [acquired_keeps (f := fun u => u.partOf y.who) (fun _ _ => rfl)] at hq
  rw [acquired_keeps (f := fun u => u.part q) (fun _ _ => rfl)] at hc ⊢
  rw [acquired_keeps (f := State.picks) (fun _ _ => rfl)]
  exact h q hq hc

theorem bare_unless_sample (h : Untrailed t x) (a : Access) (skip : Bool) (addr : Nat) (e : TrailEnd) (later : Bool) (lead : Nat) :
    bare (if skip = true then t else t.sample x a addr e later lead) = bare t := by
  split
  · rfl
  · exact bare_sample h a addr e later lead

/-- ATOM and ATOMR of a served access that nobody looks at: lanes in ascending logical order each act on what those before them left. -/
theorem atomics_land (S : Served s x a p) (Q : Quiet s x a p) (hx : s.ctx? = some x) (hr : a.reads = true) (hw : a.whole = false) (h : Hdr) (d : Code)
    {op : Nat} (ho : op ≤ 10) (hb : ∀ i, (x.atomicArgs i d op a.size).1 < 2 ^ (8 * a.size) ∧ (x.atomicArgs i d op a.size).2 < 2 ^ (8 * a.size))
    (returns : Bool) :
    let r := (x.g.byLogical x.c.seats).foldl (atomicStep a.size op p fun i => x.atomicArgs i d op a.size) (s, [])
    LandsBare (.next (s.atomics x h a d op returns)) (acquired r.1 x (decide (a.ord = 2 ∨ a.ord = 4)) a.scope) x.who
      (x.advance (if returns then x.dst h.n d (widthOfBytes a.size) fun i => ((r.2.find? fun e => e.1 == i).map (·.2)).getD 0 else x.g)) := by
  intro r
  have hlanes : a.lanes x = x.c.seats := by rw [Access.lanes, hw]; rfl
  have hmem : ∀ i ∈ x.g.byLogical x.c.seats, i ∈ x.c.seats := fun i hi => (mem_byLogical ..).1 hi
  have haddr : ∀ i ∈ x.g.byLogical x.c.seats, lookedUp a x p i = p i := fun i hi => by
    rw [lookedUp_eq S.mapped (hmem i hi), slotLane, hw]; rfl
  obtain ⟨t, m, L, hacc⟩ := withAccess_of_served S (poisonedReads_of_served S hr) (go := _)
  have hbits := bits_of_looked S L
  have hpkg : ∀ i ∈ x.c.seats, (a.cap i).pkg = t.regs.pkg := fun i hi => near_of_looked S L i (List.mem_append_right _ hi)
  obtain ⟨t', hfold, hs'⟩ := foldl_atomic (x := { x with missed := m }) (a := a) (q := lookedUp a x p) (l := x.g.byLogical x.c.seats)
    (arg := fun i => x.atomicArgs i d op a.size) (returns := returns) (r := (s, [])) S.apart Q.cache ho hb (fun i hi => S.noTx i (hmem i hi))
    (fun i hi => haddr i hi ▸ ⟨Q.lines i (hlanes ▸ hmem i hi), Q.rings i (hlanes ▸ hmem i hi)⟩) L.same rfl
  have hstep : (x.g.byLogical x.c.seats).foldl (atomicStep a.size op (lookedUp a x p) fun i => x.atomicArgs i d op a.size) (s, []) = r :=
    List.foldl_ext _ _ _ fun u i hi => by rw [atomicStep_eq, atomicStep_eq, haddr i hi]
  rw [hstep] at hfold hs'
  have hu' : unwritten t' = unwritten s := (unwritten_of_still hs').trans (unwritten_atomics ..)
  have hg' : t'.group? ({ x with missed := m } : Ctx).who = some ({ x with missed := m } : Ctx).g :=
    (of_unwritten (fun u => u.group? x.who) (fun _ => by cases x.who <;> rfl) hu').trans (group_of_ctx hx)
  have hrest : t'.rest { x with missed := m } [] = { x with missed := m } := rest_nil hg'
  have hplain : ({ x with missed := m } : Ctx).plain = true := plain_of_noTx S.seats S.noTx
  have hacq := acquire_served S m hg'
  have hbare : bare (acquired t' { x with missed := m } (decide (a.ord = 2 ∨ a.ord = 4)) a.scope) =
    bare (acquired r.1 x (decide (a.ord = 2 ∨ a.ord = 4)) a.scope) := acquired_of_bare (bare_of_still hs') _ _ _
  have hseats : x.c.seats.isEmpty = false := by simpa using S.seats
  have hdst : (if returns then x.dst h.n d (widthOfBytes a.size) fun i =>
        (((oldValues returns a.size r.2).find? fun v => v.1 == i).map fun v => leNat v.2.1).getD 0 else x.g) =
      if returns then x.dst h.n d (widthOfBytes a.size) fun i => ((r.2.find? fun e => e.1 == i).map (·.2)).getD 0 else x.g := by
    cases returns with
    | false => rfl
    | true => exact dst_congr_seats S.seats (fun i _ => find_oldValues (atomics_lt _ _ _ _ _ _ (fun _ he => absurd he List.not_mem_nil)) i) fun _ _ => rfl
  rw [State.atomics, hacc]
  clear hacc
  have hargs : ∀ i, ({ x with missed := m } : Ctx).atomicArgs i d op a.size = x.atomicArgs i d op a.size := fun _ => rfl
  have hold : (if returns = true then t.remoteOld { x with missed := m } a [] op (fun i => x.atomicArgs i d op a.size) else []) =
      oldValues returns a.size (s, ([] : List (Nat × Nat))).2 := by cases returns <;> rfl
  simp only [filter_remote hpkg, filter_not_remote hpkg, List.isEmpty_nil, if_true, takeAnswers_nil, ite_self, bit_of_nil hbits,
    countLanes_of_thresh (thresh_of_looked S L), hargs, hold, hfold, abort_nil, hrest, hseats,
    hplain, Bool.and_true, hacq, Bool.false_eq_true, if_false, List.foldl_nil]
  have ht' : Untrailed (acquired t' { x with missed := m } (decide (a.ord = 2 ∨ a.ord = 4)) a.scope) x :=
    untrailed_acquired (untrailed_of_unwritten S hu') _ _ _
  rw [← hdst]
  exact retire_landsBare ((bare_unless_sample (x := { x with missed := m }) ht' a _ _ _ _ _).trans hbare) { x with missed := m } h _

end

/-- The operand and the compare value of an atomic are of its size. -/
theorem atomicArgs_lt {n : Nat} (hn : n = 4 ∨ n = 8) (x : Ctx) (i : Nat) (d : Code) (op : Nat) :
    (x.atomicArgs i d op n).1 < 2 ^ (8 * n) ∧ (x.atomicArgs i d op n).2 < 2 ^ (8 * n) := by
  have hone : bitsOf (widthOfBytes n) = 8 * n := by rcases hn with rfl | rfl <;> rfl
  have htwo : bitsOf (widthOfBytes (2 * n)) = 8 * n + 8 * n := by rcases hn with rfl | rfl <;> rfl
  unfold Ctx.atomicArgs
  split
  · have := srcN_lt x i d (widthOfBytes (2 * n))
    rw [htwo, Nat.pow_add] at this
    exact ⟨Nat.div_lt_of_lt_mul this, Nat.mod_lt _ (Nat.two_pow_pos _)⟩
  · have := srcN_lt x i d (widthOfBytes n)
    rw [hone] at this
    exact ⟨this, Nat.two_pow_pos _⟩

/-- The sizes and operations of atomics (R98). -/
theorem atomic_wellFormed {h : Hdr} {d off : BitVec 7} {cap : BitVec 4} {imm : BitVec 5}
    (hw : wellFormed (.atom h d cap off imm) = true ∨ wellFormed (.atomr h d cap off imm) = true) :
    (sizeBytes 4 h.size = 4 ∨ sizeBytes 4 h.size = 8) ∧ h.aop ≤ 10 := by
  have hs : ([0, 3, 4].contains h.size && decide (h.aop ≤ 10)) = true := by
    rcases hw with hw | hw
    · exact List.all_eq_true.1 hw (.size, _) (List.mem_cons_of_mem _ List.mem_cons_self)
    · exact List.all_eq_true.1 hw (.size, _) List.mem_cons_self
  simp only [Bool.and_eq_true, List.contains_eq_mem, decide_eq_true_eq, List.mem_cons, List.not_mem_nil, or_false] at hs
  obtain ⟨hsize, hop⟩ := hs
  refine ⟨?_, hop⟩
  rcases hsize with h | h | h <;> simp [h, sizeBytes]

/-- Settles O18: both are the fold of one lane's atomic over the lanes in logical order. -/
theorem atomicsAtTheirHome : Obligations.AtomicsAtTheirHome := by
  intro h d cap off imm s x p n arg os atom atomr r after
  refine ⟨fun hw hf S Q => ?_, fun hw hf S Q => ?_, fun h10 => ⟨?_, ?_⟩⟩
  · obtain ⟨hn, ho⟩ := atomic_wellFormed (.inl hw)
    have he : exec (.atom h d cap off imm) s = .next (s.atomics x h atom d h.aop false) :=
      withOps_of_free (os := fun _ => atomicOpds h d cap off) hf
    rw [he]
    exact atomics_land S Q hf.issuer rfl rfl h d ho (fun i => atomicArgs_lt hn x i d h.aop) false
  · obtain ⟨hn, ho⟩ := atomic_wellFormed (.inr hw)
    have he : exec (.atomr h d cap off imm) s = .next (s.atomics x h atomr d h.aop true) :=
      withOps_of_free (os := fun _ => atomicOpds h d cap off) hf
    rw [he]
    exact atomics_land S Q hf.issuer rfl rfl h d ho (fun i => atomicArgs_lt hn x i d h.aop) true
  · exact Bool.eq_false_iff.2 fun hw => absurd (atomic_wellFormed (.inl hw)).2 (by omega)
  · exact Bool.eq_false_iff.2 fun hw => absurd (atomic_wellFormed (.inr hw)).2 (by omega)

end Sys2Proof.Proofs
end

section
/-! PROOFS. Fences, prefetches and cache control (R100 to R102, R302, R318). -/

namespace Sys2Proof.Proofs

open Sys2Proof Sys2Proof.Machine Sys2Proof.Safety Sys2Proof.Laws

/-! ### States with the same memory and the same groups -/

/-- Memory stands, and so does every group but a control core's with a transaction open. -/
structure Fetched (s t : State) : Prop where
  memory : t.mem = s.mem ∧ t.tags = s.tags ∧ t.poison = s.poison ∧ t.keyed = s.keyed
  groups : ∀ w, ((s.group? w).any fun g => isSolo w && (g.lane 0).tx.isSome) = false → t.group? w = s.group? w

theorem Fetched.refl (s : State) : Fetched s s := ⟨⟨rfl, rfl, rfl, rfl⟩, fun _ _ => rfl⟩

theorem Fetched.trans {s t u : State} (h : Fetched s t) (k : Fetched t u) : Fetched s u where
  memory := ⟨k.memory.1.trans h.memory.1, k.memory.2.1.trans h.memory.2.1, k.memory.2.2.1.trans h.memory.2.2.1, k.memory.2.2.2.trans h.memory.2.2.2⟩
  groups w hw := by
    have h1 := h.groups w hw
    exact (k.groups w (by rw [h1]; exact hw)).trans h1

theorem foldl_fetched {α : Type} {f : State → α → State} (h : ∀ s i, Fetched s (f s i)) (l : List α) (s : State) : Fetched s (l.foldl f s) := by
  induction l generalizing s with
  | nil => exact .refl s
  | cons i l ih => exact (h s i).trans (ih _)

theorem group?_setCtl_other (s : State) {n : Nat} {w : Who} (k : Ctl) (h : w ≠ .ctl n) : (s.setCtl n k).group? w = s.group? w := by
  cases w with
  | grp g => rfl
  | ctl m =>
    have hm : m ≠ n := fun he => h (by rw [he])
    simp [State.group?, State.setCtl, State.ctl, hm]

/-- An abort on a control core leaves memory and the other threads. -/
theorem fetched_abort (s : State) (n : Nat) (c : AbortCause) : Fetched s (s.abort (.ctl n) [0] c) := by
  unfold State.abort
  split
  · exact .refl s
  · next g hg =>
    simp only
    split
    · exact .refl s
    · next ho =>
      have hopen : (g.lane 0).tx.isSome = true := by
        cases h : (g.lane 0).tx.isSome with
        | true => rfl
        | false => simp [h] at ho
      have hf : ([0].filter fun i => (g.lane i).tx.isSome) = [0] := by simp [hopen]
      refine ⟨?_, fun w hw => ?_⟩
      · simp only [hf, List.foldl_cons, List.foldl_nil]
        exact ⟨rfl, rfl, rfl, rfl⟩
      · have hne : w ≠ .ctl n := by
          rintro rfl
          rw [hg] at hw
          simp [isSolo, hopen] at hw
        simp only [hf, List.foldl_cons, List.foldl_nil]
        rw [setGroup_other _ _ _ _ hne, group?_setCtl_other _ _ hne]
        cases w <;> rfl

theorem fetched_txConflict (s : State) (e : Option Nat) (l : Nat) (w : Bool) : Fetched s (s.txConflict e l w) := by
  refine foldl_fetched (fun s k => ?_) _ s
  have hbit : Fetched s s.bit.2 := ⟨⟨rfl, rfl, rfl, rfl⟩, fun w _ => by cases w <;> rfl⟩
  have hone : ∀ (b : Bool) (u : State), Fetched s u → Fetched s (if b then u.abort (.ctl k.1) [0] .conflict else u) := fun b u hu => by
    cases b
    · exact hu
    · exact hu.trans (fetched_abort u k.1 _)
  split
  · next b u hbu =>
    split at hbu
    · obtain ⟨rfl, rfl⟩ := Prod.mk.inj hbu; exact hone _ _ (.refl s)
    · exact hone b u (by rw [← show s.bit.2 = u from congrArg Prod.snd hbu]; exact hbit)

/-- What changes neither memory nor a thread. -/
theorem fetched_of_same {s t : State} (hm : (t.mem, t.tags, t.poison, t.keyed) = (s.mem, s.tags, s.poison, s.keyed))
    (hc : t.ctls = s.ctls) (hg : t.groups = s.groups) : Fetched s t where
  memory := by
    obtain ⟨h1, h⟩ := Prod.mk.inj hm
    obtain ⟨h2, h⟩ := Prod.mk.inj h
    obtain ⟨h3, h4⟩ := Prod.mk.inj h
    exact ⟨h1, h2, h3, h4⟩
  groups w _ := by
    cases w with
    | grp k => exact congrArg (fun m : FMap Group => m.get? k) hg
    | ctl n => simp only [State.group?, State.ctl, hc]

theorem fetched_of_still {s t : State} (h : still t = still s) : Fetched s t :=
  fetched_of_same (of_still (fun u => (u.mem, u.tags, u.poison, u.keyed)) (fun _ => rfl) h) (of_still State.ctls (fun _ => rfl) h)
    (of_still State.groups (fun _ => rfl) h)

theorem fetched_nearDrop (s : State) (c line : Nat) : Fetched s (s.nearDrop c line) := by
  unfold State.nearDrop
  simp only
  split
  · exact .refl s
  · exact fetched_of_same rfl rfl rfl

theorem fetched_nearFill (s : State) (c sector : Nat) : Fetched s (s.nearFill c sector) := by
  have room : Fetched s (s.nearRoom c (sector / 4)) := by
    unfold State.nearRoom
    simp only
    split
    · exact .refl s
    · exact Fetched.trans (t := s.pick.2) (fetched_of_same rfl rfl rfl) (fetched_nearDrop _ _ _)
  unfold State.nearFill
  split
  · exact .refl s
  · exact room.trans (fetched_of_same rfl rfl rfl)

theorem fetched_prefetch (s : State) (c sector : Nat) : Fetched s (s.prefetch c sector) := by
  unfold State.prefetch
  split
  · exact .refl s
  · exact ((fetched_txConflict s _ _ _).trans (fetched_of_still (still_dirRead _ _ none))).trans (fetched_nearFill _ c sector)

/-! ### Ends -/

/-- A control core's thread has a transaction open. -/
def inTx (s : State) (w : Who) : Bool := (s.group? w).any fun g => isSolo w && (g.lane 0).tx.isSome

theorem inTx_grp (s : State) (k : Nat) : inTx s (.grp k) = false := by
  unfold inTx
  cases s.group? (.grp k) <;> rfl

theorem inTx_of_apart {s : State} (ha : Apart s) (w : Who) : inTx s w = false := by
  cases w with
  | grp k => exact inTx_grp s k
  | ctl n =>
    have ht : ((s.ctl n).thread.lane 0).tx = none := by
      rw [State.ctl, FMap.getD]
      cases hk : s.ctls.get? n with
      | none => rfl
      | some k => exact ha _ (mem_of_get hk)
    unfold inTx
    rw [State.group?]
    split
    · simp [ht]
    · rfl

/-- An instruction that retires over a state with the same memory and other threads leaves them so. -/
theorem ends_of_fetched {s u : State} {x : Ctx} (hg : u.group? x.who = some x.g) (F : Fetched s u) (h : Hdr) {P : State → Prop}
    (hP : ∀ g' more, P { ({ u with cur := none }.setGroup x.who g') with agenda := u.agenda ++ more }) :
    Ends (.next (u.retire x h x.g)) x.who (x.advance x.g) fun t _ =>
      ((t.mem = s.mem ∧ t.tags = s.tags ∧ t.poison = s.poison ∧ t.keyed = s.keyed) ∧
        ∀ w, w ≠ x.who → inTx s w = false → t.group? w = s.group? w) ∧ P t := by
  refine ends_of_lands (retire_lands u x h x.g) hg fun g' more _ => ⟨⟨?_, fun w hw ht => ?_⟩, hP g' more⟩
  · cases x.who <;> exact F.memory
  · have h1 : ({ u with cur := none } : State).group? w = u.group? w := by cases w <;> rfl
    have h2 := (setGroup_other { u with cur := none } x.who w g' hw).trans (h1.trans (F.groups w ht))
    rw [← h2]
    cases w <;> rfl

theorem ends_mono {r : Result} {w : Who} {g : Group} {P Q : State → Group → Prop} (h : Ends r w g P) (hPQ : ∀ t g', P t g' → Q t g') : Ends r w g Q := by
  obtain ⟨t, g', hr, hc, hg, hk, hp⟩ := h
  exact ⟨t, g', hr, hc, hg, hk, hPQ t g' hp⟩

/-! ### Lines that leave the caches -/

theorem mem_foldl_sInsert (l : List Nat) (k : Nat) : k ∈ l.foldl sInsert [] ↔ k ∈ l := by
  suffices h : ∀ out, k ∈ l.foldl sInsert out ↔ k ∈ out ∨ k ∈ l from (h []).trans (by simp)
  induction l with
  | nil => simp
  | cons j l ih =>
    intro out
    rw [List.foldl_cons, ih, mem_sInsert, List.mem_cons]
    tauto

/-- No copy stays of a line that a control core drops, and none comes. -/
theorem evict_copies (s : State) (n l : Nat) (e : Nat × Nat) : e ∈ (s.evict n l).copies ↔ e ∈ s.copies ∧ e ≠ (n, l) := by
  unfold State.evict
  split
  · next h =>
    simp only [List.contains_eq_mem, Bool.not_eq_true', decide_eq_false_iff_not] at h
    exact ⟨fun he => ⟨he, fun hn => h (hn ▸ he)⟩, And.left⟩
  · simp [State.dropCopy]

theorem foldl_evict_copies (n : Nat) (ls : List Nat) (s : State) (e : Nat × Nat) :
    e ∈ (ls.foldl (fun (s : State) l => s.evict n l) s).copies ↔ e ∈ s.copies ∧ ∀ l ∈ ls, e ≠ (n, l) := by
  induction ls generalizing s with
  | nil => simp
  | cons l ls ih => rw [List.foldl_cons, ih, evict_copies]; simp [and_assoc]

theorem fetched_evict (s : State) (n l : Nat) : Fetched s (s.evict n l) := by
  unfold State.evict
  split
  · exact .refl s
  · exact fetched_of_same rfl rfl rfl

/-- No near copy stays of a line that is dropped, and none comes. -/
theorem nearDrop_near (s : State) (c l : Nat) (e : Nat × NearSector) :
    e ∈ ((s.nearDrop c l).core c).near ↔ e ∈ (s.core c).near ∧ e.1 / 4 ≠ l := by
  unfold State.nearDrop
  simp only
  split
  · next h => rw [List.isEmpty_iff.1 h]; simp
  · simp [State.core, State.setCore]

theorem foldl_nearDrop_near (c : Nat) (ls : List Nat) (s : State) (e : Nat × NearSector) :
    e ∈ ((ls.foldl (fun (s : State) l => s.nearDrop c l) s).core c).near ↔ e ∈ (s.core c).near ∧ ∀ l ∈ ls, e.1 / 4 ≠ l := by
  induction ls generalizing s with
  | nil => simp
  | cons l ls ih => rw [List.foldl_cons, ih, nearDrop_near]; simp [and_assoc]

/-! ### The instructions -/

section
variable {s : State} {x : Ctx} {p : Nat → Nat} {h : Hdr} {q : BitVec 4} {quad slice : Bool} {g : BitVec 7}

theorem free_nil (hx : s.ctx? = some x) (lanes : List Nat) : Free s x [] [] lanes where
  issuer := hx
  window := by simp
  holds := by simp
  status := by simp
  owed := by simp
  latch := by simp
  flags := by simp
  sound _ _ := rfl

theorem fence_lands (hx : s.ctx? = some x) (hf : x.g.failed = []) (hu : s.unperformed x.who = false) (hm : s.matrixPending x.who = false) :
    Lands (exec (.fence h) s) (acquired s x (h.ord ≠ 3) h.sc) x.who (x.advance x.g) := by
  have ha : (if h.ord = 3 then s else s.acquire x.who (if h.sc = 0 then 6 else h.sc)) = acquired s x (h.ord ≠ 3) h.sc := by
    split
    · next h3 => simp [h3]
    · next h3 =>
      rw [acquire_eq (group_of_ctx hx), decide_eq_true h3]
      split
      · next h0 => exact acquired_wide s x true (by decide) (.inl h0)
      · rfl
  change Lands (execFence h s) _ _ _
  rw [execFence, withCtx_of_ctx? hx, hm, Bool.and_false, if_neg (by decide), release_of_order ⟨hf, hu⟩, ha]
  exact retire_lands _ x h x.g

/-- One lane's fetches of a PFETCH. -/
def fetchLane (x : Ctx) (a : Access) (on : Bool) (s : State) (i : Nat) : State :=
  match s.coreOf x.who, s.peek (a.key s x i) (a.offset i) with
  | some c, some p =>
    if on && !a.remote s i && (s.check x.who x.g.team (a.cap i) (a.e i) 1 [1] permR true).isNone then
      if s.bit.1 then (List.range 4).foldl (fun (s : State) j => s.prefetch c (p / 128 * 4 + j)) s.bit.2 else s.bit.2
    else s
  | _, _ => s

theorem fetched_fetchLane (x : Ctx) (a : Access) (on : Bool) (s : State) (i : Nat) : Fetched s (fetchLane x a on s i) := by
  have hbit : Fetched s s.bit.2 := fetched_of_same rfl rfl rfl
  unfold fetchLane
  split
  · split
    · split
      · exact hbit.trans (foldl_fetched (fun s j => fetched_prefetch s _ _) _ _)
      · exact hbit
    · exact .refl s
  · exact .refl s

theorem execPfetch_eq (hf : Free s x ([opd g .w32] ++ capOpd q quad) []) : exec (.pfetch h q quad slice g) s =
    .next ((x.c.seats.foldl (fetchLane x (lineAccess x q quad g fun _ => permR)
      (((s.partOf x.who).any fun p => (s.part p).pfMode != 0) && !slice)) s).retire x h x.g) :=
  withOps_of_free (os := fun _ => opd g .w32 :: capOpd q quad) (reads := fun _ => []) hf

/-- A control core fetches nothing into a near cache. -/
theorem fetchLane_ctl {n : Nat} (hw : x.who = .ctl n) (a : Access) (on : Bool) (l : List Nat) : l.foldl (fetchLane x a on) s = s :=
  List.foldlRecOn l (motive := (· = s)) _ rfl fun u hu i _ => by rw [fetchLane, hw]; exact hu

theorem pfetch_ends (hf : Free s x ([opd g .w32] ++ capOpd q quad) []) :
    Ends (exec (.pfetch h q quad slice g) s) x.who (x.advance x.g) fun t _ =>
      (t.mem = s.mem ∧ t.tags = s.tags ∧ t.poison = s.poison ∧ t.keyed = s.keyed) ∧
        ∀ w, w ≠ x.who → inTx s w = false → t.group? w = s.group? w := by
  rw [execPfetch_eq hf]
  generalize hu : x.c.seats.foldl _ s = u
  have F : Fetched s u := hu ▸ foldl_fetched (fetched_fetchLane x _ _) x.c.seats s
  have hg : u.group? x.who = some x.g := by
    cases hw : x.who with
    | grp k => exact (F.groups _ (inTx_grp s k)).trans (hw ▸ group_of_ctx hf.issuer)
    | ctl n => rw [← hu, fetchLane_ctl hw]; exact hw ▸ group_of_ctx hf.issuer
  exact ends_mono (ends_of_fetched hg F h (P := fun _ => True) fun _ _ => trivial) fun _ _ => And.left

/-- The state over which a CWB ends: a control core's modified copies of the lines are written back. -/
def writtenBack (s : State) (w : Who) (lines : List Nat) : State :=
  match ctlOf w with
  | some n => { s with dirty := s.dirty.filter fun d => !(d.1 == n && lines.contains d.2) }
  | none => s

theorem still_writtenBack (s : State) (w : Who) (lines : List Nat) : still (writtenBack s w lines) = still s := by
  unfold writtenBack; split <;> rfl

theorem writtenBack_dirty {n : Nat} (s : State) {lines : List Nat} {l : Nat} (hl : l ∈ lines) : (n, l) ∉ (writtenBack s (.ctl n) lines).dirty := by
  simp [writtenBack, ctlOf, hl]

/-- The lines of an access of memory control. -/
def linesOf (x : Ctx) (p : Nat → Nat) : List Nat := x.c.seats.map fun i => p i / 128

/-- The lines that a served access of every lane touches. -/
theorem served_lines {a : Access} {t : State} (S : Served s x a p) (hw : a.whole = false) (L : Looked s t) :
    ((x.c.seats.filter fun i => !a.remote t i).map fun i => lookedUp a x p i / 128) = linesOf x p := by
  rw [filter_not_remote fun i hi => near_of_looked S L i (List.mem_append_right _ hi)]
  exact List.map_congr_left fun i hi => by rw [lookedUp_eq S.mapped hi, slotLane, hw]; rfl

theorem execCwb_eq (hf : Free s x ([opd g .w32] ++ capOpd q quad))
    (S : Served s x (lineAccess x q quad g fun i => if (x.capOf i q quad).has permR then permR else permW) p) :
    ∃ t m, still t = still s ∧ exec (.cwb h q quad slice g) s = .next ((writtenBack t x.who (linesOf x p)).retire { x with missed := m } h x.g) := by
  obtain ⟨t, m, L, hacc⟩ := withAccess_of_served S (poisons := fun _ _ _ => []) (fun _ _ _ => rfl) (go := _)
  have hlines := served_lines S rfl L
  refine ⟨t, m, L.same, (withOps_of_free (os := fun _ => opd g .w32 :: capOpd q quad) hf).trans (congrArg _ (hacc.trans ?_))⟩
  simp only [hlines, countLanes_of_thresh (thresh_of_looked S L)]
  rfl

/-- The state over which a CINV ends: the core's copies of the lines are dropped. -/
def dropped (s : State) (w : Who) (lines : List Nat) : State :=
  match ctlOf w, s.coreOf w with
  | some n, _ => lines.foldl (fun (s : State) l => s.evict n l) s
  | none, some c => lines.foldl (fun (s : State) l => s.nearDrop c l) s
  | none, none => s

theorem fetched_dropped (s : State) (w : Who) (lines : List Nat) : Fetched s (dropped s w lines) := by
  unfold dropped
  split
  · exact foldl_fetched (fun s l => fetched_evict s _ l) lines s
  · exact foldl_fetched (fun s l => fetched_nearDrop s _ l) lines s
  · exact .refl s

theorem dropped_copies {n : Nat} (s : State) {lines : List Nat} {l : Nat} (hl : l ∈ lines) : (n, l) ∉ (dropped s (.ctl n) lines).copies := fun h =>
  ((foldl_evict_copies n lines s _).1 h).2 l hl rfl

theorem dropped_near {w : Who} {c : Nat} (hc : s.coreOf w = some c) {lines : List Nat} {l k : Nat} (hl : l ∈ lines)
    (hk : ((dropped s w lines).core c).near.get? k ≠ none) : k / 4 ≠ l := by
  obtain ⟨v, hv⟩ := Option.ne_none_iff_exists'.1 hk
  cases w with
  | ctl n => cases hc
  | grp g =>
    have : dropped s (.grp g) lines = lines.foldl (fun (s : State) l => s.nearDrop c l) s := by simp only [dropped, ctlOf, hc]
    rw [this] at hv
    exact ((foldl_nearDrop_near c lines s _).1 (mem_of_get hv)).2 l hl

theorem execCinv_eq (hf : Free s x ([opd g .w32] ++ capOpd q quad)) (S : Served s x (lineAccess x q quad g fun _ => permR) p) :
    ∃ t m, still t = still s ∧ exec (.cinv h q quad g) s =
      .next ((dropped t x.who ((linesOf x p).foldl sInsert [])).retire { x with missed := m } h x.g) := by
  obtain ⟨t, m, L, hacc⟩ := withAccess_of_served S (poisons := fun _ _ _ => []) (fun _ _ _ => rfl) (go := _)
  have hlines := served_lines S rfl L
  have hfar : (x.c.seats.filter fun i => (lineAccess x q quad g fun _ => permR).remote t i) = [] := filter_remote fun i hi =>
    near_of_looked S L i (List.mem_append_right _ hi)
  have hx : t.group? x.who = some x.g := (group_of_still L.same x.who).trans (group_of_ctx hf.issuer)
  have hg : (dropped t x.who ((linesOf x p).foldl sInsert [])).group? ({ x with missed := m } : Ctx).who = some ({ x with missed := m } : Ctx).g :=
    ((fetched_dropped t x.who _).groups x.who (inTx_of_apart (apart_of_still L.same S.apart) _)).trans hx
  refine ⟨t, m, L.same, (withOps_of_free (os := fun _ => opd g .w32 :: capOpd q quad) hf).trans (congrArg _ (hacc.trans ?_))⟩
  have hrest := rest_nil hg
  have hgone : ∀ v : Group, (x.c.seats.filter fun i => (x.g.lane i).tx.isSome && (v.lane i).tx.isNone) = [] := fun v =>
    List.filter_eq_nil_iff.2 fun i hi => by simp [S.noTx i hi]
  have hseats : x.c.seats.isEmpty = false := by simpa using S.seats
  have htx : isSolo x.who = true → (x.g.lane 0).tx = none := fun hs => by
    have ht := inTx_of_apart S.apart x.who
    rw [inTx, group_of_ctx hf.issuer, Option.any_some, hs, Bool.true_and] at ht
    exact Option.not_isSome_iff_eq_none.1 (by rw [ht]; decide)
  simp only [hlines, hfar, List.flatMap_nil, List.append_nil, hgone,
    countLanes_of_thresh (thresh_of_looked S L)]
  cases hw : x.who with
  | ctl n =>
    rw [hw] at hrest htx
    simp only [ctlOf, htx rfl, Option.any_none, Bool.false_eq_true, if_false]
    rw [show ((linesOf x p).foldl sInsert []).foldl (fun (s : State) l => s.evict n l) t = dropped t (.ctl n) ((linesOf x p).foldl sInsert []) from rfl,
      hrest]
    exact if_neg (by rw [hseats]; decide)
  | grp k =>
    rw [hw] at hrest
    cases hc : t.coreOf (.grp k) <;>
    · simp only [dropped, ctlOf, hc] at hrest ⊢
      simp only [hrest]
      exact if_neg (by rw [hseats]; decide)

end

/-- Settles O19: fences through the acquire, the others through the state over which each retires. -/
theorem fencesAndCacheControl : Obligations.FencesAndCacheControl := by
  intro h q quad slice g s x p a b os memory same fetched
  have hline : ∀ {i : Nat}, i ∈ x.c.seats → p i / 128 ∈ linesOf x p := fun hi => List.mem_map_of_mem hi
  have all : ∀ {t : State}, Apart s → (memory t ∧ ∀ w, w ≠ x.who → inTx s w = false → t.group? w = s.group? w) → same t := fun ha ht =>
    ⟨ht.1, fun w hw => ht.2 w hw (inTx_of_apart ha w)⟩
  refine ⟨fence_lands, pfetch_ends, fun hf S => ?_, fun hf S => ?_, fun hf S => ?_, fun hx ht => ?_⟩
  · obtain ⟨t, m, hs, he⟩ := execCwb_eq (h := h) (slice := slice) hf S
    rw [he]
    exact retire_landsBare ((bare_of_still (still_writtenBack t x.who _)).trans (bare_of_still hs)) { x with missed := m } h x.g
  · obtain ⟨t, m, hs, he⟩ := execCwb_eq (h := h) (slice := slice) hf S
    have hb := (still_writtenBack t x.who (linesOf x p)).trans hs
    rw [he]
    refine ends_mono (ends_of_fetched (x := { x with missed := m }) (P := fun t => ∀ n i, x.who = .ctl n → i ∈ x.c.seats → (n, p i / 128) ∉ t.dirty)
      ((group_of_still hb x.who).trans (group_of_ctx hf.issuer)) (fetched_of_still hb) h fun g' more n i hw hi => ?_) fun t _ ht => ⟨all S.apart ht.1, ht.2⟩
    simp only [hw]
    exact writtenBack_dirty t (hline hi)
  · obtain ⟨t, m, hs, he⟩ := execCinv_eq (h := h) hf S
    have F := (fetched_of_still hs).trans (fetched_dropped t x.who ((linesOf x p).foldl sInsert []))
    have hl : ∀ {i : Nat}, i ∈ x.c.seats → p i / 128 ∈ (linesOf x p).foldl sInsert [] := fun hi => (mem_foldl_sInsert ..).2 (hline hi)
    rw [he]
    refine ends_mono (ends_of_fetched (x := { x with missed := m }) (P := fun t =>
      (∀ n i, x.who = .ctl n → i ∈ x.c.seats → (n, p i / 128) ∉ t.copies) ∧
      ∀ c i k, s.coreOf x.who = some c → i ∈ x.c.seats → (t.core c).near.get? k ≠ none → k / 4 ≠ p i / 128)
      ((F.groups x.who (inTx_of_apart S.apart _)).trans (group_of_ctx hf.issuer)) F h fun g' more => ⟨fun n i hw hi => ?_, fun c i k hc hi hk => ?_⟩)
      fun t _ ht => ⟨all S.apart ht.1, ht.2⟩
    · simp only [hw]
      exact dropped_copies t (hl hi)
    · have hc' : t.coreOf x.who = some c := (of_still (fun u => u.coreOf x.who) (fun _ => by cases x.who <;> rfl) hs).trans hc
      refine dropped_near hc' (hl hi) ?_
      cases hw : x.who <;> (simp only [hw] at hk; exact hk)
  · change Lands (execIfence h s) _ _ _
    rw [execIfence, groupOp_of_free (os := fun _ => []) (reads := fun _ => []) (lanes := fun x => x.readers) (free_nil hx x.readers) ht]
    exact retire_lands _ x h _

end Sys2Proof.Proofs
end

section
/-! PROOFS. Copies (R110, R111, R256): how COPY and COPY2 start one. -/

namespace Sys2Proof.Proofs

open Sys2Proof Sys2Proof.Machine Sys2Proof.Safety Sys2Proof.Laws

/-! ### An engine takes its lines -/

theorem notes_of_still {s t : State} (h : still t = still s) : t.notes = s.notes := of_still State.notes (fun _ => rfl) h

/-- What an engine can take depends on the line's entry, and on what bookkeeping leaves still. -/
theorem engineCan_congr {s t : State} (h : still t = still s) {l : Nat} (hd : t.dirAt l = s.dirAt l) (core : Nat) (w : Bool) :
    t.engineCan core l w = s.engineCan core l w := by
  have hb : t.blocked l w = s.blocked l w := by rw [blocked_eq, blocked_eq, hd, heldBeside_of_still h]
  rw [State.engineCan, State.engineCan, State.owns, State.owns, State.mayTake, State.mayTake, State.slow, State.slow, State.toTell, State.toTell,
    hd, hb, named_of_still h, notes_of_still h]

theorem dropCopies_dirAt (to_ : List Nat) (l l' : Nat) (s : State) : (to_.foldl (fun s a => s.dropCopy a l) s).dirAt l' = s.dirAt l' :=
  foldl_keeps (f := fun s a => s.dropCopy a l) (fun s : State => s.dirAt l') (fun _ _ => rfl) to_ s

/-- A line that an engine takes has it as its owner; other lines stay. -/
theorem dirAt_dirWrite_engine (s : State) (core l l' : Nat) :
    (s.dirWrite l (some (copyAgent core))).dirAt l' = s.dirAt l' ∨
      (l' = l ∧ (s.dirWrite l (some (copyAgent core))).dirAt l' = { DirEntry.reset with st := .O, ptrs := [copyAgent core] }) := by
  have hs : sharerAgent (copyAgent core) = false := by simp [sharerAgent, copyAgent]
  have told : ∀ to_ : List Nat, (to_.foldl (fun s a => s.dropCopy a l) (if (s.dirAt l).st == .O then s.count 3 1 else
      (s.count 1 to_.length).count 2 (to_.filter fun a => !s.copies.contains (a, l)).length)).dirAt l' = s.dirAt l' := fun to_ => by
    rw [dropCopies_dirAt]
    split <;> simp only [count_dirAt]
  simp only [State.dirWrite, hs]
  split
  · exact .inl rfl
  · rw [if_neg (by decide), dirAt_setDir]
    by_cases hl : l' = l
    · exact .inr ⟨hl, if_pos hl⟩
    · rw [if_neg hl]
      exact .inl (told _)

theorem notes_of_engineCan {s : State} {core l : Nat} {w : Bool} (h : s.engineCan core l w = true) : s.notes.contains ⟨copyAgent core, l, true⟩ = false := by
  rw [State.engineCan, State.owns, Bool.or_eq_true, Bool.and_eq_true, Bool.and_eq_true, Bool.and_eq_true, Bool.not_eq_true'] at h
  exact h.elim And.right And.right

/-- An engine that has taken a line can still take those that it could. -/
theorem engineCan_dirWrite {s : State} {core l l' : Nat} (hl : s.engineCan core l true = true) (hl' : s.engineCan core l' true = true) :
    (s.dirWrite l (some (copyAgent core))).engineCan core l' true = true := by
  have hs := still_dirWrite s l (some (copyAgent core))
  rcases dirAt_dirWrite_engine s core l l' with hd | ⟨rfl, hd⟩
  · rw [engineCan_congr hs hd]; exact hl'
  · rw [State.engineCan, State.owns, hd, notes_of_still hs, notes_of_engineCan hl]
    simp

/-- An engine that can take all of its lines takes them at once: it wants none. -/
theorem ownLines_fold {s : State} (ha : Apart s) (core : Nat) {ls : List Nat} (hl : ∀ l ∈ ls, s.engineCan core l true = true) :
    ∃ t, ls.foldl (fun (r : List Nat × State) l =>
        let s := r.2
        if s.owns core l then r
        else if s.engineCan core l true then (r.1, (s.txConflict none l true).dirWrite l (some (copyAgent core)))
        else (r.1 ++ [l], s.summon l true (some (copyAgent core)))) ([], s) = ([], t) ∧ still t = still s := by
  induction ls generalizing s with
  | nil => exact ⟨s, rfl, rfl⟩
  | cons l ls ih =>
    have hfirst := hl l List.mem_cons_self
    have hrest : ∀ l' ∈ ls, s.engineCan core l' true = true := fun l' h => hl l' (List.mem_cons_of_mem _ h)
    rw [List.foldl_cons]
    by_cases ho : s.owns core l = true
    · obtain ⟨t, ht, hs⟩ := ih ha hrest
      exact ⟨t, by simp only [ho, if_true]; exact ht, hs⟩
    · have hw := still_dirWrite s l (some (copyAgent core))
      obtain ⟨t, ht, hs⟩ := ih (apart_of_still hw ha) fun l' h => engineCan_dirWrite hfirst (hrest l' h)
      refine ⟨t, ?_, hs.trans hw⟩
      simp only [ho, hfirst, txConflict_of_apart ha, if_true]
      exact ht

theorem set_set {α : Type} (m : FMap α) (k : Nat) (v w : α) : (FMap.set (FMap.set m k v) k w) = FMap.set m k w := by
  induction m with
  | nil => simp [FMap.set]
  | cons e m ih =>
    obtain ⟨j, u⟩ := e
    simp only [FMap.set]
    split
    · simp [FMap.set]
    · split
      · simp [FMap.set]
      · next h1 h2 => simp [FMap.set, h1, h2, ih]

/-- The lines of a copy that its engine can take, taken: nothing is left to want. -/
theorem still_ownLines {s : State} (ha : Apart s) {core slot : Nat} {c : CopySlot} (hc : (s.core core).copies.get? slot = some c) (hw : c.want = [])
    {ls : List Nat} (hl : ∀ l ∈ ls, s.engineCan core l true = true) :
    still (s.ownLines core slot ls) = still (s.setCopy core slot c) := by
  obtain ⟨t, ht, hs⟩ := ownLines_fold ha core hl
  have hk : t.core core = s.core core := of_still (fun u => u.core core) (fun _ => rfl) hs
  have hcore : ({ c with want := [] } : CopySlot) = c := by rw [← hw]
  unfold State.ownLines
  rw [ht]
  simp only [hk, hc, hcore]
  rw [State.setCopy, State.setCopy, hk]
  exact congrArg (fun u : State => u.setCore core { s.core core with copies := (s.core core).copies.set slot c }) hs

/-! ### A copy starts -/

theorem dropReads_of_local {s : State} {w : Who} {pc : Dword} (h : ∀ r ∈ s.reqs, r.2.who = w → r.2.pc = pc → r.2.remote = none) :
    s.dropReads w pc = s := by
  have : (s.reqs.filter fun r => !(r.2.who == w && r.2.pc == pc && r.2.remote.isSome && r.2.kind != .queueBegin &&
      (r.2.num.isNone || r.2.answer.isSome))) = s.reqs := by
    refine List.filter_eq_self.2 fun r hr => ?_
    by_cases hw : r.2.who = w ∧ r.2.pc = pc
    · simp [h r hr hw.1 hw.2]
    · rw [not_and_or] at hw
      rcases hw with hw | hw <;> simp [hw]
  rw [State.dropReads, this]

theorem copyPages_of_here {s : State} {x : Ctx} {dsts : List Cap} (h : ∀ c ∈ dsts, c.kind = 2 ∨ c.pkg = s.regs.pkg) (sh : Shape) :
    s.copyPages x dsts sh = none := if_pos (List.all_eq_true.2 fun c hc => decide_eq_true (h c hc))

/-- The lowest slot that runs no copy. -/
theorem find_free {m : FMap CopySlot} {slot : Nat} (hs : slot < 64) (hf : ∀ c, m.get? slot = some c → c.state ≠ .running)
    (hl : ∀ j < slot, ∃ c, m.get? j = some c ∧ c.state = .running) :
    ((List.range 64).find? fun i => (m.get? i).all fun c => c.state != .running) = some slot := by
  rw [List.find?_range_eq_some]
  refine ⟨?_, List.mem_range.2 hs, fun j hj => ?_⟩
  · cases h : m.get? slot with
    | none => rfl
    | some c => simpa using hf c h
  · obtain ⟨c, hc, hr⟩ := hl j hj
    simp [hc, hr]

/-- The destination pages that a copy holds as absent have no translation, and are of this package. -/
theorem absentPages_sound {s : State} {c : CopySlot} {k : PageKey} (h : k ∈ s.absentPages c) : k.pkg = s.regs.pkg ∧ s.peek k 0 = none := by
  obtain ⟨d, -, hk⟩ := List.mem_flatMap.1 h
  cases d with
  | hamper _ _ _ => cases hk
  | mem pkg asn obj off =>
    by_cases hp : pkg = s.regs.pkg
    · simp only [ne_eq, hp, not_true_eq_false, if_false] at hk
      obtain ⟨q, -, hq⟩ := List.mem_filterMap.1 hk
      split at hq
      · cases hq
      · next hn =>
        obtain rfl := Option.some.inj hq
        exact ⟨rfl, Option.not_isSome_iff_eq_none.1 hn⟩
    · simp only [ne_eq, hp, not_false_eq_true, if_true] at hk
      cases hk

/-- Every page of a destination in this package that has no translation is held as absent. -/
theorem absentPages_complete {s : State} {c : CopySlot} {asn obj off i j : Nat} (hd : CopyEnd.mem s.regs.pkg asn obj off ∈ c.dsts) (hi : i < c.rows)
    (hj : j < c.rowLen) (hn : s.peek ⟨s.regs.pkg, asn, obj, (off + i * c.dstPitch + j) / 65536⟩ 0 = none) :
    (⟨s.regs.pkg, asn, obj, (off + i * c.dstPitch + j) / 65536⟩ : PageKey) ∈ s.absentPages c := by
  refine List.mem_flatMap.2 ⟨_, hd, ?_⟩
  simp only [ne_eq, not_true_eq_false, if_false]
  refine List.mem_filterMap.2 ⟨(off + i * c.dstPitch + j) / 65536, ?_, ?_⟩
  · rw [mem_foldl_sInsert]
    exact List.mem_flatMap.2 ⟨i, List.mem_range.2 hi, (mem_blocks (by decide) _ _ _).2 ⟨j, hj, rfl⟩⟩
  · simp [hn]

section
variable {s : State} {x : Ctx} {hd : Hdr} {p q k : BitVec 4} {core slot : Nat}

/-- The destinations that a COPY names. -/
def copyDsts (x : Ctx) (hd : Hdr) (p : BitVec 4) : List Cap := (List.range (hd.ext / 256 % 8 + 1)).map fun i => x.acap (p.toNat + i)

/-- The kettle capability that a COPY names. -/
def copyKettle (x : Ctx) (hd : Hdr) : Option Cap := if hd.ext / 2 ^ 15 % 2 = 1 then some (x.acap (hd.ext / 2 ^ 11 % 16)) else none

/-- What a COPY of capabilities of this package needs of the state besides its checks. -/
structure CopyReady (s : State) (x : Ctx) (src : Cap) (dsts : List Cap) (core : Nat) : Prop where
  core    : s.coreOf x.who = some core
  here    : ∀ c ∈ src :: dsts, c.kind = 2 ∨ c.pkg = s.regs.pkg
  matrix  : s.matrixPending x.who = false
  done    : s.unperformed x.who = false
  failed  : x.g.failed = []
  apart   : Apart s
  requests : ∀ r ∈ s.reqs, r.2.who = x.who → r.2.pc = x.c.addr → r.2.remote = none

/-- The slot that a COPY starts to run, before its absent pages. -/
def copyRun (s : State) (x : Ctx) (hd : Hdr) (p q : BitVec 4) (core : Nat) (sh : Shape) (absent : List PageKey) : CopySlot :=
  { state := .running, seq := (s.core core).seq, team := x.g.team, group := (match x.who with | .grp g => g | .ctl _ => 0),
    rowLen := sh.r, rows := sh.k, srcPitch := sh.sp, dstPitch := sh.dp, src := some (copyEnd (s.asnOf x.who) (x.acap q.toNat)),
    dsts := (copyDsts x hd p).map (copyEnd (s.asnOf x.who)), taken := [], done := (copyDsts x hd p).map fun _ => [], want := [], absent, stop := none,
    kettle := (copyKettle x hd).map fun c => (c.hamper.1, c.hamper.2, c.cursor), left := 0 }

/-- The state in which the slot has been started, and its team has been told. -/
def copyStarted (s : State) (x : Ctx) (core slot : Nat) (c : CopySlot) : State :=
  let s := s.setCore core { s.core core with seq := ((s.core core).seq + 1) % 65536, copies := (s.core core).copies.set slot c }
  { s with teams := match s.teams.get? x.g.team with
      | some t => s.teams.set x.g.team { t with copies := t.copies ++ [(core, slot)] }
      | none => s.teams }

theorem startCopy_fails {sh : Shape} {c : Cause} {v : Dword} (h : s.copyFails x (x.acap q.toNat) (copyDsts x hd p) (copyKettle x hd) sh = some (c, v)) :
    s.startCopy x hd p q k sh = s.fault x c x.c.seats v := by
  unfold State.startCopy
  simp only [show s.copyFails x (x.acap q.toNat) ((List.range (hd.ext / 256 % 8 + 1)).map fun i => x.acap (p.toNat + i))
    (if hd.ext / 2 ^ 15 % 2 = 1 then some (x.acap (hd.ext / 2 ^ 11 % 16)) else none) sh = some (c, v) from h]

theorem startCopy_empty {sh : Shape} (R : CopyReady s x (x.acap q.toNat) (copyDsts x hd p) core)
    (h : s.copyFails x (x.acap q.toNat) (copyDsts x hd p) (copyKettle x hd) sh = none) (h0 : sh.r = 0 ∨ sh.k = 0) :
    s.startCopy x hd p q k sh = (s.setCore core { s.core core with seq := ((s.core core).seq + 1) % 65536 }).retire x hd
      (x.dstS hd.n k.toNat .w32 ((s.core core).seq * 65536 + 0)) := by
  unfold State.startCopy
  simp only [show s.copyFails x (x.acap q.toNat) ((List.range (hd.ext / 256 % 8 + 1)).map fun i => x.acap (p.toNat + i))
    (if hd.ext / 2 ^ 15 % 2 = 1 then some (x.acap (hd.ext / 2 ^ 11 % 16)) else none) sh = none from h, R.core,
    show s.copyPages x ((List.range (hd.ext / 256 % 8 + 1)).map fun i => x.acap (p.toNat + i)) sh = none from
      copyPages_of_here (fun c hc => R.here c (List.mem_cons_of_mem _ hc)) sh,
    dropReads_of_local R.requests, R.matrix, R.done, release_of_order ⟨R.failed, R.done⟩, h0, if_true, ite_self, Bool.false_eq_true, if_false]

theorem startCopy_runs {sh : Shape} (R : CopyReady s x (x.acap q.toNat) (copyDsts x hd p) core)
    (h : s.copyFails x (x.acap q.toNat) (copyDsts x hd p) (copyKettle x hd) sh = none) (h0 : ¬(sh.r = 0 ∨ sh.k = 0))
    (hf : ((List.range 64).find? fun i => ((s.core core).copies.get? i).all fun c => c.state != .running) = some slot) :
    let t := copyStarted s x core slot (copyRun s x hd p q core sh (s.absentPages (copyRun s x hd p q core sh [])))
    s.startCopy x hd p q k sh = (t.ownLines core slot (t.copyLines (copyRun s x hd p q core sh []))).retire x hd
      (x.dstS hd.n k.toNat .w32 ((s.core core).seq * 65536 + slot)) := by
  intro t
  have hrep : (List.replicate (hd.ext / 256 % 8 + 1) ([] : List (Nat × Nat))) = (copyDsts x hd p).map fun _ => [] := by
    rw [List.map_const', copyDsts, List.length_map, List.length_range]
  unfold State.startCopy
  simp only [show s.copyFails x (x.acap q.toNat) ((List.range (hd.ext / 256 % 8 + 1)).map fun i => x.acap (p.toNat + i))
    (if hd.ext / 2 ^ 15 % 2 = 1 then some (x.acap (hd.ext / 2 ^ 11 % 16)) else none) sh = none from h, R.core,
    show s.copyPages x ((List.range (hd.ext / 256 % 8 + 1)).map fun i => x.acap (p.toNat + i)) sh = none from
      copyPages_of_here (fun c hc => R.here c (List.mem_cons_of_mem _ hc)) sh,
    dropReads_of_local R.requests, R.matrix, R.done, release_of_order ⟨R.failed, R.done⟩, h0, ite_self, Bool.false_eq_true, if_false, hf, hrep]
  rfl

theorem copyStarted_setCopy (s : State) (x : Ctx) (core slot : Nat) (c : CopySlot) :
    (copyStarted s x core slot c).setCopy core slot c = copyStarted s x core slot c := by
  have hk : (copyStarted s x core slot c).core core =
      { s.core core with seq := ((s.core core).seq + 1) % 65536, copies := (s.core core).copies.set slot c } := setCore_same s core _
  rw [State.setCopy, hk]
  simp only [set_set]
  have : ((copyStarted s x core slot c).cores.set core
      { s.core core with seq := ((s.core core).seq + 1) % 65536, copies := (s.core core).copies.set slot c }) = (copyStarted s x core slot c).cores :=
    set_set s.cores core _ _
  exact congrArg (fun m => { copyStarted s x core slot c with cores := m }) this

theorem engineCan_coresTeams (s : State) (m : FMap Core) (n : FMap Team) (core l : Nat) (w : Bool) :
    ({ s with cores := m, teams := n } : State).engineCan core l w = s.engineCan core l w := rfl

theorem copyLines_coresTeams (s : State) (m : FMap Core) (n : FMap Team) (c : CopySlot) :
    ({ s with cores := m, teams := n } : State).copyLines c = s.copyLines c := rfl

/-- What a copy's start leaves alone. -/
theorem copyStarted_keeps {α : Type} {f : State → α} (hf : ∀ (s : State) m n, f { s with cores := m, teams := n } = f s) (s : State) (x : Ctx)
    (core slot : Nat) (c : CopySlot) : f (copyStarted s x core slot c) = f s := hf s _ _

/-- A copy whose checks pass starts in the lowest free slot. -/
theorem startCopy_lands {sh : Shape} (R : CopyReady s x (x.acap q.toNat) (copyDsts x hd p) core)
    (h : s.copyFails x (x.acap q.toNat) (copyDsts x hd p) (copyKettle x hd) sh = none) (h0 : ¬(sh.r = 0 ∨ sh.k = 0))
    (hf : ((List.range 64).find? fun i => ((s.core core).copies.get? i).all fun c => c.state != .running) = some slot)
    (hl : ∀ l ∈ s.copyLines (copyRun s x hd p q core sh []), s.engineCan core l true = true) :
    LandsBare (.next (s.startCopy x hd p q k sh))
      (copyStarted s x core slot (copyRun s x hd p q core sh (s.absentPages (copyRun s x hd p q core sh [])))) x.who
      (x.advance (x.dstS hd.n k.toNat .w32 ((s.core core).seq * 65536 + slot))) := by
  rw [startCopy_runs R h h0 hf]
  refine retire_landsBare ?_ x hd _
  generalize hc : copyRun s x hd p q core sh (s.absentPages (copyRun s x hd p q core sh [])) = c
  have hget : ((copyStarted s x core slot c).core core).copies.get? slot = some c := by
    rw [show (copyStarted s x core slot c).core core = _ from setCore_same s core _]
    exact get_set_same _ _ _
  have hwant : c.want = [] := by rw [← hc]; rfl
  have ha : Apart (copyStarted s x core slot c) := R.apart
  have hlines : ∀ d, (copyStarted s x core slot c).copyLines d = s.copyLines d := fun d =>
    copyStarted_keeps (f := fun u => u.copyLines d) (fun s m n => copyLines_coresTeams s m n d) s x core slot c
  have hcan : ∀ l ∈ s.copyLines (copyRun s x hd p q core sh []), (copyStarted s x core slot c).engineCan core l true = true := fun l h => by
    rw [copyStarted_keeps (f := fun u => u.engineCan core l true) fun s m n => engineCan_coresTeams s m n core l true]
    exact hl l h
  have hs := still_ownLines ha hget hwant hcan
  rw [copyStarted_setCopy] at hs
  rw [hlines]
  exact bare_of_still hs

end

/-! ### A shape of 2^32 bytes or more -/

/-- What a memory capability with its permissions fails, it fails at its bounds or later. -/
theorem check_late {s : State} {w : Who} {team : Nat} {c : Cap} {e : Int} {n : Nat} {perms : BitVec 8} {f : CheckFail} (ht : c.tag = true)
    (hk : c.kind = 1) (hp : c.has perms = true) (hg : c.pkg = s.regs.pkg) (h : s.check w team c e n [1, 2] perms false = some f) : 2 < f.1 := by
  have h1 : (!c.tag || c.kind == 0) = false := by rw [ht, hk]; rfl
  have h2 : (!(([1, 2] : List Nat).contains c.kind && c.has perms && (c.pkg == s.regs.pkg || c.has permQ))) = false := by
    rw [hk, hp, hg, beq_self_eq_true]; rfl
  unfold State.check at h
  rw [h1, h2] at h
  simp only [Bool.false_eq_true, if_false, hk] at h
  split at h
  · cases h; decide
  · split at h
    · simp at *
    · split at h
      · cases h; decide
      · cases h

/-- What the check of one end comes to in a shape that has too many bytes. -/
def tooBig (f : Option CheckFail) : Option CheckFail :=
  match f with
  | some (n, why) => if n ≤ 2 then some (n, why) else some (3, .capBound)
  | none => some (3, .capBound)

theorem tooBig_check {s : State} {w : Who} {team : Nat} {c : Cap} {e : Int} {n : Nat} {perms : BitVec 8} (ht : c.tag = true) (hk : c.kind = 1)
    (hp : c.has perms = true) (hg : c.pkg = s.regs.pkg) : tooBig (s.check w team c e n [1, 2] perms false) = some (3, .capBound) := by
  unfold tooBig
  split
  · next k why h => exact if_neg (Nat.not_le.2 (check_late ht hk hp hg h))
  · rfl

theorem foldl_best {l : List (Dword × CheckFail)} {v : Dword} {n : Nat} {c : Cause} (h : ∀ q ∈ l, q.2.1 = n) :
    l.foldl (fun b q => if q.2.1 < b.2.1 then q else b) (v, (n, c)) = (v, (n, c)) := by
  induction l with
  | nil => rfl
  | cons q l ih =>
    rw [List.foldl_cons, if_neg (by rw [h q List.mem_cons_self]; exact Nat.lt_irrefl _)]
    exact ih fun q' hq => h q' (List.mem_cons_of_mem _ hq)

/-- A copy of 2^32 bytes or more fails the bounds of its source, where nothing fails before. -/
theorem copyFails_big {s : State} {x : Ctx} {src : Cap} {dsts : List Cap} {sh : Shape} (hb : 2 ^ 32 ≤ sh.r * sh.k)
    (hc : ∀ c ∈ src :: dsts, (c.tag = true ∧ c.kind = 1) ∧ c.pkg = s.regs.pkg) (hs : src.has (permR ||| permE) = true)
    (hd : ∀ c ∈ dsts, c.has (permW ||| permE) = true) : s.copyFails x src dsts none sh = some (.capBound, BitVec.allOnes 64) := by
  obtain ⟨⟨h1, h2⟩, h3⟩ := hc src List.mem_cons_self
  have hdst : ∀ q ∈ dsts.zipIdx, q.1 ∈ dsts := fun q hq => List.fst_mem_of_mem_zipIdx hq
  have hone : ((tooBig (s.check x.who x.g.team src src.cursor 0 [1, 2] (permR ||| permE) false)).map fun f => (BitVec.allOnes 64, f)).toList =
      [(BitVec.allOnes 64, (3, .capBound))] := by rw [tooBig_check h1 h2 hs h3]; rfl
  have hrest : ∀ q ∈ dsts.zipIdx.filterMap fun d => (tooBig (s.check x.who x.g.team d.1 d.1.cursor 0 [1, 2] (permW ||| permE) false)).map fun f =>
      (BitVec.ofNat 64 d.2, f), q.2.1 = 3 := fun q hq => by
    obtain ⟨d, hm, hf⟩ := List.mem_filterMap.1 hq
    obtain ⟨⟨g1, g2⟩, g3⟩ := hc d.1 (List.mem_cons_of_mem _ (hdst d hm))
    rw [tooBig_check g1 g2 (hd _ (hdst d hm)) g3] at hf
    rw [← Option.some.inj hf]
  have hbest := foldl_best (v := BitVec.allOnes 64) (c := Cause.capBound) hrest
  unfold State.copyFails
  simp only [decide_eq_true hb, if_true, Option.bind_none, Option.map_none, Option.toList_none, List.append_nil]
  change (match ((tooBig (s.check x.who x.g.team src src.cursor 0 [1, 2] (permR ||| permE) false)).map fun f => (BitVec.allOnes 64, f)).toList ++
      dsts.zipIdx.filterMap fun d => (tooBig (s.check x.who x.g.team d.1 d.1.cursor 0 [1, 2] (permW ||| permE) false)).map fun f =>
        (BitVec.ofNat 64 d.2, f) with
    | [] => none
    | f :: fs => some ((List.foldl (fun (b q : Dword × CheckFail) => if q.2.1 < b.2.1 then q else b) f fs).2.2,
        (List.foldl (fun (b q : Dword × CheckFail) => if q.2.1 < b.2.1 then q else b) f fs).1)) = _
  rw [hone]
  simp only [List.cons_append, List.nil_append, hbest]

/-! ### The instructions -/

/-- The four words of a quad. -/
theorem quad_word (v : BitVec 128) : v.toNat / 2 ^ 96 = v.toNat / 2 ^ 96 % 2 ^ 32 := by
  have := v.isLt
  omega

section
variable {h : Hdr} {p q k : BitVec 4} {g : BitVec 7} {s : State} {x : Ctx}

theorem execCopy_eq (hf : Free s x [(g, 1), (BitVec.ofNat 7 (96 + k.toNat), 1)] (lanes := x.readers)) (hs : x.solo = false)
    (ht : ∀ i ∈ x.c.seats, (x.g.lane i).tx = none) :
    exec (.copy h p q k g) s = .next (s.startCopy x h p q k ⟨(x.uni32 g).toNat, if (x.uni32 g).toNat = 0 then 0 else 1, 0, 0⟩) :=
  coreOp_of_free (os := fun _ => [opd g .w32, sOpd k .w32]) (lanes := fun x => x.readers) hf hs ht

theorem execCopy2_eq (hf : Free s x [(g, 4), (BitVec.ofNat 7 (96 + k.toNat), 1)] (lanes := x.readers)) (hs : x.solo = false)
    (ht : ∀ i ∈ x.c.seats, (x.g.lane i).tx = none) :
    exec (.copy2 h p q k g) s = .next (s.startCopy x h p q k
      (let quad := fun (j : Nat) => (x.src128 x.lowest g).toNat / 2 ^ (32 * j) % 2 ^ 32
       ⟨quad 0, quad 1, quad 2, quad 3⟩)) := by
  refine (coreOp_of_free (os := fun _ => [opd g .w128, sOpd k .w32]) (lanes := fun x => x.readers) hf hs ht).trans ?_
  have h3 : (x.src128 x.lowest g).toNat / 2 ^ (32 * 3) % 2 ^ 32 = (x.src128 x.lowest g).toNat / 2 ^ 96 := (quad_word _).symm
  simp only [Nat.mul_zero, Nat.pow_zero, Nat.div_one, Nat.mul_one, h3]

end

/-- Settles O27: COPY and COPY2 start a copy of a shape; an engine that can take its lines keeps being able to as it takes them. -/
theorem copiesStart : Obligations.CopiesStart := by
  intro h p q k g s x core slot n quad src dsts kettle kc end_ ready next group running listed free handle starts
  have hready : ∀ {w}, ready w → CopyReady s x src dsts core := fun ⟨_, _, _, _, hc, hh, hm, hu, hf, ha, hr⟩ => ⟨hc, hh, hm, hu, hf, ha, hr⟩
  have hstarts : ∀ (i : Instr) (w : Nat) (sh : Shape), (ready w → exec i s = .next (s.startCopy x h p q k sh)) → starts i w sh := fun i w sh he R hc => by
    refine ⟨fun h0 => ?_, fun hr hk hfree hl => ⟨s.absentPages (running sh []), ?_, fun _ hk => absentPages_sound hk, fun c hcd hk i hi j hj hn => ?_⟩⟩
    · rw [he R, startCopy_empty (hready R) hc h0]
      exact retire_lands _ x h _
    · rw [he R]
      exact startCopy_lands (hready R) hc (not_or.2 ⟨hr, hk⟩) (find_free hfree.1 hfree.2.1 hfree.2.2) hl
    · have hpkg : c.pkg = s.regs.pkg := ((hready R).here c (List.mem_cons_of_mem _ hcd)).resolve_left hk
      have hend : CopyEnd.mem s.regs.pkg (s.asnOf x.who) c.index c.cursor ∈ (running sh []).dsts :=
        List.mem_map.2 ⟨c, hcd, by rw [← hpkg]; exact if_neg hk⟩
      have hmem := absentPages_complete (c := running sh []) hend hi hj
      rw [← hpkg] at hmem
      exact hmem hn
  refine ⟨hstarts _ _ _ fun R => execCopy_eq R.1 R.2.1 R.2.2.2.1, hstarts _ _ _ fun R => execCopy2_eq R.1 R.2.1 R.2.2.2.1, fun c v R hc => ?_,
    fun hb R hcaps hs hd hk => ?_⟩
  · rw [execCopy_eq R.1 R.2.1 R.2.2.2.1, startCopy_fails hc]
  · have hcaps' : ∀ c ∈ src :: dsts, (c.tag = true ∧ c.kind = 1) ∧ c.pkg = s.regs.pkg := fun c hc =>
      ⟨hcaps c hc, ((hready R).here c hc).resolve_left (by rw [(hcaps c hc).2]; decide)⟩
    rw [execCopy2_eq R.1 R.2.1 R.2.2.2.1]
    refine congrArg _ (startCopy_fails ?_)
    have hkettle : copyKettle x h = none := hk
    rw [hkettle]
    exact copyFails_big hb hcaps' hs hd

end Sys2Proof.Proofs
end

section
/-! PROOFS. A piece of a copy whose own walk takes its destination line away from it (R256, R264, R361). -/

namespace Sys2Proof.Proofs

open Sys2Proof Sys2Proof.Machine Sys2Proof.Safety Sys2Proof.Laws

/-- A copy of 32 bytes within object 0, into the line of its own tables. -/
def tableCopy : CopySlot :=
  { state := .running, seq := 0, team := 0, group := 0, rowLen := 32, rows := 1, srcPitch := 0, dstPitch := 0, src := some (.mem 0 0 0 256),
    dsts := [.mem 0 0 0 64], taken := [], done := [[]], want := [], absent := [], stop := none, kettle := none, left := 0 }

/-- Tables at 0x800000 that map object 0 to their own frame; their first line has control core 5 as its owner, with the package at
position 1 of the node named behind it. -/
def tableState : State :=
  { State.reset with
    mem := [(0x800000, 0x20), (0x800002, 0x80), (0x800008, 1), (0x80000C, 1), (0x800020, 0x80), (0x800022, 0x80), (0x80002C, 0x10), (0x80002F, 0x80),
      (0x800082, 0x80), (0x800087, 0x80)]
    regs := { State.reset.regs with astBase := 0x800000, astLen := 1, node := 3 }
    dir := [(0x10000, { DirEntry.reset with st := .O, ptrs := [5, 129] })]
    cores := [(9, { State.reset.core 9 with copies := [(0, tableCopy)] })] }

/-- The copies of core 9 after an event. -/
def copiesOut : Result → Option (FMap CopySlot)
  | .next t => some (t.core 9).copies
  | _ => none

/-- The engine's own walk reads the line strongly, so that the owner and the package named behind it become sharers; the package does
not answer at once, and no piece is taken. -/
theorem tableCopy_waits : copiesOut (exec (.copyWrite 9 0 0 32) tableState) = some [(0, tableCopy)] := by decide

/-- Refutes O28: the last clause asks that the engine can take the destination line in the state before the event, but the walk of the
event itself may take that line away, where its directory entry names more than its owner. -/
theorem not_copiesRunAndEnd : ¬ Obligations.CopiesRunAndEnd := by
  intro h
  obtain ⟨-, -, -, -, -, hpiece⟩ := h ⟨false, false, none⟩ false 0 0 tableState onesCtx 9 0 0 32 tableCopy
  obtain ⟨t, ht, -, -, hslot⟩ := hpiece rfl rfl rfl rfl 0 0 256 0 64 [] rfl rfl rfl rfl rfl rfl (by decide) (by decide) rfl (fun m hm => absurd hm List.not_mem_nil)
    0 32 0x800100 0x800040 (by decide) (by decide) (by decide) (by decide) (by decide) (by decide) (by decide) (by decide) (by decide) rfl rfl
    (fun j hj => by
      have hr : tableState.regs.rtBase = 0 ∧ tableState.regs.ttBase = 0 := ⟨rfl, rfl⟩
      rw [OffRings, hr.1, hr.2]
      omega)
  have hout := tableCopy_waits
  rw [ht, copiesOut] at hout
  rw [Option.some.inj hout] at hslot
  exact absurd hslot (by decide)

end Sys2Proof.Proofs
end

section
/-! PROOFS. The watch of a thread and its waits (R299), the steep timer (R148, R149), and CYC (R303). -/

namespace Sys2Proof.Proofs

open Sys2Proof Sys2Proof.Machine Sys2Proof.Safety Sys2Proof.Laws

/-! ### A change of one group -/

section
variable {s : State} {w : Who} {v : Group}

theorem modGroup_of_group? (h : s.group? w = some v) (f : Group → Group) : s.modGroup w f = s.setGroup w (f v) := by
  rw [State.modGroup, h]

theorem modGroup_mem (s : State) (w : Who) (f : Group → Group) : (s.modGroup w f).mem = s.mem := by
  unfold State.modGroup
  split
  · rfl
  · exact setGroup_mem _ _ _

/-- An event that changes one group alone leaves it as it changes it, and memory as it is. -/
theorem becomes_of_modGroup (h : s.group? w = some v) {i : Instr} {f : Group → Group} {P : Group → Prop} (he : exec i s = .next (s.modGroup w f))
    (hl : (f v).lanes = v.lanes) (hP : P (f v)) :
    ∃ u v', exec i s = .next u ∧ u.group? w = some v' ∧ v'.lanes = v.lanes ∧ u.mem = s.mem ∧ P v' :=
  ⟨_, f v, he, by rw [modGroup_of_group? h]; exact group?_setGroup_same h, hl, modGroup_mem s w f, hP⟩

end

/-! ### The end of a wait -/

theorem charge_eq (g : Group) (c n : Nat) : g.charge c n = { g with charges := (g.charge c n).charges } := by
  unfold Group.charge
  split <;> rfl

theorem phase_keeps {α : Type} {f : Group → α} (hf : ∀ (g : Group) l n c, f { g with charges := l, paid := n, cls := c } = f g) (g : Group) (c now : Nat) :
    f (g.phase c now) = f g := by
  rw [Group.phase, charge_eq]
  exact hf g _ _ _

theorem endWait_keeps {α : Type} {f : Group → α} (hp : ∀ (g : Group) l n c, f { g with charges := l, paid := n, cls := c } = f g)
    (hw : ∀ (g : Group) a r, f { g with wait := a, readySince := r } = f g) (g : Group) (now : Nat) : f (g.endWait now) = f g := by
  unfold Group.endWait
  split
  · rfl
  · exact (hw _ _ _).trans (phase_keeps hp g 6 now)

theorem endWait_wait (g : Group) (now : Nat) : (g.endWait now).wait = none := by
  unfold Group.endWait
  split
  · assumption
  · rfl

theorem endLwait_keeps {α : Type} {f : Group → α} (hp : ∀ (g : Group) l n c, f { g with charges := l, paid := n, cls := c } = f g)
    (hw : ∀ (g : Group) a r, f { g with wait := a, readySince := r } = f g) (hd : ∀ (g : Group) d, f { g with waitDone := d } = f g) (g : Group)
    (now reason : Nat) : f (g.endLwait now reason) = f g := by
  unfold Group.endLwait
  split
  · exact (hd _ _).trans (endWait_keeps hp hw g now)
  · rfl

theorem endLwait_lanes (g : Group) (now reason : Nat) : (g.endLwait now reason).lanes = g.lanes :=
  endLwait_keeps (f := Group.lanes) (fun _ _ _ _ => rfl) (fun _ _ _ => rfl) (fun _ _ => rfl) g now reason

/-- A waiting LWAIT has its reason. -/
theorem endLwait_of_lwait {g : Group} {a b c : Nat} (h : g.wait = some (.lwait a b c)) (now reason : Nat) :
    (g.endLwait now reason).wait = none ∧ (g.endLwait now reason).waitDone = some reason := by
  rw [Group.endLwait, h]
  exact ⟨endWait_wait g now, rfl⟩

theorem endLwait_of_other {g : Group} (h : ∀ a b c, g.wait ≠ some (.lwait a b c)) (now reason : Nat) : g.endLwait now reason = g := by
  unfold Group.endLwait
  split
  · next hw => exact absurd hw (h _ _ _)
  · rfl

/-! ### LARM and LWAIT -/

section
variable {s : State} {x : Ctx} {h : Hdr} {p k : BitVec 4} {g : BitVec 7}

/-- A group whose watch is armed on the line of a word that it has read into sK. -/
def watching (s : State) (x : Ctx) (h : Hdr) (k : BitVec 4) (q : Nat) : Group :=
  { x with g := { x.g with watch := some ⟨s.regs.pkg, q / 128, false⟩ } }.dst h.n (BitVec.ofNat 7 (96 + k.toNat)) .w32 fun _ => s.num q 4

theorem groupOp_of_sOpd (hf : Free s x [opd g .w32, (BitVec.ofNat 7 (96 + k.toNat), 1)] (lanes := x.readers))
    (ht : ∀ i ∈ x.c.seats, (x.g.lane i).tx = none) (f : State → Ctx → State) :
    groupOp s (fun _ => [opd g .w32, sOpd k .w32]) f = .next (f s x) :=
  groupOp_of_free (os := fun _ => [opd g .w32, sOpd k .w32]) (reads := fun _ => [opd g .w32, sOpd k .w32]) (lanes := fun x => x.readers) hf ht

/-- LARM of a word in this package arms the watch and reads the word in one step. -/
theorem larm_lands {a : Access} {at_ : Nat → Nat} (hf : Free s x [opd g .w32, (BitVec.ofNat 7 (96 + k.toNat), 1)] (lanes := x.readers))
    (ht : ∀ i ∈ x.c.seats, (x.g.lane i).tx = none)
    (ha : { cursorAccess (x.acap p.toNat) 4 permR false with e := fun _ => x.address x.lowest (x.acap p.toNat) g 0 } = a)
    (hr : a.reads = true) (hw : a.whole = true) (S : Served s x a at_) :
    LandsBare (exec (.larm h p k g) s) (acquired s x true 9) x.who (x.advance (watching s x h k (at_ x.lowest))) := by
  obtain ⟨t, m, L, hacc⟩ := withAccess_of_served S (poisonedReads_of_served S hr) (go := _)
  have hrs : ((a.lanes { x with missed := m }).filter fun i => a.remote t i) = [] :=
    filter_remote (s := t) fun i hi => near_of_looked S L i (List.mem_append_left _ hi)
  have hat : lookedUp a x at_ x.lowest = at_ x.lowest := by
    rw [lookedUp_eq S.mapped (lowest_mem S.seats), slotLane, if_pos hw]
  have hload : still (t.performLoad x.who (at_ x.lowest)) = still s :=
    (still_performLoad (apart_of_still L.same S.apart) x.who _ none).trans L.same
  have hthresh : (t.performLoad x.who (at_ x.lowest)).regs.thresh = 0 := (of_still (fun u => u.regs.thresh) (fun _ => rfl) hload).trans S.counts
  have hnum : t.num (at_ x.lowest) 4 = s.num (at_ x.lowest) 4 := of_still (fun u => u.num (at_ x.lowest) 4) (fun _ => rfl) L.same
  have hpkg : t.regs.pkg = s.regs.pkg := of_still (fun u => u.regs.pkg) (fun _ => rfl) L.same
  have hacq : (t.performLoad x.who (at_ x.lowest)).acquire x.who 9 = acquired (t.performLoad x.who (at_ x.lowest)) x true 9 :=
    acquire_eq ((group_of_still hload x.who).trans (group_of_ctx hf.issuer)) 9
  have hlow : ({ x with missed := m } : Ctx).lowest = x.lowest := rfl
  change LandsBare (execLarm h p k g s) _ _ _
  rw [execLarm, groupOp_of_sOpd hf ht]
  dsimp only
  rw [ha, hacc]
  clear hacc
  simp only [hrs, hlow, hat, remoteReads_nil, takeAnswers_nil, List.isEmpty_nil, if_true, countLanes_of_thresh hthresh, hacq, hnum, hpkg]
  exact retire_landsBare (acquired_of_bare (bare_of_still hload) _ _ _) { x with missed := m } h _

/-- LWAIT whose wait is over: the reason goes to sK and the watch is disarmed. -/
theorem lwait_ends {reason : Nat} (hf : Free s x [opd g .w32, (BitVec.ofNat 7 (96 + k.toNat), 1)] (lanes := x.readers))
    (ht : ∀ i ∈ x.c.seats, (x.g.lane i).tx = none)
    (hw : x.g.waitDone = some reason ∨ x.g.waitDone = none ∧ (x.g.watch = none ∧ reason = 3 ∨ (∃ v, x.g.watch = some v ∧ v.fired = true) ∧ reason = 0)) :
    Lands (exec (.lwait h k g) s) s x.who
      (x.advance ({ x with g := { x.g with watch := none, waitDone := none } }.dst h.n (BitVec.ofNat 7 (96 + k.toNat)) .w32 fun _ => reason)) := by
  change Lands (execLwait h k g s) _ _ _
  rw [execLwait, groupOp_of_sOpd hf ht]
  rcases hw with hd | ⟨hd, ⟨hn, rfl⟩ | ⟨⟨v, hn, hv⟩, rfl⟩⟩
  · rw [hd]; exact retire_lands s x h _
  · rw [hd, hn]; exact retire_lands s x h _
  · rw [hd, hn]; simp only [hv, if_true]; exact retire_lands s x h _

/-- LWAIT on a watch that has not fired waits. -/
theorem lwait_waits {y : Watch} (hf : Free s x [opd g .w32, (BitVec.ofNat 7 (96 + k.toNat), 1)] (lanes := x.readers))
    (ht : ∀ i ∈ x.c.seats, (x.g.lane i).tx = none) (hd : x.g.waitDone = none) (hy : x.g.watch = some y) (hn : y.fired = false) :
    Lands (exec (.lwait h k g) s) s x.who { x.g.closeRun s.now with wait := some (.lwait s.now (x.uni32 g).toNat k.toNat) } := by
  change Lands (execLwait h k g s) _ _ _
  rw [execLwait, groupOp_of_sOpd hf ht, hd, hy]
  simp only [hn, Bool.false_eq_true, if_false]
  exact leave_lands s x x.g _

end

/-! ### The steep timer (R149) -/

theorem steepRuns_iff (g : Group) : g.steepRuns = true ↔
    g.laneProg = true ∧ g.place ≠ none ∧ (g.waiting ≠ [] ∨ (g.stoppedSeats ≠ [] ∧ ∃ i, i ∈ g.nextServed)) := by
  simp [Group.steepRuns, Option.isSome_iff_ne_none, List.eq_nil_iff_forall_not_mem, and_assoc]

theorem steepReached_iff (g : Group) (now : Nat) : g.steepReached now = true ↔
    g.steepRuns = true ∧ g.away = false ∧ g.ended = false ∧ g.period ≤ g.steepCount now := by
  have hp : g.steepRuns = true → g.place.isSome = true := fun h => Option.isSome_iff_ne_none.2 ((steepRuns_iff g).1 h).2.1
  simp only [Group.steepReached, Bool.and_eq_true, Bool.not_eq_true', decide_eq_true_eq]
  exact ⟨fun ⟨⟨⟨⟨_, ha⟩, he⟩, hr⟩, hc⟩ => ⟨hr, ha, he, hc⟩, fun ⟨hr, ha, he, hc⟩ => ⟨⟨⟨⟨hp hr, ha⟩, he⟩, hr⟩, hc⟩⟩

/-- The timer after the paths have changed goes on from what it has counted, where it runs, or from zero. -/
theorem steepCount_syncSteep (g : Group) (n r : Nat) : (g.syncSteep n).steepCount (n + r) =
    (if g.waiting = [] ∧ g.stoppedSeats = [] then 0 else g.steepCount n) + if g.steepRuns = true then r else 0 := by
  have he : (g.waiting.isEmpty && g.stoppedSeats.isEmpty) = true ↔ g.waiting = [] ∧ g.stoppedSeats = [] := by simp
  have hs : (g.syncSteep n).steepCount (n + r) = (if (g.waiting.isEmpty && g.stoppedSeats.isEmpty) = true then 0 else g.steepCount n) +
      (if g.steepRuns = true then some n else none).elim 0 fun m => n + r - m := rfl
  rw [hs, if_congr he rfl rfl]
  congr 1
  split
  · exact Nat.add_sub_cancel_left n r
  · rfl

/-- A move of the broadcast changes modes of lanes, the stack, and what is due. -/
theorem moveBroadcast_keeps {α : Type} {f : Group → α} (hf : ∀ (g : Group) l r b d y, f { g with lanes := l, rstack := r, bcast := b, steepDue := d, yieldDue := y } = f g)
    (g : Group) : f g.moveBroadcast = f g := by
  have h := hf g g.lanes g.rstack
  simp only [Group.moveBroadcast]
  split
  · exact h _ _ _
  · split
    · exact h _ _ _
    · split
      · split
        · exact h _ _ _
        · exact hf g _ _ _ _ _
      · exact h _ _ _

theorem takeBroadcast_keeps {α : Type} {f : Group → α} (hf : ∀ (g : Group) l n a c, f { g with holder := l, steep := n, steepAt := a, crossing := c } = f g)
    (g : Group) (now : Nat) : f (g.takeBroadcast now) = f g := by
  unfold Group.takeBroadcast
  split
  · rfl
  · simp only
    split
    · exact hf g _ g.steep g.steepAt g.crossing
    · exact hf g _ _ _ _

/-- Where nothing has been counted, nothing has been once the broadcast has taken its path. -/
theorem steepCount_takeBroadcast {g : Group} {now : Nat} (h : g.steepCount now = 0) : (g.takeBroadcast now).steepCount now = 0 := by
  unfold Group.takeBroadcast
  split
  · exact h
  · simp only
    split
    · exact h
    · cases g.steepAt <;> simp [Group.steepCount]

theorem steepExpire_open {g : Group} (h : g.runOpen = true) (now : Nat) :
    g.steepExpire now = { g with expired := true, steep := 0, steepAt := some now, steepDue := true } := if_pos h

/-- At its expiry the timer counts from zero again. -/
theorem steepExpire_steep (g : Group) (now : Nat) : (g.steepExpire now).steep = 0 := by
  have hz : ({ g with expired := true, steep := 0, steepAt := some now, steepDue := true } : Group).steepCount now = 0 := by
    simp [Group.steepCount]
  simp only [Group.steepExpire]
  split
  · rfl
  · split
    · exact endLwait_keeps (f := Group.steep) (fun _ _ _ _ => rfl) (fun _ _ _ => rfl) (fun _ _ => rfl) _ now 2
    · rfl
    · refine ite_eq_left_iff.2 fun _ => steepCount_takeBroadcast ?_
      exact (moveBroadcast_keeps (f := fun g : Group => g.steepCount now) (fun _ _ _ _ _ _ => rfl) _).trans hz

/-- An expiry changes what an ended wait, a move of the broadcast and the timer's own restart change. -/
theorem steepExpire_keeps {α : Type} {f : Group → α} (hp : ∀ (g : Group) l n c, f { g with charges := l, paid := n, cls := c } = f g)
    (hw : ∀ (g : Group) a r d, f { g with wait := a, readySince := r, waitDone := d } = f g)
    (hm : ∀ (g : Group) l r b d y, f { g with lanes := l, rstack := r, bcast := b, steepDue := d, yieldDue := y } = f g)
    (ht : ∀ (g : Group) l n a c, f { g with holder := l, steep := n, steepAt := a, crossing := c } = f g) (g : Group) (now : Nat) :
    f (g.steepExpire now) = f { g with expired := true } := by
  have he : f { g with expired := true, steep := 0, steepAt := some now, steepDue := true } = f { g with expired := true } :=
    (hm { g with expired := true, steep := 0, steepAt := some now } g.lanes g.rstack g.bcast true g.yieldDue).trans
      (ht { g with expired := true } g.holder 0 (some now) g.crossing)
  refine Eq.trans ?_ he
  simp only [Group.steepExpire]
  split
  · rfl
  · split
    · exact endLwait_keeps hp (fun g a r => hw g a r g.waitDone) (fun g d => hw g g.wait g.readySince d) _ now 2
    · rfl
    · exact (ht _ _ _ _ _).trans ((takeBroadcast_keeps ht _ now).trans (moveBroadcast_keeps hm _))

/-! ### CSRs -/

theorem readsCsr_gstat {s : State} {x : Ctx} (h : x.solo = false) : ReadsCsr s x 0x010 x.u.gstat.toNat := by
  have hs : isSolo x.who = false := h
  simp [ReadsCsr, csrRead, groupCsr, hs, Ctx.seen]

theorem readsCsr_steep {s : State} {x : Ctx} (h : x.solo = false) : ReadsCsr s x 0x011 (x.u.expired.toNat * 2 ^ 31 + x.u.period % 2 ^ 20) := by
  have hs : isSolo x.who = false := h
  simp [ReadsCsr, csrRead, groupCsr, hs, Ctx.seen]

/-- Settles O41: instructions by their skeletons, events as changes of one group, and the timer by what it counts. -/
theorem watchAndSteepTimer : Obligations.WatchAndSteepTimer := by
  intro h p k g s x at_ w v since limit sreg n r y value noTx c e a pair ready ends waits becomes counts
  have hcounts : v.steepRuns = true ↔ counts := steepRuns_iff v
  refine ⟨?_, ?_, ?_, ?_, ?_, ?_, ?_, ?_, ?_, ?_, ?_, ?_, ?_, ?_, ?_, ?_⟩
  · rintro ⟨hf, ht, -⟩ S
    have ha : { cursorAccess (x.acap p.toNat) 4 permR false with e := fun _ => x.address x.lowest (x.acap p.toNat) g 0 } = a :=
      congrArg (fun n : Int => { cursorAccess (x.acap p.toNat) 4 permR false with e := fun _ => n }) (Int.add_zero _)
    exact larm_lands hf ht ha rfl rfl S
  · exact fun ⟨hf, ht, _⟩ hd => lwait_ends hf ht (.inl hd)
  · exact fun ⟨hf, ht, _⟩ hd hn => lwait_ends hf ht (.inr ⟨hd, .inl ⟨hn, rfl⟩⟩)
  · exact fun ⟨hf, ht, _⟩ hd hy hv => lwait_ends hf ht (.inr ⟨hd, .inr ⟨⟨y, hy, hv⟩, rfl⟩⟩)
  · exact fun ⟨hf, ht, _⟩ hd hy hv => lwait_waits hf ht hd hy hv
  · rintro ⟨hv, hw⟩ hl hs
    refine becomes_of_modGroup hv rfl ?_ ?_
    · simp only [hw, hl, hs, ne_eq, not_false_eq_true, and_self, if_true, endLwait_lanes]
    · simp only [hw, hl, hs, ne_eq, not_false_eq_true, and_self, if_true]
      exact endLwait_of_lwait hw s.now 1
  · rintro ⟨hv, hw⟩ hl
    have hn : ¬(limit ≠ 0 ∧ since + limit ≤ s.now) := by omega
    refine becomes_of_modGroup hv rfl ?_ ?_
    · simp only [hw, hn, if_false]
    · simp only [hw, hn, if_false]
  · intro hd hv hy
    have he : exec (.watchFireNoWrite w) s = .next (s.modGroup w fun v => match v.watch with
        | some q => { v with watch := some { q with fired := true } }.endLwait s.now 0
        | none => v) := by
      change execWatchFireNoWrite w s = _
      rw [execWatchFireNoWrite, State.unlessDown, hd]
      rfl
    refine becomes_of_modGroup hv he ?_ ?_
    · simp only [hy, endLwait_lanes]
    · simp only [hy]
      refine ⟨endLwait_keeps (f := Group.watch) (fun _ _ _ _ => rfl) (fun _ _ _ => rfl) (fun _ _ => rfl) _ s.now 0, ?_, fun ho => ?_⟩
      · rintro ⟨a, b, c, hw⟩
        exact endLwait_of_lwait (g := { v with watch := some { y with fired := true } }) hw s.now 0
      · rw [endLwait_of_other (g := { v with watch := some { y with fired := true } }) ho]
        exact ⟨rfl, rfl⟩
  · rintro rfl hv
    exact becomes_of_modGroup hv rfl rfl rfl
  · rintro rfl hv hn
    refine becomes_of_modGroup hv rfl ?_ ?_
    · simp only [hn, Bool.false_eq_true, if_false]
    · simp only [hn, Bool.false_eq_true, if_false]
  · rintro rfl hv hr
    have hg := modGroup_of_group? hv fun v => if v.steepReached s.now then v.steepExpire s.now else v
    simp only [hr, if_true] at hg
    refine ⟨_, v.steepExpire s.now, rfl, ?_, ?_, steepExpire_steep v s.now, ?_, modGroup_mem _ _ _, fun ho => ?_⟩
    · rw [hg]; exact group?_setGroup_same hv
    · exact steepExpire_keeps (f := Group.expired) (fun _ _ _ _ => rfl) (fun _ _ _ _ => rfl) (fun _ _ _ _ _ _ => rfl) (fun _ _ _ _ _ => rfl) v s.now
    · exact steepExpire_keeps (f := Group.period) (fun _ _ _ _ => rfl) (fun _ _ _ _ => rfl) (fun _ _ _ _ _ _ => rfl) (fun _ _ _ _ _ => rfl) v s.now
    · rw [steepExpire_open ho]
      exact ⟨rfl, rfl⟩
  · rw [steepReached_iff, hcounts]
  · intro hc
    rw [steepCount_syncSteep, if_pos (hcounts.2 hc)]
  · intro hc
    rw [steepCount_syncSteep, if_neg (mt hcounts.1 hc), Nat.add_zero]
  · exact fun hs => ⟨readsCsr_gstat hs, readsCsr_steep hs⟩
  · intro hf
    change Lands (execCyc h g s) _ _ _
    rw [execCyc, withOps_of_free (os := fun _ => [opd g .w64]) (reads := fun _ => []) hf]
    exact retire_lands s x h _

end Sys2Proof.Proofs
end

section
/-! PROOFS. Transactions that abort for a save, a trap or a move (R289, R322), groups that are saved (R343 to R345), and the entry of a
handler (R355). -/

namespace Sys2Proof.Proofs

open Sys2Proof Sys2Proof.Machine Sys2Proof.Safety Sys2Proof.Laws

/-! ### What stands beside the groups -/

/-- A state without what a change in the standing of compute groups touches: the groups, the cosy lock, tickets with their marks, and
what is due. -/
def beside (s : State) : State := { s with groups := [], cosy := none, cosyQ := [], tickets := [], marks := [], agenda := [] }

theorem of_beside {α : Type} (f : State → α) (hf : ∀ u, f (beside u) = f u) {s t : State} (h : beside t = beside s) : f t = f s := by
  rw [← hf t, h, hf]

theorem mem_of_beside {s t : State} (h : beside t = beside s) : t.mem = s.mem := of_beside State.mem (fun _ => rfl) h
theorem part_of_beside {s t : State} (h : beside t = beside s) (p : Nat) : t.part p = s.part p := of_beside (fun u => u.part p) (fun _ => rfl) h
theorem teams_of_beside {s t : State} (h : beside t = beside s) : t.teams = s.teams := of_beside State.teams (fun _ => rfl) h

@[simp] theorem beside_modGroup (s : State) (k : Nat) (f : Group → Group) : beside (s.modGroup (.grp k) f) = beside s := by
  unfold State.modGroup
  split <;> rfl

theorem beside_dropCosies (l : List Nat) (w : Who) (s : State) : beside (l.foldl (fun (s : State) i => s.dropCosy w i) s) = beside s :=
  foldl_keeps (f := fun (s : State) i => s.dropCosy w i) beside (fun _ _ => rfl) l s

theorem groups_dropCosies (l : List Nat) (w : Who) (s : State) : (l.foldl (fun (s : State) i => s.dropCosy w i) s).groups = s.groups :=
  foldl_keeps (f := fun (s : State) i => s.dropCosy w i) State.groups (fun _ _ => rfl) l s

theorem now_dropCosies (l : List Nat) (w : Who) (s : State) : (l.foldl (fun (s : State) i => s.dropCosy w i) s).now = s.now :=
  foldl_keeps (f := fun (s : State) i => s.dropCosy w i) State.now (fun _ _ => rfl) l s

theorem beside_setGroup (s : State) (k : Nat) (v : Group) : beside (s.setGroup (.grp k) v) = beside s := rfl

/-- A group after its own change, and the others. -/
theorem modGroup_get (s : State) (j k : Nat) (f : Group → Group) :
    (s.modGroup (.grp j) f).groups.get? k = if k = j then (s.groups.get? k).map f else s.groups.get? k := by
  cases h : s.groups.get? j with
  | none =>
    have hm : s.modGroup (.grp j) f = s := by rw [State.modGroup, show s.group? (.grp j) = none from h]
    rw [hm]
    split
    · next hk => rw [hk, h]; rfl
    · rfl
  | some v =>
    rw [modGroup_grp h]
    split
    · next hk => rw [hk, h]; exact get_set_same _ _ _
    · next hk => exact get_set_other _ _ hk

theorem modGroup_get_same {s : State} {k : Nat} {v : Group} (h : s.groups.get? k = some v) (f : Group → Group) :
    (s.modGroup (.grp k) f).groups.get? k = some (f v) := by
  rw [modGroup_get, if_pos rfl, h]
  rfl

/-- Groups changed one after another by what done twice is done once. -/
theorem foldl_modGroup_get {f : Group → Group} (hf : ∀ g, f (f g) = f g) (l : List Nat) (s : State) (k : Nat) :
    (l.foldl (fun (s : State) k => s.modGroup (.grp k) f) s).groups.get? k = if k ∈ l then (s.groups.get? k).map f else s.groups.get? k := by
  induction l generalizing s with
  | nil => simp
  | cons j l ih =>
    rw [List.foldl_cons, ih, modGroup_get]
    by_cases hj : k = j
    · subst hj
      have hff : f ∘ f = f := funext hf
      simp [hff]
    · simp [hj]

theorem foldl_modGroup_beside (f : Group → Group) (l : List Nat) (s : State) :
    beside (l.foldl (fun (s : State) k => s.modGroup (.grp k) f) s) = beside s :=
  foldl_keeps beside (fun s k => beside_modGroup s k f) l s

/-! ### Aborts of a compute group (R289) -/

/-- A group after the transactions of some seats have aborted. -/
def aborted (g : Group) (seats : List Nat) (cause : AbortCause) (now : Nat) : Group :=
  let open_ := seats.filter fun i => (g.lane i).tx.isSome
  if open_.isEmpty then g else ((open_.foldl (fun g i => g.abortLane i cause 0) g).settlePaths open_).syncSteep now

theorem abort_grp {s : State} {k : Nat} {g : Group} (h : s.groups.get? k = some g) (seats : List Nat) (cause : AbortCause) :
    (s.abort (.grp k) seats cause).groups.get? k = some (aborted g seats cause s.now) := by
  have hg : ∀ l : List Nat, (l.foldl (fun (s : State) i => s.dropCosy (.grp k) i) s).groups.get? k = some g := fun l => by
    rw [groups_dropCosies, h]
  simp only [State.abort, show s.group? (.grp k) = some g from h, aborted]
  split
  · exact h
  · simp only [State.setGroup, State.group?, now_dropCosies, hg, get_set_same, Option.getD_some]

theorem abort_grp_other (s : State) {k j : Nat} (hj : j ≠ k) (seats : List Nat) (cause : AbortCause) :
    (s.abort (.grp k) seats cause).groups.get? j = s.groups.get? j := by
  unfold State.abort
  split
  · rfl
  · simp only
    split
    · rfl
    · simp only [State.setGroup]
      rw [get_set_other _ _ hj, groups_dropCosies]

theorem beside_abort (s : State) (k : Nat) (seats : List Nat) (cause : AbortCause) : beside (s.abort (.grp k) seats cause) = beside s := by
  unfold State.abort
  split
  · rfl
  · simp only
    split
    · rfl
    · exact beside_dropCosies _ (.grp k) s

/-! ### What a settling of paths and an abort leave of a group -/

theorem release_keeps {α : Type} {f : Group → α} (hf : ∀ (g : Group) l r, f { g with lanes := l, rstack := r } = f g) (g : Group) (k : Nat) :
    f (g.release k) = f g := hf g _ _

theorem reconverge_keeps {α : Type} {f : Group → α} (hf : ∀ (g : Group) l r, f { g with lanes := l, rstack := r } = f g) (n : Nat) (g : Group) :
    f (g.reconverge n) = f g := by
  induction n generalizing g with
  | zero => rfl
  | succ n ih =>
    rw [Group.reconverge]
    split
    · rfl
    · exact (ih _).trans (release_keeps hf g _)

theorem abortLane_keeps {α : Type} {f : Group → α} (hf : ∀ (g : Group) l, f { g with lanes := l } = f g) (g : Group) (i : Nat) (c : AbortCause) (n : Nat) :
    f (g.abortLane i c n) = f g := by
  unfold Group.abortLane
  split
  · rfl
  · exact hf g _

theorem aborted_keeps {α : Type} {f : Group → α} (hf : ∀ (g : Group) l r n a, f { g with lanes := l, rstack := r, steep := n, steepAt := a } = f g)
    (g : Group) (seats : List Nat) (c : AbortCause) (now : Nat) : f (aborted g seats c now) = f g := by
  have hl : ∀ (g : Group) l r, f { g with lanes := l, rstack := r } = f g := fun g l r => hf g l r g.steep g.steepAt
  have hfold : ∀ l : List Nat, f (l.foldl (fun g i => g.abortLane i c 0) g) = f g := fun l =>
    foldl_keeps f (fun g i => abortLane_keeps (fun g l => hl g l g.rstack) g i c 0) l g
  unfold aborted
  simp only
  split
  · rfl
  · refine (hf (Group.settlePaths _ _) (Group.settlePaths _ _).lanes (Group.settlePaths _ _).rstack _ _).trans ?_
    exact (reconverge_keeps hl 9 _).trans ((hl _ _ _).trans (hfold _))

/-! ### What an abort leaves of a lane -/

/-- A lane that a PREEMPT trap would take: it has neither exited nor parked (R355). -/
def stands (m : LaneMode) : Bool :=
  match m with
  | .exited => false
  | .parked _ _ => false
  | _ => true

/-- A lane that has gone on as it was, or whose transaction has aborted. -/
structure LaneKept (l l' : Lane) : Prop where
  thread : l'.thread = l.thread
  noTx   : l.tx = none → l'.tx = none ∧ l'.regs = l.regs ∧ l'.pc = l.pc
  stands : stands l.mode = true → stands l'.mode = true

theorem LaneKept.refl (l : Lane) : LaneKept l l := ⟨rfl, fun h => ⟨h, rfl, rfl⟩, id⟩

theorem LaneKept.trans {l m n : Lane} (h : LaneKept l m) (k : LaneKept m n) : LaneKept l n where
  thread := k.thread.trans h.thread
  noTx ht := by
    obtain ⟨h1, h2, h3⟩ := h.noTx ht
    obtain ⟨k1, k2, k3⟩ := k.noTx h1
    exact ⟨k1, k2.trans h2, k3.trans h3⟩
  stands hs := k.stands (h.stands hs)

/-- Bookkeeping keeps a lane. -/
theorem laneKept_of_core {l l' : Lane} (h : laneCore l' = laneCore l) : LaneKept l l' where
  thread := (congrArg Lane.thread h :)
  noTx ht := ⟨(congrArg Lane.tx h :).trans ht, (congrArg Lane.regs h :), (congrArg Lane.pc h :)⟩
  stands hs := by
    have hm : ∀ m : LaneMode, Proofs.stands (if m = .stopped then .running else m) = Proofs.stands m := fun m => by cases m <;> rfl
    have hmode : Proofs.stands (laneCore l').mode = Proofs.stands (laneCore l).mode := by rw [h]
    rw [← hm l'.mode]
    rw [← hm l.mode] at hs
    exact hmode.trans hs

theorem lane_modLane (g : Group) (i j : Nat) (f : Lane → Lane) :
    (g.modLane i f).lane j = if i = j ∧ j < g.lanes.length then f (g.lane j) else g.lane j := by
  simp only [Group.modLane, Group.lane, List.getD_eq_getElem?_getD, List.getElem?_modify]
  by_cases hj : j < g.lanes.length
  · by_cases hi : i = j <;> simp [hi, hj]
  · simp [hj]

theorem lane_map (g : Group) {f : Lane → Lane} (hf : f (Lane.fresh none 0 0) = Lane.fresh none 0 0) (j : Nat) :
    (g.lanes.map f).getD j (Lane.fresh none 0 0) = f (g.lane j) := by
  have h := List.getD_map g.lanes (Lane.fresh none 0 0) (n := j) f
  rwa [hf] at h

theorem abortLane_kept (g : Group) (i : Nat) (c : AbortCause) (n j : Nat) : LaneKept (g.lane j) ((g.abortLane i c n).lane j) := by
  unfold Group.abortLane
  split
  · exact .refl _
  · next t ht =>
    rw [lane_modLane]
    split
    · next hj =>
      obtain ⟨rfl, -⟩ := hj
      refine ⟨rfl, fun hn => absurd (hn.symm.trans ht) (by simp), fun hs => ?_⟩
      simp only [setReg_mode]
      cases hm : (g.lane i).mode <;> simp_all [stands]
    · exact .refl _

theorem abortLane_tx (g : Group) (i : Nat) (c : AbortCause) (n : Nat) : ((g.abortLane i c n).lane i).tx = none := by
  unfold Group.abortLane
  split
  · assumption
  · next t ht =>
    have hi : i < g.lanes.length := by
      by_contra hi
      rw [Group.lane, List.getD_eq_default _ _ (Nat.le_of_not_lt hi)] at ht
      cases ht
    rw [lane_modLane, if_pos ⟨rfl, hi⟩]
    rfl

theorem abortLanes_kept (l : List Nat) (g : Group) (c : AbortCause) (j : Nat) : LaneKept (g.lane j) ((l.foldl (fun g i => g.abortLane i c 0) g).lane j) := by
  induction l generalizing g with
  | nil => exact .refl _
  | cons i l ih => exact (abortLane_kept g i c 0 j).trans (ih _)

theorem abortLanes_tx {l : List Nat} {j : Nat} (h : j ∈ l) (g : Group) (c : AbortCause) :
    ((l.foldl (fun g i => g.abortLane i c 0) g).lane j).tx = none := by
  induction l generalizing g with
  | nil => cases h
  | cons i l ih =>
    rcases List.mem_cons.1 h with rfl | h
    · exact ((abortLanes_kept l _ c j).noTx (abortLane_tx g j c 0)).1
    · exact ih h _

theorem settlePaths_kept (g : Group) (l : List Nat) (j : Nat) : LaneKept (g.lane j) ((g.settlePaths l).lane j) :=
  laneKept_of_core (laneCore_lane (core_settlePaths g l) j)

theorem aborted_kept (g : Group) (seats : List Nat) (c : AbortCause) (now j : Nat) : LaneKept (g.lane j) ((aborted g seats c now).lane j) := by
  unfold aborted
  simp only
  split
  · exact .refl _
  · exact (abortLanes_kept _ g c j).trans (settlePaths_kept _ _ j)

theorem aborted_tx (g : Group) {seats : List Nat} {j : Nat} (h : j ∈ seats) (c : AbortCause) (now : Nat) : ((aborted g seats c now).lane j).tx = none := by
  cases ht : (g.lane j).tx with
  | none => exact ((aborted_kept g seats c now j).noTx ht).1
  | some t =>
    have hm : j ∈ seats.filter fun i => (g.lane i).tx.isSome := List.mem_filter.2 ⟨h, by rw [ht]; rfl⟩
    have hne : (seats.filter fun i => (g.lane i).tx.isSome).isEmpty = false := List.isEmpty_eq_false_iff.2 (List.ne_nil_of_mem hm)
    unfold aborted
    simp only [hne, Bool.false_eq_true, if_false]
    exact ((settlePaths_kept _ _ j).noTx (abortLanes_tx hm g c)).1

theorem length_of_core {g g' : Group} (h : groupCore g' = groupCore g) : g'.lanes.length = g.lanes.length := by
  have hl : (g'.lanes.map laneCore).length = (g.lanes.map laneCore).length := congrArg (fun v : Group => v.lanes.length) h
  rwa [List.length_map, List.length_map] at hl

theorem abortLane_length (g : Group) (i : Nat) (c : AbortCause) (n : Nat) : (g.abortLane i c n).lanes.length = g.lanes.length := by
  unfold Group.abortLane
  split
  · rfl
  · exact List.length_modify ..

theorem aborted_length (g : Group) (seats : List Nat) (c : AbortCause) (now : Nat) : (aborted g seats c now).lanes.length = g.lanes.length := by
  unfold aborted
  simp only
  split
  · rfl
  · exact (length_of_core (core_settlePaths _ _)).trans
      (foldl_keeps (f := fun g i => Group.abortLane g i c 0) (fun g : Group => g.lanes.length) (fun g i => abortLane_length g i c 0) _ g)

/-! ### A group outside its transactions (R322) -/

/-- A group whose transactions have aborted with PREEMPT, and whose lanes wait for the cosy lock no more. -/
def withdrawn (g : Group) (now : Nat) : Group :=
  let v := aborted g g.live .preempt now
  { v with
    lanes := v.lanes.map fun (l : Lane) => { l with mode := unwaitCosy l.mode }
    trapSave := v.trapSave.map fun q => { q with seats := q.seats.map fun (e : SeatSave) => { e with mode := unwaitCosy e.mode } } }

section
variable {s : State} {k : Nat} {g : Group}

theorem preemptTx_get (h : s.groups.get? k = some g) : (s.preemptTx k g).groups.get? k = some (withdrawn g s.now) := by
  have hg : (g.live.foldl (fun (s : State) i => s.dropCosy (.grp k) i) s).groups.get? k = some g := by rw [groups_dropCosies, h]
  have ha := abort_grp hg g.live .preempt
  rw [now_dropCosies] at ha
  exact modGroup_get_same ha _

theorem preemptTx_other (s : State) (g : Group) {j : Nat} (hj : j ≠ k) : (s.preemptTx k g).groups.get? j = s.groups.get? j := by
  simp only [State.preemptTx]
  rw [modGroup_get, if_neg hj, abort_grp_other _ hj, groups_dropCosies]

theorem beside_preemptTx (s : State) (k : Nat) (g : Group) : beside (s.preemptTx k g) = beside s :=
  (beside_modGroup _ k _).trans ((beside_abort _ k _ _).trans (beside_dropCosies _ _ s))

theorem withdrawn_keeps {α : Type} {f : Group → α}
    (hf : ∀ (g : Group) l r n a v, f { g with lanes := l, rstack := r, steep := n, steepAt := a, trapSave := v } = f g) (g : Group) (now : Nat) :
    f (withdrawn g now) = f g :=
  (hf _ _ (aborted g g.live .preempt now).rstack (aborted g g.live .preempt now).steep (aborted g g.live .preempt now).steepAt _).trans
    (aborted_keeps (fun g l r n a => hf g l r n a g.trapSave) g g.live .preempt now)

theorem withdrawn_length (g : Group) (now : Nat) : (withdrawn g now).lanes.length = g.lanes.length :=
  (List.length_map _).trans (aborted_length g g.live .preempt now)

theorem withdrawn_lane (g : Group) (now j : Nat) :
    (withdrawn g now).lane j = { (aborted g g.live .preempt now).lane j with mode := unwaitCosy ((aborted g g.live .preempt now).lane j).mode } :=
  lane_map (aborted g g.live .preempt now) (f := fun l => { l with mode := unwaitCosy l.mode }) rfl j

theorem withdrawn_kept (g : Group) (now j : Nat) : LaneKept (g.lane j) ((withdrawn g now).lane j) := by
  refine (aborted_kept g g.live .preempt now j).trans ?_
  rw [withdrawn_lane]
  refine ⟨rfl, fun h => ⟨h, rfl, rfl⟩, fun hs => ?_⟩
  cases hm : ((aborted g g.live .preempt now).lane j).mode <;> simp_all [stands, unwaitCosy]

theorem withdrawn_tx {j : Nat} (h : j ∈ g.live) (now : Nat) : ((withdrawn g now).lane j).tx = none := by
  rw [withdrawn_lane]
  exact aborted_tx g h .preempt now

end

/-! ### A group that is saved (R344, R345) -/

theorem core_cutIssue (g : Group) (now : Nat) : groupCore (g.cutIssue now) = groupCore g := by
  have hm : ∀ l : List Nat, groupCore { g.modLanes l fun _ l => { l with replays := true } with issueQ := [] } = groupCore g := fun l =>
    (rfl : _ = groupCore (g.modLanes l fun _ l => { l with replays := true })).trans (core_modLanes g l _ fun _ _ => rfl)
  unfold Group.cutIssue
  split
  · rfl
  · exact (core_closeRun _ now).trans (hm _)

theorem saveWait_keeps {α : Type} {f : Group → α} (hf : ∀ (g : Group) w d, f { g with wait := w, waitDone := d } = f g) (g : Group) :
    f g.saveWait = f g := by
  unfold Group.saveWait
  split
  · exact hf g _ _
  · rfl
  · rfl
  · exact hf g none g.waitDone

/-- The run that a save cuts short, its charges settled. -/
def stopped (g : Group) (now : Nat) : Group := (((withdrawn g now).cutIssue now).phase 6 now).settle

theorem core_stopped (g : Group) (now : Nat) : groupCore (stopped g now) = groupCore (withdrawn g now) :=
  (core_settle _).trans ((core_phase _ 6 now).trans (core_cutIssue _ now))

/-- A group as the hardware saves it. -/
def savedGroup (g : Group) (now : Nat) : Group :=
  { (stopped g now).saveWait with
    lanes := (stopped g now).lanes.map fun (l : Lane) => { l with loopBuf := none }
    watch := none, marked := false, trapDue := false, cut := false, pdone := false, runOpen := false, issueQ := [],
    snap := none, crossing := [], stalled := false, endPending := false, steep := 0, steepAt := none, saved := true, halted := false }

/-- What a save leaves of a group (R345). -/
def SavedFrom (v v' : Group) : Prop :=
  v'.saved = true ∧ v'.marked = false ∧ v'.watch = none ∧ v'.sregs = v.sregs ∧ v'.acaps = v.acaps ∧ v'.wb = v.wb ∧ v'.holds = v.holds ∧
    v'.trap = v.trap ∧ ∀ j < v.lanes.length, ((v.lane j).tx = none → (v'.lane j).regs = (v.lane j).regs ∧ (v'.lane j).pc = (v.lane j).pc) ∧
      ((v.lane j).thread.isSome = true → (v.lane j).mode ≠ .exited → (v'.lane j).tx = none) ∧ (v'.lane j).loopBuf = none

theorem mem_live {g : Group} {j : Nat} (hj : j < g.lanes.length) (ht : (g.lane j).thread.isSome = true) (hm : (g.lane j).mode ≠ .exited) :
    j ∈ g.live := by
  simp [Group.live, Group.seatsWhere, hj, ht, hm]

theorem savedFrom_savedGroup (g : Group) (now : Nat) : SavedFrom g (savedGroup g now) := by
  have keeps : ∀ {α : Type} {f : Group → α} (_ : ∀ (g : Group) w d, f { g with wait := w, waitDone := d } = f g) (_ : ∀ g, f (groupCore g) = f g)
      (_ : ∀ (g : Group) l r n a v, f { g with lanes := l, rstack := r, steep := n, steepAt := a, trapSave := v } = f g),
      f (stopped g now).saveWait = f g := fun {_ f} hw hc hl => by
    rw [saveWait_keeps hw, ← hc (stopped g now), core_stopped, hc, withdrawn_keeps hl]
  have hk : ∀ j, LaneKept (g.lane j) ((stopped g now).lane j) := fun j =>
    (withdrawn_kept g now j).trans (laneKept_of_core (laneCore_lane (core_stopped g now) j))
  have hlane : ∀ j, (savedGroup g now).lane j = { (stopped g now).lane j with loopBuf := none } := fun j =>
    lane_map (stopped g now) (f := fun l => { l with loopBuf := none }) rfl j
  refine ⟨rfl, rfl, rfl, ?_, ?_, ?_, ?_, ?_, fun j hj => ⟨fun ht => ?_, fun ht hm => ?_, ?_⟩⟩
  · exact keeps (f := Group.sregs) (fun _ _ _ => rfl) (fun _ => rfl) (fun _ _ _ _ _ _ => rfl)
  · exact keeps (f := Group.acaps) (fun _ _ _ => rfl) (fun _ => rfl) (fun _ _ _ _ _ _ => rfl)
  · exact keeps (f := Group.wb) (fun _ _ _ => rfl) (fun _ => rfl) (fun _ _ _ _ _ _ => rfl)
  · exact keeps (f := Group.holds) (fun _ _ _ => rfl) (fun _ => rfl) (fun _ _ _ _ _ _ => rfl)
  · exact keeps (f := Group.trap) (fun _ _ _ => rfl) (fun _ => rfl) (fun _ _ _ _ _ _ => rfl)
  · rw [hlane]
    exact ((hk j).noTx ht).2
  · rw [hlane]
    exact ((laneKept_of_core (laneCore_lane (core_stopped g now) j)).noTx (withdrawn_tx (mem_live hj ht hm) now)).1
  · rw [hlane]

section
variable {s : State} {k : Nat} {g : Group}

theorem saveGroup_get (h : s.groups.get? k = some g) (he : g.ended = false) (ha : g.away = false) :
    (s.saveGroup k false).groups.get? k = some (savedGroup g s.now) := by
  rw [State.saveGroup, h]
  exact (congrArg (fun t : State => t.groups.get? k) (if_neg (by rw [he, ha]; decide))).trans (modGroup_get_same (preemptTx_get h) _)

theorem saveGroup_other (s : State) (halt : Bool) {j : Nat} (hj : j ≠ k) : (s.saveGroup k halt).groups.get? j = s.groups.get? j := by
  unfold State.saveGroup
  split
  · rfl
  · split
    · rfl
    · rw [modGroup_get, if_neg hj, preemptTx_other s _ hj]

theorem beside_saveGroup (s : State) (k : Nat) (halt : Bool) : beside (s.saveGroup k halt) = beside s := by
  unfold State.saveGroup
  split
  · rfl
  · split
    · rfl
    · exact (beside_modGroup _ k _).trans (beside_preemptTx s k _)

/-! ### The entry of a handler (R355) -/

/-- The lanes of a group that enters a handler: those of the handler start at its address, the others are held. -/
def handlerLanes (hset : List Nat) (th : Dword) (l : List Lane) : List Lane :=
  l.mapIdx fun (i : Nat) (l : Lane) =>
    if hset.contains i then { l.clearRun with pc := th, mode := .running, held := false, replays := false, woke := false } else { l with held := true }

/-- What the bookkeeping of a group that enters a handler leaves. -/
theorem readied_keeps {α : Type} {f : Group → α} (hf : ∀ (g : Group) l n c w r h e a x, f { g with
      charges := l, paid := n, cls := c, stc := w, readySince := r, holder := h, steep := e, steepAt := a, crossing := x } = f g) (g : Group) (now : Nat) :
    f (({ (g.phase 6 now).settle with readySince := now }.takeBroadcast now).syncSteep now) = f g := by
  have hs : ∀ (v : Group) n a, f { v with steep := n, steepAt := a } = f v := fun v n a =>
    hf v v.charges v.paid v.cls v.stc v.readySince v.holder n a v.crossing
  have ht : ∀ (v : Group) l n a c, f { v with holder := l, steep := n, steepAt := a, crossing := c } = f v := fun v l n a c =>
    hf v v.charges v.paid v.cls v.stc v.readySince l n a c
  have hp : ∀ (v : Group) l n c, f { v with charges := l, paid := n, cls := c } = f v := fun v l n c =>
    hf v l n c v.stc v.readySince v.holder v.steep v.steepAt v.crossing
  have hr : ∀ (v : Group), f { v.settle with readySince := now } = f v := fun v =>
    hf v [] v.paid v.cls v.settle.stc now v.holder v.steep v.steepAt v.crossing
  exact (hs _ _ _).trans ((takeBroadcast_keeps ht _ now).trans ((hr _).trans (phase_keeps hp g 6 now)))

/-- A group with a handler that is outside it takes a trap: it enters the handler, and nothing else changes. -/
theorem enterTrap_enters (h : s.groups.get? k = some g) (ht : s.traphOf g ≠ 0) (hh : g.trap.inHandler = false) (r : TrapReq) (hset path : List Nat)
    (tpc : Dword) : ∃ v, s.enterTrap k r hset path tpc = s.setGroup (.grp k) v ∧ v.lanes = handlerLanes hset (s.traphOf g) g.lanes ∧
      v.trap.inHandler = true ∧ v.trap.cause = BitVec.ofNat 8 (causeNum r.cause) ∧ v.inPreempt = (r.cause == .preempt) ∧ v.trapDue = g.trapDue := by
  have hn : ¬(s.traphOf g = 0 ∨ g.trap.inHandler = true) := fun hc => hc.elim ht fun hi => Bool.false_ne_true (hh.symm.trans hi)
  simp only [State.enterTrap, show s.group? (.grp k) = some g from h, hn, if_false]
  refine ⟨_, rfl, ?_, ?_, ?_, ?_, ?_⟩
  · exact readied_keeps (f := Group.lanes) (fun _ _ _ _ _ _ _ _ _ _ => rfl) _ s.now
  · exact readied_keeps (f := fun g : Group => g.trap.inHandler) (fun _ _ _ _ _ _ _ _ _ _ => rfl) _ s.now
  · exact readied_keeps (f := fun g : Group => g.trap.cause) (fun _ _ _ _ _ _ _ _ _ _ => rfl) _ s.now
  · exact readied_keeps (f := Group.inPreempt) (fun _ _ _ _ _ _ _ _ _ _ => rfl) _ s.now
  · exact readied_keeps (f := Group.trapDue) (fun _ _ _ _ _ _ _ _ _ _ => rfl) _ s.now

theorem handlerLanes_of_mem {hset : List Nat} {th : Dword} {l : List Lane} {j : Nat} (hj : j < l.length) (hm : j ∈ hset) (d : Lane) :
    (handlerLanes hset th l).getD j d = { (l.getD j d).clearRun with pc := th, mode := .running, held := false, replays := false, woke := false } := by
  simp [handlerLanes, List.getD, hj, hm]

/-! ### The PREEMPT trap (R343) -/

/-- A group as the PREEMPT trap finds it: outside its transactions, and waiting only for an answer. -/
def calm (g : Group) (now : Nat) : Group :=
  { (withdrawn g now).endWait now with trapDue := false, wait := g.wait.filter fun w => w.answers }

theorem calm_keeps {α : Type} {f : Group → α} (hp : ∀ (g : Group) l n c, f { g with charges := l, paid := n, cls := c } = f g)
    (hw : ∀ (g : Group) a r d, f { g with wait := a, readySince := r, trapDue := d } = f g)
    (hl : ∀ (g : Group) l r n a v, f { g with lanes := l, rstack := r, steep := n, steepAt := a, trapSave := v } = f g) (g : Group) (now : Nat) :
    f (calm g now) = f g :=
  (hw ((withdrawn g now).endWait now) _ ((withdrawn g now).endWait now).readySince _).trans
    ((endWait_keeps hp (fun g a r => hw g a r g.trapDue) (withdrawn g now) now).trans (withdrawn_keeps hl g now))

theorem calm_lanes (g : Group) (now : Nat) : (calm g now).lanes = (withdrawn g now).lanes :=
  endWait_keeps (f := Group.lanes) (fun _ _ _ _ => rfl) (fun _ _ _ => rfl) (withdrawn g now) now

theorem calm_lane (g : Group) (now j : Nat) : (calm g now).lane j = (withdrawn g now).lane j :=
  congrArg (fun l : List Lane => l.getD j (Lane.fresh none 0 0)) (calm_lanes g now)

theorem mem_preemptLanes {g : Group} {j : Nat} :
    j ∈ g.preemptLanes ↔ j < g.lanes.length ∧ (g.lane j).thread.isSome = true ∧ stands (g.lane j).mode = true := by
  have h : g.preemptLanes = (List.range g.lanes.length).filter fun i => (g.lane i).thread.isSome && stands (g.lane i).mode := rfl
  rw [h, List.mem_filter, List.mem_range, Bool.and_eq_true]

/-- A trap at a run boundary takes every lane that has neither exited nor parked. -/
theorem boundaryTrap_enters (h : s.groups.get? k = some g) (cause : Cause) (value : Dword) :
    ∃ r path tpc, s.boundaryTrap k cause none value none none = s.enterTrap k r g.preemptLanes path tpc ∧ r.cause = cause := by
  rw [State.boundaryTrap, show s.group? (.grp k) = some g from h]
  exact ⟨_, _, _, rfl, rfl⟩

/-- What the PREEMPT trap leaves of a group whose lanes go to the handler (R292, R322, R355). -/
def TrappedFrom (th : Dword) (v v' : Group) : Prop :=
  v'.trap.inHandler = true ∧ v'.trap.cause = 0x0A ∧ v'.inPreempt = true ∧ v'.trapDue = false ∧
    ∀ j < v.lanes.length, j ∈ v.preemptLanes → (v'.lane j).pc = th ∧ (v'.lane j).mode = .running ∧
      (v'.lane j).tx = none ∧ ((v.lane j).tx = none → (v'.lane j).regs = (v.lane j).regs)

/-- The PREEMPT trap of a group with a handler, outside it. -/
theorem preemptTrap_enters (h : s.groups.get? k = some g) (ht : s.traphOf g ≠ 0) (hh : g.trap.inHandler = false) :
    ∃ v, (s.preemptTrap k g).groups.get? k = some v ∧ beside (s.preemptTrap k g) = beside s ∧ TrappedFrom (s.traphOf g) g v := by
  let s' := (s.preemptTx k g).modGroup (.grp k) fun v => { v.endWait s.now with trapDue := false, wait := g.wait.filter fun w => w.answers }
  have hs : beside s' = beside s := (beside_modGroup _ k _).trans (beside_preemptTx s k g)
  have hg : s'.groups.get? k = some (calm g s.now) := modGroup_get_same (preemptTx_get h) _
  have hteam : (calm g s.now).team = g.team := calm_keeps (f := Group.team) (fun _ _ _ _ => rfl) (fun _ _ _ _ => rfl) (fun _ _ _ _ _ _ => rfl) g s.now
  have htraph : s'.traphOf (calm g s.now) = s.traphOf g := by
    rw [show s'.traphOf (calm g s.now) = s'.traphOf g by rw [State.traphOf, State.traphOf, hteam]]
    exact of_beside (fun u => u.traphOf g) (fun _ => rfl) hs
  have hin : (calm g s.now).trap.inHandler = false :=
    (calm_keeps (f := fun g : Group => g.trap.inHandler) (fun _ _ _ _ => rfl) (fun _ _ _ _ => rfl) (fun _ _ _ _ _ _ => rfl) g s.now).trans hh
  have hb : s.preemptTrap k g = s'.boundaryTrap k .preempt none 0 none none := rfl
  obtain ⟨r, path, tpc, hr, hcause⟩ := boundaryTrap_enters hg .preempt 0
  obtain ⟨v, hv, hl, hi, hc, hp, hd⟩ := enterTrap_enters hg (by rw [htraph]; exact ht) hin r (calm g s.now).preemptLanes path tpc
  rw [hcause] at hc hp
  rw [hb, hr, hv]
  refine ⟨v, get_set_same _ _ _, (beside_setGroup s' k v).trans hs, hi, hc, hp, hd, fun j hj hm => ?_⟩
  have hk : LaneKept (g.lane j) ((calm g s.now).lane j) := by rw [calm_lane]; exact withdrawn_kept g s.now j
  obtain ⟨-, hthread, hstands⟩ := mem_preemptLanes.1 hm
  have hlen : j < (calm g s.now).lanes.length := by rw [calm_lanes, withdrawn_length]; exact hj
  have hin : j ∈ (calm g s.now).preemptLanes := mem_preemptLanes.2 ⟨hlen, by rw [hk.thread]; exact hthread, hk.stands hstands⟩
  have hlane : v.lane j = { ((calm g s.now).lane j).clearRun with pc := s.traphOf g, mode := .running, held := false, replays := false, woke := false } := by
    rw [Group.lane, hl, htraph]
    exact handlerLanes_of_mem hlen hin _
  have htx : ((calm g s.now).lane j).tx = none := by
    rw [calm_lane]
    refine withdrawn_tx (mem_live hj hthread fun he => ?_) s.now
    rw [he] at hstands
    cases hstands
  rw [hlane]
  exact ⟨rfl, rfl, htx, fun ht => (hk.noTx ht).2.1⟩

end

end Sys2Proof.Proofs
end

section
/-! PROOFS. Pre-emption at its run boundary and PRQCMD (R341, R343, R344): marks, saves and traps of groups. -/

namespace Sys2Proof.Proofs

open Sys2Proof Sys2Proof.Machine Sys2Proof.Safety Sys2Proof.Laws

/-! ### Marks -/

/-- A group that pre-emption has caught: saved, or marked for its run boundary. -/
def Caught (s : State) (k : Nat) : Prop := ∃ v, s.groups.get? k = some v ∧ (v.saved = true ∨ v.marked = true)

/-- A state to which marks of groups lead: each group stands as it did, or is caught. -/
structure Marking (s t : State) : Prop where
  beside : Proofs.beside t = Proofs.beside s
  groups : ∀ k, t.groups.get? k = s.groups.get? k ∨ Caught t k

theorem Marking.refl (s : State) : Marking s s := ⟨rfl, fun _ => .inl rfl⟩

theorem Marking.caught {s t : State} (h : Marking s t) {k : Nat} (hc : Caught s k) : Caught t k := by
  rcases h.groups k with he | hk
  · obtain ⟨v, hv, hs⟩ := hc
    exact ⟨v, he.trans hv, hs⟩
  · exact hk

theorem Marking.trans {s t u : State} (h : Marking s t) (k : Marking t u) : Marking s u where
  beside := k.beside.trans h.beside
  groups j := by
    rcases k.groups j with hk | hk
    · rcases h.groups j with hh | hh
      · exact .inl (hk.trans hh)
      · exact .inr (k.caught hh)
    · exact .inr hk

theorem foldl_marking {α : Type} {f : State → α → State} (h : ∀ s i, Marking s (f s i)) (l : List α) (s : State) : Marking s (l.foldl f s) := by
  induction l generalizing s with
  | nil => exact .refl s
  | cons i l ih => exact (h s i).trans (ih _)

section
variable {s : State} {k : Nat} {v : Group}

/-- What a mark of a group does: nothing where it is away or marked already, and else it is saved or marked. -/
theorem mark_cases (h : s.groups.get? k = some v) : s.mark k = s ∧ (v.ended = true ∨ v.away = true ∨ v.marked = true) ∨
    (beside (s.mark k) = beside s ∧ (∀ j, j ≠ k → (s.mark k).groups.get? j = s.groups.get? j) ∧ Caught (s.mark k) k) := by
  have hmod : ∀ (f : Group → Group), (f v).marked = true → beside (s.modGroup (.grp k) f) = beside s ∧
      (∀ j, j ≠ k → (s.modGroup (.grp k) f).groups.get? j = s.groups.get? j) ∧ Caught (s.modGroup (.grp k) f) k := fun f hf =>
    ⟨beside_modGroup s k f, fun j hj => by rw [modGroup_get, if_neg hj], ⟨f v, modGroup_get_same h f, .inr hf⟩⟩
  by_cases hg : (v.ended || v.away || v.marked) = true
  · refine .inl ⟨?_, ?_⟩
    · rw [State.mark, h]; exact if_pos hg
    · simpa [or_assoc] using hg
  · refine .inr ?_
    rw [State.mark, h]
    simp only [hg, Bool.false_eq_true, if_false]
    split
    · split
      · simp only [Bool.or_eq_true, not_or, Bool.not_eq_true] at hg
        obtain ⟨⟨he, ha⟩, -⟩ := hg
        exact ⟨beside_saveGroup s k false, fun j hj => saveGroup_other s false hj, ⟨savedGroup v s.now, saveGroup_get h he ha, .inl rfl⟩⟩
      · exact hmod _ rfl
    · split
      · exact hmod _ rfl
      · exact hmod _ rfl

theorem mark_marking (s : State) (k : Nat) : Marking s (s.mark k) := by
  cases h : s.groups.get? k with
  | none => rw [State.mark, h]; exact .refl s
  | some v =>
    rcases mark_cases h with ⟨he, -⟩ | ⟨hb, ho, hc⟩
    · rw [he]; exact .refl s
    · refine ⟨hb, fun j => ?_⟩
      by_cases hj : j = k
      · exact .inr (hj ▸ hc)
      · exact .inl (ho j hj)

/-- A mark catches a group that is neither away nor ended, whatever marks came before. -/
theorem mark_catches {t : State} (h : s.groups.get? k = some v) (ha : ¬(v.ended = true ∨ v.saved = true ∨ v.halted = true)) (M : Marking s t) :
    Caught (t.mark k) k := by
  rcases M.groups k with he | hc
  · rcases mark_cases (he.trans h) with ⟨hs, hv⟩ | ⟨-, -, hc⟩
    · rw [hs]
      refine ⟨v, he.trans h, ?_⟩
      simp only [Group.away, Bool.or_eq_true] at hv
      tauto
    · exact hc
  · exact (mark_marking t k).caught hc

end

theorem markTeam_marking (s : State) (n : Nat) : Marking s (s.markTeam n) := foldl_marking mark_marking _ s

theorem foldl_mark_catches {s t : State} {k : Nat} {v : Group} (h : s.groups.get? k = some v)
    (ha : ¬(v.ended = true ∨ v.saved = true ∨ v.halted = true)) (M : Marking s t) {l : List Nat} (hk : k ∈ l) :
    Caught (l.foldl (fun (s : State) k => s.mark k) t) k := by
  induction l generalizing t with
  | nil => cases hk
  | cons j l ih =>
    rw [List.foldl_cons]
    rcases List.mem_cons.1 hk with rfl | hk
    · exact (foldl_marking mark_marking l _).caught (mark_catches h ha M)
    · exact ih (M.trans (mark_marking t j)) hk

/-- Marks of teams catch each of their groups that is neither away nor ended. -/
theorem markTeams_catch {s t : State} (M : Marking s t) {ts : List Nat} {n : Nat} (hn : n ∈ ts) {u : Team} (hu : s.teams.get? n = some u) {k : Nat}
    (hk : k ∈ u.groups) {v : Group} (h : s.groups.get? k = some v) (ha : ¬(v.ended = true ∨ v.saved = true ∨ v.halted = true)) :
    Caught (ts.foldl (fun (s : State) n => s.markTeam n) t) k := by
  induction ts generalizing t with
  | nil => cases hn
  | cons m ts ih =>
    rw [List.foldl_cons]
    rcases List.mem_cons.1 hn with rfl | hn
    · refine (foldl_marking markTeam_marking ts _).caught ?_
      have hteam : t.teams.get? n = some u := by rw [teams_of_beside M.beside]; exact hu
      rw [State.markTeam, hteam]
      exact foldl_mark_catches h ha M hk
    · exact ih (M.trans (markTeam_marking t m)) hn

/-! ### PRQCMD -/

section
variable {s : State} {p : Nat}

/-- Commands 1 and 2 record what they name and catch its groups. -/
theorem startPreempt_catches (s : State) (p : Nat) (ts : List Nat) :
    ((s.startPreempt p ts).part p).preempt = some ⟨ts, s.now, false⟩ ∧ ((s.startPreempt p ts).part p).prqRes = 0 ∧ (s.startPreempt p ts).mem = s.mem ∧
      ∀ n ∈ ts, ∀ t, s.teams.get? n = some t → ∀ k ∈ t.groups, ∀ v, s.groups.get? k = some v →
        ¬(v.ended = true ∨ v.saved = true ∨ v.halted = true) → Caught (s.startPreempt p ts) k := by
  have hb : beside (s.startPreempt p ts) = beside (s.setPart p { s.part p with preempt := some ⟨ts, s.now, false⟩, prqRes := 0 }) :=
    (foldl_marking markTeam_marking ts _).beside
  have hp := part_of_beside hb p
  rw [setPart_same] at hp
  exact ⟨by rw [hp], by rw [hp], (mem_of_beside hb :), fun n hn t ht k hk v hv ha =>
    markTeams_catch (s := s.setPart p { s.part p with preempt := some ⟨ts, s.now, false⟩, prqRes := 0 }) (.refl _) hn ht hk hv ha⟩

/-- The team that command 1 looks for. -/
def sought (s : State) (p g : Nat) : Option (Nat × Team) :=
  s.teams.find? fun t => t.2.grid == g && t.2.index == (s.part p).prqteam.toNat && t.2.seated

/-- The resident teams that command 2 names. -/
def resident (s : State) (g : Nat) : List Nat := (s.teams.filter fun t => t.2.grid == g && t.2.phase == .resident && !t.2.swapped).map (·.1)

/-- A command on a partition that is busy with another changes nothing. -/
theorem preempt_busy (h : (s.part p).preempt ≠ none) :
    s.preemptTeam p = s ∧ s.preemptGrid p = s ∧ ∀ b, s.holdGrid p b = s := by
  have hs : (s.part p).preempt.isSome = true := Option.isSome_iff_ne_none.2 h
  exact ⟨if_pos hs, if_pos hs, fun b => if_pos hs⟩

section
variable (h : (s.part p).preempt = none)
include h

theorem preempt_unnamed (hn : s.gridNamed p (s.part p).prqid = none) :
    s.preemptTeam p = s.setRes p 1 ∧ s.preemptGrid p = s.setRes p 1 ∧ ∀ b, s.holdGrid p b = s.setRes p 1 := by
  refine ⟨?_, ?_, fun b => ?_⟩
  · simp [State.preemptTeam, h, hn]
  · simp [State.preemptGrid, h, hn]
  · simp [State.holdGrid, h, hn]

variable {g : Nat} {e : Grid} (hg : s.gridNamed p (s.part p).prqid = some (g, e))
include hg

theorem preemptTeam_named : s.preemptTeam p = if e.teams ≤ (s.part p).prqteam.toNat then s.setRes p 2
    else match sought s p g with
      | some (n, t) => if t.swapped then s.setRes p 3 else if t.phase == .resident then s.startPreempt p [n] else s.setRes p 2
      | none => if e.next ≤ (s.part p).prqteam.toNat || s.teams.any fun t => t.2.grid == g && t.2.index == (s.part p).prqteam.toNat && t.2.phase == .saved
          then s.setRes p 3 else s.setRes p 2 := by
  simp only [State.preemptTeam, h, Option.isSome_none, Bool.false_eq_true, if_false, hg]
  rfl

theorem preemptGrid_named : s.preemptGrid p = if (resident s g).isEmpty then s.setRes p 3 else s.startPreempt p (resident s g) := by
  simp only [State.preemptGrid, h, Option.isSome_none, Bool.false_eq_true, if_false, hg]
  rfl

theorem holdGrid_named (b : Bool) : ∃ a, s.holdGrid p b =
    { ({ s with grids := s.grids.set g { e with held := b } } : State).setRes p 0 with agenda := a } := by
  simp only [State.holdGrid, h, Option.isSome_none, Bool.false_eq_true, if_false, hg]
  cases b
  · exact ⟨_, rfl⟩
  · exact ⟨s.agenda, rfl⟩

end
end

/-! ### What a run boundary brings (R343, R344) -/

section
variable {s : State} {k : Nat} {v : Group}

theorem boundary_idle (h : s.groups.get? k = some v) (hd : s.boundaryDue v = false) : s.boundary k = s := by
  rw [State.boundary, h]
  exact if_pos (by rw [hd]; rfl)

/-- A resident group with no run open, while the slice map does not change. -/
structure AtBoundary (s : State) (k : Nat) (v : Group) : Prop where
  group : s.groups.get? k = some v
  ended : v.ended = false
  away  : v.away = false
  run   : v.runOpen = false
  map   : s.change = none

theorem AtBoundary.due (B : AtBoundary s k v) : s.boundaryDue v =
    (v.moveDue.isSome || v.cut || v.pdone || (v.trapDue && !v.trap.inHandler && v.waitDone.isNone)) := by
  simp [State.boundaryDue, B.ended, B.away, B.run, B.map, Bool.or_assoc]

theorem AtBoundary.boundary_cut (B : AtBoundary s k v) (hc : v.cut = true) : s.boundary k = s.saveGroup k (s.swapping (.grp k)) := by
  rw [State.boundary, B.group]
  simp [B.due, hc, B.map]

theorem AtBoundary.boundary_pdone (B : AtBoundary s k v) (hc : v.cut = false) (hp : v.pdone = true) : s.boundary k = s.saveGroup k false := by
  rw [State.boundary, B.group]
  simp [B.due, hc, hp, B.map]

/-- What a due PREEMPT trap comes to. -/
theorem AtBoundary.boundary_trap (B : AtBoundary s k v) (hc : v.cut = false) (hp : v.pdone = false) (hm : v.moveDue = none) (ht : v.trapDue = true)
    (hi : v.trap.inHandler = false) (hw : v.waitDone = none) : s.boundary k = match v.wait with
      | some (.lwait _ _ _) => s.modGroup (.grp k) fun g => g.endLwait s.now 2
      | _ => if s.traphOf v = 0 || v.preemptLanes.isEmpty then s.saveGroup k false else s.preemptTrap k v := by
  rw [State.boundary, B.group]
  simp only [B.due, hc, hp, hm, ht, hi, hw, Option.isSome_none, Option.isNone_none, Bool.false_or, Bool.not_false, Bool.and_self, Bool.not_true,
    Bool.false_eq_true, if_false, Bool.false_and]
  cases v.wait with
  | none => rfl
  | some w => cases w <;> rfl

end

/-! ### The deadline (R344) -/

theorem preemptDeadline_cuts (s : State) (p : Nat) : ∃ u, exec (.preemptDeadline p) s = .next u ∧ u.mem = s.mem ∧
    (∀ k ∈ s.lateGroups p, ∀ v, s.groups.get? k = some v → u.groups.get? k = some { v with cut := true }) ∧
    ∀ k, k ∉ s.lateGroups p → u.groups.get? k = s.groups.get? k := by
  have hget := foldl_modGroup_get (f := fun g => { g with cut := true }) (fun _ => rfl) (s.lateGroups p) s
  refine ⟨_, rfl, mem_of_beside (foldl_modGroup_beside _ _ s), fun k hk v hv => ?_, fun k hk => ?_⟩
  · exact (hget k).trans (by rw [if_pos hk, hv]; rfl)
  · exact (hget k).trans (if_neg hk)

end Sys2Proof.Proofs
end

section
/-! PROOFS. Teams that are saved (R345), and the stall watch with the records that it writes (R349 to R351, R357). -/

namespace Sys2Proof.Proofs

open Sys2Proof Sys2Proof.Machine Sys2Proof.Safety Sys2Proof.Laws

/-! ### Claims that are released (R189) -/

/-- A state after claims have been released: cores lose their claim or stand as they did, and groups may have stopped waiting for them. -/
structure Unclaimed (s t : State) : Prop where
  tables : t.teams = s.teams ∧ t.clusters = s.clusters ∧ t.parts = s.parts ∧ t.shadows = s.shadows ∧ t.mem = s.mem
  cores  : ∀ c, (t.core c).matrix.claim = none ∨ t.core c = s.core c
  groups : ∀ k v, s.groups.get? k = some v → ∃ v', t.groups.get? k = some v' ∧ v'.lanes = v.lanes ∧ v'.ended = v.ended

theorem Unclaimed.refl (s : State) : Unclaimed s s := ⟨⟨rfl, rfl, rfl, rfl, rfl⟩, fun _ => .inr rfl, fun _ v h => ⟨v, h, rfl, rfl⟩⟩

theorem Unclaimed.trans {s t u : State} (h : Unclaimed s t) (k : Unclaimed t u) : Unclaimed s u where
  tables := by
    obtain ⟨h1, h2, h3, h4, h5⟩ := h.tables
    obtain ⟨k1, k2, k3, k4, k5⟩ := k.tables
    exact ⟨k1.trans h1, k2.trans h2, k3.trans h3, k4.trans h4, k5.trans h5⟩
  cores c := by
    rcases k.cores c with hk | hk
    · exact .inl hk
    · rw [hk]; exact h.cores c
  groups j v hv := by
    obtain ⟨v1, h1, hl, he⟩ := h.groups j v hv
    obtain ⟨v2, h2, kl, ke⟩ := k.groups j v1 h1
    exact ⟨v2, h2, kl.trans hl, ke.trans he⟩

theorem get?_map {α β : Type} (m : FMap α) (f : α → β) (k : Nat) : FMap.get? (m.map fun e => (e.1, f e.2)) k = (m.get? k).map f := by
  induction m with
  | nil => rfl
  | cons e m ih =>
    obtain ⟨j, w⟩ := e
    simp only [List.map_cons, FMap.get?]
    split
    · rfl
    · exact ih

theorem releaseClaim_unclaimed (s : State) (c : Nat) : Unclaimed s (s.releaseClaim c) where
  tables := ⟨rfl, rfl, rfl, rfl, rfl⟩
  cores d := by
    by_cases h : d = c
    · subst h
      exact .inl (congrArg (fun k : Core => k.matrix.claim) (setCore_same s d _))
    · exact .inr (setCore_other s _ h)
  groups k v hv := by
    let roused (v : Group) : Group := if v.wait == some .claim && (v.place.any fun p : Place => p.core == c) then v.endWait s.now else v
    have hr : (roused v).lanes = v.lanes ∧ (roused v).ended = v.ended := by
      unfold roused
      split
      · exact ⟨endWait_keeps (f := Group.lanes) (fun _ _ _ _ => rfl) (fun _ _ _ => rfl) v s.now,
          endWait_keeps (f := Group.ended) (fun _ _ _ _ => rfl) (fun _ _ _ => rfl) v s.now⟩
      · exact ⟨rfl, rfl⟩
    exact ⟨roused v, (get?_map s.groups roused k).trans (by rw [hv]; rfl), hr⟩

theorem releaseClaim_core (s : State) (c : Nat) : ((s.releaseClaim c).core c).matrix.claim = none :=
  congrArg (fun k : Core => k.matrix.claim) (setCore_same s c _)

theorem Unclaimed.stays {s t : State} (h : Unclaimed s t) {c : Nat} (hc : (s.core c).matrix.claim = none) : (t.core c).matrix.claim = none := by
  rcases h.cores c with ht | ht
  · exact ht
  · rw [ht]; exact hc

/-- The claims of chosen cores, released one after another. -/
def unclaim (s : State) (base : Nat) (p : Nat → Bool) (l : List Nat) : State :=
  l.foldl (fun (s : State) j => if p j then s.releaseClaim (base + j) else s) s

theorem unclaim_step (s : State) (base : Nat) (p : Nat → Bool) (j : Nat) : Unclaimed s (if p j then s.releaseClaim (base + j) else s) := by
  split
  · exact releaseClaim_unclaimed s _
  · exact .refl s

theorem unclaim_unclaimed (s : State) (base : Nat) (p : Nat → Bool) (l : List Nat) : Unclaimed s (unclaim s base p l) := by
  unfold unclaim
  induction l generalizing s with
  | nil => exact .refl s
  | cons j l ih => exact (unclaim_step s base p j).trans (ih _)

theorem unclaim_core {s : State} {base : Nat} {p : Nat → Bool} {l : List Nat} {j : Nat} (hj : j ∈ l) (hp : p j = true) :
    ((unclaim s base p l).core (base + j)).matrix.claim = none := by
  unfold unclaim
  induction l generalizing s with
  | nil => cases hj
  | cons i l ih =>
    rw [List.foldl_cons]
    rcases List.mem_cons.1 hj with rfl | hj
    · refine (unclaim_unclaimed _ base p l).stays ?_
      rw [if_pos hp]
      exact releaseClaim_core s _
    · exact ih hj

/-! ### A team that is saved (R345) -/

section
variable {s : State} {tn p : Nat} {t : Team}

/-- The matrix state that a team takes with it, by team core. -/
def claimed (s : State) (tn : Nat) (t : Team) : List (Option Matrix) :=
  (List.range t.span).map fun j => if (s.core (t.base + j)).matrix.claim = some tn then some (s.core (t.base + j)).matrix else none

theorem claimed_getD {j : Nat} (hj : j < t.span) :
    (claimed s tn t).getD j none = if (s.core (t.base + j)).matrix.claim = some tn then some (s.core (t.base + j)).matrix else none := by
  simp [claimed, List.getD, hj]

/-- The groups of a team give up their seats. -/
def unseat (s : State) (l : List (Nat × Group)) : State := l.foldl (fun (s : State) e => s.modGroup (.grp e.1) fun g => { g with place := none }) s

theorem unseat_eq (s : State) (l : List (Nat × Group)) :
    unseat s l = (l.map (·.1)).foldl (fun (s : State) k => s.modGroup (.grp k) fun g => { g with place := none }) s := by
  rw [unseat, List.foldl_map]

theorem mem_teamGroups {k : Nat} {v : Group} (hk : k ∈ t.groups) (hv : s.groups.get? k = some v) (he : v.ended = false) :
    k ∈ (s.teamGroups t).map (·.1) := by
  refine List.mem_map.2 ⟨(k, v), List.mem_filterMap.2 ⟨k, hk, ?_⟩, rfl⟩
  rw [hv]
  simp [he]

/-- What a finished command and the bookkeeping of a save leave. -/
theorem prqCheck_keeps {α : Type} {f : State → α} (hf : ∀ (s : State) m v, f { s with parts := m, vectors := v } = f s) (s : State) (p : Nat) :
    f (s.prqCheck p) = f s := by
  unfold State.prqCheck
  simp only
  split
  · rfl
  · split
    · exact hf s _ _
    · exact hf s _ s.vectors

theorem teamSave_idle (h : s.teams.get? tn = some t) (hs : s.teamSavable t = false) : exec (.teamSave tn) s = .next s := by
  change execTeamSave tn s = _
  rw [execTeamSave, h]
  exact congrArg _ (if_pos (by rw [hs]; rfl))

/-- The state once the team's claims have been released. -/
def released (s : State) (tn : Nat) (t : Team) : State :=
  unclaim s t.base (fun j => ((claimed s tn t).getD j none).isSome) (List.range t.span)

/-- The state once its groups have given up their seats as well. -/
def left (s : State) (tn : Nat) (t : Team) : State := unseat (released s tn t) ((released s tn t).teamGroups t)

theorem prqCheck_if_keeps {α : Type} {f : State → α} (hf : ∀ (s : State) m v, f { s with parts := m, vectors := v } = f s)
    (s : State) (c : Bool) (p : Nat) (q : Part) : f ((if c then s.setPart p q else s).prqCheck p) = f s := by
  rw [prqCheck_keeps hf]
  split
  · exact hf s _ s.vectors
  · rfl

/-- A team of a partition that can be saved takes its matrix state with it and gives up its seats. -/
theorem teamSave_saves (h : s.teams.get? tn = some t) (hs : s.teamSavable t = true) (hp : t.part = some p) :
    ∃ u t', exec (.teamSave tn) s = .next u ∧ u.teams.get? tn = some t' ∧ t'.phase = .saved ∧ t'.seated = false ∧ t'.groups = t.groups ∧
      t'.maps = t.maps ∧ t'.barriers = t.barriers ∧ t'.matrix = claimed s tn t ∧
      (u.clusters, u.groups, u.cores) = ((left s tn t).clusters, (left s tn t).groups, (left s tn t).cores) := by
  change ∃ u t', execTeamSave tn s = .next u ∧ _
  rw [execTeamSave, h]
  simp only [hs, hp, Bool.not_true, Bool.false_eq_true, if_false]
  refine ⟨_, _, rfl, (congrArg (fun m => m.get? tn) (prqCheck_if_keeps (f := State.teams) (fun _ _ _ => rfl) _ _ p _)).trans (get_set_same ..), ?_⟩
  exact ⟨rfl, rfl, rfl, rfl, rfl, rfl, prqCheck_if_keeps (f := fun s => (s.clusters, s.groups, s.cores)) (fun _ _ _ => rfl) _ _ p _⟩

theorem left_group {k : Nat} {v : Group} (hk : k ∈ t.groups) (hv : s.groups.get? k = some v) (he : v.ended = false) :
    ∃ v', (left s tn t).groups.get? k = some v' ∧ v'.place = none ∧ v'.lanes = v.lanes := by
  obtain ⟨v1, h1, hl, hE⟩ := (unclaim_unclaimed s t.base _ (List.range t.span)).groups k v hv
  refine ⟨{ v1 with place := none }, ?_, rfl, hl⟩
  rw [left, unseat_eq, foldl_modGroup_get (f := fun g => { g with place := none }) (fun _ => rfl) _ _ k, released,
    if_pos (mem_teamGroups hk h1 (hE.trans he)), h1]
  rfl

theorem left_core (c : Nat) : (left s tn t).core c = (released s tn t).core c := by
  rw [left, unseat_eq]
  exact of_beside (fun u => u.core c) (fun _ => rfl) (foldl_modGroup_beside ..)

theorem left_clusters : (left s tn t).clusters = s.clusters := by
  obtain ⟨-, hcl, -⟩ := (unclaim_unclaimed s t.base (fun j => ((claimed s tn t).getD j none).isSome) (List.range t.span)).tables
  rw [left, unseat_eq]
  exact (of_beside State.clusters (fun _ => rfl) (foldl_modGroup_beside ..)).trans hcl

theorem left_claim {j : Nat} (hj : j < t.span) : ((left s tn t).core (t.base + j)).matrix.claim ≠ some tn := by
  rw [left_core]
  by_cases hc : (s.core (t.base + j)).matrix.claim = some tn
  · have hsome : ((claimed s tn t).getD j none).isSome = true := by rw [claimed_getD hj, if_pos hc]; rfl
    rw [released, unclaim_core (List.mem_range.2 hj) hsome]
    simp
  · rcases (unclaim_unclaimed s t.base _ (List.range t.span)).cores (t.base + j) with h | h
    · rw [released, h]; simp
    · rw [released, h]; exact hc

end

end Sys2Proof.Proofs
end

section
/-! PROOFS. The records that the hardware writes to a partition's ring (R357, R358): what they leave of grids, teams, groups and
partitions. -/

namespace Sys2Proof.Proofs

open Sys2Proof Sys2Proof.Machine Sys2Proof.Safety Sys2Proof.Laws

/-! ### What the path of a write to memory leaves alone -/

/-- The tables of groups, teams, grids and partitions, what is pending and who is parked. -/
def roster (s : State) : FMap Group × FMap Team × FMap Grid × FMap Part × List Nat × List Monitor × Nat :=
  (s.groups, s.teams, s.grids, s.parts, s.vectors, s.monitors, s.regs.pkg)

theorem roster_of_still {s t : State} (h : still t = still s) : roster t = roster s := of_still roster (fun _ => rfl) h

theorem roster_of_unwritten {s t : State} (h : unwritten t = unwritten s) : roster t = roster s := of_unwritten roster (fun _ => rfl) h

theorem roster_abort (s : State) (n : Nat) (cause : AbortCause) : roster (s.abort (.ctl n) [0] cause) = roster s := by
  unfold State.abort
  split
  · rfl
  · simp only
    split
    · rfl
    · exact foldl_keeps (f := fun (s : State) i => s.dropCosy (.ctl n) i) roster (fun _ _ => rfl) _ s

theorem roster_txConflict (s : State) (e : Option Nat) (l : Nat) (w : Bool) : roster (s.txConflict e l w) = roster s := by
  refine foldl_keeps roster (fun s k => ?_) _ s
  have hone : ∀ (b : Bool) (u : State), roster u = roster s → roster (if b then u.abort (.ctl k.1) [0] .conflict else u) = roster s := fun b u hu => by
    cases b
    · exact hu
    · exact (roster_abort u k.1 _).trans hu
  split
  · next b u hu =>
    split at hu
    · obtain ⟨rfl, rfl⟩ := Prod.mk.inj hu; exact hone _ _ rfl
    · exact hone b u (congrArg (fun v : Bool × State => roster v.2) hu.symm)

/-- No group watches a line or waits for it, and no lane is parked on it. -/
def Overlooked (s : State) (line : Nat) : Prop := (∀ e ∈ s.groups, Heedless s e.2 line) ∧ ∀ m ∈ s.monitors, m.line ≠ line

theorem overlooked_of_unwatched {s : State} {line : Nat} (h : Unwatched s line) : Overlooked s line := ⟨h.2.1, h.2.2.1⟩

theorem overlooked_of_roster {s t : State} {line : Nat} (h : roster t = roster s) (ho : Overlooked s line) : Overlooked t line := by
  simp only [roster, Prod.mk.injEq] at h
  obtain ⟨hg, -, -, -, -, hm, hp⟩ := h
  unfold Overlooked Heedless
  rw [hg, hm, hp]
  exact ho

theorem fireMonitors_of_overlooked {s : State} {line : Nat} (h : ∀ m ∈ s.monitors, m.line ≠ line) : s.fireMonitors line = s := by
  rw [State.fireMonitors, List.filter_eq_nil_iff.2 fun m hl => by simpa using h m hl]

theorem roster_fireFarWatches (s : State) (line : Nat) : roster (s.fireFarWatches line) = roster s := by
  unfold State.fireFarWatches
  split
  · rfl
  · have h := roster_of_still (still_cross s (s.lineDie line) fabricDie)
    exact h

theorem roster_lineWritten {s : State} {line : Nat} (h : Overlooked s line) : roster (s.lineWritten line) = roster s := by
  have hfar := roster_fireFarWatches s line
  obtain ⟨hg, hm⟩ := overlooked_of_roster hfar h
  have hgroups : ((s.fireFarWatches line).groups.map fun (e : Nat × Group) =>
      (e.1, e.2.fireWatch (s.fireFarWatches line).now (s.fireFarWatches line).regs.pkg line)) = (s.fireFarWatches line).groups :=
    (List.map_congr_left fun e he => by rw [fireWatch_of_heedless (hg e he)]; rfl).trans (List.map_id _)
  rw [State.lineWritten, fireMonitors_of_overlooked (by exact hm)]
  simp only [hgroups]
  exact hfar

/-- A write by the hardware's engines of lines that nobody looks at. -/
theorem roster_engineWrite {s : State} {a : Nat} {bs : List Byte} (h : ∀ l ∈ blocks 128 a bs.length, Overlooked s l) :
    roster (s.engineWrite a bs) = roster s := by
  unfold State.engineWrite
  generalize blocks 128 a bs.length = ls at h
  induction ls generalizing s with
  | nil => rfl
  | cons l ls ih =>
    rw [List.foldl_cons]
    have hl := h l List.mem_cons_self
    have hw : ∀ (lo : Nat) (part : List Byte), roster ((((s.txConflict none l true).dirWrite l none).write lo part).lineWritten l) = roster s := by
      intro lo part
      have hb : roster (((s.txConflict none l true).dirWrite l none).write lo part) = roster s := by
        rw [roster_of_unwritten (unwritten_write ..), roster_of_still (still_dirWrite ..), roster_txConflict]
      rw [roster_lineWritten (overlooked_of_roster hb hl), hb]
    exact (ih fun l' hl' => overlooked_of_roster (hw _ _) (h l' (List.mem_cons_of_mem _ hl'))).trans (hw _ _)

theorem roster_engineRead (s : State) (a n : Nat) : roster (s.engineRead a n) = roster s :=
  foldl_keeps (f := fun (s : State) l => (s.txConflict none l false).dirRead l none) roster
    (fun _ _ => (roster_of_still (still_dirRead ..)).trans (roster_txConflict ..)) _ s

theorem roster_summon (s : State) (l : Nat) (w : Bool) (own : Option Nat) : roster (s.summon l w own) = roster s := by
  unfold State.summon
  split
  · refine roster_of_still ((still_setDir ..).trans ?_)
    split <;> exact still_count ..
  · rfl

theorem roster_engineReady (s : State) (a n : Nat) (w : Bool) (own : Option Nat) : roster (s.engineReady a n w own).2 = roster s :=
  foldl_keeps (f := fun (s : State) l => s.summon l w own) roster (fun s l => roster_summon s l w own) (blocks 128 a n) s

theorem roster_allReady (s : State) (rs : List (Nat × Nat × Bool)) : roster (s.allReady rs).2 = roster s :=
  foldl_keeps (f := fun (s : State) (r : Nat × Nat × Bool) => (s.engineReady r.1 r.2.1 r.2.2 none).2) roster
    (fun s r => roster_engineReady s r.1 r.2.1 r.2.2 none) rs s

/-! ### A record and the fault team (R357, R358) -/

theorem lt_fresh {α : Type} {m : FMap α} {k : Nat} {v : α} (h : m.get? k = some v) : k < m.fresh := by
  have hle : ∀ (l : FMap α) (n : Nat), n ≤ l.foldl (fun n e => max n (e.1 + 1)) n ∧ ∀ e ∈ l, e.1 < l.foldl (fun n e => max n (e.1 + 1)) n := by
    intro l
    induction l with
    | nil => exact fun n => ⟨Nat.le_refl n, fun e he => nomatch he⟩
    | cons e l ih =>
      intro n
      obtain ⟨h1, h2⟩ := ih (max n (e.1 + 1))
      rw [List.foldl_cons]
      refine ⟨by omega, fun f hf => ?_⟩
      rcases List.mem_cons.1 hf with rfl | hf
      · omega
      · exact h2 f hf
  exact (hle m 0).2 _ (mem_of_get h)

/-- What a record and the fault team after it leave: teams, groups, the grids there are, and the report of a stall; what is pending
stays so. -/
structure Recorded (s u : State) : Prop where
  teams   : u.teams = s.teams
  groups  : u.groups = s.groups
  grids   : ∀ k v, s.grids.get? k = some v → u.grids.get? k = some v
  stall   : ∀ p, (u.part p).gstall = (s.part p).gstall ∧ (u.part p).gstallId = (s.part p).gstallId
  vectors : ∀ v ∈ s.vectors, v ∈ u.vectors

theorem Recorded.trans {s t u : State} (h : Recorded s t) (k : Recorded t u) : Recorded s u where
  teams := k.teams.trans h.teams
  groups := k.groups.trans h.groups
  grids j v hv := k.grids j v (h.grids j v hv)
  stall p := ⟨(k.stall p).1.trans (h.stall p).1, (k.stall p).2.trans (h.stall p).2⟩
  vectors v hv := k.vectors v (h.vectors v hv)

theorem recorded_of_roster {s u : State} (h : roster u = roster s) : Recorded s u := by
  simp only [roster, Prod.mk.injEq] at h
  obtain ⟨hg, ht, hd, hp, hv, -, -⟩ := h
  exact ⟨ht, hg, fun k v hk => by rw [hd, hk], fun p => by simp only [State.part, hp, and_self], fun v hm => by rw [hv]; exact hm⟩

theorem Recorded.refl (s : State) : Recorded s s := recorded_of_roster rfl

theorem recorded_setPart {s : State} {p : Nat} {q : Part} (h1 : q.gstall = (s.part p).gstall) (h2 : q.gstallId = (s.part p).gstallId) :
    Recorded s (s.setPart p q) :=
  ⟨rfl, rfl, fun _ _ h => h, fun j => by
    by_cases hj : j = p
    · subst hj; rw [setPart_same]; exact ⟨h1, h2⟩
    · rw [setPart_other _ _ hj]; exact ⟨rfl, rfl⟩, fun _ h => h⟩

theorem recorded_raise (s : State) (v : Nat) : Recorded s (s.raise v) :=
  ⟨rfl, rfl, fun _ _ h => h, fun _ => ⟨rfl, rfl⟩, fun _ h => (mem_sInsert ..).2 (.inr h)⟩

theorem recorded_enqueue (s : State) (g : Grid) : Recorded s (s.enqueue g) := by
  have hset : ∀ (a : List Instr), Recorded s { s with grids := s.grids.set s.grids.fresh { g with order := s.queued }, queued := s.queued + 1, agenda := a } :=
    fun _ => ⟨rfl, rfl, fun k v h => (get_set_other _ _ (Nat.ne_of_lt (lt_fresh h))).trans h, fun _ => ⟨rfl, rfl⟩, fun _ h => h⟩
  unfold State.enqueue
  simp only
  split
  · exact hset s.agenda
  · exact hset _

theorem recorded_launchId (s : State) (p : Nat) : Recorded s (s.launchId p).2 := recorded_setPart rfl rfl

theorem recorded_ite {s : State} {c : Prop} [Decidable c] {x y : Bool × State} (hx : Recorded s x.2) (hy : Recorded s y.2) :
    Recorded s (if c then x else y).2 := by
  split
  · exact hx
  · exact hy

theorem recorded_faultTeam (s : State) (p : Nat) (slot : Word) (kind cause : Nat) (launch : Word) : Recorded s (s.faultTeam p slot kind cause launch) := by
  unfold State.faultTeam
  simp only
  split
  · exact .refl s
  split
  · exact .refl s
  have hread := recorded_of_roster (roster_engineRead s (s.part p).fkd 256)
  split
  · exact (hread.trans (recorded_launchId _ p)).trans (recorded_enqueue ..)
  · exact hread.trans (recorded_setPart rfl rfl)

theorem recorded_recordGo {s : State} {p kind cause : Nat} {launch : Word} {bytes : List Byte}
    (h : ∀ l ∈ blocks 128 ((s.part p).tq.base + 64 * ((s.part p).tq.tail.toNat % 2 ^ (s.part p).tq.log2)) bytes.length, Overlooked s l) :
    Recorded s (State.recordGo p kind cause launch bytes s).2 := by
  have hwrite := recorded_of_roster (roster_engineWrite h)
  have hstep : ∀ (u : State) (q : Part), q.gstall = (u.part p).gstall → q.gstallId = (u.part p).gstallId → ∀ slot,
      Recorded u (((u.setPart p q).raise (0x40 + p)).faultTeam p slot kind cause launch) := fun u q h1 h2 slot =>
    ((recorded_setPart h1 h2).trans (recorded_raise ..)).trans (recorded_faultTeam ..)
  refine recorded_ite (recorded_ite (hwrite.trans (hstep _ _ ?_ ?_ _)) (recorded_of_roster (roster_allReady ..))) (recorded_setPart ?_ ?_) <;> rfl

theorem recorded_trapRecord {s : State} {p kind cause : Nat} {launch : Word} {bytes : List Byte}
    (h : ∀ l ∈ blocks 128 ((s.part p).tq.base + 64 * ((s.part p).tq.tail.toNat % 2 ^ (s.part p).tq.log2)) bytes.length, Overlooked s l) :
    Recorded s (s.trapRecord p kind cause launch bytes) := by
  have hgo : Recorded s (State.recordGo p kind cause launch bytes s).2 := recorded_recordGo h
  have later : ∀ (u : State) (l : List HwWrite), Recorded s u → Recorded s { u with hwWrites := l } :=
    fun u l k => k.trans (recorded_of_roster rfl)
  unfold State.trapRecord State.hwWrite
  simp only
  split
  · split
    · exact later s _ (.refl s)
    · split
      · exact hgo
      · exact later _ _ hgo
  · exact recorded_setPart rfl rfl

theorem trapRecord_length (kind cause launch team thread : Nat) (name fpc val : Dword) (mask : Word) (place : Nat) :
    (trapRecord kind cause launch team thread name fpc val mask place).length = 64 := by
  simp [trapRecord]

end Sys2Proof.Proofs
end

section
/-! PROOFS. The stall watch (R349 to R351), and O46. -/

namespace Sys2Proof.Proofs

open Sys2Proof Sys2Proof.Machine Sys2Proof.Safety Sys2Proof.Laws

/-! ### The stall watch -/

section
variable {s : State} {g p since m : Nat} {e : Grid}

theorem blocksFor_setPart (s : State) (n : Need) {q : Part} (h : q.clusters = (s.part p).clusters) :
    (s.setPart p q).blocksFor p n = s.blocksFor p n := by
  unfold State.blocksFor
  rw [setPart_same, h]
  rfl

/-- Which team an eviction takes does not depend on what the watch records in the partition. -/
theorem victim_setPart (s : State) (g : Nat) (e : Grid) {q : Part} (h : q.clusters = (s.part p).clusters) :
    (s.setPart p q).victim p g e = s.victim p g e := by
  have hb : ∀ (m : FMap Team) (c : Candidate), ({ s.setPart p q with teams := m } : State).blocksFor p (({ s.setPart p q with teams := m } : State).needOf c) =
      ({ s with teams := m } : State).blocksFor p (({ s with teams := m } : State).needOf c) := fun m c =>
    (blocksFor_setPart { s with teams := m } _ h).trans (by cases c <;> rfl)
  unfold State.victim
  simp only [hb]
  rfl

/-- What is recorded with a partition stands, and the groups of the team that is then marked are caught. -/
theorem markTeam_setPart (s : State) (p m : Nat) (q : Part) : let u := (s.setPart p q).markTeam m
    (u.part p).evicting = q.evicting ∧ u.mem = s.mem ∧ ∀ t, s.teams.get? m = some t → ∀ k ∈ t.groups, ∀ v, s.groups.get? k = some v →
      ¬(v.ended = true ∨ v.saved = true ∨ v.halted = true) → Caught u k := by
  have M := markTeam_marking (s.setPart p q) m
  refine ⟨?_, (mem_of_beside M.beside :), fun t ht k hk v hv ha => markTeams_catch (.refl (s.setPart p q)) (List.mem_singleton.2 rfl) ht hk hv ha⟩
  rw [part_of_beside M.beside, setPart_same]

/-- The state in which a stall has been reported, but for its record. -/
def stallReported (s : State) (p g : Nat) (e : Grid) : State :=
  (({ s with grids := s.grids.set g { e with reported := true } } : State).setPart p { s.part p with gstall := true, gstallId := e.launch }).raise p

/-- The record changes nothing of the report. -/
theorem stallReported_recorded {kind cause : Nat} {launch : Word} {rec_ : List Byte} (hl : rec_.length = 64)
    (hu : ∀ l ∈ blocks 128 ((s.part p).tq.base + 64 * ((s.part p).tq.tail.toNat % 2 ^ (s.part p).tq.log2)) 64, Unwatched s l) :
    let u := (stallReported s p g e).trapRecord p kind cause launch rec_
    (u.part p).gstall = true ∧ (u.part p).gstallId = e.launch ∧ p ∈ u.vectors ∧ u.grids.get? g = some { e with reported := true } ∧
      u.teams = s.teams ∧ u.groups = s.groups := by
  have hpart : (stallReported s p g e).part p = { s.part p with gstall := true, gstallId := e.launch } := setPart_same ..
  have R : Recorded (stallReported s p g e) ((stallReported s p g e).trapRecord p kind cause launch rec_) := by
    refine recorded_trapRecord fun l h => ?_
    rw [hpart, hl] at h
    exact overlooked_of_unwatched (hu l h)
  exact ⟨(R.stall p).1.trans (by rw [hpart]), (R.stall p).2.trans (by rw [hpart]), R.vectors p ((mem_sInsert ..).2 (.inl rfl)),
    R.grids g _ (get_set_same ..), R.teams, R.groups⟩

variable (hg : s.grids.get? g = some e) (hp : e.part = some p)
include hg hp

theorem stallWatch_ends (hs : s.stallsNow g e = false) :
    exec (.stallWatch g) s = .next (s.setPart p { s.part p with stalls := (s.part p).stalls.erase g }) := by
  change execStallWatch g s = _
  simp only [execStallWatch, hg, hp, hs, Bool.not_false, if_true]

variable (hs : s.stallsNow g e = true)
include hs

theorem stallWatch_begins (hn : (s.part p).stalls.get? g = none) :
    exec (.stallWatch g) s = .next (s.setPart p { s.part p with stalls := (s.part p).stalls.set g s.now }) := by
  change execStallWatch g s = _
  simp only [execStallWatch, hg, hp, hs, hn, Bool.not_true, Bool.false_eq_true, if_false]

variable (hn : (s.part p).stalls.get? g = some since)
include hn

theorem stallWatch_waits (ht : s.now < s.stalledSince g since + 1000 * (s.part p).stallw) : exec (.stallWatch g) s = .next s := by
  change execStallWatch g s = _
  simp only [execStallWatch, hg, hp, hs, hn, usec, ht, Bool.not_true, Bool.false_eq_true, if_false, if_true]

variable (ht : s.stalledSince g since + 1000 * (s.part p).stallw ≤ s.now)
include ht

/-- A strict grid whose stall has lasted STALLW and has been reported. -/
theorem stallWatch_reported (hr : e.desc.residency = 0) (hd : e.reported = true) : exec (.stallWatch g) s = .next s := by
  change execStallWatch g s = _
  simp only [execStallWatch, hg, hp, hs, hn, usec, Nat.not_lt.2 ht, hr, hd, Bool.not_true, Bool.false_eq_true, if_false, if_true]

/-- One that has not been reported: GSTALL, the interrupt and a record of kind 2 (R349, R357). -/
theorem stallWatch_reports (hr : e.desc.residency = 0) (hd : e.reported = false) : exec (.stallWatch g) s = .next ((stallReported s p g e).trapRecord p 2
    (causeNum .gridStall) e.launch (trapRecord 2 (causeNum .gridStall) e.launch.toNat 0 0 0 0 0 0 0)) := by
  change execStallWatch g s = _
  simp only [execStallWatch, stallReported, hg, hp, hs, hn, usec, Nat.not_lt.2 ht, hr, hd, Bool.not_true, Bool.false_eq_true, if_false, if_true]

/-- An eventual grid whose stall has lasted STALLW has a team evicted (R350). -/
theorem stallWatch_evicts (hr : e.desc.residency ≠ 0) (he : (s.part p).evicting = none) (hm : s.victim p g e = some m) :
    ∃ u, exec (.stallWatch g) s = .next u ∧ (u.part p).evicting = some ⟨[m], s.now, false⟩ ∧ u.mem = s.mem ∧
      ∀ t, s.teams.get? m = some t → ∀ k ∈ t.groups, ∀ v, s.groups.get? k = some v →
        ¬(v.ended = true ∨ v.saved = true ∨ v.halted = true) → Caught u k := by
  change ∃ u, execStallWatch g s = .next u ∧ _
  have hv := victim_setPart (p := p) s g e (q := { s.part p with stalls := (s.part p).stalls.set g s.now }) rfl
  have hev : (s.part p).evicting.isSome = false := by rw [he]; rfl
  simp only [execStallWatch, hg, hp, hs, hn, usec, Nat.not_lt.2 ht, hr, hev, hv, hm, Bool.not_true, Bool.false_eq_true, if_false]
  exact ⟨_, rfl, markTeam_setPart _ p m _⟩

end

end Sys2Proof.Proofs
end

section
/-! PROOFS. O46: pre-emption, its commands and the stall watch. -/

namespace Sys2Proof.Proofs

open Sys2Proof Sys2Proof.Machine Sys2Proof.Safety Sys2Proof.Laws

section
variable {s : State} {p k tn : Nat} {t : Team} {v : Group}

theorem next_congr {t u : State} (h : t = u) : (.next t : Result) = .next u := by rw [h]

theorem atBoundary_of_here (h : s.groups.get? k = some v ∧ ¬(v.ended = true ∨ v.saved = true ∨ v.halted = true) ∧ v.runOpen = false ∧ s.change = none) :
    AtBoundary s k v := by
  obtain ⟨hg, ha, hr, hm⟩ := h
  simp only [not_or, Bool.not_eq_true] at ha
  obtain ⟨he, hs, hh⟩ := ha
  exact ⟨hg, he, by rw [Group.away, hs, hh]; rfl, hr, hm⟩

/-- A group that the hardware saves at its run boundary. -/
theorem AtBoundary.saves (B : AtBoundary s k v) (hb : s.boundary k = s.saveGroup k false) :
    ∃ u v', exec (.preemptTrap k) s = .next u ∧ u.groups.get? k = some v' ∧ u.mem = s.mem ∧ SavedFrom v v' :=
  ⟨_, _, next_congr hb, saveGroup_get B.group B.ended B.away, mem_of_beside (beside_saveGroup s k false), savedFrom_savedGroup v s.now⟩

/-- A group that waits at an LWAIT has its wait ended with reason 2 (R299). -/
theorem AtBoundary.ends_lwait (B : AtBoundary s k v) {a b c : Nat} (hw : v.wait = some (.lwait a b c))
    (hb : s.boundary k = s.modGroup (.grp k) fun g => g.endLwait s.now 2) :
    ∃ u v', exec (.preemptTrap k) s = .next u ∧ u.groups.get? k = some v' ∧ u.mem = s.mem ∧
      v'.wait = none ∧ v'.waitDone = some 2 ∧ v'.lanes = v.lanes :=
  ⟨_, _, next_congr hb, modGroup_get_same B.group _, mem_of_beside (beside_modGroup s k _), (endLwait_of_lwait hw s.now 2).1,
    (endLwait_of_lwait hw s.now 2).2, endLwait_lanes v s.now 2⟩

/-- A PREEMPT trap is due at a group's boundary, and nothing before it. -/
def TrapDue (v : Group) : Prop :=
  v.cut = false ∧ v.pdone = false ∧ v.moveDue = none ∧ v.trapDue = true ∧ v.trap.inHandler = false ∧ v.waitDone = none

theorem AtBoundary.boundary_lwait (B : AtBoundary s k v) (h : TrapDue v) {a b c : Nat} (hw : v.wait = some (.lwait a b c)) :
    s.boundary k = s.modGroup (.grp k) fun g => g.endLwait s.now 2 := by
  obtain ⟨hc, hp, hm, ht, hi, hd⟩ := h
  rw [B.boundary_trap hc hp hm ht hi hd, hw]

theorem AtBoundary.boundary_noWait (B : AtBoundary s k v) (h : TrapDue v) (hw : v.wait = none) :
    s.boundary k = if s.traphOf v = 0 || v.preemptLanes.isEmpty then s.saveGroup k false else s.preemptTrap k v := by
  obtain ⟨hc, hp, hm, ht, hi, hd⟩ := h
  rw [B.boundary_trap hc hp hm ht hi hd, hw]

/-- Nothing is due at the boundary of a group that is away, or while the slice map changes unless the group is to move. -/
theorem boundaryDue_of_away (h : v.ended = true ∨ v.saved = true ∨ v.halted = true) : s.boundaryDue v = false := by
  unfold State.boundaryDue Group.away
  rcases h with h | h | h <;> simp [h]

theorem boundaryDue_of_change (hr : v.runOpen = false) (hc : s.change ≠ none) (hm : v.moveDue = none) : s.boundaryDue v = false := by
  have hn : s.change.isNone = false := Option.isNone_eq_false_iff.2 (Option.isSome_iff_ne_none.2 hc)
  simp [State.boundaryDue, hr, hn, hm]

/-- A team of a partition whose groups are saved is saved, and keeps what it has of the cluster. -/
theorem teamSave_frees (h : s.teams.get? tn = some t) (hs : s.teamSavable t = true) (hp : t.part = some p) :
    ∃ u t', exec (.teamSave tn) s = .next u ∧ u.teams.get? tn = some t' ∧ t'.phase = .saved ∧ t'.seated = false ∧ t'.groups = t.groups ∧
      t'.maps = t.maps ∧ t'.barriers = t.barriers ∧ u.clusters = s.clusters ∧
      (∀ k ∈ t.groups, ∀ v, s.groups.get? k = some v → v.ended = false → ∃ v', u.groups.get? k = some v' ∧ v'.place = none ∧ v'.lanes = v.lanes) ∧
      ∀ j < t.span, (u.core (t.base + j)).matrix.claim ≠ some tn ∧
        ((s.core (t.base + j)).matrix.claim = some tn → t'.matrix.getD j none = some (s.core (t.base + j)).matrix) := by
  obtain ⟨u, t', hu, ht', hphase, hseated, hgroups, hmaps, hbars, hmat, hrest⟩ := teamSave_saves h hs hp
  obtain ⟨hcl, hrest⟩ := Prod.mk.inj hrest
  obtain ⟨hgr, hco⟩ := Prod.mk.inj hrest
  have hcore : ∀ c, u.core c = (left s tn t).core c := fun c => by simp only [State.core, hco]
  refine ⟨u, t', hu, ht', hphase, hseated, hgroups, hmaps, hbars, hcl.trans left_clusters, fun k hk v hv he => ?_, fun j hj => ⟨?_, fun hc => ?_⟩⟩
  · rw [hgr]; exact left_group hk hv he
  · rw [hcore]; exact left_claim hj
  · rw [hmat, claimed_getD hj, if_pos hc]

end

/-- Settles O46. The commands come down to marks of teams, and marks catch whatever is not away (`startPreempt_catches`); a run
boundary is read off what is due (`AtBoundary`); the stall watch goes case by case. -/
theorem preemptionAndTheStallWatch : Obligations.PreemptionAndTheStallWatch := by
  unfold Obligations.PreemptionAndTheStallWatch
  intro s p k tn g since m e t v q free named i res all away caught target residents here trapped becomes saves watched
  have team (h : named) : s.preemptTeam p = _ := preemptTeam_named h.1 h.2
  have grid (h : named) : s.preemptGrid p = _ := preemptGrid_named h.1 h.2
  have atB (h : here) : AtBoundary s k v := atBoundary_of_here h
  have catches (c : Instr) (ts : List Nat) (h : exec c s = .next (s.startPreempt p ts)) : caught c ts :=
    ⟨_, h, startPreempt_catches s p ts⟩
  refine ⟨fun h => ?busy, fun h hn => ?unnamed, fun h hi => ?unknown, fun h hi ht hsw hph => ?resident, fun h hi ht hsw => ?swapped,
    fun h hi ht hn => ?undispatched, fun h hi ht hsv => ?saved, fun h hr => ?noneResident, fun h hr => ?allResident, fun h => ?hold, fun h => ?release,
    fun h hc hp hm ht => ?idle, fun hg ha => ?gone, fun hg hr hc hm => ?changing, fun a b c h hw => ?lwait, fun h hw => ⟨fun hth hl => ?handler, fun hth => ?none⟩,
    fun h hc hp => ?pdone, fun h hc hs hp => ?cut, preemptDeadline_cuts s p, fun h hs => teamSave_idle h hs, fun h hs hp => teamSave_frees h hs hp,
    fun h hs hn => stallWatch_begins h.1 h.2 hs hn, fun h hs => stallWatch_ends h.1 h.2 hs, fun h hs hn ht => stallWatch_waits h.1 h.2 hs hn ht,
    fun h hs hn ht => ⟨fun hr hd => stallWatch_reported h.1 h.2 hs hn ht hr hd, fun hr hd hu => ?report, fun hr he hm => stallWatch_evicts h.1 h.2 hs hn ht hr he hm⟩⟩
  case busy =>
    obtain ⟨h1, h2, h3⟩ := preempt_busy h
    exact ⟨next_congr h1, next_congr h2, next_congr (h3 true), next_congr (h3 false)⟩
  case unnamed =>
    obtain ⟨h1, h2, h3⟩ := preempt_unnamed h hn
    exact ⟨next_congr h1, next_congr h2, next_congr (h3 true), next_congr (h3 false)⟩
  case unknown => exact next_congr ((team h).trans (if_pos hi))
  case resident =>
    refine catches _ _ (next_congr ((team h).trans ((if_neg (Nat.not_le.2 hi)).trans ?_)))
    rw [show sought s p g = some (tn, t) from ht]
    simp [hsw, hph]
  case swapped =>
    refine next_congr ((team h).trans ((if_neg (Nat.not_le.2 hi)).trans ?_))
    rw [show sought s p g = some (tn, t) from ht]
    simp only [hsw, if_true]
    rfl
  case undispatched =>
    refine next_congr ((team h).trans ((if_neg (Nat.not_le.2 hi)).trans ?_))
    rw [show sought s p g = none from ht]
    exact if_pos (by simp [show e.next ≤ (s.part p).prqteam.toNat from hn])
  case saved =>
    refine next_congr ((team h).trans ((if_neg (Nat.not_le.2 hi)).trans ?_))
    rw [show sought s p g = none from ht]
    obtain ⟨w, hw, hwg, hwi, hwp⟩ := hsv
    refine if_pos (Bool.or_eq_true_iff.2 (.inr (List.any_eq_true.2 ⟨w, hw, ?_⟩)))
    simp [hwg, hwp, show w.2.index = (s.part p).prqteam.toNat from hwi]
  case noneResident => exact next_congr ((grid h).trans (if_pos (List.isEmpty_iff.2 hr)))
  case allResident => exact catches _ _ (next_congr ((grid h).trans (if_neg fun he => hr (List.isEmpty_iff.1 he))))
  case hold =>
    obtain ⟨a, ha⟩ := holdGrid_named h.1 h.2 true
    exact ⟨_, next_congr ha, get_set_same .., congrArg Part.prqRes (setPart_same ..), rfl⟩
  case release =>
    obtain ⟨a, ha⟩ := holdGrid_named h.1 h.2 false
    exact ⟨_, next_congr ha, get_set_same .., congrArg Part.prqRes (setPart_same ..), rfl⟩
  case idle => exact next_congr (boundary_idle h.1 (by simp [(atB h).due, hc, hp, hm, ht]))
  case gone => exact next_congr (boundary_idle hg (boundaryDue_of_away ha))
  case changing => exact next_congr (boundary_idle hg (boundaryDue_of_change hr hc hm))
  case lwait => exact (atB h.1).ends_lwait hw ((atB h.1).boundary_lwait h.2 hw)
  case handler =>
    have hb : s.boundary k = s.preemptTrap k v := ((atB h.1).boundary_noWait h.2 hw).trans (if_neg (by
      rw [Bool.or_eq_true, decide_eq_true_eq, List.isEmpty_iff]
      exact not_or.2 ⟨hth, hl⟩))
    obtain ⟨hh, -, -, -, -, hi, -⟩ := h
    obtain ⟨v', hv', hbeside, htr⟩ := preemptTrap_enters hh.1 hth hi
    exact ⟨_, v', next_congr hb, hv', mem_of_beside hbeside, htr⟩
  case none => exact (atB h.1).saves (((atB h.1).boundary_noWait h.2 hw).trans (if_pos (by simp [hth])))
  case pdone => exact (atB h).saves ((atB h).boundary_pdone hc hp)
  case cut =>
    refine (atB h).saves (((atB h).boundary_cut hc).trans ?_)
    rw [show s.swapping (.grp k) = false by simp [State.swapping, hp, show (s.part p).swap = none from hs]]
  case report => exact ⟨_, stallWatch_reports h.1 h.2 hs hn ht hr hd, stallReported_recorded (trapRecord_length ..) hu⟩

end Sys2Proof.Proofs
end

section
/-! PROOFS. Partition swap (R346, R347): its start, and the exchange of contexts. -/

namespace Sys2Proof.Proofs

open Sys2Proof Sys2Proof.Machine Sys2Proof.Safety Sys2Proof.Laws

/-! ### The start of a swap -/

/-- A swap cuts the run of a group, unless it is away. -/
def swapCut (g : Group) : Group := if g.ended || g.away then g else { g with cut := true }

theorem swapCut_idem (g : Group) : swapCut (swapCut g) = swapCut g := by
  by_cases h : (g.ended || g.away) = true
  · rw [show swapCut g = g from if_pos h, show swapCut g = g from if_pos h]
  · rw [show swapCut g = { g with cut := true } from if_neg h]
    exact if_neg h

theorem swapCut_of_here {g : Group} (h : ¬(g.ended = true ∨ g.saved = true ∨ g.halted = true)) : swapCut g = { g with cut := true } :=
  if_neg (by simpa [Group.away] using h)

/-- The groups of the teams of a partition that hold seats. -/
def partGroups (s : State) (p : Nat) : List Nat := (s.partTeams p).flatMap fun t => t.2.groups

theorem mem_partGroups {s : State} {p k : Nat} : k ∈ partGroups s p ↔ ∃ e ∈ s.teams, e.2.part = some p ∧ e.2.seated = true ∧ k ∈ e.2.groups := by
  simp [partGroups, State.partTeams, and_assoc]

theorem partitionSwap_eq {s : State} {p : Nat} (h : (s.part p).swap = none) : exec (.partitionSwap p) s = .next
    ((partGroups s p).foldl (fun (s : State) k => s.modGroup (.grp k) swapCut) (s.setPart p { s.part p with swap := some 1 })) := by
  change execPartitionSwap p s = _
  rw [execPartitionSwap, State.startSwap, if_neg (by rw [h]; exact Bool.false_ne_true)]
  rfl

theorem partitionSwap_running {s : State} {p : Nat} (h : (s.part p).swap ≠ none) : exec (.partitionSwap p) s = .next s := by
  change execPartitionSwap p s = _
  rw [execPartitionSwap, State.startSwap, if_pos (Option.isSome_iff_ne_none.2 h)]

theorem partitionSwap_starts {s : State} {p : Nat} (h : (s.part p).swap = none) : ∃ u, exec (.partitionSwap p) s = .next u ∧
    u.part p = { s.part p with swap := some 1 } ∧ u.mem = s.mem ∧
    (∀ e ∈ s.teams, e.2.part = some p → e.2.seated = true → ∀ k ∈ e.2.groups, ∀ v, s.groups.get? k = some v →
      ¬(v.ended = true ∨ v.saved = true ∨ v.halted = true) → u.groups.get? k = some { v with cut := true }) ∧
    ∀ k, (∀ e ∈ s.teams, e.2.part = some p → e.2.seated = true → k ∉ e.2.groups) → u.groups.get? k = s.groups.get? k := by
  have hb := foldl_modGroup_beside swapCut (partGroups s p) (s.setPart p { s.part p with swap := some 1 })
  have hg := foldl_modGroup_get swapCut_idem (partGroups s p) (s.setPart p { s.part p with swap := some 1 })
  refine ⟨_, partitionSwap_eq h, (part_of_beside hb p).trans (setPart_same ..), (mem_of_beside hb :), fun e he hp hs k hk v hv ha => ?_, fun k hk => ?_⟩
  · rw [hg, if_pos (mem_partGroups.2 ⟨e, he, hp, hs, hk⟩)]
    exact (congrArg (Option.map swapCut) hv).trans (congrArg some (swapCut_of_here ha))
  · rw [hg, if_neg fun hm => ?_]
    · rfl
    · obtain ⟨e, he, hp, hs, hk'⟩ := mem_partGroups.1 hm
      exact hk e he hp hs hk'

/-! ### What the exchange leaves of the tables besides its own -/

/-- The tables that the exchange of contexts is about. -/
def contexts (s : State) : FMap Cluster × FMap Part × FMap Shadow × List Nat × List Host.Cell := (s.clusters, s.parts, s.shadows, s.vectors, s.mem)

theorem contexts_of_beside {s t : State} (h : beside t = beside s) : contexts t = contexts s := of_beside contexts (fun _ => rfl) h

theorem contexts_nearClear (s : State) (c : Nat) : contexts (s.nearClear c) = contexts s := by
  unfold State.nearClear
  simp only
  split <;> rfl

theorem contexts_acquire (s : State) (w : Who) (scope : Nat) : contexts (s.acquire w scope) = contexts s := by
  unfold State.acquire
  split
  · simp only
    split
    · exact contexts_nearClear s _
    · rfl
  · rfl

theorem contexts_cardTaken (s : State) (k scope : Nat) (g : Group) (held : Bool) :
    contexts (if held then (s.setGroup (.grp k) g).acquire (.grp k) scope else s.setGroup (.grp k) g) = contexts s := by
  cases held
  · rfl
  · exact contexts_acquire (s.setGroup (.grp k) g) (.grp k) scope

theorem contexts_applyCard (s : State) (k : Nat) (c : Postcard) : contexts (s.applyCard k c) = contexts s := by
  unfold State.applyCard
  split
  · rfl
  · exact contexts_cardTaken s k c.scope _ _

theorem contexts_resume (s : State) (k : Nat) : contexts (s.resume k) = contexts s := by
  unfold State.resume
  split
  · rfl
  · exact (contexts_of_beside (beside_modGroup _ k _)).trans
      (foldl_keeps (f := fun (s : State) c => s.applyCard k c) contexts (fun s c => contexts_applyCard s k c) _ s)

/-! ### The exchange -/

/-- Step 4 for the clusters of a partition. -/
def swapClusters (s : State) (p : Nat) (own : BitVec 160) (l : List Nat) : State :=
  l.foldl (fun (s : State) cl => if own.getLsbD cl then s.setCluster cl ((s.cluster cl).exchange p) else s) s

/-- Step 4 for the partition's CSRs. -/
def swapParts (s : State) (p : Nat) (q : Part) (sh : Shadow) : State :=
  (({ s with shadows := s.shadows.set p ⟨q, !sh.empty⟩ } : State).setPart p
    { (if sh.empty && sh.part == Part.reset then q.exchange Part.reset else q.exchange sh.part) with swap := none }).raise p

theorem cluster_swapClusters {l : List Nat} (hl : l.Nodup) (s : State) (p : Nat) (own : BitVec 160) (cl : Nat) :
    (swapClusters s p own l).cluster cl = if cl ∈ l ∧ own.getLsbD cl = true then (s.cluster cl).exchange p else s.cluster cl := by
  unfold swapClusters
  induction l generalizing s with
  | nil => simp
  | cons c l ih =>
    obtain ⟨hc, hl⟩ := List.nodup_cons.1 hl
    have hstep : ∀ d, ((if own.getLsbD c = true then s.setCluster c ((s.cluster c).exchange p) else s) : State).cluster d =
        if d = c ∧ own.getLsbD c = true then (s.cluster c).exchange p else s.cluster d := fun d => by
      by_cases ho : own.getLsbD c = true
      · by_cases hd : d = c
        · subst hd; rw [if_pos ho, if_pos ⟨rfl, ho⟩, setCluster_same]
        · rw [if_pos ho, if_neg fun h => hd h.1, setCluster_other _ _ hd]
      · rw [if_neg ho, if_neg fun h => ho h.2]
    rw [List.foldl_cons, ih hl, hstep]
    by_cases hd : cl = c
    · subst hd
      simp [hc]
    · simp [hd]

theorem swapClusters_keeps {α : Type} {f : State → α} (hf : ∀ (s : State) c, f { s with clusters := c } = f s) (s : State) (p : Nat) (own : BitVec 160)
    (l : List Nat) : f (swapClusters s p own l) = f s :=
  foldl_keeps f (fun s cl => by
    split
    · exact hf s _
    · rfl) l s

theorem swapExchange_idle {s : State} {p : Nat} (h : (s.part p).swap = none ∨ s.swapDrained p = false) : exec (.swapExchange p) s = .next s := by
  change execSwapExchange p s = _
  have hc : ((s.part p).swap.isNone || !s.swapDrained p) = true := by rcases h with h | h <;> simp [h]
  exact next_congr (if_pos hc)

theorem foldl_foldl_keeps {α β γ δ : Type} (f : α → δ) {g : β → List γ} {h : β → α → γ → α} (hk : ∀ b a c, f (h b a c) = f a) (l : List β) (a : α) :
    f (l.foldl (fun a b => (g b).foldl (h b) a) a) = f a :=
  foldl_keeps f (fun a b => foldl_keeps f (hk b) (g b) a) l a

/-- The exchange comes down, for the tables of contexts, to step 4; claims, teams, near caches and groups are beside them. -/
theorem swapExchange_stages {s : State} {p : Nat} (h : (s.part p).swap ≠ none) (hd : s.swapDrained p = true) :
    ∃ t u, contexts t = contexts s ∧ exec (.swapExchange p) s = .next u ∧ contexts u =
      contexts (swapParts (swapClusters t p (s.part p).clusters (List.range 160)) p (s.part p) (s.shadows.getD p ⟨Part.reset, true⟩)) := by
  have hc : ¬((s.part p).swap.isNone || !s.swapDrained p) = true := by
    rw [Bool.or_eq_true, hd, Option.isNone_iff_eq_none]
    exact not_or.2 ⟨h, Bool.false_ne_true⟩
  change ∃ t u, _ ∧ execSwapExchange p s = .next u ∧ _
  rw [execSwapExchange]
  simp only [hc]
  refine ⟨_, _, ?_, rfl, (foldl_keeps contexts (fun s k => ?_) _ _).trans (foldl_keeps contexts contexts_nearClear _ _)⟩
  · refine (foldl_foldl_keeps contexts (fun b a c => ?_) _ _).trans (foldl_foldl_keeps contexts (fun b a c => ?_) _ _)
    · split <;> rfl
    · split <;> rfl
  · split
    · exact contexts_resume s k
    · rfl

theorem swapParts_part (s : State) (p : Nat) (q : Part) (sh : Shadow) : (swapParts s p q sh).part p = { q.exchange sh.part with swap := none } := by
  refine (setPart_same ..).trans ?_
  split
  · next h => rw [eq_of_beq (Bool.and_eq_true_iff.1 h).2]
  · rfl

theorem swapParts_mem (s : State) (p : Nat) (q : Part) (sh : Shadow) : (swapParts s p q sh).mem = s.mem := rfl

theorem swapParts_cluster (s : State) (p : Nat) (q : Part) (sh : Shadow) (cl : Nat) : (swapParts s p q sh).cluster cl = s.cluster cl := rfl

theorem swapParts_shadow (s : State) (p : Nat) (q : Part) (sh : Shadow) : (swapParts s p q sh).shadows.get? p = some ⟨q, !sh.empty⟩ := get_set_same ..

theorem swapParts_vectors (s : State) (p : Nat) (q : Part) (sh : Shadow) : p ∈ (swapParts s p q sh).vectors := (mem_sInsert ..).2 (.inl rfl)

theorem of_contexts {s t : State} (h : contexts t = contexts s) : (∀ cl, t.cluster cl = s.cluster cl) ∧ (∀ p, t.part p = s.part p) ∧
    t.shadows = s.shadows ∧ t.vectors = s.vectors ∧ t.mem = s.mem := by
  simp only [contexts, Prod.mk.injEq] at h
  obtain ⟨hc, hp, hs, hv, hm⟩ := h
  exact ⟨fun cl => by rw [State.cluster, hc]; rfl, fun p => by rw [State.part, hp]; rfl, hs, hv, hm⟩

/-- What the exchange does to the clusters, the context and the CSRs of its partition (R346, R347). -/
theorem swapExchange_exchanges {s : State} {p : Nat} (h : (s.part p).swap ≠ none) (hd : s.swapDrained p = true) :
    ∃ u, exec (.swapExchange p) s = .next u ∧ u.part p = { (s.part p).exchange (s.shadows.getD p ⟨Part.reset, true⟩).part with swap := none } ∧
      p ∈ u.vectors ∧ u.mem = s.mem ∧ u.shadows.get? p = some ⟨s.part p, !(s.shadows.getD p ⟨Part.reset, true⟩).empty⟩ ∧
      ∀ cl, u.cluster cl = if cl < 160 ∧ (s.part p).clusters.getLsbD cl = true then (s.cluster cl).exchange p else s.cluster cl := by
  obtain ⟨t, u, ht, hu, hcu⟩ := swapExchange_stages h hd
  obtain ⟨htc, -, -, -, htm⟩ := of_contexts ht
  obtain ⟨hclusters, hparts, hshadows, hvectors, hmem⟩ := of_contexts hcu
  refine ⟨u, hu, ?_, ?_, ?_, ?_, fun cl => ?_⟩
  · rw [hparts, swapParts_part]
  · rw [hvectors]; exact swapParts_vectors ..
  · rw [hmem, swapParts_mem, swapClusters_keeps (f := State.mem) (fun _ _ => rfl), htm]
  · rw [hshadows, swapParts_shadow]
  · rw [hclusters, swapParts_cluster, cluster_swapClusters List.nodup_range, htc]
    simp only [List.mem_range]

end Sys2Proof.Proofs
end

section
/-! PROOFS. Partition registers (R131, R330) and migration (R138), and O47. -/

namespace Sys2Proof.Proofs

open Sys2Proof Sys2Proof.Machine Sys2Proof.Safety Sys2Proof.Laws

/-! ### The clusters of a partition -/

theorem getLsbD_setBit (b : BitVec 160) {c cl : Nat} (h : cl < 160) : (b ||| (1#160 <<< c)).getLsbD cl = (b.getLsbD cl || decide (cl = c)) := by
  simp only [BitVec.getLsbD_or, BitVec.getLsbD_shiftLeft, BitVec.getLsbD_one, h]
  congr 1
  simp only [decide_true, Bool.true_and, ← decide_not, ← Bool.decide_and, decide_eq_decide]
  omega

theorem getLsbD_clearBit (b : BitVec 160) {c cl : Nat} (h : cl < 160) : (b &&& ~~~(1#160 <<< c)).getLsbD cl = (b.getLsbD cl && !decide (cl = c)) := by
  simp only [BitVec.getLsbD_and, BitVec.getLsbD_not, BitVec.getLsbD_shiftLeft, BitVec.getLsbD_one, h]
  congr 1
  simp only [decide_true, Bool.true_and, ← decide_not, ← Bool.decide_and, decide_eq_decide]
  omega

/-- One bit of a write to PCLw. -/
def clusterBit (w : Nat) (v : Word) (taken : Nat → Bool) (b : BitVec 160) (j : Nat) : BitVec 160 :=
  if v.getLsbD j && !taken (32 * w + j) then b ||| (1#160 <<< (32 * w + j)) else b &&& ~~~(1#160 <<< (32 * w + j))

theorem getLsbD_clusterBit (w : Nat) (v : Word) (taken : Nat → Bool) (b : BitVec 160) (j : Nat) {cl : Nat} (h : cl < 160) :
    (clusterBit w v taken b j).getLsbD cl = if cl = 32 * w + j then v.getLsbD j && !taken (32 * w + j) else b.getLsbD cl := by
  unfold clusterBit
  split
  · next hv => rw [getLsbD_setBit b h, hv]; by_cases hc : cl = 32 * w + j <;> simp [hc]
  · next hv => rw [getLsbD_clearBit b h, Bool.eq_false_iff.2 hv]; by_cases hc : cl = 32 * w + j <;> simp [hc]

/-- The clusters after a write to PCLw: each of the 32 bits in turn. -/
def clustersWritten (w : Nat) (v : Word) (taken : Nat → Bool) (l : List Nat) (b : BitVec 160) : BitVec 160 := l.foldl (clusterBit w v taken) b

theorem getLsbD_clustersWritten (w : Nat) (v : Word) (taken : Nat → Bool) {l : List Nat} (hl : ∀ j ∈ l, j < 32) (b : BitVec 160) {cl : Nat} (h : cl < 160) :
    (clustersWritten w v taken l b).getLsbD cl = if cl / 32 = w ∧ cl % 32 ∈ l then v.getLsbD (cl % 32) && !taken cl else b.getLsbD cl := by
  unfold clustersWritten
  induction l generalizing b with
  | nil => simp
  | cons j l ih =>
    have hj : j < 32 := hl j List.mem_cons_self
    rw [List.foldl_cons, ih fun i hi => hl i (List.mem_cons_of_mem _ hi), getLsbD_clusterBit w v taken b j h]
    by_cases hc : cl = 32 * w + j
    · have h1 : cl / 32 = w := by omega
      have h2 : cl % 32 = j := by omega
      simp only [h1, h2, ← hc, true_and, List.mem_cons, true_or, if_true, ite_self]
    · have hne : ¬(cl / 32 = w ∧ cl % 32 = j) := by omega
      simp only [hc, if_false, List.mem_cons, and_or_left, hne, false_or]

theorem partitionClustersWrite_enabled {s : State} (h : (s.part s.regs.psel).enabled = true) (w : Nat) (v : Word) :
    exec (.partitionClustersWrite w v) s = .next s := by
  change execPartitionClustersWrite w v s = _
  exact next_congr (if_pos h)

/-- A write to PCLw of a disabled partition takes the named clusters that no other partition has. -/
theorem partitionClustersWrite_disabled {s : State} (h : (s.part s.regs.psel).enabled = false) (w : Nat) (v : Word) :
    exec (.partitionClustersWrite w v) s = .next (s.setPart s.regs.psel { s.part s.regs.psel with
      clusters := clustersWritten w v (fun cl => s.parts.any fun e => e.1 != s.regs.psel && e.2.clusters.getLsbD cl) (List.range 32)
        (s.part s.regs.psel).clusters }) := by
  change execPartitionClustersWrite w v s = _
  exact next_congr (if_neg (by rw [h]; exact Bool.false_ne_true))

/-! ### PARTEN -/

theorem partenWrite_enables (s : State) {v : Word} (h : v.getLsbD 0 = true) : exec (.partenWrite v) s = .next
    { s.setPart s.regs.psel { s.part s.regs.psel with enabled := true } with agenda := s.agenda ++ [Instr.schedule s.regs.psel] } :=
  next_congr (if_pos h)

theorem partenWrite_disables (s : State) {v : Word} (h : v.getLsbD 0 = false) : exec (.partenWrite v) s = .next
    (if s.busyPart s.regs.psel then s else s.setPart s.regs.psel { s.part s.regs.psel with enabled := false }) :=
  next_congr (if_neg (by rw [h]; exact Bool.false_ne_true))

/-! ### Migration -/

theorem nearClear_core (s : State) (c : Nat) : (s.nearClear c).core c = { s.core c with near := [] } := by
  unfold State.nearClear
  simp only
  split
  · next h =>
    have hk : ∀ k : Core, k.near = [] → k = { k with near := [] } := fun k hk => by rw [← hk]
    exact hk _ (List.isEmpty_iff.1 h)
  · exact setCore_same ..

theorem nearClear_core_other (s : State) {c j : Nat} (h : j ≠ c) : (s.nearClear c).core j = s.core j := by
  unfold State.nearClear
  simp only
  split
  · rfl
  · exact setCore_other _ _ h

theorem nearClear_keeps {α : Type} {f : State → α} (hf : ∀ (s : State) c, f { s with cores := c } = f s) (s : State) (c : Nat) :
    f (s.nearClear c) = f s := by
  unfold State.nearClear
  simp only
  split
  · rfl
  · exact hf s _

/-- A group that has left its transactions takes its new seat: its LWAIT ends, and a wait on the core that it leaves. -/
def seatedAt (g : Group) (to_ : Place) (other : Bool) (now : Nat) : Group :=
  let g := g.endLwait now 2
  let g := if other && g.wait.any Wait.onCore then g.endWait now else g
  { g with place := some to_, moveDue := none }

theorem seatedAt_keeps {α : Type} {f : Group → α} (hp : ∀ (g : Group) l n c, f { g with charges := l, paid := n, cls := c } = f g)
    (hw : ∀ (g : Group) a r, f { g with wait := a, readySince := r } = f g) (hd : ∀ (g : Group) d, f { g with waitDone := d } = f g)
    (hs : ∀ (g : Group) a m, f { g with place := a, moveDue := m } = f g) (g : Group) (to_ : Place) (other : Bool) (now : Nat) :
    f (seatedAt g to_ other now) = f g := by
  refine (hs _ _ _).trans ?_
  split
  · exact (endWait_keeps hp hw _ now).trans (endLwait_keeps hp hw hd g now 2)
  · exact endLwait_keeps hp hw hd g now 2

theorem seatedAt_of_lwait {g : Group} {a b c : Nat} (h : g.wait = some (.lwait a b c)) (to_ : Place) (other : Bool) (now : Nat) :
    (seatedAt g to_ other now).wait = none ∧ (seatedAt g to_ other now).waitDone = some 2 := by
  obtain ⟨hw, hd⟩ := endLwait_of_lwait h now 2
  have hn : (other && (g.endLwait now 2).wait.any Wait.onCore) = false := by rw [hw]; exact Bool.and_false other
  unfold seatedAt
  simp only [hn, Bool.false_eq_true, if_false]
  exact ⟨hw, hd⟩

theorem seatedWithdrawn_keeps {α : Type} {f : Group → α} (hp : ∀ (g : Group) l n c, f { g with charges := l, paid := n, cls := c } = f g)
    (hw : ∀ (g : Group) a r, f { g with wait := a, readySince := r } = f g) (hd : ∀ (g : Group) d, f { g with waitDone := d } = f g)
    (hs : ∀ (g : Group) a m, f { g with place := a, moveDue := m } = f g)
    (hl : ∀ (g : Group) l r n a v, f { g with lanes := l, rstack := r, steep := n, steepAt := a, trapSave := v } = f g) (g : Group) (to_ : Place)
    (other : Bool) (now : Nat) : f (seatedAt (withdrawn g now) to_ other now) = f g :=
  (seatedAt_keeps hp hw hd hs (withdrawn g now) to_ other now).trans (withdrawn_keeps hl g now)

section
variable {s : State} {g core slot seat : Nat} {gr : Group}

theorem groupMigration_lost (h : s.groups.get? g = some gr) (hs : s.seatFor g gr ⟨core, slot, seat⟩ = false) :
    exec (.groupMigration g core slot seat) s = .next s := by
  change execGroupMigration g core slot seat s = _
  simp only [execGroupMigration, State.unlessDown, h, hs, Bool.not_false, if_true, ite_self]

theorem groupMigration_seat (hdown : s.down = false) (h : s.groups.get? g = some gr) (hs : s.seatFor g gr ⟨core, slot, seat⟩ = true) :
    exec (.groupMigration g core slot seat) s = .next (if gr.runOpen then s.modGroup (.grp g) fun v => { v with moveDue := some ⟨core, slot, seat⟩ }
      else s.move g ⟨core, slot, seat⟩) := by
  change execGroupMigration g core slot seat s = _
  simp only [execGroupMigration, State.unlessDown, hdown, h, hs, Bool.not_true, Bool.false_eq_true, if_false]

/-- Whether a group leaves its core. -/
def leavesCore (gr : Group) (core : Nat) : Bool := gr.place.any fun q => q.core != core

/-- The state once the group has its seat. -/
def seatTaken (s : State) (g : Nat) (gr : Group) (to_ : Place) : State :=
  ((s.preemptTx g gr).nearClear to_.core).modGroup (.grp g) fun v =>
    seatedAt v to_ (leavesCore gr to_.core) ((s.preemptTx g gr).nearClear to_.core).now

theorem ite_teams (c : Bool) (s : State) (m : FMap Team) :
    (if c then { s with teams := m } else s) = ({ s with teams := if c then m else s.teams } : State) := by
  cases c <;> rfl

/-- The state once its team's base has followed it. -/
def seatBase (s : State) (g : Nat) (gr : Group) (to_ : Place) : State :=
  if leavesCore gr to_.core then { seatTaken s g gr to_ with teams := (seatTaken s g gr to_).teams.modify gr.team fun t => { t with base := to_.core } }
  else seatTaken s g gr to_

theorem seatBase_eq (to_ : Place) : seatBase s g gr to_ = { seatTaken s g gr to_ with
    teams := if leavesCore gr to_.core then (seatTaken s g gr to_).teams.modify gr.team fun t => { t with base := to_.core } else (seatTaken s g gr to_).teams } :=
  ite_teams ..

theorem move_eq {to_ : Place} (h : s.groups.get? g = some gr) (hs : s.seatFor g gr to_ = true) :
    ∃ a, s.move g to_ = { seatBase s g gr to_ with agenda := a } := by
  rw [State.move, h]
  simp only [hs, Bool.not_true, Bool.false_eq_true, if_false]
  exact ⟨_, rfl⟩

theorem move_lost {to_ : Place} (h : s.groups.get? g = some gr) (hs : s.seatFor g gr to_ = false) :
    s.move g to_ = s.modGroup (.grp g) fun v => { v with moveDue := none } := by
  rw [State.move, h]
  simp only [hs, Bool.not_false, if_true]

theorem seatTaken_keeps {α : Type} {f : State → α} (hc : ∀ (s : State) c, f { s with cores := c } = f s) (hb : ∀ s, f (beside s) = f s) (to_ : Place) :
    f (seatTaken s g gr to_) = f s :=
  (of_beside f hb (beside_modGroup _ g _)).trans ((nearClear_keeps hc _ _).trans (of_beside f hb (beside_preemptTx s g gr)))

theorem seatTaken_group (h : s.groups.get? g = some gr) (to_ : Place) :
    (seatTaken s g gr to_).groups.get? g = some (seatedAt (withdrawn gr s.now) to_ (leavesCore gr to_.core) s.now) := by
  have hg : ((s.preemptTx g gr).nearClear to_.core).groups.get? g = some (withdrawn gr s.now) := by
    rw [nearClear_keeps (f := State.groups) fun _ _ => rfl, preemptTx_get h]
  have hn : ((s.preemptTx g gr).nearClear to_.core).now = s.now :=
    (nearClear_keeps (f := State.now) (fun _ _ => rfl) _ _).trans (of_beside State.now (fun _ => rfl) (beside_preemptTx s g gr))
  rw [seatTaken, modGroup_get_same hg, hn]

theorem seatTaken_core (to_ : Place) : (seatTaken s g gr to_).core to_.core = { s.core to_.core with near := [] } := by
  refine (of_beside (fun u => u.core to_.core) (fun _ => rfl) (beside_modGroup _ g _)).trans ((nearClear_core _ _).trans ?_)
  rw [of_beside (fun u => u.core to_.core) (fun _ => rfl) (beside_preemptTx s g gr)]

theorem seatTaken_core_other (to_ : Place) {j : Nat} (hj : j ≠ to_.core) : (seatTaken s g gr to_).core j = s.core j :=
  (of_beside (fun u => u.core j) (fun _ => rfl) (beside_modGroup _ g _)).trans
    ((nearClear_core_other _ hj).trans (of_beside (fun u => u.core j) (fun _ => rfl) (beside_preemptTx s g gr)))

/-- A group that can be seated and has no run open moves at once (R138). -/
theorem groupMigration_moves (hdown : s.down = false) (h : s.groups.get? g = some gr) (hs : s.seatFor g gr ⟨core, slot, seat⟩ = true)
    (hr : gr.runOpen = false) : ∃ u, exec (.groupMigration g core slot seat) s = .next u ∧
      u.groups.get? g = some (seatedAt (withdrawn gr s.now) ⟨core, slot, seat⟩ (leavesCore gr core) s.now) ∧ u.mem = s.mem ∧
      u.core core = { s.core core with near := [] } ∧ (∀ j, j ≠ core → u.core j = s.core j) ∧
      u.teams = if leavesCore gr core then s.teams.modify gr.team fun t => { t with base := core } else s.teams := by
  obtain ⟨a, ha⟩ := move_eq h hs
  rw [seatBase_eq] at ha
  have hteams : (seatTaken s g gr ⟨core, slot, seat⟩).teams = s.teams := seatTaken_keeps (f := State.teams) (fun _ _ => rfl) (fun _ => rfl) _
  have hmem : (seatTaken s g gr ⟨core, slot, seat⟩).mem = s.mem := seatTaken_keeps (f := State.mem) (fun _ _ => rfl) (fun _ => rfl) _
  refine ⟨_, (groupMigration_seat hdown h hs).trans (next_congr ((if_neg (by rw [hr]; exact Bool.false_ne_true)).trans ha)), ?_⟩
  have hcore := seatTaken_core (s := s) (g := g) (gr := gr) ⟨core, slot, seat⟩
  have hother := fun j (hj : j ≠ core) => seatTaken_core_other (s := s) (g := g) (gr := gr) ⟨core, slot, seat⟩ hj
  refine ⟨seatTaken_group h _, hmem, hcore, hother, ?_⟩
  simp only [hteams]

end

theorem modify_get {α : Type} {m : FMap α} {k : Nat} {v : α} (h : m.get? k = some v) (f : α → α) : (m.modify k f).get? k = some (f v) := by
  rw [FMap.modify, h]
  exact get_set_same ..

/-- Settles O47. A swap is a fold of cuts that never undo each other (`partitionSwap_starts`); the exchange comes down to step 4
(`swapExchange_stages`), since all else it does lies beside the tables of contexts; a move is the group's own change of seat. -/
theorem partitionsSwapsAndMigration : Obligations.PartitionsSwapsAndMigration := by
  unfold Obligations.PartitionsSwapsAndMigration
  intro s p w g core slot seat v gr q shadow away sel qs taken to_
  refine ⟨fun h => partitionSwap_running h, fun h => partitionSwap_starts h, fun h => swapExchange_idle h, fun h hd => ?exchange,
    fun h => partitionClustersWrite_enabled h w v, fun h hw => ?clusters, fun h => ⟨_, partenWrite_enables s h, setPart_same .., rfl, rfl⟩,
    fun h hb => (partenWrite_disables s h).trans (by rw [if_pos hb]), fun h hb => (partenWrite_disables s h).trans (by rw [hb]; rfl),
    fun h => ?reset, fun h hs => groupMigration_lost h hs, fun hdown h hs hr => ?due, fun hdown h hs hr => ?moves, fun h hr hm hc ha hs => ?dropped⟩
  case exchange =>
    obtain ⟨u, hu, hpart, hvec, hmem, hsh, hcl⟩ := swapExchange_exchanges h hd
    refine ⟨u, hu, by rw [hpart], hvec, hmem, fun cl hlt ho => ?_, fun cl ho => ?_, hsh, ?_⟩
    · rw [hcl, if_pos ⟨hlt, ho⟩]
      exact ⟨rfl, rfl⟩
    · rw [hcl, if_neg fun hc => Bool.false_ne_true (ho.symm.trans hc.2)]
    · rw [hpart]
      exact ⟨rfl, rfl, rfl, rfl, rfl, rfl, rfl, rfl, rfl, rfl, rfl, rfl, rfl⟩
  case clusters =>
    refine ⟨_, partitionClustersWrite_disabled h w v, by rw [setPart_same], fun p hp => setPart_other _ _ hp, fun cl hlt => ?_⟩
    rw [setPart_same, getLsbD_clustersWritten w v _ (fun j => List.mem_range.1) _ hlt]
    have hmod : cl % 32 ∈ List.range 32 := List.mem_range.2 (Nat.mod_lt _ (by decide))
    by_cases hcw : cl / 32 = w
    · simp [hcw, hmod, taken, sel]
    · simp [hcw, qs, sel]
  case reset =>
    change execPartitionReset p s = _
    rw [execPartitionReset, State.unlessDown, h]
    rfl
  case due =>
    refine ⟨_, (groupMigration_seat hdown h hs).trans (next_congr (if_pos hr)), ?_, ?_⟩
    · exact modGroup_get_same h _
    · exact mem_of_beside (beside_modGroup s g _)
  case moves =>
    obtain ⟨u, hu, hg, hmem, hcore, hother, hteams⟩ := groupMigration_moves hdown h hs hr
    refine ⟨u, _, hu, hg, rfl, ?name, ?sregs, rfl, fun i hi => ?tx, fun a b c hw => ?lwait, hmem, by rw [hcore], by rw [hcore], hother, fun t ht => ?team⟩
    case name =>
      exact seatedWithdrawn_keeps (f := Group.name) (fun _ _ _ _ => rfl) (fun _ _ _ => rfl) (fun _ _ => rfl) (fun _ _ _ => rfl) (fun _ _ _ _ _ _ => rfl) gr to_ _ s.now
    case sregs =>
      exact seatedWithdrawn_keeps (f := Group.sregs) (fun _ _ _ _ => rfl) (fun _ _ _ => rfl) (fun _ _ => rfl) (fun _ _ _ => rfl) (fun _ _ _ _ _ _ => rfl) gr to_ _ s.now
    case tx =>
      rw [Group.lane, seatedAt_keeps (f := Group.lanes) (fun _ _ _ _ => rfl) (fun _ _ _ => rfl) (fun _ _ => rfl) (fun _ _ _ => rfl)]
      exact withdrawn_tx hi s.now
    case lwait =>
      have hww : (withdrawn gr s.now).wait = some (.lwait a b c) := (withdrawn_keeps (f := Group.wait) (fun _ _ _ _ _ _ => rfl) gr s.now).trans hw
      exact seatedAt_of_lwait hww _ _ _
    case team =>
      have hl : (gr.place.any fun q => q.core != core) = leavesCore gr core := rfl
      rw [hteams, hl]
      cases leavesCore gr core
      · exact ⟨t, ht, rfl⟩
      · exact ⟨_, modify_get ht _, rfl⟩
  case dropped =>
    have hdue : s.boundaryDue gr = true := by
      simp only [away, not_or, Bool.not_eq_true] at ha
      obtain ⟨he, hs1, hh⟩ := ha
      simp [State.boundaryDue, Group.away, he, hs1, hh, hr, hm]
    have hn : s.change.isNone = false := Option.isNone_eq_false_iff.2 (Option.isSome_iff_ne_none.2 hc)
    have hb : s.boundary g = s.modGroup (.grp g) fun v => { v with moveDue := none } := by
      rw [State.boundary, h]
      simp only [hdue, hn, hm, Bool.and_false, Bool.not_true, Bool.false_eq_true, if_false]
      exact move_lost h hs
    refine ⟨_, next_congr hb, ?_, ?_⟩
    · exact modGroup_get_same h _
    · exact mem_of_beside (beside_modGroup s g _)

end Sys2Proof.Proofs
end
